-- ==== Sys2Proof/Word.lean ====
section
/-! DEFINITION. The word types of the machine: bytes, 32-bit lane registers, 64-bit prompter registers and words (R6). -/

namespace Sys2Proof

/-- One byte of a memory. -/
abbrev Byte := BitVec 8
/-- A lane register (R6). -/
abbrev Word := BitVec 32
/-- A prompter register, a mask, a latch or an instruction word. -/
abbrev DWord := BitVec 64
/-- A register quad (R6). -/
abbrev QWord := BitVec 128

end Sys2Proof
end

