-- ==== Sys2Proof/Config.lean ====
section
/-! DEFINITION. What an implementation fixes, and the free values: constants without a body that nothing in Lean can evaluate. -/

namespace Sys2Proof.Config

/-- The part code of the device identity report (R434, R456). -/
def partCode : Nat := 0x0144

/-- The number of physical clusters (R9). -/
def physClusters : Nat := 144

/-- The number of logical clusters of fixed shape V128 (R190). -/
def logicalClusters : Nat := 128

/-- FREE VALUE: the energy in µJ a cluster measures in an interval (R399); the argument is the free counter. -/
opaque freeEnergy : Nat → Nat

/-- FREE VALUE: whether a signature over these words verifies under the vendor's key (R454). -/
opaque sigVerifies : List DWord → Nat → Bool

/-- FREE VALUE: SHA3-512 of a list of bytes, as one number of 512 bits (R456). The spec names the function and does not define it. -/
opaque sha3 : List Nat → BitVec 512

/-- FREE VALUE: KMAC256 of a list of bytes under a key with a customisation string, 32 bytes (R361). The spec names the function
and does not define it. -/
opaque kmac256 : BitVec 256 → List Nat → List Nat → BitVec 256

/-- FREE VALUE: whether a read sees a write that does not happen before it and that no crossing has brought to it (R127, R130): by
the free counter and the name of the write, one answer for all of the write's bytes (R132). -/
opaque freeSeen : Nat → List Nat → Bool

/-- FREE VALUE: the memory device and row (device · 2^32 + row) that hold a line, for the errors found in it (R447). -/
opaque rowOf : Nat → Nat

/-- FREE VALUE: whether an error comes within the 5 µs of a domain's restoration that the history's clock does not tell apart
(R450). -/
opaque freeSoon : Nat → Bool

/-- FREE VALUE: the difference by which an erroneous partial or checksum of the matrix engine is off (R187). -/
opaque freeDelta : Nat → Int

/-- FREE VALUE: the bytes of a save record whose body is internal to firmware (R417): its type, its team, group or context, and
the place of the byte. -/
opaque freeBody : Nat → Nat → Nat → BitVec 8

/-- FREE VALUE: the die whose uncore domain serves a memory line (0 and its number) or holds a partition's control state (1 and the
partition), for the errors found there (R450). -/
opaque uncoreDie : Nat → Nat → Nat

/-- FREE VALUE: the bytes of the device identity public key (R456). -/
opaque identityKey : List Nat

/-- FREE VALUE: the ML-DSA-87 signature of a report under the device identity key (R456). -/
opaque reportSignature : List Nat → Nat

/-- FREE VALUE: a choice that the dispatcher makes among what is free: slice, group slot and half (R16), generator context
and team handle (R58). -/
opaque freeChoice : Nat → Nat

/-- FREE VALUE: the lanes (bit i: lane of the port) that pass training (R431, R441 RESTORE). -/
opaque trainedLanes : Nat → Nat

/-- FREE VALUE: the outcome of a self-test of a cluster at bring-up (R443 step 5). -/
opaque selfTestPasses : Nat → Nat → Bool

/-- FREE VALUE: the reading of a platform sensor (R445). -/
opaque sensorReading : Nat → Nat → Nat

/-- FREE VALUE: the register values a tableau latches beyond those the spec names (R452). -/
opaque tableauData : Nat → Nat

/-- FREE VALUE: what a load or an atomic receives that control space answers with an error response (R434). -/
opaque freeReply : Nat → BitVec 128

/-- FREE VALUE: the detail field of a VIOLATION record (R407 names it and gives no layout). -/
opaque freeDetail : Nat → Nat

end Sys2Proof.Config
end

