-- ==== Sys2Proof/Syntax.lean ====
section
/-! DEFINITION. The instructions of the opcode table: one constructor for each of its rows. -/

namespace Sys2Proof

/-- The type codes of lane words, in the order of their codes (R206). -/
inductive Ty where
  | i8 | i16 | i32 | i64 | n8 | n16 | n32 | n64
  | f32 | f16 | bf16 | e4m3 | e5m2 | kt8 | kt8w | q
deriving DecidableEq, Repr

/-- The rounding modes, in the order of their codes (R149, R205). -/
inductive Rnd where
  | rn | rz | rp | rm
deriving DecidableEq, Repr

/-- The scopes, in the order of their codes (R123, R207). -/
inductive Scope where
  | grp | team | pair | ens | dev | sys
deriving DecidableEq, Repr

/-- The orders, in the order of their codes (R122, R207). -/
inductive Order where
  | plain | rlx | acq | rel | ar | sc
deriving DecidableEq, Repr

/-- The comparison conditions of CMP and CVCMP (R230, R321) and of FCMP (R261), in the order of their codes. -/
inductive Cond where
  | eq | ne | lt | le | gt | ge | c6 | c7
deriving DecidableEq, Repr

/-- The modes of SHFL (R236). -/
inductive ShflMode where
  | idx | up | dn | x
deriving DecidableEq, Repr

/-- The modes of VOTE (R237). -/
inductive VoteMode where
  | any | all | ballot | eq
deriving DecidableEq, Repr

/-- The modes of LKBRK (R239). -/
inductive BrkMode where
  | set | or | andn | clr
deriving DecidableEq, Repr

/-- The full/empty forms of LDS (R278). -/
inductive FeMode where
  | plain | fe | fec
deriving DecidableEq, Repr

/-- The conditions of the prompter's BC (R335). -/
inductive PrCond where
  | eq | ne | lt | ge | ltn | gen
deriving DecidableEq, Repr

/-- The fields a full-form word has beside op and fn (R197): the numbers stand as the word holds them,
because R200 gives each number of a register field its meaning as a source or as a destination. -/
structure Ops where
  d : Nat := 0
  a : Nat := 0
  b : Nat := 0
  c : Nat := 0
  p : Nat := 0
  pn : Bool := false
  u : Bool := false
  k : Bool := false
  ld : Nat := 0
deriving DecidableEq, Repr

/-- The fields an I-form word has beside op (R198). -/
structure IOps where
  d : Nat := 0
  a : Nat := 0
  p : Nat := 0
  pn : Bool := false
  u : Bool := false
  k : Bool := false
  imm : Nat := 0
deriving DecidableEq, Repr

/-- The fields a half of a pair-form word has beside op7 (R199). -/
structure HalfOps where
  d : Nat := 0
  a : Nat := 0
  p : Nat := 0
  pn : Bool := false
  u : Bool := false
  mod : Nat := 0
deriving DecidableEq, Repr

/-- The eligible pair operations (R211). -/
inductive PairOp where
  | add | sub | mul | min | max | and | or | xor | andn | shl | shr | sra | rot | mov
  | fadd | fsub | fmul | fmin | fmax | hadd2 | hmul2 | hmax2
deriving DecidableEq, Repr

/-- The second half of a pair-form word. -/
structure PairHalf where
  op : PairOp
  h : HalfOps
deriving DecidableEq, Repr

/-- The fields a prompter word has beside op and fn (R216). -/
structure POps where
  d : Nat := 0
  a : Nat := 0
  b : Nat := 0
  imm : Nat := 0
deriving DecidableEq, Repr

/-- The modifiers of a prompter memory word (R329). -/
structure PMem where
  scope : Scope := .grp
  order : Order := .plain
  ty : Ty := .n64
deriving DecidableEq, Repr

/-- Who made an access or a request, for the records of R407 and the rights of R426. -/
inductive Agent where
  | group (g : Nat)
  | ctx (c : Nat)
  | engine (cluster : Nat) (path : Nat)
  | host (port : Nat)
deriving DecidableEq, Repr

/-- The storage an uncorrectable or corrected error is found in (R176, R177). -/
inductive Storage where
  | laneReg (g lane reg : Nat)
  | latch (g lane l : Nat)
  | handOn (g lane : Nat)
  | granule (cluster off : Nat)
  | line (addr : Nat)
  | accElem (team tile row col : Nat)
  /-- the partial of an element of a tile, in the block step that so many come before (R187) -/
  | mxPartial (team tile row col step : Nat)
  /-- a TLB entry of a cluster (R176) -/
  | tlbEntry (cluster va : Nat)
  | scriptWord (ctx addr : Nat)
  | ctxState (ctx : Nat)
  | groupControl (g : Nat)
  | mailbox (team mb : Nat)
  | reconStack (g : Nat)
  | remap (part : Nat)
  | dispatcher (part : Nat)
  | partControl (part : Nat)
  | systemCtx (ctx : Nat)
  | latent (unit : Nat)
deriving DecidableEq, Repr

/-- What a fabric request asks of this device (R430, R433, R434, R437): reads and writes of up to a 64-byte line, and the atomic
family, which `rel` makes a release. -/
inductive FabOp where
  | read (size : Nat) (acquire : Bool)
  | write (size : Nat) (data : BitVec 512) (release : Bool)
  | atom (op : Nat) (ty : Ty) (data : DWord) (rel : Bool)
  | cas (ty : Ty) (cmp new : DWord) (rel : Bool)
  | bfi (ty : Ty) (data mask : DWord) (rel : Bool)
  | ffcs (rel : Bool)
  | plset (bits : DWord) (limit : Word) (rel : Bool)
  | ord (key : Nat) (launch : Nat) (data : Word)
  | close (launch : Nat)
deriving DecidableEq, Repr

/-- A request that arrives from another device or a host on its stream (R430, R433). -/
structure FabricReq where
  port : Nat
  source : Nat
  isHost : Bool
  seq : Nat
  control : Bool
  off : Nat
  op : FabOp
deriving DecidableEq, Repr

/-- What bring-up meets (R443): the input in mV, the coolant inlet in tenths of a degree, whether it flows, whether the
memory controllers train, this device's number, the ports that train (port, lanes, peer, port there), the ports that
reach each device, and what the house controllers give the reduction windows (R436). -/
structure BringUp where
  milliVolts : Nat := 54000
  inlet : Nat := 300
  flow : Bool := true
  trained : Bool := true
  device : Nat := 0
  ports : List (Nat × Nat × Nat × Nat) := []
  routes : List (Nat × List Nat) := []
  windows : List (Nat × DWord) := []
deriving DecidableEq, Repr

/-- What FLIT_RECEIVE tells of a flit (R428): one that arrives, with a good CRC or a bad one, or one of the port's own that the far end
refuses. -/
inductive FlitNews where
  | arrives (crcOk : Bool)
  | refused
deriving DecidableEq, Repr

/-- A device that the fabric manager declares unreachable, and the ports that reach other devices from then on (R435). -/
structure DeviceLoss where
  dev : Nat
  routes : List (Nat × List Nat) := []
deriving DecidableEq, Repr

/-- A firmware image: the device's, or the house controller's (R454). -/
structure Firmware where
  device : Bool
  words : List DWord
deriving DecidableEq, Repr

/-- The instructions: one constructor for each row of spec/opcode_table.json. A lane or prompter word decodes to
one of the first; the rows without a word are the events of the hardware, with what they name as operands. -/
inductive Instr where
  | add (o : Ops) (ty : Ty) (sat : Bool)
  | sub (o : Ops) (ty : Ty) (sat : Bool)
  | mul (o : Ops) (ty : Ty)
  | mulh (o : Ops) (ty : Ty)
  | mad (o : Ops) (ty : Ty)
  | abs (o : Ops) (ty : Ty) (sat : Bool)
  | min (o : Ops) (ty : Ty)
  | max (o : Ops) (ty : Ty)
  | and (o : Ops) (ty : Ty)
  | or (o : Ops) (ty : Ty)
  | xor (o : Ops) (ty : Ty)
  | andn (o : Ops) (ty : Ty)
  | shl (o : Ops) (ty : Ty)
  | shr (o : Ops) (ty : Ty)
  | sra (o : Ops) (ty : Ty)
  | rot (o : Ops) (ty : Ty)
  | popc (o : Ops) (ty : Ty)
  | clz (o : Ops) (ty : Ty)
  | ctz (o : Ops) (ty : Ty)
  | brev (o : Ops) (ty : Ty)
  | bfx (o : Ops) (ty : Ty) (sgn : Bool)
  | bfi (o : Ops) (ty : Ty)
  | sel (o : Ops) (ty : Ty)
  | cmp (o : Ops) (ty : Ty) (cond : Cond) (v : Bool)
  | lea (o : Ops) (ty : Ty)
  | mov (o : Ops) (ty : Ty)
  | ldi (o : IOps)
  | ldih (o : IOps)
  | addI (o : IOps)
  | mulI (o : IOps)
  | andI (o : IOps)
  | orI (o : IOps)
  | xorI (o : IOps)
  | shlI (o : IOps)
  | shrI (o : IOps)
  | sraI (o : IOps)
  | minI (o : IOps)
  | maxI (o : IOps)
  | bra (o : IOps)
  | brx (o : IOps)
  | call (o : IOps)
  | mand (o : Ops)
  | mor (o : Ops)
  | mxor (o : Ops)
  | mandn (o : Ops)
  | mpop (o : Ops)
  | mfirst (o : Ops)
  | vtom (o : Ops)
  | vtomW (o : Ops)
  | mtov (o : Ops)
  | mtovW (o : Ops)
  | shfl (o : Ops) (ty : Ty) (imm : Bool) (m : ShflMode)
  | vote (o : Ops) (m : VoteMode)
  | bcast (o : Ops) (ty : Ty) (imm : Bool) (first : Bool)
  | lkbrk (o : Ops) (m : BrkMode)
  | lktail (o : Ops) (ty : Ty)
  | join (o : Ops)
  | calli (o : Ops)
  | calliM (o : Ops) (unit : Nat)
  | ret (o : Ops)
  | exit (o : Ops)
  | nop (o : Ops)
  | yield (o : Ops)
  | cuept (o : Ops)
  | trap (o : Ops) (code : Nat)
  | bkpt (o : Ops) (code : Nat)
  | bind (o : Ops) (code : Nat)
  | srd (o : Ops) (num : Nat)
  | swr (o : Ops) (num : Nat)
  | fadd (o : Ops) (rnd : Rnd)
  | fsub (o : Ops) (rnd : Rnd)
  | fmul (o : Ops) (rnd : Rnd)
  | ffma (o : Ops) (rnd : Rnd)
  | fmin (o : Ops)
  | fmax (o : Ops)
  | fmaxx (o : Ops) (ty : Ty)
  | fminx (o : Ops) (ty : Ty)
  | fcmp (o : Ops) (ty : Ty) (cond : Cond) (v : Bool)
  | frnd (o : Ops) (rnd : Rnd) (x : Bool)
  | frcp (o : Ops) (rnd : Rnd)
  | frsq (o : Ops) (rnd : Rnd)
  | fsqrt (o : Ops) (rnd : Rnd)
  | fexp2 (o : Ops) (rnd : Rnd)
  | flog2 (o : Ops) (rnd : Rnd)
  | ftanh (o : Ops) (rnd : Rnd)
  | fcvt (o : Ops) (dt src : Ty) (rnd : Rnd)
  | f2i (o : Ops) (dt src : Ty) (rnd : Rnd)
  | i2f (o : Ops) (dt src : Ty) (rnd : Rnd)
  | hadd2 (o : Ops) (ty : Ty) (rnd : Rnd)
  | hmul2 (o : Ops) (ty : Ty) (rnd : Rnd)
  | hfma2 (o : Ops) (ty : Ty) (rnd : Rnd)
  | hmax2 (o : Ops) (ty : Ty)
  | pack2 (o : Ops) (ty : Ty) (rnd : Rnd)
  | unpk2 (o : Ops) (ty : Ty)
  | pairAdd (h : HalfOps) (snd : PairHalf)
  | pairSub (h : HalfOps) (snd : PairHalf)
  | pairMul (h : HalfOps) (snd : PairHalf)
  | pairMin (h : HalfOps) (snd : PairHalf)
  | pairMax (h : HalfOps) (snd : PairHalf)
  | pairAnd (h : HalfOps) (snd : PairHalf)
  | pairOr (h : HalfOps) (snd : PairHalf)
  | pairXor (h : HalfOps) (snd : PairHalf)
  | pairAndn (h : HalfOps) (snd : PairHalf)
  | pairShl (h : HalfOps) (snd : PairHalf)
  | pairShr (h : HalfOps) (snd : PairHalf)
  | pairSra (h : HalfOps) (snd : PairHalf)
  | pairRot (h : HalfOps) (snd : PairHalf)
  | pairMov (h : HalfOps) (snd : PairHalf)
  | pairFadd (h : HalfOps) (snd : PairHalf)
  | pairFsub (h : HalfOps) (snd : PairHalf)
  | pairFmul (h : HalfOps) (snd : PairHalf)
  | pairFmin (h : HalfOps) (snd : PairHalf)
  | pairFmax (h : HalfOps) (snd : PairHalf)
  | pairHadd2 (h : HalfOps) (snd : PairHalf)
  | pairHmul2 (h : HalfOps) (snd : PairHalf)
  | pairHmax2 (h : HalfOps) (snd : PairHalf)
  | ld (o : Ops) (unit : Nat) (ty : Ty) (sc : Scope) (od : Order)
  | st (o : Ops) (unit : Nat) (ty : Ty) (sc : Scope) (od : Order)
  | lds (o : Ops) (unit : Nat) (ty : Ty) (sc : Scope) (od : Order) (fem : FeMode)
  | sts (o : Ops) (unit : Nat) (ty : Ty) (sc : Scope) (od : Order) (fe : Bool)
  | pref (o : Ops) (unit : Nat)
  | atom (o : Ops) (ty : Ty) (sc : Scope) (od : Order) (sp : Bool)
  | acas (o : Ops) (ty : Ty) (sc : Scope) (od : Order) (sp : Bool)
  | abfi (o : Ops) (ty : Ty) (sc : Scope) (od : Order) (sp : Bool)
  | affcs (o : Ops) (sc : Scope) (od : Order) (sp : Bool)
  | aplset (o : Ops) (sc : Scope) (od : Order) (sp : Bool)
  | red (o : Ops) (ty : Ty) (sc : Scope) (od : Order) (sp : Bool) (ord : Bool)
  | fence (o : Ops) (sc : Scope) (od : Order)
  | pfence (o : Ops)
  | feset (o : Ops) (unit : Nat)
  | feclr (o : Ops) (unit : Nat)
  | plook (o : Ops)
  | pins (o : Ops)
  | pinv (o : Ops)
  | ejoin (o : Ops)
  | eleave (o : Ops)
  | mbget (o : Ops)
  | mbput (o : Ops)
  | mbr (o : Ops)
  | mbw (o : Ops)
  | rput (o : Ops)
  | waita (o : Ops)
  | binit (o : Ops) (unit : Nat) (mode : Bool)
  | arrive (o : Ops) (unit : Nat)
  | bwait (o : Ops) (unit : Nat)
  | kick (o : Ops)
  | bclose (o : Ops)
  | waitb (o : Ops)
  | rgrow (o : Ops)
  | rshrink (o : Ops)
  | dalloc (o : Ops)
  | mxplane (o : Ops) (src : Ty) (bside : Bool)
  | mxldb (o : Ops)
  | mxmul (o : Ops) (tile : Nat) (hb : Bool)
  | mxbat (o : Ops) (tile : Nat)
  | mxzero (o : Ops) (tile : Nat)
  | mxdrain (o : Ops) (tile : Nat) (ty : Ty) (x : Bool)
  | mxfill (o : Ops) (tile : Nat) (ty : Ty) (x : Bool)
  | mxchk (o : Ops) (tile : Nat) (clr : Bool)
  | cvenc (o : Ops) (dim : Nat)
  | cvdec (o : Ops) (dim : Nat)
  | cvadd (o : Ops) (dim : Nat) (sat : Bool)
  | cvcmp (o : Ops) (dim : Nat) (cond : Cond) (v : Bool)
  | cvnext (o : Ops) (dim : Nat)
  | cvsplit (o : Ops) (dim : Nat) (n : Nat) (sp : Bool)
  | cvlvl (o : Ops) (dim : Nat)
  | prNop (o : POps)
  | prAdd (o : POps)
  | prAddi (o : POps)
  | prSub (o : POps)
  | prMul (o : POps)
  | prMulh (o : POps) (uns : Bool)
  | div (o : POps) (uns : Bool)
  | rem (o : POps) (uns : Bool)
  | prAnd (o : POps)
  | prOr (o : POps)
  | prXor (o : POps)
  | prShl (o : POps)
  | prShr (o : POps)
  | prSra (o : POps)
  | slt (o : POps)
  | sltn (o : POps)
  | li (o : POps)
  | lih (o : POps)
  | prLd (o : POps) (m : PMem)
  | prSt (o : POps) (m : PMem)
  | prLds (o : POps) (m : PMem)
  | prSts (o : POps) (m : PMem)
  | prAtom (o : POps) (m : PMem)
  | prFence (o : POps) (sc : Scope) (od : Order)
  | b (o : POps)
  | bc (o : POps) (cond : PrCond)
  | prCall (o : POps)
  | jr (o : POps)
  | tmpl (o : POps)
  | fld (o : POps)
  | emit (o : POps)
  | emitx (o : POps)
  | emitb (o : POps)
  | seal (o : POps)
  | segnew (o : POps)
  | segfree (o : POps)
  | start (o : POps)
  | prMbr (o : POps)
  | prMbw (o : POps)
  | prMbget (o : POps)
  | prMbput (o : POps)
  | waitev (o : POps) (nb : Bool)
  | evinfo (o : POps)
  | gctlResume (o : POps)
  | gctlRedirect (o : POps)
  | gctlKill (o : POps)
  | gctlFlags (o : POps)
  | accrd (o : POps)
  | accwr (o : POps)
  | prCuept (o : POps)
  | csrr (o : POps)
  | csrw (o : POps)
  | eret (o : POps)
  | sysc (o : POps)
  | prYield (o : POps)
  | sysresume (o : POps)
  | syscLog (c : Nat)
  | syscInfo (c : Nat)
  | syscNotify (c : Nat)
  | dhalt (o : POps)
  | drelease (o : POps)
  | debugHalt (g : Nat)
  | tlbinv (o : POps)
  | tlbinvComplete (cl : Nat)
  | lkill (o : POps)
  | queueKick (port q tail : Nat)
  | registerWrite (ag : Agent) (off : Nat) (val : DWord)
  | descriptorTake (q : Nat)
  | eventWordSet (q : Nat)
  | placementStep
  | launchComplete (l : Nat)
  | ordClose (l : Nat)
  | sliceIssue (cl sl : Nat)
  | stageSwap (cl sl : Nat)
  | stageEligible (g : Nat)
  | dependenceResolved (g : Nat)
  | linkedChainEnd (team group : Nat)
  | memoryReply (id : Nat)
  | homeAccess (id : Nat) (lanes : DWord)
  | storeAck (id : Nat)
  | rputArrival (id : Nat)
  | mailboxCycle (team : Nat)
  | requestEngineTake (cl : Nat)
  | copyDelivery (id start n : Nat)
  | gatherRequest (id : Nat)
  | sendDelivery (id start n : Nat)
  | matrixEngineStep (cl : Nat)
  | scriptStoreDrain (cl : Nat)
  | sealComplete (c : Nat)
  | composeStallTimeout (c : Nat)
  | segmentRelease (c seg : Nat)
  | eventPostDeferred (g : Nat)
  | rgrowReadmit (cl sl : Nat)
  | uncorrectableError (st : Storage)
  | compareConfirm (team group : Nat)
  | cueConfirmed (team : Nat)
  | walkComplete (die : Nat)
  | ptrootWrite (ag : Agent) (part : Nat) (val : DWord)
  | pswapYield (ag : Agent) (part : Nat)
  | swapQuantumExpiry (part : Nat)
  | swapFlip (part : Nat)
  | swapExchangeDone (part : Nat)
  | swapBackgroundDone (part : Nat) (bad : List (Nat × Bool)) (lost : List Nat)
  | timesliceQuantum (phys : Nat)
  | cutGo (ag : Agent) (part : Nat)
  | cutComplete (part : Nat)
  | cutBlocked (part : Nat)
  | cutRelease (ag : Agent) (part : Nat)
  | energyInterval (cl : Nat)
  | flitReceive (port seq : Nat) (flit : FlitNews)
  | laneShed (port : Nat)
  | portRetrained (port : Nat)
  | portDown (port : Nat)
  | deviceUnreachable (loss : DeviceLoss)
  | fabricRequest (r : FabricReq)
  | powerUp (b : BringUp)
  | powerSample (avg10 avg1 inlet die : Nat)
  | thermalTrip (inlet die : Nat)
  | pressureWithdraw
  | scrubPass (dev row addr : Nat) (corr uncorr : Bool)
  | rowSpare (dev row : Nat)
  | rowSpareSwitch (dev row : Nat)
  | marginWindow (dom : Nat)
  | marginLockoutExpiry (dom : Nat)
  | retireComplete (cl : Nat)
  | partcfg (words : List DWord) (sig : Nat)
  | retire (cl : Nat)
  | shed (port width : Nat)
  | restore (port : Nat)
  | thaw (port : Nat)
  | resetcl (cl : Nat)
  | tabtrig
  | tabread
  | fiarm (words : List DWord)
  | faultInjectionFire (idx : Nat)
  | errread (seq : Nat)
  | attest (nonce : List Nat)
  | baseDiscovery
  | sensorRead (num : Nat)
  | firmwareUpdate (image : Firmware) (svn : Nat) (sig : Nat)
  | correctedError (st : Storage)
  | illegalInstruction (detail : Nat)
  | prompterMemoryFault (index : Nat)
  | powerLoss
deriving DecidableEq, Repr

end Sys2Proof
end

