-- ==== Sys2Proof/Decode.lean ====
section
/-! DEFINITION. Instruction words: their fields (R196 to R199, R216), the checks a word must pass (R214, R328), the
decoder, and the encoder written from the same tables. Every word is one number of 64 bits, bit 0 its least significant. -/

namespace Sys2Proof

/-! ### Codes of modifiers -/

/-- The 4-bit type code (R206). -/
def Ty.code : Ty → Nat
  | .i8 => 0 | .i16 => 1 | .i32 => 2 | .i64 => 3 | .n8 => 4 | .n16 => 5 | .n32 => 6 | .n64 => 7
  | .f32 => 8 | .f16 => 9 | .bf16 => 10 | .e4m3 => 11 | .e5m2 => 12 | .kt8 => 13 | .kt8w => 14 | .q => 15

/-- The type a 4-bit code names (R206). -/
def Ty.ofCode (n : Nat) : Ty :=
  match n with
  | 0 => .i8 | 1 => .i16 | 2 => .i32 | 3 => .i64 | 4 => .n8 | 5 => .n16 | 6 => .n32 | 7 => .n64
  | 8 => .f32 | 9 => .f16 | 10 => .bf16 | 11 => .e4m3 | 12 => .e5m2 | 13 => .kt8 | 14 => .kt8w | _ => .q

/-- The 2-bit rounding code (R205). -/
def Rnd.code : Rnd → Nat
  | .rn => 0 | .rz => 1 | .rp => 2 | .rm => 3

def Rnd.ofCode (n : Nat) : Rnd :=
  match n with
  | 0 => .rn | 1 => .rz | 2 => .rp | _ => .rm

/-- The 3-bit scope code (R207). -/
def Scope.code : Scope → Nat
  | .grp => 0 | .team => 1 | .pair => 2 | .ens => 3 | .dev => 4 | .sys => 5

def Scope.ofCode (n : Nat) : Scope :=
  match n with
  | 0 => .grp | 1 => .team | 2 => .pair | 3 => .ens | 4 => .dev | _ => .sys

/-- The 3-bit order code (R207). -/
def Order.code : Order → Nat
  | .plain => 0 | .rlx => 1 | .acq => 2 | .rel => 3 | .ar => 4 | .sc => 5

def Order.ofCode (n : Nat) : Order :=
  match n with
  | 0 => .plain | 1 => .rlx | 2 => .acq | 3 => .rel | 4 => .ar | _ => .sc

/-- The 3-bit condition code (R230, R261, R317). -/
def Cond.code : Cond → Nat
  | .eq => 0 | .ne => 1 | .lt => 2 | .le => 3 | .gt => 4 | .ge => 5 | .c6 => 6 | .c7 => 7

def Cond.ofCode (n : Nat) : Cond :=
  match n with
  | 0 => .eq | 1 => .ne | 2 => .lt | 3 => .le | 4 => .gt | 5 => .ge | 6 => .c6 | _ => .c7

/-- The mode code of SHFL (R236). -/
def ShflMode.code : ShflMode → Nat
  | .idx => 0 | .up => 1 | .dn => 2 | .x => 3

def ShflMode.ofCode (n : Nat) : ShflMode :=
  match n with
  | 0 => .idx | 1 => .up | 2 => .dn | _ => .x

/-- The mode code of VOTE (R237). -/
def VoteMode.code : VoteMode → Nat
  | .any => 0 | .all => 1 | .ballot => 2 | .eq => 3

def VoteMode.ofCode (n : Nat) : VoteMode :=
  match n with
  | 0 => .any | 1 => .all | 2 => .ballot | _ => .eq

/-- The mode code of LKBRK (R239). -/
def BrkMode.code : BrkMode → Nat
  | .set => 0 | .or => 1 | .andn => 2 | .clr => 3

def BrkMode.ofCode (n : Nat) : BrkMode :=
  match n with
  | 0 => .set | 1 => .or | 2 => .andn | _ => .clr

/-- fn bits 1:0 of LDS (R271). -/
def FeMode.code : FeMode → Nat
  | .plain => 0 | .fe => 1 | .fec => 2

def FeMode.ofCode (n : Nat) : FeMode :=
  match n with
  | 0 => .plain | 1 => .fe | _ => .fec

/-- The condition code of the prompter's BC (R335). -/
def PrCond.code : PrCond → Nat
  | .eq => 0 | .ne => 1 | .lt => 2 | .ge => 3 | .ltn => 4 | .gen => 5

def PrCond.ofCode (n : Nat) : PrCond :=
  match n with
  | 0 => .eq | 1 => .ne | 2 => .lt | 3 => .ge | 4 => .ltn | _ => .gen

/-- The pair opcode (R211). -/
def PairOp.code : PairOp → Nat
  | .add => 0x00 | .sub => 0x01 | .mul => 0x02 | .min => 0x03 | .max => 0x04 | .and => 0x05 | .or => 0x06
  | .xor => 0x07 | .andn => 0x08 | .shl => 0x09 | .shr => 0x0A | .sra => 0x0B | .rot => 0x0C | .mov => 0x0D
  | .fadd => 0x10 | .fsub => 0x11 | .fmul => 0x12 | .fmin => 0x13 | .fmax => 0x14 | .hadd2 => 0x15
  | .hmul2 => 0x16 | .hmax2 => 0x17

/-- The pair operation an op7 names; none for a reserved code (R211). -/
def PairOp.ofCode (n : Nat) : Option PairOp :=
  match n with
  | 0x00 => some .add | 0x01 => some .sub | 0x02 => some .mul | 0x03 => some .min | 0x04 => some .max
  | 0x05 => some .and | 0x06 => some .or | 0x07 => some .xor | 0x08 => some .andn | 0x09 => some .shl
  | 0x0A => some .shr | 0x0B => some .sra | 0x0C => some .rot | 0x0D => some .mov
  | 0x10 => some .fadd | 0x11 => some .fsub | 0x12 => some .fmul | 0x13 => some .fmin | 0x14 => some .fmax
  | 0x15 => some .hadd2 | 0x16 => some .hmul2 | 0x17 => some .hmax2
  | _ => none

/-- The size in bytes of an element of a type (R206, R272). -/
def Ty.bytes : Ty → Nat
  | .i8 => 1 | .i16 => 2 | .i32 => 4 | .i64 => 8 | .n8 => 1 | .n16 => 2 | .n32 => 4 | .n64 => 8
  | .f32 => 4 | .f16 => 2 | .bf16 => 2 | .e4m3 => 1 | .e5m2 => 1 | .kt8 => 1 | .kt8w => 1 | .q => 16

/-- Whether an operand of the type is a register pair (R201, R227). -/
def Ty.wide : Ty → Bool
  | .i64 => true | .n64 => true | _ => false

/-- Whether the integer type is signed (R147). -/
def Ty.signed : Ty → Bool
  | .i8 => true | .i16 => true | .i32 => true | .i64 => true | _ => false

/-! ### Laying fields out in a word -/

/-- Bits `lo + n - 1 : lo` of a number (R5). -/
def bitsOf (w lo n : Nat) : Nat := w / 2 ^ lo % 2 ^ n

/-- One bit of a number. -/
def bitOf (w i : Nat) : Bool := w / 2 ^ i % 2 == 1

/-- The number whose fields, from the least significant up, have these widths and values. -/
def packBits : List (Nat × Nat) → Nat
  | [] => 0
  | (n, v) :: r => v + 2 ^ n * packBits r

/-- The fields of these widths, from the least significant up. -/
def unpackBits : List Nat → Nat → List Nat
  | [], _ => []
  | n :: r, w => w % 2 ^ n :: unpackBits r (w / 2 ^ n)

/-- The fields of a full-form word (R197). -/
structure FullW where
  op : Nat
  o : Ops
  fn : Nat
deriving DecidableEq, Repr

/-- The fields of an I-form word (R198). -/
structure ImmW where
  op : Nat
  o : IOps
deriving DecidableEq, Repr

/-- A half of a pair-form word (R199). -/
structure HalfW where
  op : Nat
  h : HalfOps
deriving DecidableEq, Repr

/-- The fields of a prompter word (R216). -/
structure PromW where
  op : Nat
  o : POps
  fn : Nat
deriving DecidableEq, Repr

/-- The widths of the fields of a full-form word from bit 0 up (R197). -/
def fullWidths : List Nat := [14, 2, 1, 1, 1, 4, 8, 8, 8, 8, 8, 1]

def FullW.fields (f : FullW) : List Nat :=
  [f.fn, f.o.ld, f.o.k.toNat, f.o.u.toNat, f.o.pn.toNat, f.o.p, f.o.c, f.o.b, f.o.a, f.o.d, f.op, 0]

def FullW.ofFields : List Nat → FullW
  | [fn, ld, k, u, pn, p, c, b, a, d, op, _] =>
    { op := op, fn := fn,
      o := { d := d, a := a, b := b, c := c, p := p, pn := pn == 1, u := u == 1, k := k == 1, ld := ld } }
  | _ => { op := 0xFF, o := {}, fn := 0 }

/-- The widths of the fields of an I-form word from bit 0 up (R198). -/
def immWidths : List Nat := [32, 1, 1, 1, 4, 8, 8, 8, 1]

def ImmW.fields (f : ImmW) : List Nat :=
  [f.o.imm, f.o.k.toNat, f.o.u.toNat, f.o.pn.toNat, f.o.p, f.o.a, f.o.d, f.op, 0]

def ImmW.ofFields : List Nat → ImmW
  | [imm, k, u, pn, p, a, d, op, _] =>
    { op := op, o := { d := d, a := a, p := p, pn := pn == 1, u := u == 1, k := k == 1, imm := imm } }
  | _ => { op := 0xFF, o := {} }

/-- The widths of the fields of a pair-form word from bit 0 up: bit 0, the second half, the first half, bit 63 (R199). -/
def pairWidths : List Nat := [1, 3, 1, 1, 3, 8, 8, 7, 3, 1, 1, 3, 8, 8, 7, 1]

def HalfW.fields (f : HalfW) : List Nat :=
  [f.h.mod, f.h.u.toNat, f.h.pn.toNat, f.h.p, f.h.a, f.h.d, f.op]

def HalfW.ofFields : List Nat → HalfW
  | [mod, u, pn, p, a, d, op] =>
    { op := op, h := { d := d, a := a, p := p, pn := pn == 1, u := u == 1, mod := mod } }
  | _ => { op := 0x7F, h := {} }

/-- The widths of the fields of a prompter word from bit 0 up (R216). -/
def promWidths : List Nat := [32, 9, 5, 5, 5, 8]

def PromW.fields (f : PromW) : List Nat := [f.o.imm, f.fn, f.o.b, f.o.a, f.o.d, f.op]

def PromW.ofFields : List Nat → PromW
  | [imm, fn, b, a, d, op] => { op := op, fn := fn, o := { d := d, a := a, b := b, imm := imm } }
  | _ => { op := 0xFF, o := {}, fn := 0 }

def FullW.toNat (f : FullW) : Nat := packBits (fullWidths.zip f.fields)
def FullW.ofNat (w : Nat) : FullW := FullW.ofFields (unpackBits fullWidths w)
def ImmW.toNat (f : ImmW) : Nat := packBits (immWidths.zip f.fields)
def ImmW.ofNat (w : Nat) : ImmW := ImmW.ofFields (unpackBits immWidths w)
def PromW.toNat (f : PromW) : Nat := packBits (promWidths.zip f.fields)
def PromW.ofNat (w : Nat) : PromW := PromW.ofFields (unpackBits promWidths w)

/-- The pair word of two halves: bit 0 is zero and bit 63 is one (R199). -/
def pairToNat (f g : HalfW) : Nat := packBits (pairWidths.zip (0 :: (g.fields ++ f.fields) ++ [1]))
def pairFirst (w : Nat) : HalfW := HalfW.ofFields (((unpackBits pairWidths w).drop 8).take 7)
def pairSecond (w : Nat) : HalfW := HalfW.ofFields (((unpackBits pairWidths w).drop 1).take 7)

/-! ### The composition check (R214) -/

/-- The reasons for which a word fails the composition check, in the order of the tests (R214). -/
inductive Reason where
  /-- 1: a reserved opcode -/
  | reservedOpcode
  /-- 2: a value that the field or the instruction does not define -/
  | undefinedValue
  /-- 3: a non-zero unused field, or d, k, ld, u against R203 and R214 -/
  | nonzeroUnused
  /-- 4: a misuse of the link operand (R31) -/
  | linkMisuse
  /-- 5: a destination, pair or quad outside R201 -/
  | badRegister
  /-- 6: the bank rule (R212) -/
  | bankRule
deriving DecidableEq, Repr

/-- The number a COMPOSE_FAULT record carries for the reason (R214). -/
def Reason.code : Reason → Nat
  | .reservedOpcode => 1 | .undefinedValue => 2 | .nonzeroUnused => 3 | .linkMisuse => 4 | .badRegister => 5
  | .bankRule => 6

/-- What an entry does with a register field (R201, R202, R226). -/
inductive FieldKind where
  | unused
  | src32 | src64 | src128
  | dst32 | dst64 | dst128
  | dstOpt
  | dstMask
  | mask
  | off
  | imm
  | seed32 | seed64
deriving DecidableEq, Repr

/-- What an entry says of a word with given modifiers: the use of each register field, whether it may be linked and
take u = 1 (R31, R214), whether it takes a predicate (R226, R241), whether its result goes to a latch (R203), and
whether its immediate and fn fields hold undefined values (reason 2) or non-zero unused bits (reason 3). -/
structure Shape where
  d : FieldKind := .unused
  a : FieldKind := .unused
  b : FieldKind := .unused
  c : FieldKind := .unused
  link : Bool := false
  pred : Bool := true
  latch : Bool := false
  bad : Bool := false
  rest : Bool := false

/-- A row of the full-form opcode map (R209). -/
structure LaneRow where
  op : Nat
  shape : Nat → Nat → Shape
  build : Ops → Nat → Instr

/-- The values 245 to 247 and 252 to 255 of a register field (R200). -/
def undefinedReg (v : Nat) : Bool := (245 ≤ v && v ≤ 247) || 252 ≤ v

namespace FieldKind

def isSrc : FieldKind → Bool
  | .src32 => true | .src64 => true | .src128 => true | _ => false

def isDst : FieldKind → Bool
  | .dst32 => true | .dst64 => true | .dst128 => true | .dstOpt => true | _ => false

def isSeed : FieldKind → Bool
  | .seed32 => true | .seed64 => true | _ => false

/-- Reason 2 for a source field: an undefined register value, or a mask field above 15 (R202, R234). -/
def srcUndefined (k : FieldKind) (v : Nat) : Bool :=
  match k with
  | .mask => 16 ≤ v
  | k => k.isSrc && undefinedReg v

/-- Reason 5 for a source field: an odd pair, a misaligned quad, or a special value in a quad (R201). -/
def srcMisaligned (k : FieldKind) (v : Nat) : Bool :=
  match k with
  | .src64 => v < 240 && v % 2 == 1
  | .src128 => 240 ≤ v || v % 4 != 0
  | _ => false

/-- Reason 5 for a destination field (R200 to R202). -/
def dstBad (k : FieldKind) (v : Nat) : Bool :=
  match k with
  | .dst32 => 240 ≤ v
  | .dstOpt => 240 ≤ v
  | .dst64 => 240 ≤ v || v % 2 == 1
  | .dst128 => 240 ≤ v || v % 4 != 0
  | .dstMask => 16 ≤ v
  | _ => false

end FieldKind

/-- Whether a word with these fields names the link operand where the shape takes a source. -/
def Shape.linked (s : Shape) (o : Ops) : Bool :=
  s.link && ((s.a.isSrc && o.a == 240) || (s.b.isSrc && o.b == 240) || (s.c.isSrc && o.c == 240))

/-- Reason 2 (R214). -/
def Shape.undefinedValue (s : Shape) (o : Ops) : Bool :=
  s.bad || s.a.srcUndefined o.a || s.b.srcUndefined o.b || s.c.srcUndefined o.c
    || (s.d.isDst && o.k && undefinedReg o.d)
    || (s.c.isSeed && s.linked o && undefinedReg o.c)

/-- The d, k and ld fields against R203 and R226. -/
def Shape.badDest (s : Shape) (o : Ops) : Bool :=
  match s.d with
  | .unused => o.d != 0 || o.k || o.ld != 0
  | .dstMask => !o.k || o.ld != 0
  | .dstOpt => o.ld != 0 || (!o.k && o.d != 0)
  | _ => if s.latch then !o.k && o.d != 0 else !o.k || o.ld != 0

/-- Reason 3 (R214). A c field for which the table of R271 has 0 counts as one that the word does not use (R270), not as a c value that
its row does not list, which R271 makes reason 2 (DESIGN CHOICE [129]). -/
def Shape.nonzeroUnused (s : Shape) (o : Ops) : Bool :=
  s.rest || s.badDest o
    || (s.a == .unused && o.a != 0) || (s.b == .unused && o.b != 0) || (s.c == .unused && o.c != 0)
    || (s.c.isSeed && !s.linked o && o.c != 0)
    || (!s.pred && (o.p != 0 || o.pn)) || (!s.link && o.u)

/-- Reason 4: the link operand in d, in a word that may not be linked, under u = 1, in a quad, or as the seed (R31). -/
def Shape.linkMisuse (s : Shape) (o : Ops) : Bool :=
  let lk (k : FieldKind) (v : Nat) : Bool := k.isSrc && v == 240 && (!s.link || o.u || k == .src128)
  (s.d.isDst && o.k && o.d == 240) || lk s.a o.a || lk s.b o.b || lk s.c o.c
    || (s.c.isSeed && s.linked o && o.c == 240)

/-- Reason 5 (R214). -/
def Shape.badRegister (s : Shape) (o : Ops) : Bool :=
  (o.k && s.d.dstBad o.d) || s.a.srcMisaligned o.a || s.b.srcMisaligned o.b || s.c.srcMisaligned o.c
    || (s.c == .seed64 && s.linked o && o.c < 240 && o.c % 2 == 1)

/-- The composition check of a full-form word whose opcode is assigned (R214). -/
def Shape.check (s : Shape) (o : Ops) : Option Reason :=
  if s.undefinedValue o then some .undefinedValue
  else if s.nonzeroUnused o then some .nonzeroUnused
  else if s.linkMisuse o then some .linkMisuse
  else if s.badRegister o then some .badRegister
  else none

/-! ### The rows of the lane opcode map -/

/-- The type in fn bits 13:10 (R205). -/
def aluTy (fn : Nat) : Ty := Ty.ofCode (bitsOf fn 10 4)
/-- The type in fn bits 11:8 of memory words (R205). -/
def memTy (fn : Nat) : Ty := Ty.ofCode (bitsOf fn 8 4)
/-- The rounding in fn bits 9:8 (R205). -/
def fnRnd (fn : Nat) : Rnd := Rnd.ofCode (bitsOf fn 8 2)

/-- A 32- or 64-bit integer type (R227). -/
def isInt (t : Ty) : Bool := t == .i32 || t == .n32 || t == .i64 || t == .n64
/-- An 8- to 64-bit integer type (R258). -/
def isAnyInt (t : Ty) : Bool := t.code < 8
/-- A floating format (R258). -/
def isFloat (t : Ty) : Bool := 8 ≤ t.code && t != .q
/-- f32, f16 or bf16 (R258). -/
def isBig (t : Ty) : Bool := t == .f32 || t == .f16 || t == .bf16

def srcW (w : Bool) : FieldKind := if w then .src64 else .src32
def dstW (w : Bool) : FieldKind := if w then .dst64 else .dst32
def seedW (w : Bool) : FieldKind := if w then .seed64 else .seed32

/-- The shape of the integer instructions: `bit0` says whether the entry uses fn bit 0 (R228, R229). -/
def intShape (fn : Nat) (bit0 : Bool) (d a b c : Bool → FieldKind) : Shape :=
  let t := aluTy fn
  let w := t.wide
  { d := d w, a := a w, b := b w, c := c w, link := true, latch := true,
    bad := !isInt t || (!bit0 && bitOf fn 0), rest := bitsOf fn 1 9 != 0 }

def k32 (_ : Bool) : FieldKind := .src32
def kd32 (_ : Bool) : FieldKind := .dst32
def kNone (_ : Bool) : FieldKind := .unused
def kMask (_ : Bool) : FieldKind := .mask
def kSeed32 (_ : Bool) : FieldKind := .seed32
def kImm (_ : Bool) : FieldKind := .imm

def intRows : List LaneRow := [
  ⟨0x00, fun _ fn => intShape fn true dstW srcW srcW seedW, fun o fn => .add o (aluTy fn) (bitOf fn 0)⟩,
  ⟨0x01, fun _ fn => intShape fn true dstW srcW srcW seedW, fun o fn => .sub o (aluTy fn) (bitOf fn 0)⟩,
  ⟨0x02, fun _ fn => intShape fn false dstW srcW srcW seedW, fun o fn => .mul o (aluTy fn)⟩,
  ⟨0x03, fun _ fn => intShape fn false dstW srcW srcW seedW, fun o fn => .mulh o (aluTy fn)⟩,
  ⟨0x04, fun _ fn => intShape fn false dstW srcW srcW srcW, fun o fn => .mad o (aluTy fn)⟩,
  ⟨0x05, fun _ fn =>
      { intShape fn true dstW srcW kNone seedW with
        bad := !(aluTy fn == .i32 || aluTy fn == .i64) }, fun o fn => .abs o (aluTy fn) (bitOf fn 0)⟩,
  ⟨0x06, fun _ fn => intShape fn false dstW srcW srcW seedW, fun o fn => .min o (aluTy fn)⟩,
  ⟨0x07, fun _ fn => intShape fn false dstW srcW srcW seedW, fun o fn => .max o (aluTy fn)⟩,
  ⟨0x08, fun _ fn => intShape fn false dstW srcW srcW seedW, fun o fn => .and o (aluTy fn)⟩,
  ⟨0x09, fun _ fn => intShape fn false dstW srcW srcW seedW, fun o fn => .or o (aluTy fn)⟩,
  ⟨0x0A, fun _ fn => intShape fn false dstW srcW srcW seedW, fun o fn => .xor o (aluTy fn)⟩,
  ⟨0x0B, fun _ fn => intShape fn false dstW srcW srcW seedW, fun o fn => .andn o (aluTy fn)⟩,
  ⟨0x0C, fun _ fn => intShape fn false dstW srcW k32 seedW, fun o fn => .shl o (aluTy fn)⟩,
  ⟨0x0D, fun _ fn => intShape fn false dstW srcW k32 seedW, fun o fn => .shr o (aluTy fn)⟩,
  ⟨0x0E, fun _ fn => intShape fn false dstW srcW k32 seedW, fun o fn => .sra o (aluTy fn)⟩,
  ⟨0x0F, fun _ fn => intShape fn false dstW srcW k32 seedW, fun o fn => .rot o (aluTy fn)⟩,
  ⟨0x10, fun _ fn => intShape fn false kd32 srcW kNone kSeed32, fun o fn => .popc o (aluTy fn)⟩,
  ⟨0x11, fun _ fn => intShape fn false kd32 srcW kNone kSeed32, fun o fn => .clz o (aluTy fn)⟩,
  ⟨0x12, fun _ fn => intShape fn false kd32 srcW kNone kSeed32, fun o fn => .ctz o (aluTy fn)⟩,
  ⟨0x13, fun _ fn => intShape fn false dstW srcW kNone seedW, fun o fn => .brev o (aluTy fn)⟩,
  ⟨0x14, fun _ fn => intShape fn true dstW srcW k32 seedW, fun o fn => .bfx o (aluTy fn) (bitOf fn 0)⟩,
  ⟨0x15, fun _ fn => intShape fn false dstW srcW k32 srcW, fun o fn => .bfi o (aluTy fn)⟩,
  ⟨0x16, fun _ fn => intShape fn false dstW srcW srcW kMask, fun o fn => .sel o (aluTy fn)⟩,
  ⟨0x17, fun _ fn =>
      let t := aluTy fn
      { d := if bitOf fn 3 then .dst32 else .dstMask, a := srcW t.wide, b := srcW t.wide, c := .seed32,
        link := true, latch := bitOf fn 3, bad := !isInt t || 6 ≤ bitsOf fn 0 3, rest := bitsOf fn 4 6 != 0 },
    fun o fn => .cmp o (aluTy fn) (Cond.ofCode (bitsOf fn 0 3)) (bitOf fn 3)⟩,
  ⟨0x18, fun c fn =>
      { intShape fn false dstW srcW k32 kImm with
        bad := !isInt (aluTy fn) || bitOf fn 0 || 32 ≤ c }, fun o fn => .lea o (aluTy fn)⟩,
  ⟨0x19, fun _ fn => intShape fn false dstW srcW kNone seedW, fun o fn => .mov o (aluTy fn)⟩]

/-- The shape of the mask instructions (R234). -/
def maskShape (fn : Nat) (d a b : FieldKind) (latch : Bool) : Shape :=
  { d := d, a := a, b := b, latch := latch, rest := fn != 0 }

def maskRows : List LaneRow := [
  ⟨0x20, fun _ fn => maskShape fn .dstMask .mask .mask false, fun o _ => .mand o⟩,
  ⟨0x21, fun _ fn => maskShape fn .dstMask .mask .mask false, fun o _ => .mor o⟩,
  ⟨0x22, fun _ fn => maskShape fn .dstMask .mask .mask false, fun o _ => .mxor o⟩,
  ⟨0x23, fun _ fn => maskShape fn .dstMask .mask .mask false, fun o _ => .mandn o⟩,
  ⟨0x24, fun _ fn => maskShape fn .dst32 .mask .unused true, fun o _ => .mpop o⟩,
  ⟨0x25, fun _ fn => maskShape fn .dst32 .mask .unused true, fun o _ => .mfirst o⟩,
  ⟨0x26, fun _ fn =>
      if bitOf fn 0 then { maskShape (fn / 2) .dstMask .src64 .unused false with c := .unused }
      else { maskShape fn .dstMask .src32 .unused false with c := .seed32, link := true },
    fun o fn => if bitOf fn 0 then .vtomW o else .vtom o⟩,
  ⟨0x27, fun _ fn =>
      if bitOf fn 0 then maskShape (fn / 2) .dst64 .mask .unused true
      else maskShape fn .dst32 .mask .unused true,
    fun o fn => if bitOf fn 0 then .mtovW o else .mtov o⟩]

/-- n32 or n64, the types of SHFL, BCAST and LKTAIL (R236, R238, R240). -/
def isN (t : Ty) : Bool := t == .n32 || t == .n64

/-- A control word without operands: every field but op is zero (R241, R243, R250). -/
def bareShape (fn : Nat) : Shape := { pred := false, rest := fn != 0 }

def ctlRows : List LaneRow := [
  ⟨0x40, fun c fn =>
      let t := aluTy fn
      let im := bitOf fn 2
      { d := dstW t.wide, a := srcW t.wide, b := if im then .unused else .src32, c := if im then .imm else .unused,
        latch := true, bad := !isN t || (im && 64 ≤ c), rest := bitsOf fn 3 7 != 0 },
    fun o fn => .shfl o (aluTy fn) (bitOf fn 2) (ShflMode.ofCode (bitsOf fn 0 2))⟩,
  ⟨0x41, fun _ fn => { d := dstW (bitsOf fn 0 2 == 2), a := .src32, latch := true, rest := bitsOf fn 2 12 != 0 },
    fun o fn => .vote o (VoteMode.ofCode (bitsOf fn 0 2))⟩,
  ⟨0x42, fun c fn =>
      let t := aluTy fn
      let im := bitOf fn 2
      let fi := bitOf fn 3
      { d := dstW t.wide, a := srcW t.wide, b := if im || fi then .unused else .src32, c := if im then .imm else .unused,
        latch := true, bad := !isN t || (im && 64 ≤ c) || (im && fi), rest := bitsOf fn 0 2 != 0 || bitsOf fn 4 6 != 0 },
    fun o fn => .bcast o (aluTy fn) (bitOf fn 2) (bitOf fn 3)⟩,
  ⟨0x43, fun _ fn => { a := if bitsOf fn 0 2 == 3 then .unused else .mask, pred := false, rest := bitsOf fn 2 12 != 0 },
    fun o fn => .lkbrk o (BrkMode.ofCode (bitsOf fn 0 2))⟩,
  ⟨0x44, fun _ fn => { d := dstW (aluTy fn).wide, latch := true, bad := !isN (aluTy fn), rest := bitsOf fn 0 10 != 0 },
    fun o fn => .lktail o (aluTy fn)⟩,
  ⟨0x48, fun _ fn => bareShape fn, fun o _ => .join o⟩,
  ⟨0x49, fun _ fn =>
      if bitOf fn 0 then { a := .src64, c := .off, pred := false, rest := bitsOf fn 1 11 != 0 }
      else { a := .src32, pred := false, rest := bitsOf fn 1 13 != 0 },
    fun o fn => if bitOf fn 0 then .calliM o (bitsOf fn 12 2) else .calli o⟩,
  ⟨0x4A, fun _ fn => bareShape fn, fun o _ => .ret o⟩,
  ⟨0x4B, fun _ fn => { rest := fn != 0 }, fun o _ => .exit o⟩,
  ⟨0x4C, fun _ fn => bareShape fn, fun o _ => .nop o⟩,
  ⟨0xBA, fun _ _ => {}, fun o fn => .trap o fn⟩,
  ⟨0xBB, fun _ _ => {}, fun o fn => .bkpt o fn⟩,
  ⟨0xBC, fun _ fn => { a := .src32, pred := false, rest := fn != 0 }, fun o _ => .cuept o⟩,
  ⟨0xBD, fun _ fn => bareShape fn, fun o _ => .yield o⟩,
  ⟨0xBE, fun _ _ => { pred := false }, fun o fn => .bind o fn⟩]

/-- The destination of SRD by register number (R253): the width; `unused` where the number is not listed. -/
def srdDst (n : Nat) : FieldKind :=
  match n with
  | 0 => .dst32 | 1 => .dst32 | 2 => .dst64 | 3 => .dst32 | 4 => .dst32 | 5 => .dst32 | 6 => .dst64 | 7 => .dst128
  | 8 => .dst32 | 9 => .dst64 | 10 => .dst64 | 11 => .dst64 | 12 => .dst32 | 13 => .dst32 | _ => .unused

/-- The source of SWR by register number (R253); `unused` where the register is not writable. -/
def swrSrc (n : Nat) : FieldKind :=
  match n with
  | 6 => .src64 | 7 => .src32 | 13 => .src32 | _ => .unused

def specialRows : List LaneRow := [
  ⟨0xB8, fun _ fn => { d := srdDst (bitsOf fn 0 8), bad := 14 ≤ bitsOf fn 0 8, rest := bitsOf fn 8 6 != 0 },
    fun o fn => .srd o (bitsOf fn 0 8)⟩,
  ⟨0xB9, fun _ fn => { a := swrSrc (bitsOf fn 0 8), bad := swrSrc (bitsOf fn 0 8) == .unused, rest := bitsOf fn 8 6 != 0 },
    fun o fn => .swr o (bitsOf fn 0 8)⟩]

/-- The shape of the floating-point instructions (R258): `ok` the types, `rnd` whether the rounding is used,
`low` whether fn 7:0 is in order. -/
def fpShape (fn : Nat) (ok : Ty → Bool) (rnd : Bool) (d a b c : FieldKind) : Shape :=
  { d := d, a := a, b := b, c := c, link := true, latch := true,
    bad := !ok (aluTy fn) || (!rnd && bitsOf fn 8 2 != 0), rest := bitsOf fn 0 8 != 0 }

def isF32 (t : Ty) : Bool := t == .f32
def isHalf (t : Ty) : Bool := t == .f16 || t == .bf16

/-- The second type of a conversion, in fn bits 3:0 (R258). -/
def fnTy2 (fn : Nat) : Ty := Ty.ofCode (bitsOf fn 0 4)

def fp2 (fn : Nat) : Shape := fpShape fn isF32 true .dst32 .src32 .src32 .seed32
def fp1 (fn : Nat) : Shape := fpShape fn isF32 true .dst32 .src32 .unused .seed32

def fpRows : List LaneRow := [
  ⟨0x60, fun _ fn => fp2 fn, fun o fn => .fadd o (fnRnd fn)⟩,
  ⟨0x61, fun _ fn => fp2 fn, fun o fn => .fsub o (fnRnd fn)⟩,
  ⟨0x62, fun _ fn => fp2 fn, fun o fn => .fmul o (fnRnd fn)⟩,
  ⟨0x63, fun _ fn => fpShape fn isF32 true .dst32 .src32 .src32 .src32, fun o fn => .ffma o (fnRnd fn)⟩,
  ⟨0x64, fun _ fn => fpShape fn isF32 false .dst32 .src32 .src32 .seed32, fun o _ => .fmin o⟩,
  ⟨0x65, fun _ fn => fpShape fn isF32 false .dst32 .src32 .src32 .seed32, fun o _ => .fmax o⟩,
  ⟨0x66, fun _ fn => fpShape fn isBig false .dst64 .src64 .src64 .seed64, fun o fn => .fmaxx o (aluTy fn)⟩,
  ⟨0x67, fun _ fn => fpShape fn isBig false .dst64 .src64 .src64 .seed64, fun o fn => .fminx o (aluTy fn)⟩,
  ⟨0x68, fun _ fn =>
      { fpShape fn isBig false (if bitOf fn 3 then .dst32 else .dstMask) .src32 .src32 .seed32 with
        latch := bitOf fn 3, rest := bitsOf fn 4 4 != 0 },
    fun o fn => .fcmp o (aluTy fn) (Cond.ofCode (bitsOf fn 0 3)) (bitOf fn 3)⟩,
  ⟨0x69, fun _ fn => { fp1 fn with rest := bitsOf fn 1 7 != 0 }, fun o fn => .frnd o (fnRnd fn) (bitOf fn 0)⟩,
  ⟨0x6A, fun _ fn => fp1 fn, fun o fn => .frcp o (fnRnd fn)⟩,
  ⟨0x6B, fun _ fn => fp1 fn, fun o fn => .frsq o (fnRnd fn)⟩,
  ⟨0x6C, fun _ fn => fp1 fn, fun o fn => .fsqrt o (fnRnd fn)⟩,
  ⟨0x6D, fun _ fn => fp1 fn, fun o fn => .fexp2 o (fnRnd fn)⟩,
  ⟨0x6E, fun _ fn => fp1 fn, fun o fn => .flog2 o (fnRnd fn)⟩,
  ⟨0x6F, fun _ fn => fp1 fn, fun o fn => .ftanh o (fnRnd fn)⟩,
  ⟨0x70, fun _ fn =>
      { fpShape fn isFloat true .dst32 .src32 .unused .seed32 with
        bad := !isFloat (aluTy fn) || !isFloat (fnTy2 fn), rest := bitsOf fn 4 4 != 0 },
    fun o fn => .fcvt o (aluTy fn) (fnTy2 fn) (fnRnd fn)⟩,
  ⟨0x71, fun _ fn =>
      { fpShape fn isAnyInt true (dstW (aluTy fn).wide) .src32 .unused (seedW (aluTy fn).wide) with
        bad := !isAnyInt (aluTy fn) || !isFloat (fnTy2 fn), rest := bitsOf fn 4 4 != 0 },
    fun o fn => .f2i o (aluTy fn) (fnTy2 fn) (fnRnd fn)⟩,
  ⟨0x72, fun _ fn =>
      { fpShape fn isFloat true .dst32 (srcW (fnTy2 fn).wide) .unused .seed32 with
        bad := !isFloat (aluTy fn) || !isAnyInt (fnTy2 fn), rest := bitsOf fn 4 4 != 0 },
    fun o fn => .i2f o (aluTy fn) (fnTy2 fn) (fnRnd fn)⟩,
  ⟨0x73, fun _ fn => fpShape fn isHalf true .dst32 .src32 .src32 .seed32, fun o fn => .hadd2 o (aluTy fn) (fnRnd fn)⟩,
  ⟨0x74, fun _ fn => fpShape fn isHalf true .dst32 .src32 .src32 .seed32, fun o fn => .hmul2 o (aluTy fn) (fnRnd fn)⟩,
  ⟨0x75, fun _ fn => fpShape fn isHalf true .dst32 .src32 .src32 .src32, fun o fn => .hfma2 o (aluTy fn) (fnRnd fn)⟩,
  ⟨0x76, fun _ fn => fpShape fn isHalf false .dst32 .src32 .src32 .seed32, fun o fn => .hmax2 o (aluTy fn)⟩,
  ⟨0x77, fun _ fn => fpShape fn isHalf true .dst32 .src32 .src32 .seed32, fun o fn => .pack2 o (aluTy fn) (fnRnd fn)⟩,
  ⟨0x78, fun _ fn => fpShape fn isHalf false .dst64 .src32 .unused .seed64, fun o fn => .unpk2 o (aluTy fn)⟩]

/-- The kinds of memory access for the orders they permit (R122). -/
inductive OrderKind where
  | load | store | rmw | red | fence
deriving DecidableEq, Repr

/-- The orders each kind permits beside the plain one (R122). -/
def OrderKind.permits : OrderKind → Nat → Bool
  | .load, o => o == 1 || o == 2 || o == 5
  | .store, o => o == 1 || o == 3 || o == 5
  | .rmw, o => 1 ≤ o && o ≤ 5
  | .red, o => o == 1 || o == 3
  | .fence, o => 2 ≤ o && o ≤ 5

/-- Whether scope and order codes are out of order for the kind: reason 2 (R207). Order 0 requires scope 0 and is
permitted to plain loads and stores only. -/
def badScopeOrder (k : OrderKind) (sc od : Nat) : Bool :=
  if od == 0 then !((k == .load || k == .store) && sc == 0)
  else 6 ≤ sc || !k.permits od

def fnScope (fn : Nat) : Nat := bitsOf fn 5 3
def fnOrder (fn : Nat) : Nat := bitsOf fn 2 3
def fnSc (fn : Nat) : Scope := Scope.ofCode (bitsOf fn 5 3)
def fnOd (fn : Nat) : Order := Order.ofCode (bitsOf fn 2 3)

/-- The types of loads and stores (R271). -/
def isMem (t : Ty) : Bool := isAnyInt t || t == .q

/-- The source and destination kinds of a value of a memory type (R276). -/
def memSrc (t : Ty) : FieldKind := if t == .q then .src128 else srcW t.wide
def memDst (t : Ty) : FieldKind := if t == .q then .dst128 else dstW t.wide

/-- The operations of the atomic family by their code in c (R280): whether the mnemonic and the type admit it. -/
def badAtomOp (red : Bool) (t : Ty) (op : Nat) : Bool :=
  match op with
  | 6 => red || !isInt t
  | 7 => !(t == .n32 || t == .n64)
  | 8 => !(t == .n32 || t == .n64)
  | 9 => !red || t != .f32
  | n => 10 ≤ n || !isInt t

/-- A word of the chapter with no type, scope, order or offset: fn bits above `used` are zero (R270). -/
def plainShape (fn used : Nat) (d a b c : FieldKind) : Shape :=
  { d := d, a := a, b := b, c := c, rest := fn / 2 ^ used != 0 }

/-- A word with `[va+off]` and no type: fn bits 11:`used` are zero (R270, R271). -/
def offShape (fn used : Nat) (d a b : FieldKind) : Shape :=
  { d := d, a := a, b := b, c := .off, rest := bitsOf fn used (12 - used) != 0 }

/-- The address operand of the atomic family: a pair, or one register with `.sp` (R272). -/
def atomAddr (fn : Nat) : FieldKind := if bitOf fn 0 then .src32 else .src64

/-- The shape of the atomic family and RED (R271, R280). -/
def atomShape (fn : Nat) (red : Bool) (ok : Bool) (d b c : FieldKind) : Shape :=
  { d := d, a := atomAddr fn, b := b, c := c,
    bad := !ok || badScopeOrder (if red then .red else .rmw) (fnScope fn) (fnOrder fn),
    rest := (!red && bitOf fn 1) || bitsOf fn 12 2 != 0 }

def memRows : List LaneRow := [
  ⟨0x80, fun _ fn =>
      { d := memDst (memTy fn), a := .src64, c := .off,
        bad := !isMem (memTy fn) || badScopeOrder .load (fnScope fn) (fnOrder fn), rest := bitsOf fn 0 2 != 0 },
    fun o fn => .ld o (bitsOf fn 12 2) (memTy fn) (fnSc fn) (fnOd fn)⟩,
  ⟨0x81, fun _ fn =>
      { a := .src64, b := memSrc (memTy fn), c := .off,
        bad := !isMem (memTy fn) || badScopeOrder .store (fnScope fn) (fnOrder fn), rest := bitsOf fn 0 2 != 0 },
    fun o fn => .st o (bitsOf fn 12 2) (memTy fn) (fnSc fn) (fnOd fn)⟩,
  ⟨0x82, fun _ fn =>
      { d := memDst (memTy fn), a := .src32, c := .off,
        bad := !isMem (memTy fn) || bitsOf fn 0 2 == 3
        || (if bitsOf fn 0 2 == 0 then badScopeOrder .load (fnScope fn) (fnOrder fn) else fnScope fn != 0 || fnOrder fn != 2) },
    fun o fn => .lds o (bitsOf fn 12 2) (memTy fn) (fnSc fn) (fnOd fn) (FeMode.ofCode (bitsOf fn 0 2))⟩,
  ⟨0x83, fun _ fn =>
      { a := .src32, b := memSrc (memTy fn), c := .off,
        bad := !isMem (memTy fn)
        || (if bitOf fn 0 then fnScope fn != 0 || fnOrder fn != 3 else badScopeOrder .store (fnScope fn) (fnOrder fn)),
        rest := bitOf fn 1 },
    fun o fn => .sts o (bitsOf fn 12 2) (memTy fn) (fnSc fn) (fnOd fn) (bitOf fn 0)⟩,
  ⟨0x84, fun _ fn => offShape fn 0 .unused .src64 .unused, fun o fn => .pref o (bitsOf fn 12 2)⟩,
  ⟨0x85, fun c fn => atomShape fn false (!badAtomOp false (memTy fn) c) (dstW (memTy fn).wide) (srcW (memTy fn).wide) .imm,
    fun o fn => .atom o (memTy fn) (fnSc fn) (fnOd fn) (bitOf fn 0)⟩,
  ⟨0x86, fun _ fn => atomShape fn false (isInt (memTy fn)) (dstW (memTy fn).wide) (srcW (memTy fn).wide) (srcW (memTy fn).wide),
    fun o fn => .acas o (memTy fn) (fnSc fn) (fnOd fn) (bitOf fn 0)⟩,
  ⟨0x87, fun _ fn => atomShape fn false (isN (memTy fn)) (dstW (memTy fn).wide) (srcW (memTy fn).wide) (srcW (memTy fn).wide),
    fun o fn => .abfi o (memTy fn) (fnSc fn) (fnOd fn) (bitOf fn 0)⟩,
  ⟨0x88, fun _ fn => atomShape fn false (memTy fn == .n64) .dst32 .unused .unused,
    fun o fn => .affcs o (fnSc fn) (fnOd fn) (bitOf fn 0)⟩,
  ⟨0x89, fun _ fn => atomShape fn false (memTy fn == .n64) .dst128 .src64 .src32,
    fun o fn => .aplset o (fnSc fn) (fnOd fn) (bitOf fn 0)⟩,
  ⟨0x8A, fun c fn => atomShape fn true
      (!badAtomOp true (memTy fn) c && !(bitOf fn 1 && (c != 9 || bitOf fn 0))) .unused (srcW (memTy fn).wide) .imm,
    fun o fn => .red o (memTy fn) (fnSc fn) (fnOd fn) (bitOf fn 0) (bitOf fn 1)⟩,
  ⟨0x8B, fun _ fn =>
      { bad := badScopeOrder .fence (fnScope fn) (fnOrder fn),
        rest := bitsOf fn 0 2 != 0 || bitsOf fn 8 6 != 0 }, fun o fn => .fence o (fnSc fn) (fnOd fn)⟩,
  ⟨0x8C, fun c fn =>
      { plainShape fn 0 .unused .unused .unused .imm with
        bad := 5 ≤ bitsOf c 0 3 || 5 ≤ bitsOf c 3 3, rest := fn != 0 || bitsOf c 6 2 != 0 }, fun o _ => .pfence o⟩,
  ⟨0x8D, fun _ fn => offShape fn 1 .unused .src32 .src32,
    fun o fn => if bitOf fn 0 then .feclr o (bitsOf fn 12 2) else .feset o (bitsOf fn 12 2)⟩,
  ⟨0x8E, fun _ fn => plainShape fn 0 .dst64 .src64 .unused .unused, fun o _ => .plook o⟩,
  ⟨0x8F, fun _ fn => plainShape fn 0 .dst64 .src64 .src32 .src32, fun o _ => .pins o⟩,
  ⟨0x90, fun _ fn => plainShape fn 0 .dst64 .src32 .unused .unused, fun o _ => .pinv o⟩,
  ⟨0x91, fun _ fn => plainShape fn 0 .dst32 .src32 .src32 .unused, fun o _ => .ejoin o⟩,
  ⟨0x92, fun _ fn => plainShape fn 0 .unused .unused .unused .unused, fun o _ => .eleave o⟩,
  ⟨0x93, fun c fn =>
      { d := if bitsOf fn 0 2 % 2 == 0 then .dst64 else .unused, a := if bitsOf fn 0 2 % 2 == 0 then .unused else .src64,
        c := .imm, bad := 16 ≤ c, rest := bitsOf fn 2 12 != 0 },
    fun o fn => match bitsOf fn 0 2 with
      | 0 => .mbget o
      | 1 => .mbput o
      | 2 => .mbr o
      | _ => .mbw o⟩,
  ⟨0x94, fun c fn => { plainShape fn 0 .unused .src32 .src32 .imm with bad := 9 ≤ bitsOf c 4 4 && bitsOf c 4 4 ≤ 14 },
    fun o _ => .rput o⟩,
  ⟨0x95, fun _ fn => plainShape fn 0 .unused .src32 .unused .unused, fun o _ => .waita o⟩,
  ⟨0x96, fun _ fn => offShape fn 1 .unused .src32 .src32, fun o fn => .binit o (bitsOf fn 12 2) (bitOf fn 0)⟩,
  ⟨0x97, fun _ fn => offShape fn 0 .dstOpt .src32 .src32, fun o fn => .arrive o (bitsOf fn 12 2)⟩,
  ⟨0x98, fun _ fn => offShape fn 0 .unused .src32 .src32, fun o fn => .bwait o (bitsOf fn 12 2)⟩,
  ⟨0x99, fun c fn => { plainShape fn 0 .unused .src32 .unused .imm with bad := c == 0 || 65 ≤ c }, fun o _ => .kick o⟩,
  ⟨0x9A, fun _ fn => plainShape fn 0 .unused .unused .unused .unused, fun o _ => .bclose o⟩,
  ⟨0x9B, fun c fn => { plainShape fn 0 .unused .unused .unused .imm with bad := 16 ≤ c }, fun o _ => .waitb o⟩,
  ⟨0x9C, fun c fn => { plainShape fn 0 .unused .unused .unused .imm with bad := c < 8 || 240 < c || c % 8 != 0 },
    fun o _ => .rgrow o⟩,
  ⟨0x9D, fun c fn => { plainShape fn 0 .unused .unused .unused .imm with bad := c < 8 || 240 < c || c % 8 != 0 },
    fun o _ => .rshrink o⟩,
  ⟨0x9E, fun _ fn => plainShape fn 0 .dst64 .src32 .unused .unused, fun o _ => .dalloc o⟩]

/-- The types MXDRAIN and MXFILL accept (R307). -/
def isDrain (t : Ty) : Bool := isBig t || t == .kt8 || t == .kt8w

/-- The type and `.x` fields of MXDRAIN and MXFILL: reason 2 where undefined (R307). -/
def badTileTy (ok : Ty → Bool) (fn : Nat) : Bool :=
  if bitOf fn 9 then bitsOf fn 5 4 != 0 else !ok (Ty.ofCode (bitsOf fn 5 4))

def mxRows : List LaneRow := [
  ⟨0xA0, fun _ fn =>
      { a := .src64, b := .src32, c := .src64,
        bad := bitsOf fn 0 4 == 3 || bitsOf fn 0 4 == 7 || bitsOf fn 0 4 == 15, rest := bitsOf fn 5 9 != 0 },
    fun o fn => .mxplane o (Ty.ofCode (bitsOf fn 0 4)) (bitOf fn 4)⟩,
  ⟨0xA1, fun _ fn => { a := .src64, c := .src32, rest := fn != 0 }, fun o _ => .mxldb o⟩,
  ⟨0xA2, fun _ fn => { a := .src64, b := .src32, c := if bitOf fn 5 then .unused else .src32, rest := bitsOf fn 6 8 != 0 },
    fun o fn => .mxmul o (bitsOf fn 0 5) (bitOf fn 5)⟩,
  ⟨0xA3, fun _ fn => { a := .src64, b := .src32, c := .src32, bad := bitOf fn 5, rest := bitsOf fn 6 8 != 0 },
    fun o fn => .mxbat o (bitsOf fn 0 5)⟩,
  ⟨0xA4, fun _ fn => { rest := bitsOf fn 5 9 != 0 }, fun o fn => .mxzero o (bitsOf fn 0 5)⟩,
  ⟨0xA5, fun _ fn => { a := .src32, c := .imm, bad := badTileTy isDrain fn, rest := bitsOf fn 10 4 != 0 },
    fun o fn => .mxdrain o (bitsOf fn 0 5) (Ty.ofCode (bitsOf fn 5 4)) (bitOf fn 9)⟩,
  ⟨0xA6, fun _ fn => { a := .src32, c := .imm, bad := badTileTy isBig fn, rest := bitsOf fn 10 4 != 0 },
    fun o fn => .mxfill o (bitsOf fn 0 5) (Ty.ofCode (bitsOf fn 5 4)) (bitOf fn 9)⟩,
  ⟨0xA7, fun _ fn => { d := .dst32, rest := bitsOf fn 6 8 != 0 }, fun o fn => .mxchk o (bitsOf fn 0 5) (bitOf fn 5)⟩]

/-- The dimension count of a curve word, fn bits 2:0 plus 1 (R317). -/
def fnDim (fn : Nat) : Nat := bitsOf fn 0 3 + 1

def cvRows : List LaneRow := [
  ⟨0xB0, fun _ fn => { d := .dst64, a := .src128, c := .seed64, link := true, latch := true, rest := bitsOf fn 3 11 != 0 },
    fun o fn => .cvenc o (fnDim fn)⟩,
  ⟨0xB1, fun _ fn => { d := .dst128, a := .src64, c := .seed64, link := true, latch := true, rest := bitsOf fn 3 11 != 0 },
    fun o fn => .cvdec o (fnDim fn)⟩,
  ⟨0xB2, fun _ fn =>
      { d := .dst128, a := .src64, b := .src128, c := .seed64, link := true, latch := true,
        rest := bitsOf fn 4 10 != 0 }, fun o fn => .cvadd o (fnDim fn) (bitOf fn 3)⟩,
  ⟨0xB3, fun _ fn =>
      { d := if bitOf fn 6 then .dst32 else .dstMask, a := .src64, b := .src64,
        c := if 6 ≤ bitsOf fn 3 3 then .src64 else .seed32, link := true, latch := bitOf fn 6, rest := bitsOf fn 7 7 != 0 },
    fun o fn => .cvcmp o (fnDim fn) (Cond.ofCode (bitsOf fn 3 3)) (bitOf fn 6)⟩,
  ⟨0xB4, fun _ fn =>
      { d := .dst128, a := .src64, b := .src64, c := .src64, link := true, latch := true,
        rest := bitsOf fn 3 11 != 0 }, fun o fn => .cvnext o (fnDim fn)⟩,
  ⟨0xB5, fun _ fn =>
      { d := .dst32, a := if bitOf fn 9 then .src32 else .src64, b := .src128, c := .src64,
        bad := bitsOf fn 3 6 == 0, rest := bitsOf fn 10 4 != 0 },
    fun o fn => .cvsplit o (fnDim fn) (bitsOf fn 3 6 + 1) (bitOf fn 9)⟩,
  ⟨0xB6, fun _ fn =>
      { d := .dst32, a := .src64, b := .src64, c := .seed32, link := true, latch := true,
        rest := bitsOf fn 3 11 != 0 }, fun o fn => .cvlvl o (fnDim fn)⟩]

/-- The full-form opcode map (R209). -/
def laneRows : List LaneRow :=
  intRows ++ maskRows ++ ctlRows ++ specialRows ++ fpRows ++ memRows ++ mxRows ++ cvRows

/-- The row of a full-form opcode; none where the code is reserved (R209). -/
def laneRow (op : Nat) : Option LaneRow := laneRows.find? (fun r => r.op == op)

/-- Decode the fields of a full-form word (R209, R214). -/
def decodeFull (f : FullW) : Except Reason Instr :=
  match laneRow f.op with
  | none => .error .reservedOpcode
  | some r =>
    match (r.shape f.o.c f.fn).check f.o with
    | some e => .error e
    | none => .ok (r.build f.o f.fn)

/-! ### I-form words (R198, R210) -/

/-- A row of the I-form opcode map (R210): the kind of d and of a, whether the word may take a predicate and u,
whether it is a branch, and the instruction. -/
structure ImmRow where
  op : Nat
  d : FieldKind
  a : FieldKind
  branch : Bool
  build : IOps → Instr

def immRows : List ImmRow := [
  ⟨0xC0, .dst32, .unused, false, .ldi⟩, ⟨0xC1, .dst64, .unused, false, .ldih⟩,
  ⟨0xC2, .dst32, .src32, false, .addI⟩, ⟨0xC3, .dst32, .src32, false, .mulI⟩, ⟨0xC4, .dst32, .src32, false, .andI⟩,
  ⟨0xC5, .dst32, .src32, false, .orI⟩, ⟨0xC6, .dst32, .src32, false, .xorI⟩, ⟨0xC7, .dst32, .src32, false, .shlI⟩,
  ⟨0xC8, .dst32, .src32, false, .shrI⟩, ⟨0xC9, .dst32, .src32, false, .sraI⟩, ⟨0xCA, .dst32, .src32, false, .minI⟩,
  ⟨0xCB, .dst32, .src32, false, .maxI⟩, ⟨0xD0, .unused, .unused, true, .bra⟩, ⟨0xD1, .unused, .mask, true, .brx⟩,
  ⟨0xD2, .unused, .unused, true, .call⟩]

def immRow (op : Nat) : Option ImmRow := immRows.find? (fun r => r.op == op)

/-- The reserved bits of a branch's imm32 (R210): bits 31:30 above 1, or a non-zero bit between them and the target. -/
def branchBad (imm : Nat) : Bool :=
  match bitsOf imm 30 2 with
  | 0 => bitsOf imm 21 9 != 0
  | 1 => bitsOf imm 20 10 != 0
  | _ => true

/-- Whether d and k break R203: no result but non-zero, LDIH without k, or latch only with a non-zero d (R198, R231). -/
def ImmRow.badDest (r : ImmRow) (o : IOps) : Bool :=
  match r.d with
  | .unused => o.d != 0 || o.k
  | .dst64 => !o.k
  | _ => !o.k && o.d != 0

/-- The composition check of an I-form word whose opcode is assigned (R214). -/
def ImmRow.check (r : ImmRow) (o : IOps) : Option Reason :=
  if r.a.srcUndefined o.a || (r.d.isDst && o.k && undefinedReg o.d) then some .undefinedValue
  else if r.badDest o || (r.a == .unused && o.a != 0)
    || (r.branch && (branchBad o.imm || o.p != 0 || o.pn || o.u)) then some .nonzeroUnused
  else if (r.a.isSrc && o.a == 240) || (r.d.isDst && o.k && o.d == 240) then some .linkMisuse
  else if o.k && r.d.dstBad o.d then some .badRegister
  else none

/-- Decode the fields of an I-form word. -/
def decodeImm (f : ImmW) : Except Reason Instr :=
  match immRow f.op with
  | none => .error .reservedOpcode
  | some r =>
    match r.check f.o with
    | some e => .error e
    | none => .ok (r.build f.o)

/-! ### Pair-form words (R199, R211, R212) -/

/-- Whether the mod value is one the operation defines (R211). -/
def PairOp.modOk (op : PairOp) (mod : Nat) : Bool :=
  match op with
  | .min => mod < 2 | .max => mod < 2
  | .fadd => mod < 4 | .fsub => mod < 4 | .fmul => mod < 4 | .hadd2 => mod < 4 | .hmul2 => mod < 4
  | _ => mod == 0

/-- The bank rule (R212): of the four reads, two in one bank name one register; the two destinations lie in different banks. -/
def bankBad (f g : HalfOps) : Bool :=
  let reads := [f.d, f.a, g.d, g.a].filter (· < 240)
  (f.d % 4 == g.d % 4) || reads.any (fun x => reads.any (fun y => x % 4 == y % 4 && x != y))

/-- The composition check of a pair-form word with these operations (R214); `low` is bit 0 of the word. -/
def pairCheck (x y : PairOp) (f g : HalfOps) (low : Nat) : Option Reason :=
  if undefinedReg f.d || undefinedReg f.a || undefinedReg g.d || undefinedReg g.a || !x.modOk f.mod || !y.modOk g.mod then
    some .undefinedValue
  else if low != 0 then some .nonzeroUnused
  else if f.d == 240 || f.a == 240 || g.d == 240 || g.a == 240 then some .linkMisuse
  else if 240 ≤ f.d || 240 ≤ g.d then some .badRegister
  else if bankBad f g then some .bankRule
  else none

/-- The instruction of a pair word, named by its first half (R211). -/
def buildPair (x : PairOp) (f : HalfOps) (g : PairHalf) : Instr :=
  match x with
  | .add => .pairAdd f g | .sub => .pairSub f g | .mul => .pairMul f g | .min => .pairMin f g | .max => .pairMax f g
  | .and => .pairAnd f g | .or => .pairOr f g | .xor => .pairXor f g | .andn => .pairAndn f g | .shl => .pairShl f g
  | .shr => .pairShr f g | .sra => .pairSra f g | .rot => .pairRot f g | .mov => .pairMov f g
  | .fadd => .pairFadd f g | .fsub => .pairFsub f g | .fmul => .pairFmul f g | .fmin => .pairFmin f g
  | .fmax => .pairFmax f g | .hadd2 => .pairHadd2 f g | .hmul2 => .pairHmul2 f g | .hmax2 => .pairHmax2 f g

/-- Decode the two halves of a pair-form word. -/
def decodePair (f g : HalfW) (low : Nat) : Except Reason Instr :=
  match PairOp.ofCode f.op, PairOp.ofCode g.op with
  | some x, some y =>
    match pairCheck x y f.h g.h low with
    | some e => .error e
    | none => .ok (buildPair x f.h { op := y, h := g.h })
  | _, _ => .error .reservedOpcode

/-! ### The lane decoder -/

/-- Decode a lane word by its format (R196); the check of R60 and R214 is that this answers an instruction. -/
def decodeLane (w : Nat) : Except Reason Instr :=
  if bitOf w 63 then decodePair (pairFirst w) (pairSecond w) (w % 2)
  else if 0xC0 ≤ bitsOf w 55 8 && bitsOf w 55 8 ≤ 0xDF then decodeImm (ImmW.ofNat w)
  else decodeFull (FullW.ofNat w)

/-! ### Prompter words (R216, R217, R327, R328) -/

/-- A row of the prompter opcode map: which of d, a and b the entry uses, which bits of fn and imm32 it uses, whether
fn, the condition, the mailbox number or the register number is undefined (detail 2), and the instruction. -/
structure PromRow where
  op : Nat
  d : Bool
  a : Bool
  b : Bool
  fnBits : Nat
  immBits : Nat
  bad : Nat → Nat → Bool
  build : POps → Nat → Instr

def noBad (_ _ : Nat) : Bool := false

def pMem (fn : Nat) : PMem :=
  { scope := Scope.ofCode (bitsOf fn 6 3), order := Order.ofCode (bitsOf fn 3 3), ty := Ty.ofCode (bitsOf fn 0 3) }

def pMemBad (k : OrderKind) (fn : Nat) : Bool := badScopeOrder k (bitsOf fn 6 3) (bitsOf fn 3 3)

/-- The control registers a CSRR may name and those a CSRW may name (R347, R408). -/
def csrReadable (n : Nat) : Bool := n ≤ 0x009 || (0x100 ≤ n && n ≤ 0x103) || n == 0x113 || n == 0x114
def csrWritable (n : Nat) : Bool :=
  n == 0x001 || (0x100 ≤ n && n ≤ 0x104) || (0x110 ≤ n && n ≤ 0x112) || n == 0x115

/-- CSRW by the register it names: those with a behaviour of their own are rows of their own (R347, R408). -/
def buildCsrw (o : POps) : Instr :=
  match o.imm with
  | 0x104 => .sysresume o
  | 0x110 => .dhalt o
  | 0x111 => .drelease o
  | 0x112 => .tlbinv o
  | 0x115 => .lkill o
  | _ => .csrw o

def pAlu (op : Nat) (mk : POps → Instr) : PromRow := ⟨op, true, true, true, 0, 0, noBad, fun o _ => mk o⟩
def pAluN (op : Nat) (mk : POps → Bool → Instr) : PromRow :=
  ⟨op, true, true, true, 1, 0, noBad, fun o fn => mk o (bitOf fn 0)⟩

def full32 : Nat := 0xFFFFFFFF

def promRowsA : List PromRow := [
  ⟨0x00, false, false, false, 0, 0, noBad, fun o _ => .prNop o⟩,
  pAlu 0x01 .prAdd,
  ⟨0x02, true, true, false, 0, full32, noBad, fun o _ => .prAddi o⟩,
  pAlu 0x03 .prSub, pAlu 0x04 .prMul, pAluN 0x05 .prMulh, pAluN 0x06 .div, pAluN 0x07 .rem,
  pAlu 0x08 .prAnd, pAlu 0x09 .prOr, pAlu 0x0A .prXor, pAlu 0x0B .prShl, pAlu 0x0C .prShr, pAlu 0x0D .prSra,
  pAlu 0x0E .slt, pAlu 0x0F .sltn,
  ⟨0x10, true, false, false, 0, full32, noBad, fun o _ => .li o⟩,
  ⟨0x11, true, false, false, 0, full32, noBad, fun o _ => .lih o⟩,
  ⟨0x20, true, true, false, 0x1FF, full32, fun fn _ => pMemBad .load fn, fun o fn => .prLd o (pMem fn)⟩,
  ⟨0x21, false, true, true, 0x1FF, full32, fun fn _ => pMemBad .store fn, fun o fn => .prSt o (pMem fn)⟩,
  ⟨0x22, true, true, false, 0x1FF, full32, fun fn _ => pMemBad .load fn, fun o fn => .prLds o (pMem fn)⟩,
  ⟨0x23, false, true, true, 0x1FF, full32, fun fn _ => pMemBad .store fn, fun o fn => .prSts o (pMem fn)⟩,
  ⟨0x24, true, true, true, 0x1FF, 0xF,
    fun fn imm => pMemBad .rmw fn || badAtomOp false (Ty.ofCode (bitsOf fn 0 3)) (imm % 16),
    fun o fn => .prAtom o (pMem fn)⟩,
  ⟨0x25, false, false, false, 0x1F8, 0, fun fn _ => pMemBad .fence fn,
    fun o fn => .prFence o (Scope.ofCode (bitsOf fn 6 3)) (Order.ofCode (bitsOf fn 3 3))⟩,
  ⟨0x30, false, false, false, 0, 0x1FFFFF, noBad, fun o _ => .b o⟩,
  ⟨0x31, false, true, true, 7, 0x1FFFFF, fun fn _ => 6 ≤ fn % 8, fun o fn => .bc o (PrCond.ofCode (bitsOf fn 0 3))⟩,
  ⟨0x32, false, false, false, 0, 0x1FFFFF, noBad, fun o _ => .prCall o⟩,
  ⟨0x33, false, true, false, 0, full32, noBad, fun o _ => .jr o⟩]

def promRowsB : List PromRow := [
  ⟨0x40, false, true, false, 0, 0xFFFFF, noBad, fun o _ => .tmpl o⟩,
  ⟨0x41, false, true, false, 0, 0x7F3F, noBad, fun o _ => .fld o⟩,
  ⟨0x42, false, true, false, 0, 0, noBad, fun o _ => .emit o⟩,
  ⟨0x43, false, true, true, 0, 0, noBad, fun o _ => .emitx o⟩,
  ⟨0x44, false, true, false, 0, full32, noBad, fun o _ => .emitb o⟩,
  ⟨0x45, true, false, false, 0, 0, noBad, fun o _ => .seal o⟩,
  ⟨0x46, true, false, false, 0, full32, noBad, fun o _ => .segnew o⟩,
  ⟨0x47, false, true, false, 0, 0, noBad, fun o _ => .segfree o⟩,
  ⟨0x48, false, true, true, 0, 0, noBad, fun o _ => .start o⟩,
  ⟨0x50, true, true, false, 0, 0x1F, fun _ imm => 17 ≤ imm % 32, fun o _ => .prMbr o⟩,
  ⟨0x51, false, true, true, 0, 0x1F, fun _ imm => 16 ≤ imm % 32, fun o _ => .prMbw o⟩,
  ⟨0x52, true, true, false, 0, 0x1F, fun _ imm => 16 ≤ imm % 32, fun o _ => .prMbget o⟩,
  ⟨0x53, false, true, true, 0, 0x1F, fun _ imm => 16 ≤ imm % 32, fun o _ => .prMbput o⟩,
  ⟨0x54, true, false, false, 1, 0, noBad, fun o fn => .waitev o (bitOf fn 0)⟩,
  ⟨0x55, true, false, false, 0, 7, noBad, fun o _ => .evinfo o⟩,
  ⟨0x60, true, true, false, 0, 0, noBad, fun o _ => .accrd o⟩,
  ⟨0x61, false, true, true, 0, 0, noBad, fun o _ => .accwr o⟩,
  ⟨0x62, false, true, false, 0, 0, noBad, fun o _ => .prCuept o⟩,
  ⟨0x63, true, false, false, 0, 0xFFF, fun _ imm => !csrReadable (imm % 4096), fun o _ => .csrr o⟩,
  ⟨0x64, false, true, false, 0, 0xFFF, fun _ imm => !csrWritable (imm % 4096), fun o _ => buildCsrw o⟩,
  ⟨0x65, false, false, false, 0, 0, noBad, fun o _ => .eret o⟩,
  ⟨0x66, false, false, false, 0, 0xFFFF, noBad, fun o _ => .sysc o⟩,
  ⟨0x67, false, false, false, 0, 0, noBad, fun o _ => .prYield o⟩]

/-- GCTL uses b for REDIRECT and FLAGS only (R342). -/
def gctlRow (fn : Nat) : PromRow :=
  ⟨0x56, true, true, fn % 2 == 1, 3, 0, noBad, fun o f => match bitsOf f 0 2 with
    | 0 => .gctlResume o
    | 1 => .gctlRedirect o
    | 2 => .gctlKill o
    | _ => .gctlFlags o⟩

/-- The row of a prompter word; none where the code is reserved (R217). -/
def promRow (op fn : Nat) : Option PromRow :=
  if op == 0x56 then some (gctlRow fn) else (promRowsA ++ promRowsB).find? (fun r => r.op == op)

/-- Details 2 and 3 of R328, the first that fails, of a prompter word whose op is assigned: where an entry uses fn, a value of it
with a bit that the entry gives no meaning is one that it does not define; fn of an entry that does not use it is an unused
field. -/
def PromRow.check (r : PromRow) (f : PromW) : Option Nat :=
  let undefined : Bool := r.fnBits != 0 && (f.fn ||| r.fnBits) != r.fnBits
  if r.bad f.fn f.o.imm || undefined then some 2
  else if (!r.d && f.o.d != 0) || (!r.a && f.o.a != 0) || (!r.b && f.o.b != 0)
    || (f.fn ||| r.fnBits) != r.fnBits || (f.o.imm ||| r.immBits) != r.immBits then some 3
  else none

/-- Decode a prompter word: the instruction, or the first failing detail 1 to 3 of R328. -/
def decodePromW (f : PromW) : Except Nat Instr :=
  match promRow f.op f.fn with
  | none => .error 1
  | some r =>
    match r.check f with
    | some e => .error e
    | none => .ok (r.build f.o f.fn)

/-- Decode a prompter word of 64 bits. -/
def decodePrompter (w : Nat) : Except Nat Instr := decodePromW (PromW.ofNat w)

/-! ### The encoder, from the same tables -/

/-- The fields of a full-form instruction's word (R209 and the entries' encoding notes). -/
def Instr.full : Instr → Option FullW
  | .add o ty sat => some ⟨0x0, o, ty.code * 1024 + sat.toNat⟩
  | .sub o ty sat => some ⟨0x1, o, ty.code * 1024 + sat.toNat⟩
  | .mul o ty => some ⟨0x2, o, ty.code * 1024⟩
  | .mulh o ty => some ⟨0x3, o, ty.code * 1024⟩
  | .mad o ty => some ⟨0x4, o, ty.code * 1024⟩
  | .abs o ty sat => some ⟨0x5, o, ty.code * 1024 + sat.toNat⟩
  | .min o ty => some ⟨0x6, o, ty.code * 1024⟩
  | .max o ty => some ⟨0x7, o, ty.code * 1024⟩
  | .and o ty => some ⟨0x8, o, ty.code * 1024⟩
  | .or o ty => some ⟨0x9, o, ty.code * 1024⟩
  | .xor o ty => some ⟨0xa, o, ty.code * 1024⟩
  | .andn o ty => some ⟨0xb, o, ty.code * 1024⟩
  | .shl o ty => some ⟨0xc, o, ty.code * 1024⟩
  | .shr o ty => some ⟨0xd, o, ty.code * 1024⟩
  | .sra o ty => some ⟨0xe, o, ty.code * 1024⟩
  | .rot o ty => some ⟨0xf, o, ty.code * 1024⟩
  | .popc o ty => some ⟨0x10, o, ty.code * 1024⟩
  | .clz o ty => some ⟨0x11, o, ty.code * 1024⟩
  | .ctz o ty => some ⟨0x12, o, ty.code * 1024⟩
  | .brev o ty => some ⟨0x13, o, ty.code * 1024⟩
  | .bfx o ty sgn => some ⟨0x14, o, ty.code * 1024 + sgn.toNat⟩
  | .bfi o ty => some ⟨0x15, o, ty.code * 1024⟩
  | .sel o ty => some ⟨0x16, o, ty.code * 1024⟩
  | .cmp o ty cond v => some ⟨0x17, o, ty.code * 1024 + v.toNat * 8 + cond.code⟩
  | .lea o ty => some ⟨0x18, o, ty.code * 1024⟩
  | .mov o ty => some ⟨0x19, o, ty.code * 1024⟩
  | .mand o => some ⟨0x20, o, 0⟩
  | .mor o => some ⟨0x21, o, 0⟩
  | .mxor o => some ⟨0x22, o, 0⟩
  | .mandn o => some ⟨0x23, o, 0⟩
  | .mpop o => some ⟨0x24, o, 0⟩
  | .mfirst o => some ⟨0x25, o, 0⟩
  | .vtom o => some ⟨0x26, o, 0⟩
  | .vtomW o => some ⟨0x26, o, 1⟩
  | .mtov o => some ⟨0x27, o, 0⟩
  | .mtovW o => some ⟨0x27, o, 1⟩
  | .shfl o ty imm m => some ⟨0x40, o, ty.code * 1024 + imm.toNat * 4 + m.code⟩
  | .vote o m => some ⟨0x41, o, m.code⟩
  | .bcast o ty imm first => some ⟨0x42, o, ty.code * 1024 + first.toNat * 8 + imm.toNat * 4⟩
  | .lkbrk o m => some ⟨0x43, o, m.code⟩
  | .lktail o ty => some ⟨0x44, o, ty.code * 1024⟩
  | .join o => some ⟨0x48, o, 0⟩
  | .calli o => some ⟨0x49, o, 0⟩
  | .calliM o unit => some ⟨0x49, o, unit * 4096 + 1⟩
  | .ret o => some ⟨0x4A, o, 0⟩
  | .exit o => some ⟨0x4B, o, 0⟩
  | .nop o => some ⟨0x4C, o, 0⟩
  | .yield o => some ⟨0xBD, o, 0⟩
  | .cuept o => some ⟨0xBC, o, 0⟩
  | .trap o code => some ⟨0xBA, o, code⟩
  | .bkpt o code => some ⟨0xBB, o, code⟩
  | .bind o code => some ⟨0xBE, o, code⟩
  | .srd o num => some ⟨0xB8, o, num⟩
  | .swr o num => some ⟨0xB9, o, num⟩
  | .fadd o rnd => some ⟨0x60, o, 8192 + rnd.code * 256⟩
  | .fsub o rnd => some ⟨0x61, o, 8192 + rnd.code * 256⟩
  | .fmul o rnd => some ⟨0x62, o, 8192 + rnd.code * 256⟩
  | .ffma o rnd => some ⟨0x63, o, 8192 + rnd.code * 256⟩
  | .fmin o => some ⟨0x64, o, 8192⟩
  | .fmax o => some ⟨0x65, o, 8192⟩
  | .fmaxx o ty => some ⟨0x66, o, ty.code * 1024⟩
  | .fminx o ty => some ⟨0x67, o, ty.code * 1024⟩
  | .fcmp o ty cond v => some ⟨0x68, o, ty.code * 1024 + v.toNat * 8 + cond.code⟩
  | .frnd o rnd x => some ⟨0x69, o, 8192 + rnd.code * 256 + x.toNat⟩
  | .frcp o rnd => some ⟨0x6a, o, 8192 + rnd.code * 256⟩
  | .frsq o rnd => some ⟨0x6b, o, 8192 + rnd.code * 256⟩
  | .fsqrt o rnd => some ⟨0x6c, o, 8192 + rnd.code * 256⟩
  | .fexp2 o rnd => some ⟨0x6d, o, 8192 + rnd.code * 256⟩
  | .flog2 o rnd => some ⟨0x6e, o, 8192 + rnd.code * 256⟩
  | .ftanh o rnd => some ⟨0x6f, o, 8192 + rnd.code * 256⟩
  | .fcvt o dt src rnd => some ⟨0x70, o, dt.code * 1024 + rnd.code * 256 + src.code⟩
  | .f2i o dt src rnd => some ⟨0x71, o, dt.code * 1024 + rnd.code * 256 + src.code⟩
  | .i2f o dt src rnd => some ⟨0x72, o, dt.code * 1024 + rnd.code * 256 + src.code⟩
  | .hadd2 o ty rnd => some ⟨0x73, o, ty.code * 1024 + rnd.code * 256⟩
  | .hmul2 o ty rnd => some ⟨0x74, o, ty.code * 1024 + rnd.code * 256⟩
  | .hfma2 o ty rnd => some ⟨0x75, o, ty.code * 1024 + rnd.code * 256⟩
  | .hmax2 o ty => some ⟨0x76, o, ty.code * 1024⟩
  | .pack2 o ty rnd => some ⟨0x77, o, ty.code * 1024 + rnd.code * 256⟩
  | .unpk2 o ty => some ⟨0x78, o, ty.code * 1024⟩
  | .ld o unit ty sc od => some ⟨0x80, o, unit * 4096 + ty.code * 256 + sc.code * 32 + od.code * 4⟩
  | .st o unit ty sc od => some ⟨0x81, o, unit * 4096 + ty.code * 256 + sc.code * 32 + od.code * 4⟩
  | .lds o unit ty sc od fem => some ⟨0x82, o, unit * 4096 + ty.code * 256 + sc.code * 32 + od.code * 4 + fem.code⟩
  | .sts o unit ty sc od fe => some ⟨0x83, o, unit * 4096 + ty.code * 256 + sc.code * 32 + od.code * 4 + fe.toNat⟩
  | .pref o unit => some ⟨0x84, o, unit * 4096⟩
  | .atom o ty sc od sp => some ⟨0x85, o, ty.code * 256 + sc.code * 32 + od.code * 4 + sp.toNat⟩
  | .acas o ty sc od sp => some ⟨0x86, o, ty.code * 256 + sc.code * 32 + od.code * 4 + sp.toNat⟩
  | .abfi o ty sc od sp => some ⟨0x87, o, ty.code * 256 + sc.code * 32 + od.code * 4 + sp.toNat⟩
  | .affcs o sc od sp => some ⟨0x88, o, 1792 + sc.code * 32 + od.code * 4 + sp.toNat⟩
  | .aplset o sc od sp => some ⟨0x89, o, 1792 + sc.code * 32 + od.code * 4 + sp.toNat⟩
  | .red o ty sc od sp ord => some ⟨0x8A, o, ty.code * 256 + sc.code * 32 + od.code * 4 + ord.toNat * 2 + sp.toNat⟩
  | .fence o sc od => some ⟨0x8B, o, sc.code * 32 + od.code * 4⟩
  | .pfence o => some ⟨0x8C, o, 0⟩
  | .feset o unit => some ⟨0x8D, o, unit * 4096⟩
  | .feclr o unit => some ⟨0x8D, o, unit * 4096 + 1⟩
  | .plook o => some ⟨0x8e, o, 0⟩
  | .pins o => some ⟨0x8f, o, 0⟩
  | .pinv o => some ⟨0x90, o, 0⟩
  | .ejoin o => some ⟨0x91, o, 0⟩
  | .eleave o => some ⟨0x92, o, 0⟩
  | .mbget o => some ⟨0x93, o, 0⟩
  | .mbput o => some ⟨0x93, o, 1⟩
  | .mbr o => some ⟨0x93, o, 2⟩
  | .mbw o => some ⟨0x93, o, 3⟩
  | .rput o => some ⟨0x94, o, 0⟩
  | .waita o => some ⟨0x95, o, 0⟩
  | .binit o unit mode => some ⟨0x96, o, unit * 4096 + mode.toNat⟩
  | .arrive o unit => some ⟨0x97, o, unit * 4096⟩
  | .bwait o unit => some ⟨0x98, o, unit * 4096⟩
  | .kick o => some ⟨0x99, o, 0⟩
  | .bclose o => some ⟨0x9a, o, 0⟩
  | .waitb o => some ⟨0x9b, o, 0⟩
  | .rgrow o => some ⟨0x9c, o, 0⟩
  | .rshrink o => some ⟨0x9d, o, 0⟩
  | .dalloc o => some ⟨0x9e, o, 0⟩
  | .mxplane o src bside => some ⟨0xA0, o, bside.toNat * 16 + src.code⟩
  | .mxldb o => some ⟨0xA1, o, 0⟩
  | .mxmul o tile hb => some ⟨0xA2, o, hb.toNat * 32 + tile⟩
  | .mxbat o tile => some ⟨0xA3, o, tile⟩
  | .mxzero o tile => some ⟨0xA4, o, tile⟩
  | .mxdrain o tile ty x => some ⟨0xA5, o, x.toNat * 512 + ty.code * 32 + tile⟩
  | .mxfill o tile ty x => some ⟨0xA6, o, x.toNat * 512 + ty.code * 32 + tile⟩
  | .mxchk o tile clr => some ⟨0xA7, o, clr.toNat * 32 + tile⟩
  | .cvenc o dim => some ⟨0xB0, o, (dim - 1)⟩
  | .cvdec o dim => some ⟨0xB1, o, (dim - 1)⟩
  | .cvadd o dim sat => some ⟨0xB2, o, sat.toNat * 8 + (dim - 1)⟩
  | .cvcmp o dim cond v => some ⟨0xB3, o, v.toNat * 64 + cond.code * 8 + (dim - 1)⟩
  | .cvnext o dim => some ⟨0xB4, o, (dim - 1)⟩
  | .cvsplit o dim n sp => some ⟨0xB5, o, sp.toNat * 512 + (n - 1) * 8 + (dim - 1)⟩
  | .cvlvl o dim => some ⟨0xB6, o, (dim - 1)⟩
  | _ => none

/-- The fields of an I-form instruction's word (R210). -/
def Instr.immW : Instr → Option ImmW
  | .ldi o => some ⟨0xc0, o⟩
  | .ldih o => some ⟨0xc1, o⟩
  | .addI o => some ⟨0xc2, o⟩
  | .mulI o => some ⟨0xc3, o⟩
  | .andI o => some ⟨0xc4, o⟩
  | .orI o => some ⟨0xc5, o⟩
  | .xorI o => some ⟨0xc6, o⟩
  | .shlI o => some ⟨0xc7, o⟩
  | .shrI o => some ⟨0xc8, o⟩
  | .sraI o => some ⟨0xc9, o⟩
  | .minI o => some ⟨0xca, o⟩
  | .maxI o => some ⟨0xcb, o⟩
  | .bra o => some ⟨0xd0, o⟩
  | .brx o => some ⟨0xd1, o⟩
  | .call o => some ⟨0xd2, o⟩
  | _ => none

/-- The operation and fields of the first half of a pair word, and its second half (R211). -/
def Instr.pairW : Instr → Option (PairOp × HalfOps × PairHalf)
  | .pairAdd h snd => some (.add, h, snd)
  | .pairSub h snd => some (.sub, h, snd)
  | .pairMul h snd => some (.mul, h, snd)
  | .pairMin h snd => some (.min, h, snd)
  | .pairMax h snd => some (.max, h, snd)
  | .pairAnd h snd => some (.and, h, snd)
  | .pairOr h snd => some (.or, h, snd)
  | .pairXor h snd => some (.xor, h, snd)
  | .pairAndn h snd => some (.andn, h, snd)
  | .pairShl h snd => some (.shl, h, snd)
  | .pairShr h snd => some (.shr, h, snd)
  | .pairSra h snd => some (.sra, h, snd)
  | .pairRot h snd => some (.rot, h, snd)
  | .pairMov h snd => some (.mov, h, snd)
  | .pairFadd h snd => some (.fadd, h, snd)
  | .pairFsub h snd => some (.fsub, h, snd)
  | .pairFmul h snd => some (.fmul, h, snd)
  | .pairFmin h snd => some (.fmin, h, snd)
  | .pairFmax h snd => some (.fmax, h, snd)
  | .pairHadd2 h snd => some (.hadd2, h, snd)
  | .pairHmul2 h snd => some (.hmul2, h, snd)
  | .pairHmax2 h snd => some (.hmax2, h, snd)
  | _ => none

/-- The fields of a prompter instruction's word (R327). -/
def Instr.promW : Instr → Option PromW
  | .prNop o => some ⟨0x00, o, 0⟩
  | .prAdd o => some ⟨0x01, o, 0⟩
  | .prAddi o => some ⟨0x02, o, 0⟩
  | .prSub o => some ⟨0x03, o, 0⟩
  | .prMul o => some ⟨0x04, o, 0⟩
  | .prMulh o uns => some ⟨0x05, o, uns.toNat⟩
  | .div o uns => some ⟨0x06, o, uns.toNat⟩
  | .rem o uns => some ⟨0x07, o, uns.toNat⟩
  | .prAnd o => some ⟨0x8, o, 0⟩
  | .prOr o => some ⟨0x9, o, 0⟩
  | .prXor o => some ⟨0xa, o, 0⟩
  | .prShl o => some ⟨0xb, o, 0⟩
  | .prShr o => some ⟨0xc, o, 0⟩
  | .prSra o => some ⟨0xd, o, 0⟩
  | .slt o => some ⟨0xe, o, 0⟩
  | .sltn o => some ⟨0xf, o, 0⟩
  | .li o => some ⟨0x10, o, 0⟩
  | .lih o => some ⟨0x11, o, 0⟩
  | .prLd o m => some ⟨0x20, o, m.scope.code * 64 + m.order.code * 8 + m.ty.code⟩
  | .prSt o m => some ⟨0x21, o, m.scope.code * 64 + m.order.code * 8 + m.ty.code⟩
  | .prLds o m => some ⟨0x22, o, m.scope.code * 64 + m.order.code * 8 + m.ty.code⟩
  | .prSts o m => some ⟨0x23, o, m.scope.code * 64 + m.order.code * 8 + m.ty.code⟩
  | .prAtom o m => some ⟨0x24, o, m.scope.code * 64 + m.order.code * 8 + m.ty.code⟩
  | .prFence o sc od => some ⟨0x25, o, sc.code * 64 + od.code * 8⟩
  | .b o => some ⟨0x30, o, 0⟩
  | .bc o cond => some ⟨0x31, o, cond.code⟩
  | .prCall o => some ⟨0x32, o, 0⟩
  | .jr o => some ⟨0x33, o, 0⟩
  | .tmpl o => some ⟨0x40, o, 0⟩
  | .fld o => some ⟨0x41, o, 0⟩
  | .emit o => some ⟨0x42, o, 0⟩
  | .emitx o => some ⟨0x43, o, 0⟩
  | .emitb o => some ⟨0x44, o, 0⟩
  | .seal o => some ⟨0x45, o, 0⟩
  | .segnew o => some ⟨0x46, o, 0⟩
  | .segfree o => some ⟨0x47, o, 0⟩
  | .start o => some ⟨0x48, o, 0⟩
  | .prMbr o => some ⟨0x50, o, 0⟩
  | .prMbw o => some ⟨0x51, o, 0⟩
  | .prMbget o => some ⟨0x52, o, 0⟩
  | .prMbput o => some ⟨0x53, o, 0⟩
  | .waitev o nb => some ⟨0x54, o, nb.toNat⟩
  | .evinfo o => some ⟨0x55, o, 0⟩
  | .gctlResume o => some ⟨0x56, o, 0⟩
  | .gctlRedirect o => some ⟨0x56, o, 1⟩
  | .gctlKill o => some ⟨0x56, o, 2⟩
  | .gctlFlags o => some ⟨0x56, o, 3⟩
  | .accrd o => some ⟨0x60, o, 0⟩
  | .accwr o => some ⟨0x61, o, 0⟩
  | .prCuept o => some ⟨0x62, o, 0⟩
  | .csrr o => some ⟨0x63, o, 0⟩
  | .csrw o => some ⟨0x64, o, 0⟩
  | .sysresume o => some ⟨0x64, o, 0⟩
  | .dhalt o => some ⟨0x64, o, 0⟩
  | .drelease o => some ⟨0x64, o, 0⟩
  | .tlbinv o => some ⟨0x64, o, 0⟩
  | .lkill o => some ⟨0x64, o, 0⟩
  | .eret o => some ⟨0x65, o, 0⟩
  | .sysc o => some ⟨0x66, o, 0⟩
  | .prYield o => some ⟨0x67, o, 0⟩
  | _ => none

/-- The word of a lane instruction; none for one that has no lane word. -/
def encodeLane (i : Instr) : Option Nat :=
  match i.full with
  | some f => some f.toNat
  | none =>
    match i.immW with
    | some f => some f.toNat
    | none =>
      match i.pairW with
      | some (x, f, g) => some (pairToNat ⟨x.code, f⟩ ⟨g.op.code, g.h⟩)
      | none => none

/-- The word of a prompter instruction; none for one that has no prompter word. -/
def encodePrompter (i : Instr) : Option Nat := i.promW.map PromW.toNat

/-- The word of an instruction: its lane word, or its prompter word; none for an event, which has no word. -/
def encode (i : Instr) : Option Nat :=
  match encodeLane i with
  | some w => some w
  | none => encodePrompter i

/-! ### Bytes, and the host's question -/

/-- The bytes of a word, the lowest address first (R6). -/
def wordBytes : Nat → Nat → List Byte
  | 0, _ => []
  | n + 1, w => BitVec.ofNat 8 w :: wordBytes n (w / 256)

/-- The number little-endian bytes hold (R6). -/
def bytesWord : List Byte → Nat
  | [] => 0
  | b :: r => b.toNat + 256 * bytesWord r

/-- The first 8 bytes as a lane instruction, with the bytes after it; a refusal by name where they are no lane word. -/
def decodeBytes (bs : List Byte) : Except (Option Reason) (Instr × List Byte) :=
  if bs.length < 8 then .error none
  else match decodeLane (bytesWord (bs.take 8)) with
    | .ok i => .ok (i, bs.drop 8)
    | .error e => .error (some e)

/-- The instruction the decoder reads from a word of the opcode table. The table gives no row bits; a number of at most
64 bits is read as a lane word, and one whose bits 64 and up hold 1 as a prompter word (the model's own numbering). -/
def decodeTableWord (nbits w : Nat) : Option Instr :=
  if nbits ≤ 64 then
    match decodeBytes (wordBytes 8 (w % 2 ^ nbits)) with
    | .ok (i, _) => some i
    | .error _ => none
  else if w / 2 ^ 64 % 2 ^ (nbits - 64) == 1 then
    match decodePrompter (w % 2 ^ 64) with
    | .ok i => some i
    | .error _ => none
  else none

end Sys2Proof
end

