-- ==== Sys2Proof/Machine/State.lean ====
section
/-! DEFINITION. The state of the machine: every piece of state the spec gives the KMX-144, as plain data, with the
faults and refusals of a step and the state right after reset. -/

namespace Sys2Proof.Machine

/-- A sparse table: pairs of a key and a value, keys strictly rising. -/
abbrev Sp (α : Type) := List (Nat × α)

/-- A memory: address and byte, addresses strictly rising, no entry equal to 0, which an unlisted byte reads as. -/
abbrev Memory := List Host.Cell

/-- A vector clock of the model's happens-before (R126): for each agent, how many of its operations happen before. -/
abbrev Clock := Sp Nat

/-- Why a step stops the machine. -/
inductive Fault where
  /-- Raised by a lane or prompter meaning when the current agent is no group slot or context that is resident.
  `step` never runs a word without one. Safe: the hardware has no such step. -/
  | noIssuer
  /-- Raised by `step` when a script store holds, at a sealed address, a word that the check of R60 refuses. Emission
  stores no such word. Safe: the hardware has no such step. -/
  | badWord
deriving DecidableEq, Repr

/-- Why the model gives an instruction no meaning. -/
inductive Refusal where
  /-- Raised by `exec` for an instruction that is not modelled. Safe: nothing about it can be proved. -/
  | notModelled (mnemonic : String)
deriving DecidableEq, Repr

/-- A record of a lane event or of the system context (R75, R348, R407): five words. -/
structure Rec where
  w0 : DWord := 0
  w1 : DWord := 0
  w2 : DWord := 0
  w3 : DWord := 0
  w4 : DWord := 0
deriving DecidableEq, Repr

/-- A call record (R244). -/
structure CallRec where
  ret : BitVec 20
  split : Bool
  base : Nat
deriving DecidableEq, Repr

/-- Where an agent of the memory model stands (R119, R123): the names of its group or context and of its team, its
cluster, its launch, and whether it is the host. -/
structure Standing where
  uid : Nat := 0
  team : Option Nat := none
  tuid : Nat := 0
  ck : Option Nat := none
  launch : Option Nat := none
  ctx : Option Nat := none
  host : Bool := false
deriving DecidableEq, Repr

/-- The access paths of R120. -/
inductive Path where
  | lane | copy | matrix | gather | coll
deriving DecidableEq, Repr

/-- What a program-counter slot waits for (R22, R46, R247, R251). -/
inductive Wait where
  | run
  | atJoin
  | atRet (base : Nat)
  | atCue (n : Nat)
  | teamCue (n : Nat)
  | reply
  | memOrder
  | mailbox
  | mailBlocked
  | fullEmpty
  | barrier
  | kick
  | handOn
  | arrivals
  | grow
  | engine
  | batch
  | path (p : Path)
  | segment (seg : Nat)
  | walk
  | leave
deriving DecidableEq, Repr

/-- A program-counter slot (R44, R244). -/
structure Slot where
  pc : BitVec 20 := 0
  mask : DWord := 0
  tag : Nat := 0
  outer : Nat := 0
  calls : List CallRec := []
  rebind : Option (Bool × Nat) := none
  wait : Wait := .run
  /-- the slice cycle in which its instruction became the slot's next (R24) -/
  age : Nat := 0
  /-- the slot fell through offset 4,095 of a segment: its next fetch is out of range (R64) -/
  past : Bool := false
  /-- where a wait for full granules, a barrier phase or registers stands among such waits, and what it waits on -/
  waitAt : Nat := 0
  wants : List Nat := []
deriving DecidableEq, Repr

/-- An entry of the reconvergence stack (R45, R46). -/
structure StackEntry where
  tag : Nat
  outer : Nat
  defPc : BitVec 20
  defMask : DWord
  defCalls : List CallRec
  defRun : Bool := false
  arrPc : BitVec 20 := 0
  arrMask : DWord := 0
  arrCalls : List CallRec := []
  arrBase : Option Nat := none
deriving DecidableEq, Repr

/-- What is in the way of a group (R23, R405): running, or halted with the place to resume at. -/
inductive RunState where
  | active
  | halted
  | exited
deriving DecidableEq, Repr

/-- A result still in its latency class (R27, R29): the register, mask (256 + n) or latch (272 + n) it writes. One that is
`every` is usable in every lane at once, cls cycles after t0 (R49, R235). -/
structure Producer where
  res : Nat
  t0 : Nat
  cls : Nat
  linked : Bool
  every : Bool := false
deriving DecidableEq, Repr

/-- A linked chain in flight whose hand-on entry or tail is not yet filled (R35, R38). -/
structure Chain where
  endCycle : Nat
  carry : DWord
  restart : Bool
  last : Bool
  discard : Bool
deriving DecidableEq, Repr

/-- A batch of requests (R109): the requests of it that are not yet delivered, and whether it ever held one. -/
structure Batch where
  open_ : List Nat := []
  any : Bool := false
deriving DecidableEq, Repr

/-- What a held B records of its operand (R309). -/
structure BForm where
  k : Nat
  kind : Nat
  planes : Nat
  blen : Nat
  bsp : Bool
deriving DecidableEq, Repr

/-- The held B of a group (R309): its columns with the bytes of them that were poisoned, its scale entries. -/
structure HeldB where
  form : BForm
  cols : List (Nat × List Nat)
  scales : List (Option Int)
deriving DecidableEq, Repr

/-- A resident lane group: its place (R16), registers (R19, R21), masks (R232), latches (R203), flags (R150),
slots, stack (R44, R45), and the group control state of R417. -/
structure Group where
  /-- the model's name of this resident group, never used again -/
  uid : Nat
  launch : Nat
  team : Nat
  index : Nat
  part : Nat
  cluster : Nat
  slice : Nat
  gslot : Nat
  half : Nat
  width : Nat
  extent : Nat
  /-- regs, the per-lane allocation (R19) -/
  nregs : Nat
  /-- v registers, key register · 64 + lane; an unlisted one holds 0 -/
  regs : Sp Word := []
  /-- m1–m15, key the number -/
  masks : Sp DWord := []
  /-- L0–L3 of each lane, key latch · 64 + lane; a listed one is valid (R204) -/
  latches : Sp DWord := []
  /-- fpflags of each lane (R150) -/
  fpflags : Sp Word := []
  lbm : DWord := 0
  deadMask : DWord := 0
  deadRead : Bool := false
  arrivals : Word := 0
  cue : Word := 0
  slotA : Slot := {}
  slotB : Slot := {}
  stack : List StackEntry := []
  nextTag : Nat := 1
  started : Bool := false
  run : RunState := .active
  onStage : Bool := false
  /-- it leaves the stage when its lane steps in flight are finished (R23, R254) -/
  yielding : Bool := false
  parked : Bool := true
  readyAge : Nat := 0
  parkedAt : Nat := 0
  eligAt : Nat := 0
  evHold : Bool := false
  dbgHold : Bool := false
  dbgPend : Bool := false
  trHold : Bool := false
  /-- the record of a stop that is posted when older instructions are done and the queue has room (R403, R76) -/
  stop : Option Rec := none
  posted : Bool := false
  assist : Bool := false
  /-- the outer tag of each tag drawn (R45, R46) -/
  outerOf : Sp Nat := []
  prods : List Producer := []
  /-- the first slice cycle in which no lane step of what it has issued is left (R23, R254) -/
  stepsEnd : Nat := 0
  openBatch : Batch := {}
  batches : List Batch := []
  /-- the held B (R309): of the last MXLDB that was issued, and as the engine has it; another group of the slice has taken the
  buffer, and it lies in its spill slot (R415) -/
  heldFor : Option BForm := none
  heldB : Option HeldB := none
  heldSpilled : Bool := false
  heapUsed : Sp Nat := []
  ordUsed : List (Nat × Nat × Nat) := []
  evicted : Bool := false
  evictedAt : Nat := 0
  cutStop : Bool := false
  issued : Nat := 0
  compared : Nat := 0
  /-- the lane events it has raised (R183) -/
  events : Nat := 0
  /-- registers that hold an injected uncorrectable error (R453), key register · 64 + lane -/
  latent : List Nat := []
  /-- happens-before: this group's clock, its releases, the clock its last release fence publishes, the clocks its
  relaxed atomic reads met, and the clocks of arrivals not yet waited for (R124–R126) -/
  clk : Clock := []
  rels : Nat := 0
  relFence : List (Scope × Clock) := []
  /-- the last operation before its last release fence: later atomic writes wait for it and all before it (R285) -/
  relAt : Nat := 0
  /-- a fence that acquires and waits for earlier atomic reads, with sc for every earlier access: later memory words are held
  (R285) -/
  fence : Option (Scope × Order) := none
  acqPend : List (Scope × Standing × Clock) := []
  arrClk : List (Nat × Clock) := []
  /-- what the order of sc operations puts before its next word, for what its reads see (R133) -/
  scClk : Clock := []
deriving DecidableEq, Repr

/-- A mailbox (R72), with the clock its last writer published. -/
structure Mailbox where
  value : DWord := 0
  full : Bool := false
  clk : Clock := []
deriving DecidableEq, Repr

/-- The mailbox operations (R72). -/
inductive MbOp where
  | get | put | read | write
deriving DecidableEq, Repr

/-- A mailbox operation that awaits arbitration (R73). `order` is its place: slice and group index, the prompter last. -/
structure MbReq where
  agent : Agent
  slot : Bool := false
  order : Nat
  op : MbOp
  mb : Nat
  value : DWord := 0
  d : Nat := 0
  lanes : DWord := 0
  tail : Bool := false
  clk : Clock := []
deriving DecidableEq, Repr

/-- An entry of a hand-on queue (R38): reserved until filled, and usable from a cycle of the consumer's slice on (R42). -/
structure HandOn where
  filled : Bool := false
  usable : Nat := 0
  value : DWord := 0
  restart : Bool := true
deriving DecidableEq, Repr

/-- Which copy of a team this is (R179). -/
inductive Copy where
  | sole
  | lead (partner : Nat)
  | standIn (partner : Nat)
deriving DecidableEq, Repr

/-- A team's allocation on a cluster (R86). -/
structure Alloc where
  base : Nat := 0
  size : Nat := 256
  declared : Nat := 0
deriving DecidableEq, Repr

/-- An error of the matrix engine in its next block step on a tile (R187): in the partial of a row and a column, or in the
checksum of the one that is named; `step` counts the block steps that come before it; `again` says that a recomputed step has it
too. -/
structure Flaw where
  step : Nat := 0
  row : Option Nat
  col : Option Nat
  delta : Int
  again : Bool
deriving DecidableEq, Repr

/-- An accumulator tile (R100, R164, R188): images of the elements that are not +0, the two counts, and errors to come in the
partials of its next block steps. -/
structure Tile where
  elems : Sp (BitVec 34) := []
  corr : Nat := 0
  uncorr : Nat := 0
  flaws : List Flaw := []
deriving DecidableEq, Repr

/-- A resident team. -/
structure Team where
  uid : Nat
  launch : Nat
  part : Nat
  cluster : Nat
  handle : Nat
  pair : Bool
  /-- the key of the generator context that serves the team -/
  ctx : Nat
  x : Nat
  y : Nat
  z : Nat
  q : Nat
  ngroups : Nat
  width : Nat
  tiles : Nat
  alloc : Alloc := {}
  allocHi : Alloc := {}
  mailboxes : Sp Mailbox := []
  requests : List MbReq := []
  tail : DWord := 0
  /-- the queue into group g + 1, under key g -/
  handOn : Sp (List HandOn) := []
  /-- linked chains in flight, by group index (R35, R38) -/
  chains : Sp (List Chain) := []
  /-- tiles of the lower cluster 0–31, of the upper 32–63 -/
  accTiles : Sp Tile := []
  bars0 : List Nat := []
  bars1 : List Nat := []
  ensemble : Option (Nat × Nat) := none
  /-- the ensemble and slot that it has left (R99) -/
  left : Option (Nat × Nat) := none
  started : Bool := false
  /-- groups (by index) that have exited -/
  gone : List Nat := []
  exited : Bool := false
  /-- lanes of it that have died -/
  dead : Nat := 0
  copy : Copy := .sole
deriving DecidableEq, Repr

/-- An ensemble of a launch (R97): member index to team, and members that were revoked (R99). -/
structure Ensemble where
  launch : Nat
  e : Nat
  members : Sp Nat := []
  /-- the EJOIN of each member: its group's uid and operation count (R98) -/
  joined : Sp (Nat × Nat) := []
  revoked : List Nat := []
deriving DecidableEq, Repr

/-- A word of the emit queue (R61): where it goes, and its provenance (R68). -/
structure EmitWord where
  seg : Nat
  off : Nat
  word : DWord
  prov : BitVec 32
deriving DecidableEq, Repr

/-- The state of a segment (R64). -/
inductive SegState where
  | open_ | sealed | retiring
deriving DecidableEq, Repr

/-- A segment of a kernel's script store (R64, R65): a free one is not listed. -/
structure Segment where
  state : SegState
  cap : Nat
  len : Nat := 0
  chunks : List Nat := []
  /-- teams to start at SEAL, with their start address (R69, R70) -/
  starts : List (Nat × BitVec 20) := []
  sealing : Bool := false
  /-- what happens before the fetch of a word of it: its SEAL, at the time of it (R125) -/
  clk : Clock := []
deriving DecidableEq, Repr

/-- What a prompter context waits for (R57, R63, R329, R331, R345, R349). -/
inductive CtxWait where
  | run
  | event
  | mailbox
  | seal
  | stall
  | sysc
  | yield
  | walk
  | reply
  | engine
  /-- a stalled composing instruction has given up the composition unit (R63) -/
  | chunk
deriving DecidableEq, Repr

/-- A prompter context (R56). -/
structure Ctx where
  part : Nat
  cluster : Nat
  num : Nat
  uid : Nat := 0
  launch : Nat := 0
  /-- g1–g31; an unlisted one holds 0 -/
  regs : Sp DWord := []
  pc : BitVec 20 := 0
  evmask : DWord := 0
  cue : Word := 0
  epc : DWord := 0
  ecause : DWord := 0
  evec : DWord := 0
  escratch : DWord := 0
  image : DWord := 0
  /-- the image copy (R326), words by index, and its length -/
  words : Sp DWord := []
  imageLen : Nat := 0
  comp : DWord := 0
  /-- holes: position, width, filled -/
  holes : List (Nat × Nat × Bool) := []
  emitQ : List EmitWord := []
  segs : Sp Segment := []
  openSeg : Option Nat := none
  nextOff : Nat := 0
  epoch : Nat := 0
  quota : Nat := 0
  chunks : Nat := 0
  /-- the kernel's words of the script store, key segment · 4096 + offset, each with its provenance -/
  store : Sp (DWord × BitVec 32) := []
  stalled : Bool := false
  /-- words of an EMITB that are queued already (R61) -/
  emitted : Nat := 0
  events : List (Rec × Clock × Nat) := []
  /-- TEAM_ARRIVED records that found the queue full (R76) -/
  arrivals : List (Rec × Clock × Nat) := []
  current : Option Rec := none
  inService : List Nat := []
  inHandler : Bool := false
  wait : CtxWait := .run
  /-- the register a reply goes to, with its type (R331, R333) -/
  replyReg : Option Nat := none
  mirror : Bool := false
  active : Bool := false
  /-- a team that is no stand-in has been placed with it (R179) -/
  led : Bool := false
  energy : Nat := 0
  instrs : Nat := 0
  laneSteps : Nat := 0
  mxCycles : Nat := 0
  issuedCue : Bool := false
  cutStop : Bool := false
  clk : Clock := []
  relFence : List (Scope × Clock) := []
  acqPend : List (Scope × Standing × Clock) := []
  scClk : Clock := []
deriving DecidableEq, Repr

/-- A props-table entry that is valid (R93). -/
structure Prop_ where
  ctx : Nat
  key : DWord
  payload : Word
deriving DecidableEq, Repr

/-- A translation held by a TLB (R421). -/
structure TlbEntry where
  part : Nat
  page : Nat
  bits : Nat
  frame : Nat
  w : Bool
  nochk : Bool
  far : Bool
deriving DecidableEq, Repr

/-- A request taken by the request engine (R102, R105, R106) that is not yet finished. -/
structure Request where
  id : Nat
  group : Nat
  team : Nat
  launch : Nat
  part : Nat
  cluster : Nat
  words : List DWord
  at_ : Nat
  /-- the runs of its bytes that are delivered: first byte and length -/
  delivered : List (Nat × Nat) := []
  standIn : Bool := false
  waiting : Bool := false
  /-- of a lead's request: the stand-in's request that finishes with it (R181) -/
  twin : Option Nat := none
  clk : Clock := []
deriving DecidableEq, Repr

/-- The matrix instructions as the engine's queue holds them (R303, R307). -/
inductive MxOp where
  | plane (src : Ty) (bside : Bool)
  | ldb
  | mul (tile : Nat) (hb : Bool)
  | bat (tile : Nat)
  | zero (tile : Nat)
  | drain (tile : Nat) (ty : Ty) (x : Bool)
  | fill (tile : Nat) (ty : Ty) (x : Bool)
  | chk (tile : Nat) (clr : Bool)
  | accrd (tile row col : Nat)
  | accwr (tile row col : Nat) (image : DWord)
deriving DecidableEq, Repr

/-- A writing lane's operands of a matrix instruction: its address, its second operand, and the place of its row. -/
structure MxRow where
  lane : Nat
  addr : Nat
  second : Nat := 0
  ck : Nat := 0
  off : Nat := 0
deriving DecidableEq, Repr

/-- A queued matrix instruction with the operands it took at issue (R302). -/
structure MxReq where
  id : Nat
  op : MxOp
  agent : Agent
  uid : Nat := 0
  launch : Nat := 0
  team : Nat
  part : Nat := 0
  cluster : Nat := 0
  /-- the tiles are those of a PAIR team's upper cluster, the group is of width 64 -/
  upper : Bool := false
  wide : Bool := false
  slot : Bool := false
  pc : BitVec 20 := 0
  rec_ : Nat := 0
  rows : List MxRow := []
  base : Nat := 0
  stride : Nat := 0
  d : Nat := 0
  /-- the logged result that MXCHK returns in replay (R185) -/
  logged : Option QWord := none
  time : Nat := 0
  rels : Nat := 0
  clk : Clock := []
deriving DecidableEq, Repr

/-- A cluster as its partition sees it (R9, R190). -/
structure Cluster where
  /-- the 1 MB scratchpad (R85) -/
  spad : Memory := []
  /-- granules whose full bit is set (R91), and granules that are poisoned (R90) -/
  full : Sp Clock := []
  poison : List Nat := []
  /-- the clocks of each barrier word: this phase's arrivals, and the last completed phase -/
  barClk : Sp (Clock × Clock) := []
  props : Sp Prop_ := []
  propsClk : Clock := []
  reqQ : List Request := []
  work : List Request := []
  mxQ : List MxReq := []
  mxHeld : List MxReq := []
  /-- the held B of a group that has exited before its last matrix instructions are performed -/
  heldGone : Sp HeldB := []
  copyCount : Nat := 0
  copyTeam : Nat := 0
  copyAddr : Nat := 0
  /-- PSTAT (R394): the six ratios n − 1, the limit; a limit asked for while pinned -/
  ratio : BitVec 18 := 0x3FFFF
  limit : Nat := 192
  limitWant : Option Nat := none
  clock : DWord := 0
  /-- slice cycles, and the group slot that last won a tie (R24) -/
  cycle : Sp Nat := []
  tie : Sp Nat := []
  /-- linked chains on a slice's chain path, and issue cycles held for a second pass (R30) -/
  paths : List (Nat × Nat × Nat × Nat) := []
  holds : List (Nat × Nat) := []
  /-- issue cycles in which an unlinked word of a slice's upper half would start a physical lane that is taken (R30) -/
  halfHolds : List (Nat × Nat) := []
  lastCtx : Nat := 0
  compHolder : Option Nat := none
  storeTurn : Nat := 0
  tlb : List TlbEntry := []
  /-- TLB invalidations in progress: what was written to tlbinv, and the last operation issued before -/
  tlbBusy : List (DWord × Nat) := []
  frozen : Bool := false
  tableauRead : Bool := false
  /-- reset by the house controller: it rejoins at its partition's next swap (R441) -/
  rejoin : Bool := false
deriving DecidableEq, Repr

/-- What an access in flight does at its home (R276, R280–R284, R287, R293–R295, R324). -/
inductive AccKind where
  | load (ty : Ty)
  | store (size : Nat)
  | ldsFe (ty : Ty) (clear : Bool)
  | stsFe (size : Nat)
  | atom (op : Nat) (ty : Ty)
  | cas (ty : Ty)
  | bfi (ty : Ty)
  | ffcs
  | plset
  | red (op : Nat) (ty : Ty)
  | feset
  | feclr
  | binit (mode : Bool)
  | arrive (lanes : DWord)
  | bwait
  | target
  | props (op : Nat)
deriving DecidableEq, Repr

/-- Where an access goes: device memory by physical address, or a scratchpad by cluster key and physical offset. -/
inductive Place where
  | dev (phys : Nat)
  | spad (ckey off : Nat)
  | remote (phys : Nat)
  | control (off : Nat)
  | none_
deriving DecidableEq, Repr

/-- One lane's part of an access in flight. -/
structure LaneAcc where
  lane : Nat
  addr : Nat
  place : Place
  size : Nat
  data : QWord := 0
  data2 : QWord := 0
  check : Bool := true
  done : Bool := false
  result : QWord := 0
  poisoned : Bool := false
  write : Bool := true
deriving DecidableEq, Repr

/-- An access in flight (R275): issued, its checks passed, not yet answered or acknowledged. -/
structure MemOp where
  id : Nat
  agent : Agent
  uid : Nat
  launch : Nat
  part : Nat
  cluster : Nat
  team : Nat
  kind : AccKind
  scope : Scope
  order : Order
  atomic : Bool
  slot : Bool := false
  pc : BitVec 20 := 0
  lanes : List LaneAcc
  /-- the destination, with k (R197) -/
  d : Option Nat := none
  performed : Bool := false
  judged : Bool := false
  /-- the stores, atomics or rputs counter it holds (R397) -/
  counter : Nat := 0
  compared : Bool := false
  standIn : Bool := false
  /-- the clocks it publishes when it writes, by the scope of the release -/
  relClk : List (Scope × Clock) := []
  /-- the clocks of the release sequences its reads met, by scope and releasing agent -/
  acq : List (Scope × Standing × Clock) := []
  who : Standing := {}
  /-- the issuer's own operation count and release count at issue (R126, R136), and what happens before it -/
  time : Nat := 0
  clk : Clock := []
  rels : Nat := 0
  /-- an atomic write: operations up to this one are performed first (R277, R285) -/
  after : Nat := 0
  ord : Bool := false
  /-- of a lead's operation: the stand-in's operation that it serves (R181, R186) -/
  twin : Option Nat := none
deriving DecidableEq, Repr

/-- An RPUT on its way (R113). -/
structure Rput where
  id : Nat
  sender : Nat
  launch : Nat
  srcCluster : Nat
  target : Option Nat
  reg : Nat
  values : List (Nat × Word)
  clk : Clock
  /-- the sender's team, and the team whose ensemble slot it goes through (R99) -/
  team : Nat
  via : Option Nat := none
  /-- the compared operation it is, until it is confirmed (R186) -/
  waiting : Bool := false
  standIn : Bool := false
deriving DecidableEq, Repr

/-- An access the race detection remembers (R136): the newest place of X and its group. -/
structure Access where
  uid : Nat
  time : Nat
  rel : Nat
  space : Nat
  addr : Nat
  size : Nat
  write : Bool
  atomic : Bool
  scope : Scope
  who : Standing
  handle : Nat
  cluster : Nat
  group : Nat
deriving DecidableEq, Repr

/-- A write in a release sequence (R124): the location, and what it publishes. -/
structure Published where
  space : Nat
  addr : Nat
  size : Nat
  scope : Scope
  who : Standing
  clk : Clock
deriving DecidableEq, Repr

/-- A byte that a write has changed and that reads which do not come after it need not see yet (R120, R127, R130): what it held
before, where the write begins, the writer's path, name and operation count, its request and the barrier word that counts it down;
whether it is an sc write; the paths on which every read sees it, those on which a read sees it that a crossing happens before (the
agent and operation count of the crossing), and the release sequence that stood at the byte before. -/
structure Late where
  space : Nat
  addr : Nat
  old : Byte
  path : Path
  uid : Nat
  time : Nat
  start : Nat := 0
  sc : Bool := false
  req : Nat := 0
  bar : Nat := 0
  seen : List Path := []
  crossed : List (Path × Nat × Nat) := []
  pub : List (Scope × Standing × Clock) := []
deriving DecidableEq, Repr

/-- How a byte is read (R127, R130): the path, what happens before the read, and whether it is an sc read (R133). -/
structure Reader where
  path : Path
  clk : Clock := []
  sc : Bool := false
deriving DecidableEq, Repr

/-- A walk that is wanted (R421). -/
structure WalkReq where
  part : Nat
  cluster : Nat
  va : Nat
  write : Bool
  agent : Agent
  slot : Bool := false
  lanes : DWord := 0
  path : Path := .lane
  /-- the engine request that wants it -/
  req : Nat := 0
deriving DecidableEq, Repr

/-- The registers of a launch queue (R384). -/
structure Queue where
  base : Nat := 0
  en : Bool := false
  size : Nat := 0
  part : Nat := 0
  prio : Nat := 47
  tail : Nat := 0
  head : Nat := 0
  note : Nat := 0
  overrun : Bool := false
  /-- what happens before each kick, under the tail it gave, the oldest first (R385) -/
  kicks : List (Nat × Clock) := []
deriving DecidableEq, Repr

/-- The four outstanding counters of a launch on a cluster (R397). -/
structure Counters where
  stores : Nat := 0
  atomics : Nat := 0
  rputs : Nat := 0
  sends : Nat := 0
deriving DecidableEq, Repr

/-- Where a launch stands (R386–R390, R397). -/
inductive Phase where
  | waiting
  | placing
  | placed
deriving DecidableEq, Repr

/-- A launch that the dispatcher has taken (R387). -/
structure Launch where
  uid : Nat
  queue : Nat
  part : Nat
  desc : List DWord
  hdr : List DWord := []
  phase : Phase := .placing
  id : Word
  width : Nat := 16
  extent : Nat := 16
  groups : Nat := 1
  pair : Bool := false
  regs : Nat := 8
  scratch : Nat := 0
  tiles : Nat := 0
  stack : Nat := 0
  quota : Nat := 1
  slack : Nat := 0
  allres : Bool := false
  entry : Nat := 0xFFFFF
  next : Nat := 0
  exited : Nat := 0
  dead : Nat := 0
  rollbacks : Nat := 0
  status : Nat := 0
  killed : Bool := false
  faultWord : DWord := 0
  energy : Nat := 0
  ordCount : Nat := 0
  counters : Sp Counters := []
  clk : Clock := []
  exitClk : Clock := []
deriving DecidableEq, Repr

/-- A buffered `.ord` contribution at a home (R438). -/
structure OrdItem where
  launch : Nat
  phys : Nat
  key : Nat
  value : Word
deriving DecidableEq, Repr

/-- The phases of a partition swap (R413). -/
inductive SwapPhase where
  | run | drain | exchange
  /-- a save-and-restore swap that retires a physical cluster (R449) -/
  | move (cl : Nat)
deriving DecidableEq, Repr

/-- A partition (R410, R411, R442): its registers and its configuration. -/
structure Part where
  root : Nat := 0
  on : Bool := false
  qnt : Nat := 0
  yield : Bool := false
  tmo : Nat := 100
  cutState : Nat := 0
  /-- the cut is in its first step: every unit runs to its next CUEPT (R424) -/
  cutFirst : Bool := false
  target : Word := 0
  v128 : Bool := false
  pairs : List Nat := []
  /-- enabled grant ranges: base and length in bytes -/
  grants : List (Nat × Nat) := []
  fatal : Bool := false
  /-- it is fatal because a violation froze a cluster of it, and runs again when that rejoins (R426, R441) -/
  frozenFatal : Bool := false
  /-- physical clusters whose time slice has ended while a debug hold was in the way (R406) -/
  sliceDue : List Nat := []
  /-- fixed shape: logical cluster to physical (R190); an unlisted one is its own number -/
  remap : Sp Nat := []
  /-- fixed shape: logical memory slice to GDDR-7 controller (R190); an unlisted one is its own number -/
  slices : Sp Nat := []
  /-- fixed shape: logical clusters that wait while another holds their physical cluster (R191) -/
  sliced : List Nat := []
  log : List (List Byte) := []
deriving DecidableEq, Repr

/-- A time-share group of partitions (R410, R412, R413), under the lowest partition number of it. -/
structure Share where
  phase : SwapPhase := .run
  busy : Bool := false
  bank : Option Nat := none
  pending : Bool := false
deriving DecidableEq, Repr

/-- A Garug port (R427–R431). -/
structure Port where
  peer : Nat := 0
  pport : Nat := 0
  replays : Nat := 0
  sheds : Nat := 0
  lanes : Nat := 0
  state : Nat := 0
  /-- the next sequence number that the receiver takes -/
  rxSeq : Nat := 0
  newWidth : Nat := 0
  /-- R426: the host's requests on this port are frozen -/
  frozen : Bool := false
deriving DecidableEq, Repr

/-- A stream from a source of this device (R430, R432). -/
structure Stream where
  source : Nat
  dest : Nat
  port : Nat
  sent : Nat := 0
  /-- requests not acknowledged end to end: sequence number and flight identifier -/
  unacked : List (Nat × Nat) := []
deriving DecidableEq, Repr

/-- An entry of the compare buffer (R180, R181). -/
structure CmpEntry where
  ordinal : Nat
  group : Nat
  kind : Nat
  sig : DWord
  op : Nat
  lead : Bool
  /-- the lane events its group had raised before it, and the group's cue count -/
  events : Nat := 0
  cue : Nat := 0
  /-- of a lead's MXCHK that is performed: its result -/
  result : List (Nat × QWord) := []
  /-- the `.ord` contributions it has added to the launch's count (R438) -/
  ord : Nat := 0
deriving DecidableEq, Repr

/-- A checkpoint of a team (R182). -/
structure Ckpt where
  cue : Nat
  team : Team
  groups : List (Nat × Group)
  spad : Memory
  full : Sp Clock
  /-- the RPUTs of its groups that were on their way (R113), and what the memory model holds about its bytes (R145) -/
  rputs : List Rput := []
  access : List Access := []
  published : List Published := []
  late : List Late := []
  bars : Sp (Clock × Clock) := []
deriving DecidableEq, Repr

/-- A logged compared operation (R185): its group, ordinal in the interval, signature and results by lane. -/
structure LogEntry where
  group : Nat
  ordinal : Nat
  sig : DWord
  result : List (Nat × QWord)
  /-- the lead's operation, whose results it receives when that is performed -/
  op : Nat := 0
deriving DecidableEq, Repr

/-- A lead and stand-in team pair (R179–R186). -/
structure PairOf where
  lead : Nat
  standIn : Nat
  slack : Nat
  entries : List CmpEntry := []
  confirmed : List Ckpt := []
  pending : List Ckpt := []
  log : List LogEntry := []
  overflow : Bool := false
  rollbacks : Nat := 0
  replay : Bool := false
  /-- a mismatch was found: both copies are stopped until the rollback (R183, R184) -/
  mismatch : Bool := false
  /-- where a lane consumed an uncorrectable error since the confirmed cue point: group, lane, issued count, whether in the lead -/
  errors : List (Nat × Nat × Nat × Bool) := []
  /-- the lane events of each group that has exited: its index, whether it is the lead's, how many (R183) -/
  exits : List (Nat × Bool × Nat) := []
  /-- MEMORY_MODEL of the lead that awaits the stand-in (R186) -/
  awaited : Option (Nat × Nat × Rec) := none
deriving DecidableEq, Repr

/-- A margin domain (R450). -/
structure Margin where
  setpoint : Nat := 750
  nominal : Nat := 750
  floor : Nat := 650
  lastClean : Nat := 750
  window : Nat := 0
  /-- the time of its last restoration: errors of the 5 µs after it share it -/
  restored : Option Nat := none
  /-- 24-hour lockout: the time it ends -/
  locked : Option Nat := none
deriving DecidableEq, Repr

/-- An entry of the error history (R451): the four words of R440 and the time. -/
structure HistEntry where
  w0 : DWord
  w1 : DWord
  w2 : DWord
  w3 : DWord
  time : Nat
  injected : Bool := false
  /-- its place in the ring's numbering, which ERRREAD goes by -/
  seq : Nat := 0
deriving DecidableEq, Repr

/-- An armed fault injection (R453): its words, the team that trigger 0 chose, the group whose cue count has become its number
and that has issued nothing since (R375). -/
structure Injection where
  words : List DWord
  team : Option Nat := none
  due : Option Nat := none
deriving DecidableEq, Repr

/-- A stored partition configuration (R442), after its signature was accepted. -/
structure PartCfg where
  words : List DWord := []
deriving DecidableEq, Repr

/-- The house controller (R441–R456). -/
structure House where
  /-- the step of bring-up reached (R443); 0 before power-up -/
  step : Nat := 0
  stored : PartCfg := {}
  active : PartCfg := {}
  history : List HistEntry := []
  histSeq : Nat := 0
  /-- the stored configuration's clrhist has been obeyed (R451) -/
  cleared : Bool := false
  counts : Sp Nat := []
  retired : List Nat := []
  retiring : List Nat := []
  /-- uncorrectable errors of a cluster's state domains, by physical cluster: times (R448) -/
  clusterErrs : Sp (List Nat) := []
  /-- GDDR-7 rows: corrected errors by device · 2^32 + row, rows being copied, rows switched -/
  rowErrs : Sp (List Nat) := []
  rowBad : List Nat := []
  copying : List (Nat × Nat) := []
  spared : List (Nat × Nat) := []
  remaps : Sp Nat := []
  scrubbed : Sp Nat := []
  margins : Sp Margin := []
  tableau : Option Nat := none
  retriggers : Nat := 0
  armed : List Injection := []
  /-- flash: the active bank's security version, a pending update and its version, the fused minimum, a failed update -/
  fw : List DWord := []
  fwSig : Nat := 0
  svn : Nat := 0
  pendingFw : Option (List DWord × Nat × Nat) := none
  /-- the device firmware, an image of its own with its own signature and security version -/
  devFw : List DWord := []
  devSig : Nat := 0
  devSvn : Nat := 0
  pendingDev : Option (List DWord × Nat × Nat) := none
  fused : Nat := 0
  fwFailed : Bool := false
  /-- the device's cache key (R361) -/
  cacheKey : BitVec 256 := 0
  /-- M0–M7, 64 bytes each (R456) -/
  measure : Sp (BitVec 512) := []
  /-- the steps of power pressure in force, the newest first: the clusters whose ratios each lowered (R444) -/
  steps : List (List Nat) := []
  clearSince : Option Nat := none
  ratioClamp : Bool := false
  time : Nat := 0
  /-- the last command's completion code and answer -/
  code : Nat := 0
  reply : List Nat := []
deriving DecidableEq, Repr

/-- Which agent's instruction `exec` runs. -/
inductive Cur where
  | env
  | lane (g : Nat) (slotB : Bool)
  | prompter (c : Nat)
deriving DecidableEq, Repr

/-- The events that the machine's own units raise of themselves, as turns of a round (the model's own list). Each runs as
the instruction of its name. -/
inductive Own where
  | rgrowReadmit (cl sl : Nat)
  | stageSwap (cl sl : Nat)
  | sliceIssue (cl sl : Nat)
  | requestEngineTake (cl : Nat)
  | matrixEngineStep (cl : Nat)
  | scriptStoreDrain (cl : Nat)
  | tlbinvComplete (cl : Nat)
  | debugHalt (g : Nat)
  | eventPostDeferred (g : Nat)
  | dependenceResolved (g : Nat)
  | stageEligible (g : Nat)
  | mailboxCycle (team : Nat)
  | linkedChainEnd (team group : Nat)
  | compareConfirm (team group : Nat)
  | cueConfirmed (team : Nat)
  | gatherRequest (id : Nat)
  | sendDelivery (id start n : Nat)
  | copyDelivery (id start n : Nat)
  | homeAccess (id : Nat) (lanes : DWord)
  | memoryReply (id : Nat)
  | storeAck (id : Nat)
  | rputArrival (id : Nat)
  | walkComplete (die : Nat)
  | sealComplete (c : Nat)
  | segmentRelease (c seg : Nat)
  | syscLog (c : Nat)
  | syscInfo (c : Nat)
  | syscNotify (c : Nat)
  | syscPlain (c : Nat)
  | descriptorTake (q : Nat)
  | eventWordSet (q : Nat)
  | placementStep
  | ordClose (l : Nat)
  | launchComplete (l : Nat)
  | swapFlip (part : Nat)
  | swapExchangeDone (part : Nat)
  | swapBackgroundDone (part : Nat) (bad : List (Nat × Bool)) (lost : List Nat)
  | cutComplete (part : Nat)
  | retireComplete (cl : Nat)
  | timesliceQuantum (phys : Nat)
  | faultInjectionFire (idx : Nat)
deriving DecidableEq, Repr

/-- A turn of the agenda: an agent's next instruction, an event of a unit of its own accord, or any event of the hardware
or the outside world. -/
inductive Turn where
  | lane (g : Nat) (slotB : Bool)
  | prompter (c : Nat)
  | own (e : Own)
  | event (i : Instr)
deriving DecidableEq, Repr

/-- The machine. Keys: a cluster is partition · 256 + its number; a group (cluster key · 6 + slice) · 32 + group slot;
a team cluster key · 192 + handle; a context cluster key · 8 + number. -/
structure State where
  /-- the model's own: the turns to come, the current agent, the counters of free values and identifiers -/
  agenda : List Turn := []
  cur : Cur := .env
  free : Nat := 0
  nextId : Nat := 0
  groups : Sp Group := []
  teams : Sp Team := []
  /-- what the registers and the tail of a group and of a team hold when it has left, until its place is taken (R377) -/
  oldGroups : Sp Group := []
  oldTeams : Sp Team := []
  ctxs : Sp Ctx := []
  clusters : Sp Cluster := []
  launches : Sp Launch := []
  ensembles : List Ensemble := []
  pairs : List PairOf := []
  /-- device memory by physical address (R83, R442), its poisoned lines (R84), lines brought in by PREF (R279) -/
  mem : Memory := []
  poisonLines : List Nat := []
  cached : List Nat := []
  flight : List MemOp := []
  rputs : List Rput := []
  access : List Access := []
  published : List Published := []
  /-- bytes that a path has changed and others need not see yet, the newest last (R120, R127) -/
  late : List Late := []
  hostClk : Clock := []
  /-- what the order of sc operations has come to (R133) -/
  scClk : Clock := []
  /-- second-level TLBs by die, and walks in arrival order by die (R421) -/
  tlb2 : Sp (List TlbEntry) := []
  walks : Sp (List WalkReq) := []
  faulted : List WalkReq := []
  queues : Sp Queue := []
  lastWin : Sp Nat := []
  parts : Sp Part := []
  shares : Sp Share := []
  ports : Sp Port := []
  streams : List Stream := []
  /-- requests performed for a source on a stream: highest sequence number (R432) -/
  performed : Sp Nat := []
  /-- devices declared unreachable; ports that reach a device -/
  unreachable : List Nat := []
  routes : Sp (List Nat) := []
  /-- answers given to fabric requests: port, whether it is an error, and the data, the newest first -/
  answers : List (Nat × Bool × BitVec 512) := []
  notes : List (Nat × DWord) := []
  windows : Sp DWord := []
  ordBuf : List OrdItem := []
  ordSlots : List Nat := []
  erBase : Nat := 0
  erEn : Bool := false
  erSize : Nat := 0
  erHead : Nat := 0
  erTail : Nat := 0
  erLost : Nat := 0
  erSeq : Nat := 0
  device : Nat := 0
  house : House := {}
deriving DecidableEq, Repr

/-- The machine right after reset: nothing resident, memory with nothing listed, every register at its reset value. -/
def State.reset : State := {}

end Sys2Proof.Machine
end

