-- ==== Sys2Proof/Machine/Sparse.lean ====
section
/-! DEFINITION. The tables and memories of the state: reading and writing them in their one canonical form, and the
small list and bit helpers the other files share. -/

namespace Sys2Proof.Machine

/-! Sparse tables -/

/-- The value under a key. -/
def Sp.get? {α : Type} (m : Sp α) (k : Nat) : Option α :=
  match m with
  | [] => none
  | (j, v) :: t => if k = j then some v else Sp.get? t k

/-- The table with a value under a key, its place kept in rising order. -/
def Sp.set {α : Type} (m : Sp α) (k : Nat) (v : α) : Sp α :=
  match m with
  | [] => [(k, v)]
  | (j, w) :: t => if k < j then (k, v) :: (j, w) :: t else if k = j then (k, v) :: t else (j, w) :: Sp.set t k v

/-- The table without a key. -/
def Sp.erase {α : Type} (m : Sp α) (k : Nat) : Sp α :=
  match m with
  | [] => []
  | (j, w) :: t => if k = j then Sp.erase t k else (j, w) :: Sp.erase t k

/-- The value under a key, or the default. -/
def Sp.getD {α : Type} (m : Sp α) (k : Nat) (d : α) : α := (Sp.get? m k).getD d

/-- A write that keeps the default unlisted. -/
def Sp.put {α : Type} [DecidableEq α] (d : α) (m : Sp α) (k : Nat) (v : α) : Sp α :=
  if v = d then Sp.erase m k else Sp.set m k v

/-- A change of the value under a key that is listed. -/
def Sp.modify {α : Type} (m : Sp α) (k : Nat) (f : α → α) : Sp α :=
  match m with
  | [] => []
  | (j, w) :: t => if k = j then (j, f w) :: t else (j, w) :: Sp.modify t k f

/-- Keys strictly rising. -/
def Sp.sorted {α : Type} (m : Sp α) : Bool :=
  match m with
  | [] => true
  | [_] => true
  | (j, _) :: (k, v) :: t => decide (j < k) && Sp.sorted ((k, v) :: t)

/-! Memory (R6): bytes by address, an unlisted byte reads 0 (DESIGN CHOICE [4]). -/

/-- What an address reads as that nothing has written. -/
def Memory.unlisted : Byte := 0

/-- One byte. -/
def Memory.byte (m : Memory) (a : Nat) : Byte := Sp.getD m a Memory.unlisted

/-- One byte written. -/
def Memory.setByte (m : Memory) (a : Nat) (v : Byte) : Memory := Sp.put Memory.unlisted m a v

/-- The canonical form: addresses strictly rising, no entry equal to what an unlisted address reads as. -/
def Memory.wf (m : Memory) : Bool := Sp.sorted m && m.all (fun c => c.2 != Memory.unlisted)

/-- n bytes from an address, as one number, little-endian (R6). -/
def Memory.read (m : Memory) (a : Nat) : Nat → Nat
  | 0 => 0
  | n + 1 => (m.byte a).toNat + 256 * Memory.read m (a + 1) n

/-- The low n bytes of a number written from an address on, little-endian (R6). -/
def Memory.write (m : Memory) (a : Nat) : Nat → Nat → Memory
  | 0, _ => m
  | n + 1, v => Memory.write (m.setByte a (BitVec.ofNat 8 v)) (a + 1) n (v / 256)

/-- n bytes as a list. -/
def Memory.bytes (m : Memory) (a : Nat) : Nat → List Byte
  | 0 => []
  | n + 1 => m.byte a :: Memory.bytes m (a + 1) n

/-- A list of bytes written from an address on. -/
def Memory.setBytes (m : Memory) (a : Nat) : List Byte → Memory
  | [] => m
  | b :: t => Memory.setBytes (m.setByte a b) (a + 1) t

/-- n bytes set to zero, which unlists them. -/
def Memory.clear (m : Memory) (lo n : Nat) : Memory := m.filter (fun c => !(decide (lo ≤ c.1) && decide (c.1 < lo + n)))

/-- The part of a memory in a range. -/
def Memory.slice (m : Memory) (lo n : Nat) : Memory := m.filter (fun c => decide (lo ≤ c.1) && decide (c.1 < lo + n))

/-- A range of a memory replaced by the same range of another. -/
def Memory.restore (m saved : Memory) (lo n : Nat) : Memory :=
  (Memory.slice saved lo n).foldl (fun acc c => acc.setByte c.1 c.2) (m.clear lo n)

/-! Lists -/

/-- Insertion of a key into a rising list without repeats. -/
def insNat (k : Nat) : List Nat → List Nat
  | [] => [k]
  | j :: t => if k < j then k :: j :: t else if k = j then j :: t else j :: insNat k t

/-- Removal of a key. -/
def delNat (k : Nat) (l : List Nat) : List Nat := l.filter (fun j => j != k)

/-- Insertion by a rank, behind equals. -/
def insBy {α : Type} (rank : α → Nat) (x : α) : List α → List α
  | [] => [x]
  | y :: t => if rank x < rank y then x :: y :: t else y :: insBy rank x t

/-- A list in the order of a rank. -/
def sortBy {α : Type} (rank : α → Nat) (l : List α) : List α := l.foldl (fun acc x => insBy rank x acc) []

/-- The element of least rank, the earliest on a tie. -/
def leastBy {α : Type} (rank : α → Nat) : List α → Option α
  | [] => none
  | x :: t =>
    match leastBy rank t with
    | none => some x
    | some y => if rank x ≤ rank y then some x else some y

/-- The element of a list that a test picks, changed. -/
def changeFirst {α : Type} (p : α → Bool) (f : α → α) : List α → List α
  | [] => []
  | x :: t => if p x then f x :: t else x :: changeFirst p f t

/-! Bits and lanes -/

/-- Bit i of a lane mask. -/
def laneBit (m : DWord) (i : Nat) : Bool := m.getLsbD i

/-- The mask of the lanes that a test picks, below n. -/
def maskOf (n : Nat) (p : Nat → Bool) : DWord :=
  (List.range n).foldl (fun acc i => if p i then acc ||| (1#64 <<< i) else acc) 0#64

/-- The lanes of a mask, in rising order. -/
def lanesOf (m : DWord) : List Nat := (List.range 64).filter (fun i => laneBit m i)

/-- The lowest lane of a mask, if it has one. -/
def lowestLane (m : DWord) : Option Nat := (lanesOf m).head?

/-- All lanes below n (n at most 64). -/
def lanesBelow (n : Nat) : DWord := BitVec.ofNat 64 (2 ^ n - 1)

/-- Sign extension of the low n bits of a number, as an integer. -/
def signedOf (n v : Nat) : Int := if v % 2 ^ n < 2 ^ (n - 1) then Int.ofNat (v % 2 ^ n) else Int.ofNat (v % 2 ^ n) - 2 ^ n

/-- An integer modulo 2^n. -/
def wrapOf (n : Nat) (v : Int) : Nat := (v % 2 ^ n).toNat

end Sys2Proof.Machine
end

