-- ==== Sys2Proof/Machine/Ops.lean ====
section
/-! DEFINITION. The named operations over the state: reaching groups, teams, contexts, clusters and launches; clocks of
happens-before; fetching from the script store; taking a lane event (the one exception entry of a group) and its
return; level-G faults; reconvergence; the death of a lane; the exit of a group and of a team; the end of a launch. -/

namespace Sys2Proof.Machine

/-! ### Keys -/

def clusterKey (part c : Nat) : Nat := part * 256 + c
def groupKey (ck slice gslot : Nat) : Nat := (ck * 6 + slice) * 32 + gslot
def teamKey (ck handle : Nat) : Nat := ck * 192 + handle
def ctxKey (ck num : Nat) : Nat := ck * 8 + num

/-! ### Reaching the parts of the state -/

def State.group? (s : State) (g : Nat) : Option Group := Sp.get? s.groups g
def State.team? (s : State) (t : Nat) : Option Team := Sp.get? s.teams t
def State.ctx? (s : State) (c : Nat) : Option Ctx := Sp.get? s.ctxs c
def State.launch? (s : State) (l : Nat) : Option Launch := Sp.get? s.launches l
/-- A cluster; one that nothing has touched is in its reset state. -/
def State.cluster (s : State) (ck : Nat) : Cluster := Sp.getD s.clusters ck {}
/-- A partition; one that is not configured is in its reset state. -/
def State.part (s : State) (p : Nat) : Part := Sp.getD s.parts p {}
def State.queue (s : State) (q : Nat) : Queue := Sp.getD s.queues q {}
def State.port (s : State) (p : Nat) : Port := Sp.getD s.ports p {}

def State.setGroup (s : State) (g : Nat) (x : Group) : State := { s with groups := Sp.set s.groups g x }
def State.setTeam (s : State) (t : Nat) (x : Team) : State := { s with teams := Sp.set s.teams t x }
def State.setCtx (s : State) (c : Nat) (x : Ctx) : State := { s with ctxs := Sp.set s.ctxs c x }
def State.setLaunch (s : State) (l : Nat) (x : Launch) : State := { s with launches := Sp.set s.launches l x }
def State.setCluster (s : State) (ck : Nat) (x : Cluster) : State := { s with clusters := Sp.set s.clusters ck x }
def State.setPart (s : State) (p : Nat) (x : Part) : State := { s with parts := Sp.set s.parts p x }
def State.setQueue (s : State) (q : Nat) (x : Queue) : State := { s with queues := Sp.set s.queues q x }
def State.setPort (s : State) (p : Nat) (x : Port) : State := { s with ports := Sp.set s.ports p x }

def State.modGroup (s : State) (g : Nat) (f : Group → Group) : State := { s with groups := Sp.modify s.groups g f }
def State.modTeam (s : State) (t : Nat) (f : Team → Team) : State := { s with teams := Sp.modify s.teams t f }
def State.modCtx (s : State) (c : Nat) (f : Ctx → Ctx) : State := { s with ctxs := Sp.modify s.ctxs c f }
def State.modLaunch (s : State) (l : Nat) (f : Launch → Launch) : State := { s with launches := Sp.modify s.launches l f }
def State.modCluster (s : State) (ck : Nat) (f : Cluster → Cluster) : State := s.setCluster ck (f (s.cluster ck))
def State.modPart (s : State) (p : Nat) (f : Part → Part) : State := s.setPart p (f (s.part p))
def State.modQueue (s : State) (q : Nat) (f : Queue → Queue) : State := s.setQueue q (f (s.queue q))
def State.modPort (s : State) (p : Nat) (f : Port → Port) : State := s.setPort p (f (s.port p))

/-- The groups of a team that are resident, with their keys. -/
def State.groupsOf (s : State) (t : Nat) : List (Nat × Group) := s.groups.filter (fun p => p.2.team == t)

/-- The cluster key of a group. -/
def Group.ckey (x : Group) : Nat := clusterKey x.part x.cluster
/-- The slice of a group, as a key. -/
def Group.skey (x : Group) : Nat := x.ckey * 6 + x.slice
/-- The cluster key of a team's lower (or only) cluster. -/
def Team.ckey (t : Team) : Nat := clusterKey t.part t.cluster

/-- A new identifier, never used again. -/
def State.fresh (s : State) : Nat × State := (s.nextId + 1, { s with nextId := s.nextId + 1 })

/-- The argument of the next free value, and the state with the counter advanced. -/
def State.takeFree (s : State) : Nat × State := (s.free, { s with free := s.free + 1 })

def Group.slot (x : Group) (b : Bool) : Slot := if b then x.slotB else x.slotA
def Group.setSlot (x : Group) (b : Bool) (v : Slot) : Group := if b then { x with slotB := v } else { x with slotA := v }
def Group.modSlot (x : Group) (b : Bool) (f : Slot → Slot) : Group := x.setSlot b (f (x.slot b))

/-- A slot is live when its mask is not empty (R44). -/
def Slot.live (v : Slot) : Bool := v.mask != 0

/-! ### Partitions that run (R191, R410, R413, R426) -/

/-- The lowest partition with the same set of pairs: it names the time-share group (R410). -/
def State.shareKey (s : State) (p : Nat) : Nat :=
  (((s.parts.filter (fun (q : Nat × Part) => q.2.pairs == (s.part p).pairs)).map Prod.fst).head?).getD p

/-- The partitions of a time-share group. -/
def State.shareMembers (s : State) (k : Nat) : List Nat :=
  (s.parts.filter (fun (q : Nat × Part) => !q.2.pairs.isEmpty && q.2.pairs == (s.part k).pairs)).map Prod.fst

def State.share (s : State) (k : Nat) : Share := Sp.getD s.shares k {}
def State.modShare (s : State) (k : Nat) (f : Share → Share) : State := { s with shares := Sp.set s.shares k (f (s.share k)) }

/-- Whether the units and engines of a cluster run: its partition is on and in no swap, the cluster is not frozen, and it
holds its physical cluster. -/
def State.running (s : State) (ck : Nat) : Bool :=
  let p := ck / 256
  (s.part p).on && !(s.part p).fatal && (s.share (s.shareKey p)).phase == .run && !(s.cluster ck).frozen && !(s.part p).sliced.contains (ck % 256)

/-- Whether the engines of a cluster work: what was issued before its partition met a fatal error is performed still (R397). -/
def State.enginesRun (s : State) (ck : Nat) : Bool :=
  let p := ck / 256
  (s.part p).on && (s.share (s.shareKey p)).phase == .run && !(s.cluster ck).frozen && !(s.part p).sliced.contains (ck % 256)

/-! ### Clocks (R126) -/

def Clock.join (a b : Clock) : Clock :=
  b.foldl (fun acc p => if Sp.getD acc p.1 0 < p.2 then Sp.set acc p.1 p.2 else acc) a

/-- Whether operation number n of an agent happens before the holder of the clock. -/
def Clock.has (c : Clock) (agent n : Nat) : Bool := decide (n ≤ Sp.getD c agent 0)

/-- One more operation of the agent itself. -/
def Clock.tick (c : Clock) (agent : Nat) : Clock := Sp.set c agent (Sp.getD c agent 0 + 1)

/-- A release at team scope or wider by a group: it is counted, and no earlier access of the group is the X of a
detected race any more (R136). -/
def State.release (s : State) (g : Nat) : State :=
  match s.group? g with
  | none => s
  | some x => { s.setGroup g { x with rels := x.rels + 1 } with access := s.access.filter (fun a => a.uid != x.uid) }

def State.acquire (s : State) (g : Nat) (c : Clock) : State := s.modGroup g (fun x => { x with clk := Clock.join x.clk c })

def State.ctxAcquire (s : State) (c : Nat) (k : Clock) : State := s.modCtx c (fun x => { x with clk := Clock.join x.clk k })

/-! ### Records (R75, R348, R407) -/

/-- Word 0 of a group's record. -/
def recWord0 (cause handle group slot slice gslot saddr : Nat) : DWord :=
  BitVec.ofNat 64 (cause * 2 ^ 56 + handle * 2 ^ 48 + group * 2 ^ 43 + slot * 2 ^ 42 + slice * 2 ^ 38 + gslot * 2 ^ 33 + saddr)

/-- Word 3: detail and provenance. -/
def recWord3 (detail prov : Nat) : DWord := BitVec.ofNat 64 (detail % 2 ^ 32 * 2 ^ 32 + prov)

/-- The cause of a record. -/
def Rec.cause (r : Rec) : Nat := r.w0.toNat / 2 ^ 56

/-- A part of a record word or a register. -/
def field (w : DWord) (lo n : Nat) : Nat := w.toNat / 2 ^ lo % 2 ^ n

/-! ### Fetch (R64) -/

/-- What a fetch of a script address meets. -/
inductive Fetched where
  | word (w : DWord) (prov : BitVec 32)
  | parks (seg : Nat)
  | range
deriving DecidableEq, Repr

/-- The segment number of a script address. -/
def segOf (a : BitVec 20) : Nat := a.toNat / 4096
/-- The word offset of a script address. -/
def offOf (a : BitVec 20) : Nat := a.toNat % 4096

/-- The word a context's script store holds at an address, for a group that is already in the segment. -/
def Ctx.fetch (c : Ctx) (a : BitVec 20) : Fetched :=
  match Sp.get? c.segs (segOf a) with
  | none => .range
  | some sg =>
    match sg.state with
    | .open_ => .parks (segOf a)
    | _ =>
      match Sp.get? c.store (segOf a * 4096 + offOf a) with
      | some (w, p) => if offOf a < sg.len then .word w p else .range
      | none => .range

/-- Whether a transfer into an address is out of range: into a free or retiring segment (R64). -/
def Ctx.badTransfer (c : Ctx) (a : BitVec 20) : Bool :=
  match Sp.get? c.segs (segOf a) with
  | none => true
  | some sg => sg.state == .retiring

/-- The context that serves a group's kernel: on the lower cluster of a pair (R71). -/
def State.ctxOf (s : State) (x : Group) : Option Ctx := (s.team? x.team).bind (fun t => s.ctx? t.ctx)

/-- The lane word at an address, for the records of R75. -/
def State.wordAt (s : State) (x : Group) (a : BitVec 20) : DWord × BitVec 32 :=
  match s.ctxOf x with
  | none => (0, 0)
  | some c => (Sp.get? c.store (segOf a * 4096 + offOf a)).getD (0, 0)

/-! ### Launch ends (R78, R175, R397, R398) -/

/-- A record in the queue of a cluster's system context (R348, R407). -/
def State.postSystem (s : State) (ck : Nat) (r : Rec) : State :=
  s.modCtx (ctxKey ck 7) (fun c =>
    { c with events := c.events ++ [(r, [], 0)], wait := if c.wait == .event then .run else c.wait })

/-- The lowest cluster of a partition: where records about the whole partition go. -/
def Part.firstCluster (p : Part) : Nat := if p.v128 then 0 else 2 * p.pairs.headD 0

/-- The list of a team's barrier words of mode 0 or mode 1 (R112). -/
def Team.bars (t : Team) (mode : Bool) : List Nat := if mode then t.bars1 else t.bars0

/-- The physical scratchpad offset of an address in an allocation (R86, R89). -/
def Alloc.place (a : Alloc) (off : Nat) : Nat := a.base + off % a.size

/-- Whether a physical offset lies in an allocation. -/
def Alloc.holds (a : Alloc) (off : Nat) : Bool := decide (a.base ≤ off) && decide (off < a.base + a.size)

/-! ### Barrier words (R110, R111) -/

/-- The fields of a barrier word. -/
structure BarWord where
  pending : Int
  rejected : Bool
  mode : Bool
  phase : Bool
  arrived : Nat
  expected : Nat
deriving DecidableEq, Repr

def BarWord.ofNat (w : Nat) : BarWord :=
  { pending := signedOf 32 (w / 2 ^ 96 % 2 ^ 32), rejected := w / 2 ^ 66 % 2 == 1, mode := w / 2 ^ 65 % 2 == 1,
    phase := w / 2 ^ 64 % 2 == 1, arrived := w / 2 ^ 32 % 2 ^ 32, expected := w % 2 ^ 32 }

/-- The reserved bits 95:67 keep what the word held. -/
def BarWord.toNat (b : BarWord) (old : Nat) : Nat :=
  wrapOf 32 b.pending * 2 ^ 96 + old / 2 ^ 67 % 2 ^ 29 * 2 ^ 67 + b.rejected.toNat * 2 ^ 66 + b.mode.toNat * 2 ^ 65
    + b.phase.toNat * 2 ^ 64 + b.arrived % 2 ^ 32 * 2 ^ 32 + b.expected

/-- The test after each update: whether a phase completes, and the word then. -/
def BarWord.test (b : BarWord) : BarWord × Bool :=
  if b.expected ≤ b.arrived ∧ b.pending = 0 then
    ({ b with arrived := b.arrived - b.expected, phase := !b.phase }, true)
  else (b, false)

/-- A dead-lane lowering (R111, R112). -/
def BarWord.lower (b : BarWord) : BarWord :=
  if 1 < b.expected then { b with expected := b.expected - 1 } else { b with arrived := b.arrived + 1 }

/-- Bytes that every read sees as they stand from now on: no older value of them is left in any reader's reach. -/
def State.plain (s : State) (space a n : Nat) : State :=
  { s with late := s.late.filter (fun e => !(e.space == space && decide (a ≤ e.addr) && decide (e.addr < a + n))) }

/-- One update of a barrier word at a physical offset, with the test and the clock it contributes (R111, R125). Every read sees
it. -/
def State.barUpdate (s : State) (ck off : Nat) (clk : Clock) (f : BarWord → BarWord) : State :=
  (s.plain (ck + 1) off 16).modCluster ck (fun c =>
    let old := c.spad.read off 16
    let r := (f (BarWord.ofNat old)).test
    let k := Sp.getD c.barClk off ([], [])
    let cur := Clock.join k.1 clk
    { c with
      spad := c.spad.write off 16 (r.1.toNat old),
      barClk := Sp.set c.barClk off (if r.2 then ([], cur) else (cur, k.2)) })

/-! ### Ensembles (R97, R99) -/

/-- Withdrawal of a team from its ensemble (R99): the slot is revoked until another team joins. -/
def State.leaveEnsemble (s : State) (t : Nat) : State :=
  match s.team? t with
  | none => s
  | some tm =>
    match tm.ensemble with
    | none => s
    | some (e, m) =>
      { s with
        ensembles := s.ensembles.map (fun x =>
          if x.launch == tm.launch && x.e == e then
            { x with members := Sp.erase x.members m, revoked := insNat m x.revoked }
          else x),
        teams := Sp.set s.teams t { tm with ensemble := none, left := some (e, m) } }

/-! ### Contexts stop (R58, R93, R400) -/

/-- The share of an interval's energy that a kernel of a cluster receives (R399): its activity a of the sum. -/
def energyShare (e a sum m : Nat) : Nat := if sum = 0 then e / m else e * a / sum

/-- The activity of a kernel in the interval (R399). -/
def Ctx.activity (c : Ctx) : Nat := c.laneSteps + 64 * c.mxCycles + 4 * c.instrs

/-- The generator contexts of a cluster that hold a kernel. -/
def State.kernelsOn (s : State) (ck : Nat) : List (Nat × Ctx) :=
  s.ctxs.filter (fun p => p.1 / 8 == ck && p.2.num < 6 && p.2.active)

/-- A context with its part of the interval attributed, its activity begun anew (R399). -/
def Ctx.attribute (c : Ctx) (e sum m : Nat) : Ctx :=
  { c with energy := c.energy + energyShare e c.activity sum m, laneSteps := 0, mxCycles := 0, instrs := 0 }

/-- A generator context stops at once: its final part interval is attributed, its segments, chunks and pending events
are gone, its props entries are invalidated (R58, R93, R400). -/
def State.stopCtx (s : State) (xk : Nat) : State :=
  match s.ctx? xk with
  | none => s
  | some c =>
    let ck := xk / 8
    let ks := s.kernelsOn ck
    let sum := ks.foldl (fun n p => n + p.2.activity) 0
    let fin := c.attribute (Config.freeEnergy s.free) sum ks.length
    let s := { s with
      free := s.free + 1, ctxs := Sp.erase s.ctxs xk, faulted := s.faulted.filter (fun w => w.agent != Agent.ctx xk),
      walks := s.walks.map (fun (p : Nat × List WalkReq) => (p.1, p.2.filter (fun w => w.agent != Agent.ctx xk))) }
    let s := s.modLaunch c.launch (fun l => { l with energy := l.energy + fin.energy / 1000, exitClk := Clock.join l.exitClk c.clk })
    s.modCluster ck (fun cl =>
      { cl with
        props := cl.props.filter (fun p => p.2.ctx != c.num),
        compHolder := if cl.compHolder == some c.num then none else cl.compHolder })

/-! ### The fields of a request (R102, R105) -/

def Request.word (r : Request) (i : Nat) : Nat := ((r.words[i]?).getD 0).toNat
/-- Bits lo and up of word i, n of them. -/
def Request.bits (r : Request) (i lo n : Nat) : Nat := r.word i / 2 ^ lo % 2 ^ n
def Request.kind (r : Request) : Nat := r.bits 3 52 4
def Request.len (r : Request) : Nat := r.bits 2 0 24
def Request.rows (r : Request) : Nat := r.bits 2 24 16 + 1
def Request.bar (r : Request) : Nat := r.bits 2 40 24
def Request.nobar (r : Request) : Bool := r.bits 3 50 1 == 1
def Request.fromSpad (r : Request) : Bool := r.bits 3 48 1 == 1
def Request.toSpad (r : Request) : Bool := r.bits 3 49 1 == 1
def Request.ckey (r : Request) : Nat := clusterKey r.part r.cluster

/-- The bytes a request counts down on its barrier word (R103, R105). -/
def Request.total (r : Request) : Nat := if r.kind = 1 then 16 * (r.bits 2 24 16 + 2) else r.rows * r.len

/-- The bytes of a request that are delivered. -/
def Request.count (r : Request) : Nat := r.delivered.foldl (fun n p => n + p.2) 0

/-! ### Outstanding counters (R397), pairs and their checkpoints (R179 to R186) -/

/-- One of the four counters of a launch on a cluster, changed. -/
def Counters.bump (c : Counters) (which : Nat) (f : Nat → Nat) : Counters :=
  match which with
  | 1 => { c with stores := f c.stores }
  | 2 => { c with atomics := f c.atomics }
  | 3 => { c with rputs := f c.rputs }
  | 4 => { c with sends := f c.sends }
  | _ => c

/-- A counter of a launch on a cluster raised or lowered. -/
def State.count (s : State) (l ck which n : Nat) (up : Bool) : State :=
  if which = 0 then s
  else
    s.modLaunch l (fun x =>
      let c := (Sp.getD x.counters ck {}).bump which (fun k => if up then k + n else k - n)
      { x with counters := Sp.put {} x.counters ck c })

/-- The accesses of an operation that leave the cluster (R397). -/
def MemOp.away (op : MemOp) : Nat :=
  (op.lanes.filter (fun a => match a.place with | .spad ck _ => ck != clusterKey op.part op.cluster | _ => true)).length

/-- The pair a team belongs to. -/
def State.pairOf? (s : State) (t : Nat) : Option PairOf := s.pairs.find? (fun p => p.lead == t || p.standIn == t)

/-- The groups of both copies that have exited had raised as many lane events (R183). -/
def PairOf.exitsAgree (p : PairOf) : Bool :=
  p.exits.all (fun e => p.exits.all (fun f => e.1 != f.1 || e.2.2 == f.2.2))

/-- A change of a pair. -/
def State.modPair (s : State) (lead : Nat) (f : PairOf → PairOf) : State :=
  { s with pairs := s.pairs.map (fun p => if p.lead == lead then f p else p) }

/-- The bytes of a team's allocations. -/
def Team.owns (tm : Team) (space a : Nat) : Bool :=
  (space == tm.ckey + 1 && tm.alloc.holds a) || (tm.pair && space == tm.ckey + 2 && tm.allocHi.holds a)

/-- A checkpoint of a team as it stands (R182). -/
def State.checkpoint (s : State) (t : Nat) (cue : Nat) : Option Ckpt :=
  match s.team? t with
  | none => none
  | some tm =>
    let c := s.cluster tm.ckey
    some { cue := cue, team := tm, groups := s.groupsOf t, spad := c.spad.slice tm.alloc.base tm.alloc.size,
           full := c.full.filter (fun (p : Nat × Clock) => tm.alloc.base / 16 ≤ p.1 && p.1 < (tm.alloc.base + tm.alloc.size) / 16),
           rputs := s.rputs.filter (fun (r : Rput) => r.team == t),
           access := s.access.filter (fun a => tm.owns a.space a.addr),
           published := s.published.filter (fun a => tm.owns a.space a.addr),
           late := s.late.filter (fun e => tm.owns e.space e.addr), bars := c.barClk.filter (fun p => tm.alloc.holds p.1) }

/-- The start state of a copy is its first confirmed checkpoint (R182). -/
def State.startCheckpoint (s : State) (t : Nat) : State :=
  match s.pairOf? t, s.checkpoint t 0 with
  | some p, some k => s.modPair p.lead (fun q =>
      { q with confirmed := q.confirmed.filter (fun (c : Ckpt) => teamKey c.team.ckey c.team.handle != t) ++ [k] })
  | _, _ => s

/-- What no compare will confirm any more when a launch ends is discarded and never performed (R181, R184). -/
def State.dropUnconfirmed (s : State) (l : Nat) : State :=
  let ops := s.flight.filter (fun (m : MemOp) => m.launch == l && m.compared)
  let s := (ops.filter (fun m => !m.standIn)).foldl (fun s m => s.count l (clusterKey m.part m.cluster) m.counter m.away false) s
  let ps := s.rputs.filter (fun (r : Rput) => r.launch == l && r.waiting)
  let s := (ps.filter (fun r => !r.standIn)).foldl (fun s r => s.count l r.srcCluster 3 r.values.length false) s
  let drop (q : List Request) : List Request := q.filter (fun r => !(r.launch == l && (r.waiting || r.standIn)))
  { s with
    flight := s.flight.filter (fun (m : MemOp) => !(m.launch == l && m.compared)),
    rputs := s.rputs.filter (fun (r : Rput) => !(r.launch == l && r.waiting)),
    clusters := s.clusters.map (fun (c : Nat × Cluster) => (c.1, { c.2 with reqQ := drop c.2.reqQ, work := drop c.2.work })) }

/-! ### Exits (R41, R53, R58, R86, R112, R125, R249) -/

/-- Whether any request of a team is still with the engines of its cluster (R86). -/
def State.teamBusy (s : State) (t : Nat) : Bool :=
  s.clusters.any (fun c => c.2.reqQ.any (fun r => r.team == t) || c.2.work.any (fun r => r.team == t)
    || c.2.mxQ.any (fun r => r.team == t) || c.2.mxHeld.any (fun r => r.team == t))
  || s.flight.any (fun m => m.team == t && !m.performed)

/-- Whether an access reaches an allocation of a team through its ensemble slot: one of another team, or of the team itself with
an address that names its own member slot (R99). -/
def throughSlot (tm : Team) (t team addr : Nat) : Bool :=
  team != t || tm.ensemble.any (fun e => addr / 2 ^ 20 % 16 == e.2 + 1)

/-- Whether accesses through a team's ensemble slot that have passed their checks are on their way, RPUTs among them: what ELEAVE,
and so the exit of a member, waits for (R99). -/
def State.allocBusy (s : State) (tm : Team) (t : Nat) : Bool :=
  s.flight.any (fun m => !m.performed && m.lanes.any (fun l =>
    match l.place with | .spad k off => tm.owns (k + 1) off && throughSlot tm t m.team l.addr | _ => false))
  || s.clusters.any (fun c => c.2.mxQ.any (fun m => m.rows.any (fun r => tm.owns (r.ck + 1) r.off && throughSlot tm t m.team r.addr)))
  || s.rputs.any (fun (r : Rput) => r.via == some t)

/-- Whether the replies a group awaits are written and its linked chains have ended. -/
def State.replied (s : State) (g : Nat) (x : Group) : Bool :=
  !s.flight.any (fun m => m.agent == Agent.group g && m.uid == x.uid && m.d.isSome)
  && (match s.team? x.team with | none => true | some t => (Sp.getD t.chains x.index []).isEmpty)

/-- Earlier accesses of the group that are not performed yet. -/
def State.undone (s : State) (g : Nat) (x : Group) : Bool :=
  s.flight.any (fun m => m.agent == Agent.group g && m.uid == x.uid && !m.performed)

/-- Whether everything older that a stop waits for is done: replies written, chains filled (R403), and, since what the group
did happens before the WAITEV that returns its event (R125, R130), its accesses performed. -/
def State.settled (s : State) (g : Nat) (x : Group) : Bool := s.replied g x && !s.undone g x

/-- The scratchpad bytes of a team's allocations, full bits and poison, given back as zero and empty (R86). -/
def Cluster.freeAlloc (c : Cluster) (a : Alloc) : Cluster :=
  { c with
    spad := c.spad.clear a.base a.size,
    full := c.full.filter (fun p => !(a.base / 16 ≤ p.1 && p.1 < (a.base + a.size) / 16)),
    poison := c.poison.filter (fun p => !(a.base / 16 ≤ p && p < (a.base + a.size) / 16)),
    barClk := c.barClk.filter (fun p => !(a.base ≤ p.1 && p.1 < a.base + a.size)) }

/-- A team that has exited leaves its cluster when the engines have done with it (R86) and its linked chains have ended (R38); what
its tail holds is kept until its place is taken. Release sequences end with the bytes they are of (R124). -/
def State.reapTeam (s : State) (t : Nat) : State :=
  match s.team? t with
  | none => s
  | some tm =>
    let partner : Bool :=
      match tm.copy with
      | .standIn p => (s.team? p).all (fun x => x.exited)
      | .lead p => (s.team? p).all (fun x => x.exited)
      | .sole => true
    if tm.exited && partner && !s.teamBusy t && !s.allocBusy tm t && tm.chains.all (fun c => c.2.isEmpty) then
      let s := { s with
        teams := Sp.erase s.teams t, pairs := s.pairs.filter (fun p => p.lead != t && p.standIn != t),
        oldTeams := Sp.set s.oldTeams t tm,
        access := s.access.filter (fun a => !tm.owns a.space a.addr),
        published := s.published.filter (fun a => !tm.owns a.space a.addr),
        late := s.late.filter (fun e => !tm.owns e.space e.addr) }
      let s := s.modCluster tm.ckey (fun c => c.freeAlloc tm.alloc)
      if tm.pair then s.modCluster (tm.ckey + 1) (fun c => c.freeAlloc tm.allocHi) else s
    else s

/-- Every team that has exited leaves when it may. -/
def State.reapAll (s : State) : State :=
  (s.teams.filter (fun (p : Nat × Team) => p.2.exited)).foldl (fun s p => s.reapTeam p.1) s

/-- Whether a launch still has a team on a cluster, or may still place one (R58). -/
def State.ctxNeeded (s : State) (xk : Nat) : Bool :=
  match s.ctx? xk with
  | none => false
  | some c =>
    s.teams.any (fun t => t.2.ctx == xk && !t.2.exited)
    || (match s.launch? c.launch with | none => false | some l => l.phase == .placing || l.phase == .waiting)

/-- A context leaves its cluster when its launch has placed all teams and the last one here has exited (R58). -/
def State.reapCtx (s : State) (xk : Nat) : State := if s.ctxNeeded xk then s else s.stopCtx xk

/-- The mirror of a launch on the upper cluster of a pair stops with the context it mirrors (R71). -/
def State.stopMirror (s : State) (ck l : Nat) : State :=
  (s.ctxs.filter (fun (p : Nat × Ctx) => p.1 / 8 == ck && p.2.mirror && p.2.launch == l)).foldl (fun s p => s.stopCtx p.1) s

/-- A team exits (R58, R86, R99); a lead and its stand-in count as one when the second of them exits. A prompter context that waits in
MBGET or MBPUT on the team loses its request and is not ready any more, for which the spec has no rule (R72; DESIGN CHOICE [128]). -/
def State.exitOne (s : State) (t : Nat) : State :=
  match s.team? t with
  | none => s
  | some tm =>
    let s := s.leaveEnsemble t
    let s := s.modTeam t (fun x => { x with exited := true, requests := [] })
    let other : Option Nat := match tm.copy with | .sole => none | .lead p => some p | .standIn p => some p
    let counts := (other.bind s.team?).all (fun x => x.exited)
    let checks : Bool := match tm.copy with | .standIn _ => true | _ => false
    let s := s.modLaunch tm.launch (fun l =>
      { l with exited := l.exited + (counts && !l.killed).toNat, dead := l.dead + (if checks then 0 else tm.dead) })
    let s := s.reapTeam t
    let s := match other with | none => s | some o => s.reapTeam o
    let s := s.reapCtx tm.ctx
    if tm.pair && (s.ctx? tm.ctx).isNone then s.stopMirror (tm.ckey + 1) tm.launch else s

/-- Every group of a team has gone. -/
def State.emptied (s : State) (t : Nat) : Bool := (s.team? t).all (fun x => decide (x.ngroups ≤ x.gone.length))

/-- The last group of a team has gone: the team exits. A member of an ensemble first waits, as ELEAVE does, for the accesses
through its slot that have passed their checks (R99). A lead and a stand-in exit together, once every compared operation
of theirs is confirmed, since a mismatch would bring their groups back (R181, R184); those of a launch that has ended at
once. -/
def State.exitTeam (s : State) (t : Nat) : State :=
  let ended : Bool := match (s.team? t).bind (fun x => s.launch? x.launch) with | none => true | some l => l.killed
  match s.pairOf? t with
  | none => if !ended && (s.team? t).any (fun x => x.ensemble.isSome && s.allocBusy x t) then s else s.exitOne t
  | some p =>
    if ended then s.exitOne t
    else if s.emptied p.lead && s.emptied p.standIn && p.entries.isEmpty && !p.mismatch && p.awaited.isNone && p.exitsAgree then
      (s.exitOne p.lead).exitOne p.standIn
    else s

/-- Members that have waited to exit do so when the accesses through their slots are performed (R99). -/
def State.exitWaiting (s : State) : State :=
  (s.teams.filter (fun (p : Nat × Team) => p.2.ensemble.isSome && !p.2.exited && s.emptied p.1)).foldl (fun s p => s.exitTeam p.1) s

/-- One of a group's group-counted words receives a lowering, while it is one (R112). -/
def State.lowerCounted (s : State) (b : Nat) : State :=
  if (BarWord.ofNat ((s.cluster (b / 2 ^ 20)).spad.read (b % 2 ^ 20) 16)).mode then s.barUpdate (b / 2 ^ 20) (b % 2 ^ 20) [] BarWord.lower
  else s

/-- A group leaves its line and its slice: by EXIT, by the death of its lanes, or killed (R23, R41, R53, R112). Its slot and its
registers are free; what they hold, and what replies on their way still write, stays to be read until the slot is taken. -/
def State.exitGroup (s : State) (g : Nat) : State :=
  match s.group? g with
  | none => s
  | some x =>
    let allDead := x.deadMask &&& lanesBelow x.extent == lanesBelow x.extent
    let s := { s with groups := Sp.erase s.groups g, oldGroups := Sp.set s.oldGroups g { x with run := .exited, onStage := false, parked := false } }
    let s := s.modCluster x.ckey (fun c =>
      { c with
        mxHeld := c.mxHeld.filter (fun m => m.uid != x.uid),
        heldGone := match x.heldB with
          | none => c.heldGone
          | some h => if c.mxQ.any (fun m => m.uid == x.uid) then Sp.set c.heldGone x.uid h else c.heldGone })
    let s := s.modLaunch x.launch (fun l => { l with exitClk := Clock.join l.exitClk x.clk })
    let bars := match s.team? x.team with | none => [] | some t => t.bars1
    let s := if allDead then bars.foldl State.lowerCounted s else s
    let s := match s.pairOf? x.team with
      | none => s
      | some p => s.modPair p.lead (fun q => { q with exits := q.exits ++ [(x.index, p.lead == x.team, x.events)] })
    let s := s.modTeam x.team (fun t =>
      { t with
        gone := insNat x.index t.gone,
        handOn := if x.index = 0 then t.handOn else Sp.erase t.handOn (x.index - 1),
        chains := if x.index = 0 then t.chains else
          Sp.modify t.chains (x.index - 1) (fun cs => cs.map (fun c => { c with discard := true })),
        requests := t.requests.filter (fun r => r.agent != Agent.group g) })
    let s := { s with
      access := s.access.filter (fun a => a.uid != x.uid),
      faulted := s.faulted.filter (fun w => w.agent != Agent.group g),
      walks := s.walks.map (fun (p : Nat × List WalkReq) => (p.1, p.2.filter (fun w => w.agent != Agent.group g))) }
    match s.team? x.team with
    | none => s
    | some t => if t.ngroups ≤ t.gone.length then s.exitTeam x.team else s

/-- A killed launch's engine requests that wait on a translation fault are settled (R422): they end as they stand. -/
def State.settleFaults (s : State) (l : Nat) : State :=
  let stuck := (s.clusters.flatMap (fun c => c.2.work)).filter (fun r => r.launch == l && s.faulted.any (fun w => w.req == r.id))
  let gone (q : List Request) : List Request := q.filter (fun r => !stuck.any (fun t => t.id == r.id))
  { s with
    clusters := s.clusters.map (fun (c : Nat × Cluster) => (c.1, { c.2 with work := gone c.2.work })),
    faulted := s.faulted.filter (fun w => !stuck.any (fun t => t.id == w.req)) }

/-- Every team of a launch is killed on every cluster, and its contexts stop (R78); what stands on a frozen cluster is preserved
there (R426). -/
def State.killLaunch (s : State) (l : Nat) : State :=
  let s := (s.groups.filter (fun p => p.2.launch == l && !(s.cluster p.2.ckey).frozen)).foldl (fun s p => s.exitGroup p.1) s
  let s := (s.dropUnconfirmed l).settleFaults l
  let s := (s.ctxs.filter (fun p => p.2.launch == l && p.2.num < 6 && p.2.active && !(s.cluster (p.1 / 8)).frozen)).foldl (fun s p => s.stopCtx p.1) s
  ((s.teams.filter (fun p => p.2.launch == l && !p.2.exited)).foldl (fun s p => if s.emptied p.1 then s.exitOne p.1 else s) s).reapAll

/-- The end of a launch with a status, once: its teams are killed, its contexts stop; it completes when its counters
are zero (R78, R397). -/
def State.endLaunch (s : State) (l : Nat) (status : Nat) (word : DWord) : State :=
  match s.launch? l with
  | none => s
  | some x =>
    if x.killed then s
    else
      let s := s.setLaunch l { x with killed := true, status := status, faultWord := word, phase := .placed }
      s.killLaunch l

/-- A fault that is fatal to a partition: every launch of it ends with PARTITION_FATAL (R175). -/
def State.partitionFatal (s : State) (p : Nat) : State :=
  let s := s.modPart p (fun x => { x with fatal := true })
  (s.launches.filter (fun l => l.2.part == p)).foldl (fun s l => s.endLaunch l.1 0x0C 0) s

/-! ### Level-G faults (R78, R348) -/

/-- The status a level-G fault of a context gives its launch (R78). -/
def levelGStatus (cause : Nat) (inService : Bool) : Nat :=
  if inService then 0x07
  else if cause = 0x20 then 0x05 else if cause = 0x21 then 0x06 else if cause = 0x25 then 0x08 else 0x07

/-- A level-G fault of a generator context: its record goes to the system context, and the launch ends (R78, R348). -/
def State.levelG (s : State) (xk cause : Nat) (body : Rec) : State :=
  match s.ctx? xk with
  | none => s
  | some c =>
    let w0 := BitVec.ofNat 64 (cause * 2 ^ 56 + c.num * 2 ^ 53 + c.pc.toNat)
    let s := s.postSystem (xk / 8) { body with w0 := w0 }
    s.endLaunch c.launch (levelGStatus cause (!c.inService.isEmpty)) w0

/-! ### Taking a lane event, and the return from it (R74–R77, R403, R405) -/

/-- Whether the other copy of a group, if it has one, is halted by an event of both at the same ordinal (R186): at the same count
of issued instructions, and not by ASSIST, which each copy serves alone. -/
def State.partnerStopped (s : State) (x : Group) : Bool :=
  match s.team? x.team with
  | none => true
  | some t =>
    match t.copy with
    | .sole => true
    | .standIn _ => false
    | .lead p => (s.groupsOf p).any (fun y => y.2.index == x.index && y.2.stop.isSome && !y.2.assist && y.2.issued == x.issued)

/-- A record put in a context's event queue (R76). -/
def State.enqueue (s : State) (xk : Nat) (r : Rec) (clk : Clock) (g : Nat) : State :=
  s.modCtx xk (fun c =>
    { c with events := c.events ++ [(r, clk, g)], wait := if c.wait == .event then .run else c.wait })

/-- The event of a halted group is posted as soon as it may be: to the assist context for ASSIST, else to the
generator, where the evmask bit read now decides whether it is handled (R76, R77). The assist context's queue takes any number
of records, which R76 does not say (DESIGN CHOICE [27]). -/
def State.tryPost (s : State) (g : Nat) : State :=
  match s.group? g with
  | none => s
  | some x =>
    match x.stop with
    | none => s
    | some r =>
      if x.posted || !s.settled g x then s
      else if x.assist then
        let s := s.enqueue (ctxKey x.ckey 6) r x.clk g
        s.modGroup g (fun x => { x with posted := true })
      else if !s.partnerStopped x then s
      else
        match s.team? x.team with
        | none => s
        | some t =>
          match s.ctx? t.ctx with
          | none => s
          | some c =>
            if !c.evmask.getLsbD r.cause then
              let s := s.modGroup g (fun x => { x with posted := true })
              s.levelG t.ctx 0x25 r
            else if c.events.length < 64 then
              let s := s.enqueue t.ctx r x.clk g
              s.modGroup g (fun x => { x with posted := true })
            else s

/-- A reply or the end of a chain lets a stop be posted (R403). -/
def State.settles (s : State) (g : Nat) : State := s.tryPost g

/-- The slice number a record names: 6 to 11 for the upper cluster of a pair (R75). -/
def State.recSlice (s : State) (x : Group) : Nat :=
  match s.team? x.team with
  | none => x.slice
  | some t => if t.pair && x.cluster != t.cluster then 6 + x.slice else x.slice

/-- The record of a lane event (R75). -/
def State.laneRec (s : State) (x : Group) (slotB : Bool) (cause : Nat) (saddr : BitVec 20) (lanes : DWord)
    (detail : Nat) (addr : Nat) : Rec :=
  let w := s.wordAt x saddr
  { w0 := recWord0 cause (x.team % 192) x.index slotB.toNat (s.recSlice x) x.gslot saddr.toNat,
    w1 := lanes, w2 := w.1, w3 := recWord3 detail w.2.toNat, w4 := BitVec.ofNat 64 addr }

/-- TAKING A LANE EVENT, the one exception entry of a group (R74, R75, R403): the whole group halts with its event hold,
its slots keep the place they resume at, and the record is posted as soon as R403 and R76 allow. -/
def State.takeEvent (s : State) (g : Nat) (slotB : Bool) (cause : Nat) (saddr : BitVec 20) (lanes : DWord)
    (detail : Nat) (addr : Nat) : State :=
  match s.group? g with
  | none => s
  | some x =>
    let r := s.laneRec x slotB cause saddr lanes detail addr
    let s := s.setGroup g
      { x with run := .halted, evHold := true, onStage := false, parked := false, latches := [], stop := some r,
               posted := false, assist := cause == 0x0B, events := x.events + 1 }
    s.tryPost g

/-- Both holds are clear (R405). -/
def Group.holdsClear (x : Group) : Bool := !x.evHold && !x.dbgHold && !x.trHold

/-- A halted group whose holds are clear is ready in the wings (R23). -/
def Group.wake (x : Group) (now : Nat) : Group :=
  if x.run == .halted && x.holdsClear then { x with run := .active, onStage := false, parked := false, readyAge := now } else x

/-- The slice cycle of a group's slice. -/
def State.sliceNow (s : State) (x : Group) : Nat := Sp.getD (s.cluster x.ckey).cycle x.slice 0

/-- THE RETURN FROM A LANE EVENT (R77, R405): the event is disposed of, the hold is cleared (by the system context both holds, that
of a translation fault among them, whose access is tried again), and the group goes on where its slots stand; the resumer's
clock happens before its next instruction. -/
def State.returnEvent (s : State) (g : Nat) (both : Bool) (clk : Clock) : State :=
  match s.group? g with
  | none => s
  | some x =>
    let again (v : Slot) : Slot := if both && v.wait == .walk then { v with wait := .run } else v
    let x := { x with evHold := false, dbgHold := x.dbgHold && !both, trHold := x.trHold && !both, stop := none, posted := false,
                      assist := false, slotA := again x.slotA, slotB := again x.slotB, clk := Clock.join x.clk clk }
    let s := if both then { s with faulted := s.faulted.filter (fun w => w.agent != Agent.group g) } else s
    s.setGroup g (x.wake (s.sliceNow x))

/-! ### Tags and reconvergence (R45–R48, R243–R249) -/

/-- Tags in use: held by a slot or an entry as tag or outer tag, or by a call record as its base (R45). -/
def Group.tagsInUse (x : Group) : List Nat :=
  let ofCalls (l : List CallRec) : List Nat := l.map CallRec.base
  [x.slotA.tag, x.slotA.outer, x.slotB.tag, x.slotB.outer] ++ ofCalls x.slotA.calls ++ ofCalls x.slotB.calls
    ++ x.stack.flatMap (fun e => [e.tag, e.outer] ++ ofCalls e.defCalls ++ ofCalls e.arrCalls)

/-- The next tag of the 8-bit counter, which skips 0 and values in use (R45). -/
def Group.newTag (x : Group) : Option (Nat × Group) :=
  let cand := (List.range 256).map (fun i => (x.nextTag + i) % 256)
  match cand.find? (fun t => t != 0 && !x.tagsInUse.contains t) with
  | none => none
  | some t => some (t, { x with nextTag := (t + 1) % 256 })

/-- The items the group's stack area holds: entries, and call records once for each place that holds them (R244). -/
def Group.items (x : Group) : Nat :=
  x.slotA.calls.length + x.slotB.calls.length
    + x.stack.foldl (fun n e => n + 1 + e.defCalls.length + e.arrCalls.length) 0

/-- A slot that is no longer live. -/
def Group.freeSlot (x : Group) (b : Bool) : Group :=
  let x := x.setSlot b {}
  x.modSlot (!b) (fun v => match v.wait with | .atCue _ => { v with wait := .run } | _ => v)

/-- The slot goes on at the following word; past offset 4,095 it is out of its segment (R64). -/
def Group.advance (x : Group) (b : Bool) : Group :=
  x.modSlot b (fun v => { v with pc := v.pc + 1, past := v.past || offOf v.pc == 4095, wait := .run, waitAt := 0, wants := [] })

/-- What performing a JOIN did (R46). -/
inductive Joined where
  | noEffect | merged | waits | deferred | popped
deriving DecidableEq, Repr

/-- The outer tag of a slot that takes a tag again by a merge or a resumption (DESIGN CHOICE [93]): the spec gives the slot its
new tag only; its outer tag is the one that the tag's slots had when the tag was drawn. -/
def Group.outerTag (x : Group) (tag : Nat) : Nat := Sp.getD x.outerOf tag 0

/-- JOIN performed for a slot, at its pc (R46). An entry whose deferred part holds no lane any more is popped at once: that
part is decided as empty by the table of R249, which resumes the arrived one (R51). `base` is the record's base when the JOIN
belongs to the repetition of R247. -/
def Group.join (x : Group) (b : Bool) (base : Option Nat) : Group × Joined :=
  let v := x.slot b
  let o := x.slot (!b)
  if v.tag = 0 then (x, .noEffect)
  else if o.live && o.tag = v.tag then
    let here := match o.wait with | .atJoin => o.pc == v.pc | .atRet _ => o.pc == v.pc | _ => false
    if here then
      let x := x.setSlot b { v with mask := v.mask ||| o.mask, tag := v.outer, outer := x.outerTag v.outer }
      (x.freeSlot (!b), .merged)
    else (x.setSlot b { v with wait := match base with | some k => .atRet k | none => .atJoin }, .waits)
  else
    match x.stack with
    | [] => (x, .noEffect)
    | e :: rest =>
      if e.tag ≠ v.tag then (x, .noEffect)
      else if !e.defRun && e.defMask != 0 then
        let e' := { e with defRun := true, defCalls := [], arrPc := v.pc, arrMask := v.mask, arrCalls := v.calls, arrBase := base }
        ({ (x.setSlot b { v with pc := e.defPc, mask := e.defMask, calls := e.defCalls, past := false }) with
            stack := e' :: rest }, .deferred)
      else
        ({ (x.setSlot b { v with mask := v.mask ||| e.arrMask, tag := e.outer, outer := x.outerTag e.outer }) with
            stack := rest }, .popped)

/-- The repetition of R247 at a return address, toward a base; each JOIN that goes on lowers the nesting by one, so the
number of live splits bounds it. -/
def Group.repeatJoin (x : Group) (b : Bool) (base : Nat) : Nat → Group
  | 0 => x
  | n + 1 =>
    if (x.slot b).tag = base then x
    else
      match x.join b (some base) with
      | (y, .merged) => Group.repeatJoin y b base n
      | (y, .popped) => Group.repeatJoin y b base n
      | (y, _) => y

/-- The bound of `repeatJoin`. -/
def Group.nesting (x : Group) : Nat := x.stack.length + 2

/-- A slot whose mask is empty is decided by the table of R249. -/
def Group.vacate (x : Group) (b : Bool) : Nat → Group
  | 0 => x.freeSlot b
  | n + 1 =>
    let v := x.slot b
    let o := x.slot (!b)
    let other :=
      if o.live && o.tag = v.tag && v.tag ≠ 0 then
        let up := { o with wait := .run, tag := o.outer, outer := x.outerTag o.outer }
        match o.wait with
        | .atJoin => ((x.setSlot (!b) up).freeSlot b).advance (!b)
        | .atRet base => ((x.setSlot (!b) up).freeSlot b).repeatJoin (!b) base x.nesting
        | _ => x.freeSlot b
      else x.freeSlot b
    match x.stack with
    | [] => other
    | e :: rest =>
      if e.tag ≠ v.tag then other
      else if !e.defRun then
        let y := { (x.setSlot b { v with pc := e.defPc, mask := e.defMask, calls := e.defCalls, wait := .run, past := false }) with
                    stack := { e with defRun := true, defCalls := [], arrMask := 0, arrCalls := [] } :: rest }
        if e.defMask = 0 then Group.vacate y b n else y
      else
        let y := { (x.setSlot b { v with pc := e.arrPc, mask := e.arrMask, calls := e.arrCalls, tag := e.outer,
                                         outer := x.outerTag e.outer, wait := .run, past := false }) with stack := rest }
        if e.arrMask = 0 then Group.vacate y b n
        else match e.arrBase with | some base => y.repeatJoin b base y.nesting | none => y

/-- The bound of `vacate`: each entry is looked at at most twice. -/
def Group.vacateFuel (x : Group) : Nat := 2 * x.stack.length + 1

/-- Lanes leave a slot's mask and every deferred and arrived mask (R51, R249); a slot this empties is decided. -/
def Group.dropLanes (x : Group) (lanes : DWord) (both : Bool) (b : Bool) : Group :=
  let x := { x with stack := x.stack.map (fun e => { e with defMask := e.defMask &&& ~~~lanes, arrMask := e.arrMask &&& ~~~lanes }) }
  let one (x : Group) (b : Bool) : Group :=
    let v := x.slot b
    if v.mask &&& lanes = 0 then x
    else
      let x := x.setSlot b { v with mask := v.mask &&& ~~~lanes }
      if v.mask &&& ~~~lanes = 0 then x.vacate b x.vacateFuel else x
  if both then one (one x false) true else one x b

/-- The group is done when both slots are free and no entry holds a lane (R249). -/
def Group.empty (x : Group) : Bool :=
  !x.slotA.live && !x.slotB.live && x.stack.all (fun e => e.defMask == 0 && e.arrMask == 0)

/-! ### Transfers (R24, R64) -/

/-- A slot that a transfer has brought into a free or retiring segment is out of range there, unless it stays in the segment
it comes from; a part that a split has made comes from the slot that split (R64). -/
def Group.landSlot (c : Ctx) (old x : Group) (b : Bool) : Group :=
  let v := x.slot b
  let o := if (old.slot b).live then old.slot b else old.slot (!b)
  if v.live && segOf o.pc != segOf v.pc && c.badTransfer v.pc then x.setSlot b { v with past := true } else x

/-- Both slots after a transfer. -/
def Group.land (c : Ctx) (old x : Group) : Group := (Group.landSlot c old (Group.landSlot c old x false) true)

/-- A slot that has been moved to another instruction: that dates from now (R24). -/
def Group.ageSlot (now : Nat) (old x : Group) (b : Bool) : Group :=
  if x.slot b == old.slot b then x else x.modSlot b (fun v => { v with age := now })

/-- The group after its slots were moved: they have landed (R64), and date from now (R24). -/
def State.landed (s : State) (old x : Group) : Group :=
  let y := match s.ctxOf old with | none => x | some c => Group.land c old x
  Group.ageSlot (s.sliceNow old) old (Group.ageSlot (s.sliceNow old) old y false) true

/-! ### Waiting (R22, R23) -/

/-- Whether a wait parks: the long-latency dependences of R22, and the waits that their own entries call so (R64, R109, R128,
R275, R277, R289, R302). -/
def Wait.long : Wait → Bool
  | .reply | .mailBlocked | .fullEmpty | .barrier | .kick | .handOn | .arrivals | .grow | .engine | .batch | .path _ | .segment _
  | .leave | .walk | .memOrder => true
  | .run | .atJoin | .atRet _ | .atCue _ | .teamCue _ | .mailbox => false

/-- A slot whose matrix instruction parks the whole group (R303). -/
def Slot.joins (v : Slot) : Bool := v.live && v.wait == .engine

/-- A group is parked when each slot is parked or empty (R22), or by a matrix join of one (R303). -/
def Group.mayPark (x : Group) : Bool :=
  x.slotA.joins || x.slotB.joins || ((!x.slotA.live || x.slotA.wait.long) && (!x.slotB.live || x.slotB.wait.long))

/-- A slot waits for something (R22), the registers or numbers it wants noted: its word is issued again when the
dependence is resolved. A group whose slots are all parked or empty is parked. -/
def State.park (s : State) (g : Nat) (slotB : Bool) (w : Wait) (wants : List Nat := []) : State :=
  s.modGroup g (fun x =>
    let y := x.modSlot slotB (fun v => { v with wait := w, wants := wants })
    if y.mayPark && !y.parked then { y with parked := true, parkedAt := s.sliceNow x } else y)

/-- A group that is parked no longer, when a slot of it may go on (R23): in the wings it is ready from now on. -/
def Group.unpark (x : Group) (now : Nat) : Group :=
  if x.parked && !x.mayPark then { x with parked := false, readyAge := if x.onStage then x.readyAge else now } else x

/-! ### Dead lanes (R51, R53, R112, R114) -/

/-- A lane dies: it leaves every mask, the team's barrier words and arrival counters account for it, and the group exits
as by EXIT when nothing is left (R53, R249). -/
def State.laneDies (s : State) (g lane : Nat) : State :=
  match s.group? g with
  | none => s
  | some x =>
    if laneBit x.deadMask lane || x.extent ≤ lane then s
    else
      let bit := 1#64 <<< lane
      let y := { (x.dropLanes bit true false) with deadMask := x.deadMask ||| bit, latent := x.latent.filter (fun k => k % 64 != lane) }
      let s := s.setGroup g ((s.landed x y).unpark (s.sliceNow x))
      let s := s.modTeam x.team (fun t => { t with dead := t.dead + 1 })
      let bars := match s.team? x.team with | none => [] | some t => t.bars0
      let s := bars.foldl (fun s b => s.barUpdate (b / 2 ^ 20) (b % 2 ^ 20) [] BarWord.lower) s
      let s := (s.groupsOf x.team).foldl (fun s p =>
        s.modGroup p.1 (fun y => { y with arrivals := y.arrivals + 1, arrClk := y.arrClk ++ [(1, [])] })) s
      if y.empty then (s.release g).exitGroup g else s

/-! ### Going on -/

/-- The slot goes on at an address. -/
def Group.goto (x : Group) (b : Bool) (a : BitVec 20) : Group :=
  x.modSlot b (fun v => { v with pc := a, past := false, wait := .run, waitAt := 0, wants := [] })

/-! ### Starting a team (R21, R44, R69, R70) -/

/-- Every group of a team starts at an address: slot A with every lane below the extent that is not dead. -/
def State.startTeam (s : State) (t : Nat) (a : BitVec 20) (clk : Clock) : State :=
  let s := s.modTeam t (fun x => { x with started := true })
  let s := (s.groupsOf t).foldl (fun s p =>
    s.setGroup p.1
      { p.2 with
        slotA := { pc := a, mask := lanesBelow p.2.extent &&& ~~~p.2.deadMask, age := s.sliceNow p.2 }, slotB := {}, started := true,
        parked := false, readyAge := s.sliceNow p.2, clk := Clock.join p.2.clk clk }) s
  s.startCheckpoint t

/-- The start of a team at an address, whatever its segment's state: at once, at SEAL, or, where the segment is retiring or
still free at the first fetch, with SCRIPT_RANGE (R64, R69). -/
def State.startAt (s : State) (t : Nat) (a : BitVec 20) (clk : Clock) : State :=
  match (s.team? t).bind (fun tm => (s.ctx? tm.ctx).map (fun c => (tm.ctx, c))) with
  | none => s
  | some (xk, c) =>
    match Sp.get? c.segs (segOf a) with
    | some sg =>
      if sg.state == .open_ then
        let s := s.modTeam t (fun x => { x with started := true })
        s.setCtx xk { c with segs := Sp.set c.segs (segOf a) { sg with starts := sg.starts ++ [(t, a)] } }
      else if sg.state == .sealed then s.startTeam t a clk
      else
        let s := s.startTeam t a clk
        (s.groupsOf t).foldl (fun s p => s.setGroup p.1 (p.2.modSlot false (fun v => { v with past := true }))) s
    | none => s.startTeam t a clk

/-! ### The error history and the report ring (R439, R440, R451) -/

/-- The count of events of a type on a unit, one more (R440). A `kind` tells units of one type apart that the record does not:
a port or a cluster, a cluster or a memory device, a replay or its report. -/
def House.tally (h : House) (type kind unit : Nat) : House × Nat :=
  let key := (type * 4 + kind) * 2 ^ 32 + unit
  let n := Sp.getD h.counts key 0 + 1
  ({ h with counts := Sp.set h.counts key n }, n)

/-- An entry put into the ring of the error history, the oldest overwritten when it is full (R451). -/
def House.enter (h : House) (e : HistEntry) : House :=
  let hist := h.history ++ [{ e with time := h.time, seq := h.histSeq }]
  { h with history := if 65536 < hist.length then hist.drop 1 else hist, histSeq := h.histSeq + 1 }

/-- An entry of the error history that is no report: the words of R440 with the number of the next report, which it does not
take (DESIGN CHOICE [116]). -/
def State.historyAdd (s : State) (type part unit detail : Nat) (injected : Bool) (kind : Nat := 0) : State :=
  let (h, n) := s.house.tally type kind unit
  let e : HistEntry :=
    { w0 := BitVec.ofNat 64 (type * 2 ^ 56 + part * 2 ^ 48 + unit), w1 := BitVec.ofNat 64 detail, w2 := BitVec.ofNat 64 n,
      w3 := BitVec.ofNat 64 (s.erSeq + 1), time := 0, injected := injected }
  { s with house := h.enter e }

/-- An error report (R439, R440): its four words go into the history (R451), and into the driver's ring when it is enabled and has
room. -/
def State.report (s : State) (type part unit detail : Nat) (kind : Nat := 0) : State :=
  let (h, n) := s.house.tally type kind unit
  let e : HistEntry :=
    { w0 := BitVec.ofNat 64 (type * 2 ^ 56 + part * 2 ^ 48 + min s.erLost 0xFFFF * 2 ^ 32 + unit), w1 := BitVec.ofNat 64 detail,
      w2 := BitVec.ofNat 64 n, w3 := BitVec.ofNat 64 (s.erSeq + 1), time := 0 }
  let s := { s with house := h.enter e, erSeq := s.erSeq + 1 }
  if !s.erEn then s
  else if s.erHead - s.erTail < 128 * 2 ^ s.erSize then
    let a := s.erBase + 32 * (s.erHead % (128 * 2 ^ s.erSize))
    { s with
      mem := (((s.mem.write a 8 e.w0.toNat).write (a + 8) 8 e.w1.toNat).write (a + 16) 8 e.w2.toNat).write (a + 24) 8 e.w3.toNat,
      erHead := s.erHead + 1, erLost := 0 }
  else { s with erLost := s.erLost + 1 }

/-- The tableau trigger (R452): it latches once; further triggers are counted. -/
def State.tableauFire (s : State) : State :=
  match s.house.tableau with
  | none => { s with house := { s.house with tableau := some (Config.tableauData s.free) }, free := s.free + 1 }
  | some _ => { s with house := { s.house with retriggers := s.house.retriggers + 1 } }

/-- A partition-fatal error (R175, R440, R452); the partition does not run again when a frozen cluster of it rejoins. -/
def State.fatal (s : State) (p cause : Nat) : State :=
  ((s.modPart p (fun q => { q with frozenFatal := false })).partitionFatal p).report 0x0B p p cause |>.tableauFire

/-- Word 0 of a record about a requester (R75, R348, R407); of a group, in the slot that made the access. -/
def State.requesterWord (s : State) (cause : Nat) (ag : Agent) (slotB : Bool) : DWord :=
  match ag with
  | .group g =>
    match s.group? g with
    | none => BitVec.ofNat 64 (cause * 2 ^ 56)
    | some x => recWord0 cause (x.team % 192) x.index slotB.toNat (s.recSlice x) x.gslot (x.slot slotB).pc.toNat
  | .ctx c =>
    match s.ctx? c with
    | none => BitVec.ofNat 64 (cause * 2 ^ 56)
    | some x => BitVec.ofNat 64 (cause * 2 ^ 56 + x.num * 2 ^ 53 + x.pc.toNat)
  | .engine _ _ => BitVec.ofNat 64 (cause * 2 ^ 56)
  | .host _ => BitVec.ofNat 64 (cause * 2 ^ 56)

/-- The record of a violation (R407), made while its requester stands; its detail has no layout in the spec. -/
def State.violationRec (s : State) (ag : Agent) (slotB : Bool) (addr : Nat) : Rec :=
  { w0 := s.requesterWord 0x32 ag slotB, w3 := recWord3 (Config.freeDetail s.free) 0, w4 := BitVec.ofNat 64 addr }

/-- A violation is recorded with the system contexts of every partition that is not stopped (R426). -/
def State.postViolation (s : State) (r : Rec) : State :=
  (s.parts.filter (fun (p : Nat × Part) => !p.2.fatal && !p.2.pairs.isEmpty)).foldl
    (fun s (p : Nat × Part) => s.postSystem (clusterKey p.1 p.2.firstCluster) r) s

/-- A protection violation by a unit or engine of a cluster (R426): the cluster is frozen as it stands with its tableau latched, the
partition is fatal, and the violation is reported and recorded. -/
def State.violation (s : State) (ag : Agent) (slotB : Bool) (part cluster addr : Nat) : State :=
  let r := s.violationRec ag slotB addr
  let s := s.modCluster (clusterKey part cluster) (fun c => { c with frozen := true, tableauRead := false })
  let s := s.modPart part (fun p => { p with frozenFatal := p.frozenFatal || !p.fatal })
  let s := (((s.partitionFatal part).report 0x09 part cluster r.w3.toNat).report 0x0B part part 6).tableauFire
  { s.postViolation r with free := s.free + 1 }

/-- A protection violation by a host port (R426): the port's requests are frozen, everything else continues. -/
def State.hostViolation (s : State) (port addr : Nat) : State :=
  let r := s.violationRec (.host port) false addr
  let s := s.modPort port (fun p => { p with frozen := true })
  let s := (s.report 0x09 0xFF port r.w3.toNat 1).tableauFire
  { s.postViolation r with free := s.free + 1 }

end Sys2Proof.Machine
end

