-- ==== Sys2Proof/Machine/Rollback.lean ====
section
/-! DEFINITION. Lead and stand-in (R179–R186), the part the other files need: finding a team's pair, what a mismatch
does, the rollback to the confirmed checkpoint, and the consumption of an uncorrectable error. -/

namespace Sys2Proof.Machine

/-- Both copies are stopped by a mismatch until they are restored (R184). -/
def State.stoppedByMismatch (s : State) (x : Group) : Bool :=
  match s.pairOf? x.team with | none => false | some p => p.mismatch

/-- The other copy of a group: the group of the same index in the partner team (R179). -/
def State.otherCopy (s : State) (x : Group) : Option (Nat × Group) :=
  match s.team? x.team with
  | none => none
  | some t =>
    match t.copy with
    | .sole => none
    | .lead p => (s.groupsOf p).find? (fun y => y.2.index == x.index)
    | .standIn p => (s.groupsOf p).find? (fun y => y.2.index == x.index)

/-- Whether a team is the lead of its pair. -/
def PairOf.isLead (p : PairOf) (t : Nat) : Bool := p.lead == t

/-- The team a checkpoint is of. -/
def Ckpt.key (k : Ckpt) : Nat := teamKey k.team.ckey k.team.handle

/-- The group of an index as a checkpoint holds it; none when it had exited. -/
def Ckpt.at_ (k : Ckpt) (i : Nat) : Option Group := (k.groups.find? (fun y => y.2.index == i)).map Prod.snd

/-- Whether every entry a copy issued before its checkpoint is confirmed. -/
def PairOf.settledAt (p : PairOf) (k : Ckpt) : Bool :=
  p.entries.all (fun e => e.lead != p.isLead k.key || (match k.at_ e.group with | none => false | some x => decide (x.compared ≤ e.ordinal)))

/-- The copies' checkpoints agree: the same cue number, and as many lane events of each group before it (R183). -/
def Ckpt.agrees (k l : Ckpt) : Bool :=
  k.cue == l.cue && k.groups.all (fun (p : Nat × Group) => match l.at_ p.2.index with | none => true | some y => y.events == p.2.events)

/-- A cue point becomes confirmed: the log, the rollbacks and the errors begin anew from it (R182, R185). -/
def PairOf.confirmCue (p : PairOf) (k l : Ckpt) : PairOf :=
  { p with
    confirmed := [k, l], pending := p.pending.filter (fun (c : Ckpt) => c != k && c != l),
    log := p.log.filter (fun (e : LogEntry) => match k.at_ e.group with | none => false | some x => decide (x.compared ≤ e.ordinal)),
    errors := p.errors.filter (fun (e : Nat × Nat × Nat × Bool) => match k.at_ e.1 with | none => false | some x => decide (x.issued ≤ e.2.2.1)),
    overflow := false, rollbacks := 0, replay := false }

/-- Both copies' pending checkpoints, when they agree and everything before them is confirmed: the cue point is confirmed
(R182). -/
def PairOf.settledCue (p : PairOf) : Option (Ckpt × Ckpt) :=
  match p.pending.find? (fun k => k.key == p.lead), p.pending.find? (fun k => k.key == p.standIn) with
  | some k, some l => if k.agrees l && p.settledAt k && p.settledAt l then some (k, l) else none
  | _, _ => none

/-- A mismatch is found: a cue point that has everything before it confirmed is confirmed first (R182); both copies are stopped
(R184). -/
def PairOf.mismatched (p : PairOf) : PairOf :=
  { (match p.settledCue with | none => p | some (k, l) => p.confirmCue k l) with mismatch := true }

/-- The team's launch has lost its context; under stand-in execution the copies differ (R177, R183). -/
def State.teamError (s : State) (t : Nat) : State :=
  match s.pairOf? t, s.team? t with
  | some p, _ => s.modPair p.lead PairOf.mismatched
  | none, some tm => s.endLaunch tm.launch 0x09 0
  | none, none => s

/-- An uncorrectable error in a word, the state or a reply of a generator context (R177, R183): a mismatch of the copies that run with
it, else its launch has lost its context. -/
def State.ctxError (s : State) (c : Nat) (x : Ctx) : State :=
  let copies := (s.teams.filter (fun t => t.2.ctx == c && !t.2.exited && (s.pairOf? t.1).isSome)).map Prod.fst
  if copies.isEmpty then s.endLaunch x.launch 0x09 0 else copies.foldl State.teamError s

/-- An uncorrectable error that a lane consumes (R51, R177): the lane dies; under stand-in execution it is a mismatch
instead, unless the same lane consumed one at the same ordinal before, when it dies in both copies (R183, R185). The ordinal is
the group's count of issued instructions (DESIGN CHOICE [96]). -/
def State.consume (s : State) (g lane : Nat) : State :=
  match s.group? g with
  | none => s
  | some x =>
    match s.pairOf? x.team with
    | none => s.laneDies g lane
    | some p =>
      if p.errors.any (fun e => e.1 == x.index && e.2.1 == lane && e.2.2.1 == x.issued) then
        let o := s.otherCopy x
        let s := s.laneDies g lane
        match o with | none => s | some y => s.laneDies y.1 lane
      else s.modPair p.lead (fun q => { q.mismatched with errors := q.mismatched.errors ++ [(x.index, lane, x.issued, p.isLead x.team)] })

/-- A word whose lanes have consumed an error at this ordinal before waits for the other copy to stand at it (R185). -/
def State.consumesAgain (s : State) (x : Group) (lanes : List Nat) : Bool :=
  match s.pairOf? x.team with
  | none => false
  | some p => p.errors.any (fun e => e.1 == x.index && lanes.contains e.2.1 && e.2.2.1 == x.issued)
      && (s.otherCopy x).any (fun y => decide (y.2.issued < x.issued))

/-- The errors that the lanes of a word consume (R51, R177, R185). -/
def State.consumeAt (s : State) (g : Nat) (lanes : List Nat) : State :=
  match s.group? g with
  | none => s
  | some x => if s.consumesAgain x lanes then s else lanes.foldl (fun s j => s.consume g j) s

/-- In replay a copy stands at an ordinal at which a lane of the other copy consumed an error, until that copy has come to it and
gone past it (R185). -/
def State.awaitsError (s : State) (x : Group) : Bool :=
  match s.pairOf? x.team with
  | none => false
  | some p => p.errors.any (fun e => e.1 == x.index && e.2.2.1 == x.issued && e.2.2.2 != p.isLead x.team && !laneBit x.deadMask e.2.1)
      && (s.otherCopy x).any (fun y => decide (y.2.issued ≤ x.issued))

/-- The requests of a team's mailboxes after a restore: its groups' as the checkpoint has them, its context's as they stand. -/
def restoredRequests (now then_ : List MbReq) : List MbReq :=
  let ofCtx (r : MbReq) : Bool := match r.agent with | .ctx _ => true | _ => false
  then_.filter (fun r => !ofCtx r) ++ now.filter ofCtx

/-- A group restored from a checkpoint: requests of its batches that are finished since are delivered (R184). -/
def Group.restored (x : Group) (there : List Nat) : Group :=
  let left (k : Batch) : Batch := { k with open_ := k.open_.filter there.contains }
  { x with openBatch := left x.openBatch, batches := x.batches.map left }

/-- A copy restored from a checkpoint: its team, groups, scratchpad and full bits, written whole, so that no poison is left
there, with what the memory model holds about those bytes (R145, R184). Accesses of its groups that were not performed are dropped;
the RPUTs that were on their way at the cue point are on their way again. -/
def State.restore (s : State) (t : Nat) (k : Ckpt) : State :=
  let uids := k.groups.map (fun p => p.2.uid)
  let gone := (s.groupsOf t).map Prod.fst
  let there := s.clusters.flatMap (fun c => (c.2.reqQ ++ c.2.work).map Request.id)
  let now := ((s.team? t).map Team.requests).getD []
  let s := { s with
    flight := s.flight.filter (fun m => !uids.contains m.uid || (m.performed && m.d.isNone)),
    rputs := s.rputs.filter (fun (r : Rput) => r.team != t) ++ k.rputs.map (fun (r : Rput) => { r with waiting := false }),
    groups := k.groups.foldl (fun (gs : Sp Group) (p : Nat × Group) => Sp.set gs p.1 (p.2.restored there))
      (gone.foldl (fun (gs : Sp Group) (g : Nat) => Sp.erase gs g) s.groups),
    oldGroups := k.groups.foldl (fun (gs : Sp Group) (p : Nat × Group) => Sp.erase gs p.1) s.oldGroups,
    access := s.access.filter (fun (a : Access) => !k.team.owns a.space a.addr) ++ k.access,
    published := s.published.filter (fun (a : Published) => !k.team.owns a.space a.addr) ++ k.published,
    late := s.late.filter (fun (e : Late) => !k.team.owns e.space e.addr) ++ k.late }
  let s := (k.rputs.filter (fun r => !r.standIn)).foldl (fun s r => s.count r.launch r.srcCluster 3 r.values.length true) s
  let s := s.setTeam t { k.team with requests := restoredRequests now k.team.requests }
  let a := k.team.alloc
  let within (n : Nat) : Bool := decide (a.base / 16 ≤ n) && decide (n < (a.base + a.size) / 16)
  s.modCluster k.team.ckey (fun c =>
    { c with
      spad := c.spad.restore k.spad a.base a.size,
      poison := c.poison.filter (fun n => !within n),
      barClk := k.bars.foldl (fun (f : Sp (Clock × Clock)) (p : Nat × Clock × Clock) => Sp.set f p.1 p.2) (c.barClk.filter (fun (p : Nat × Clock × Clock) => !a.holds p.1)),
      full := k.full.foldl (fun (f : Sp Clock) (p : Nat × Clock) => Sp.set f p.1 p.2)
        (c.full.filter (fun (p : Nat × Clock) => !within p.1)) })

/-- The rollback of a pair (R184, R185): both copies go back to the last confirmed checkpoint and run in replay; a third
rollback to one cue point, or a log that overflowed, ends the launch. -/
def State.rollback (s : State) (p : PairOf) : State :=
  let l := match s.team? p.lead with | some t => t.launch | none => 0
  if p.overflow || 2 ≤ p.rollbacks then s.endLaunch l 0x0A 0
  else
    let s := p.confirmed.foldl (fun s k => s.restore (teamKey k.team.ckey k.team.handle) k) s
    let s := s.modLaunch l (fun x => { x with rollbacks := x.rollbacks + 1 })
    let s := s.historyAdd 0x10 0xFF 0 0 false
    s.modPair p.lead (fun q =>
      { q with
        entries := [], pending := [], rollbacks := q.rollbacks + 1, replay := true, mismatch := false,
        exits := q.exits.filter (fun (e : Nat × Bool × Nat) => q.confirmed.any (fun k => q.isLead k.key == e.2.1 && k.team.gone.contains e.1)) })

end Sys2Proof.Machine
end

