-- ==== Sys2Proof/Machine/Flags.lean ====
section
/-! DEFINITION. The flag computations: the sticky flags of a lane (R150) and how an issue sets them. -/

namespace Sys2Proof.Machine

/-- The five flags of R150. -/
structure Fl where
  iv : Bool := false
  dz : Bool := false
  of : Bool := false
  uf : Bool := false
  nx : Bool := false
deriving DecidableEq, Repr

namespace Fl

/-- No flag: what every integer instruction raises (R147). -/
def none_ : Fl := {}

/-- Flags raised by two parts of one instruction (R264, R269). -/
def or (a b : Fl) : Fl := { iv := a.iv || b.iv, dz := a.dz || b.dz, of := a.of || b.of, uf := a.uf || b.uf, nx := a.nx || b.nx }

/-- The bits of fpflags (R150). -/
def toNat (a : Fl) : Nat := a.iv.toNat + 2 * a.dz.toNat + 4 * a.of.toNat + 8 * a.uf.toNat + 16 * a.nx.toNat

end Fl

/-- A lane's fpflags. -/
def Group.flags (x : Group) (lane : Nat) : Word := Sp.getD x.fpflags lane 0

/-- Flags ORed into a lane's fpflags (R150); an unlisted entry is zero. -/
def Group.raise (x : Group) (lane : Nat) (f : Fl) : Group :=
  { x with fpflags := Sp.put 0 x.fpflags lane (x.flags lane ||| BitVec.ofNat 32 f.toNat) }

/-- fpflags written whole: bits 31:5 are ignored (R253). -/
def Group.setFlags (x : Group) (lane : Nat) (v : Word) : Group :=
  { x with fpflags := Sp.put 0 x.fpflags lane (v &&& 0x1F) }

end Sys2Proof.Machine
end

