-- ==== Sys2Proof/Machine/Operands.lean ====
section
/-! DEFINITION. Every operand form of a lane word (R200 to R204, R208) and the one issue of a lane instruction that
computes in registers (R34, R35, R49, R226): what it reads, when it stops or waits, what it writes. -/

namespace Sys2Proof.Machine

/-! ### Registers, masks and latches of a lane -/

/-- A lane register (R19); one that was never written holds 0 (R21). -/
def Group.reg (x : Group) (n lane : Nat) : Word := Sp.getD x.regs (n * 64 + lane) 0

/-- A lane register written. An injected error that was latent in it is gone (R453). -/
def Group.setReg (x : Group) (n lane : Nat) (v : Word) : Group :=
  { x with regs := Sp.put 0 x.regs (n * 64 + lane) v, latent := delNat (n * 64 + lane) x.latent }

/-- A mask register: m0 reads all-ones (R202, R232). -/
def Group.maskReg (x : Group) (n : Nat) : DWord := if n = 0 then BitVec.allOnes 64 else Sp.getD x.masks n 0

/-- A mask register written whole: m0 discards writes (R202). -/
def Group.setMask (x : Group) (n : Nat) (v : DWord) : Group :=
  if n = 0 then x else { x with masks := Sp.put 0 x.masks n v }

/-- One bit of a mask register written (R232). -/
def Group.setMaskBit (x : Group) (n lane : Nat) (v : Bool) : Group :=
  let bit := 1#64 <<< lane
  x.setMask n (if v then x.maskReg n ||| bit else x.maskReg n &&& ~~~bit)

/-- A latch of a lane; none when its valid bit is clear (R204). -/
def Group.latch? (x : Group) (l lane : Nat) : Option DWord := Sp.get? x.latches (l * 64 + lane)

/-- A latch written, which makes it valid (R203, R204). -/
def Group.setLatch (x : Group) (l lane : Nat) (v : DWord) : Group := { x with latches := Sp.set x.latches (l * 64 + lane) v }

/-- A lane's line position (R17). -/
def Group.linePos (x : Group) (lane : Nat) : Nat := x.index * x.width + lane

/-- The 64-bit reading of a register field above 239 (R200). -/
def Group.special (x : Group) (v lane : Nat) (lk : DWord) : Nat :=
  if v = 240 then lk.toNat
  else if v = 242 then lane
  else if v = 243 then x.linePos lane
  else if v = 244 then 2 ^ 64 - 1
  else if 248 ≤ v ∧ v ≤ 251 then ((x.latch? (v - 248) lane).getD 0).toNat
  else 0

/-- What a field of an instruction reads in a lane. -/
def Group.read (x : Group) (k : FieldKind) (v lane : Nat) (lk : DWord) : Nat :=
  match k with
  | .src32 | .seed32 => if v < 240 then (x.reg v lane).toNat else x.special v lane lk % 2 ^ 32
  | .src64 | .seed64 =>
    if v < 240 then (x.reg v lane).toNat + 2 ^ 32 * (x.reg (v + 1) lane).toNat else x.special v lane lk
  | .src128 =>
    (x.reg v lane).toNat + 2 ^ 32 * (x.reg (v + 1) lane).toNat + 2 ^ 64 * (x.reg (v + 2) lane).toNat
      + 2 ^ 96 * (x.reg (v + 3) lane).toNat
  | .mask => ((x.maskReg v).getLsbD lane).toNat
  | .off | .imm => v
  | _ => 0

/-- n registers from one on, written with the parts of a value, the least significant first (R6). -/
def Group.setRegs (x : Group) (r lane v : Nat) : Nat → Group
  | 0 => x
  | n + 1 => Group.setRegs (x.setReg r lane (BitVec.ofNat 32 v)) (r + 1) lane (v / 2 ^ 32) n

/-- How many registers a field names. -/
def fieldRegs : FieldKind → Nat
  | .src32 | .dst32 | .dstOpt | .seed32 => 1
  | .src64 | .dst64 | .seed64 => 2
  | .src128 | .dst128 => 4
  | _ => 0

/-- A result written to a destination field in a lane. -/
def Group.writeDst (x : Group) (k : FieldKind) (d lane v : Nat) : Group :=
  match k with
  | .dstMask => x.setMaskBit d lane (v % 2 == 1)
  | k => x.setRegs d lane v (fieldRegs k)

/-! ### Which lanes write (R34) -/

/-- A lane's predicate (R202). -/
def Group.predicate (x : Group) (p : Nat) (pn : Bool) (lane : Nat) : Bool := (x.maskReg p).getLsbD lane != pn

/-- A lane writes: below the extent, not dead, of the issuing slot, its predicate true (R34). -/
def Group.writes (x : Group) (b : Bool) (p : Nat) (pn : Bool) (lane : Nat) : Bool :=
  decide (lane < x.extent) && !laneBit x.deadMask lane && laneBit (x.slot b).mask lane && x.predicate p pn lane

/-- The writing lanes in lane order. -/
def Group.writers (x : Group) (b : Bool) (p : Nat) (pn : Bool) : List Nat :=
  (List.range x.width).filter (fun j => x.writes b p pn j)

/-- The mask of some lanes. -/
def lanesMask (l : List Nat) : DWord := l.foldl (fun m j => m ||| (1#64 <<< j)) 0#64

/-- The lane a u = 1 instruction reads: lane 0, or the lowest live lane when lane 0 is dead (R49). -/
def Group.uniformLane (x : Group) : Nat :=
  ((List.range x.extent).find? (fun j => !laneBit x.deadMask j)).getD 0

/-! ### What is tested before every issue (R116, R204, R226, R275, R402) -/

/-- A field that is named by a word: its use and its value. -/
abbrev Named := FieldKind × Nat

/-- A register at or above the allocation is named (R116). -/
def Named.outside (x : Group) (f : Named) : Bool := fieldRegs f.1 != 0 && decide (f.2 < 240) && decide (x.nregs < f.2 + fieldRegs f.1)

/-- A latch is named, as a source or as the seed of a linked word, whose valid bit is clear in a lane (R204, R226). -/
def Named.lost (x : Group) (lane : Nat) (f : Named) : Bool :=
  (f.1.isSrc || f.1.isSeed) && decide (248 ≤ f.2) && decide (f.2 ≤ 251) && (x.latch? (f.2 - 248) lane).isNone

/-- The registers a field names. -/
def Named.regs (f : Named) : List Nat := if f.2 < 240 then (List.range (fieldRegs f.1)).map (fun i => f.2 + i) else []

/-- How many registers the reply of an access in flight writes (R276, R280, R283). -/
def MemOp.dstRegs (m : MemOp) : Nat :=
  match m.kind with
  | .load t | .ldsFe t _ => if t == .q then 4 else if t.wide then 2 else 1
  | .atom _ t | .cas t | .bfi t => if t.wide then 2 else 1
  | .plset => 4
  | _ => 1

/-- Whether a register awaits a reply (R275). -/
def State.awaited (s : State) (g : Nat) (x : Group) (r : Nat) : Bool :=
  s.flight.any (fun m => m.agent == Agent.group g && m.uid == x.uid &&
    (match m.d with | none => false | some d => decide (d ≤ r) && decide (r < d + m.dstRegs)))

/-- Whether accesses of the group have not passed all their checks (R136, R402), or an RPUT of a lead waits at issue for its
stand-in's (R186): nothing else of it issues. -/
def State.judging (s : State) (g : Nat) (x : Group) : Bool :=
  s.flight.any (fun m => m.agent == Agent.group g && m.uid == x.uid && !m.judged)
    || s.rputs.any (fun r => r.sender == x.uid && r.waiting && !r.standIn)

/-- The translation check of an access of the group is still open: nothing else of it issues (R402, R421). -/
def Group.walking (x : Group) : Bool :=
  (x.slotA.live && x.slotA.wait == .walk) || (x.slotB.live && x.slotB.wait == .walk)

/-- A race that the lead met is awaited: both copies halt at the count of issued instructions of that word (R186). -/
def State.awaitsRace (s : State) (x : Group) : Bool :=
  match (s.pairOf? x.team).bind PairOf.awaited with
  | none => false
  | some (i, n, _) => i == x.index && decide (n ≤ x.issued)

/-- Whether the target of a fault injection in a group's team exists (R453): a register or lane the group has, a tile the team
has, eight bytes of its declared scratchpad. -/
def Injection.target (j : Injection) (x : Group) (t : Team) : Bool :=
  let w (i : Nat) : Nat := ((j.words[i]?).getD 0).toNat
  let index := w 1 % 2 ^ 60
  if w 1 / 2 ^ 60 = 0 then decide (index < x.nregs ∧ w 0 / 2 ^ 6 % 64 < x.width)
  else if w 1 / 2 ^ 60 = 1 then decide (index / 2 ^ 8 % 32 < t.tiles)
  else decide (index + 8 ≤ (if t.pair && x.cluster != t.cluster then t.allocHi else t.alloc).declared)

/-- A fault injection fires before the group's next instruction, since its cue count has become the one it names (R375, R453). -/
def State.injectionDue (s : State) (x : Group) : Bool := s.house.armed.any (fun j => j.due == some x.uid)

/-- The matrix instructions that park their group until they are performed (R303). -/
def MxOp.joins : MxOp → Bool
  | .drain _ _ _ | .fill _ _ _ | .chk _ _ => true
  | _ => false

/-- A join of the group stands in the engine's queue: neither slot issues (R303). -/
def State.mxJoining (s : State) (g : Nat) (x : Group) : Bool :=
  (s.cluster x.ckey).mxQ.any (fun r => r.agent == Agent.group g && r.uid == x.uid && r.op.joins)

/-- Every lane step that a group has in flight in a cycle is done (R23, R26). -/
def Group.stepsDone (x : Group) (now : Nat) : Bool := decide (x.stepsEnd ≤ now)

/-- Nothing of the group's own stands in the way of an issue: it runs and does not leave the stage, no hold is set, no cut, walk or
debugger's halt is awaited. -/
def Group.free (x : Group) : Bool :=
  x.run == .active && !x.evicted && !x.yielding && !x.walking && x.holdsClear && !x.dbgPend && !x.cutStop

/-- Whether a group may issue at all: its cluster runs, nothing of its own is in the way, and no unjudged access, matrix join, mismatch,
race, consumed error or injection. -/
def State.mayIssue (s : State) (g : Nat) (x : Group) : Bool :=
  s.running x.ckey && x.free && !s.judging g x && !s.mxJoining g x && !s.stoppedByMismatch x && !s.awaitsRace x && !s.awaitsError x
    && !s.injectionDue x

/-- What the tests before an issue answer. -/
inductive Gate where
  | go
  | stay
  | wait (w : Wait) (wants : List Nat)
  | event (cause : Nat) (lanes : DWord)
deriving DecidableEq, Repr

/-- The tests before an issue, in their order: the group may issue; no writing lane names a register outside the
allocation or a lost latch; no named register awaits a reply. A register outside goes before a lost latch, in a word that names both;
a word with u = 1 loses the latch of its uniform lane alone, whether or not that lane writes (DESIGN CHOICE [117]). -/
def State.gate (s : State) (g : Nat) (b : Bool) (x : Group) (ws : List Nat) (uni : Bool) (srcs : List Named)
    (dst : List Named) : Gate :=
  if !s.mayIssue g x || !(x.slot b).live || (x.slot b).wait != .run then .stay
  else if !ws.isEmpty && (srcs ++ dst).any (fun f => Named.outside x f) then .event 0x01 (lanesMask ws)
  else
    let rd := if uni then (if ws.isEmpty then [] else [x.uniformLane]) else ws
    let lost := rd.filter (fun j => srcs.any (fun f => Named.lost x j f))
    if !lost.isEmpty then .event 0x06 (lanesMask lost)
    else
      match ((srcs ++ dst).flatMap Named.regs).filter (fun r => s.awaited g x r) with
      | [] => .go
      | rs => .wait .reply rs

/-- The tests of two parts of a word, for the lanes that each reads in, as those of one word (R200, R204; DESIGN CHOICE [117]). -/
def Gate.both : Gate → Gate → Gate
  | .stay, _ => .stay
  | _, .stay => .stay
  | .event c m, .event c' m' => if c = c' then .event c (m ||| m') else if c < c' then .event c m else .event c' m'
  | .event c m, _ => .event c m
  | _, .event c m => .event c m
  | .wait w r, .wait _ r' => .wait w (r ++ r')
  | .wait w r, _ => .wait w r
  | _, .wait w r => .wait w r
  | .go, .go => .go

/-- The lanes that would consume a latent uncorrectable error by reading these fields (R453). -/
def Group.consumers (x : Group) (lanes : List Nat) (srcs : List Named) : List Nat :=
  if x.latent.isEmpty then []
  else lanes.filter (fun j => (srcs.flatMap Named.regs).any (fun r => x.latent.contains (r * 64 + j)))

/-! ### The hand-on queue (R35, R38 to R41) -/

/-- What a linked instruction meets at its incoming queue. -/
inductive HandIn where
  | take (carry : DWord) (restart : Bool)
  | wait
  | short
deriving DecidableEq, Repr

/-- The oldest entry of the incoming queue, as a linked instruction that issues in a cycle meets it (R39, R41, R42). -/
def Team.handIn (t : Team) (i now : Nat) : HandIn :=
  if i = 0 then .take 0 true
  else
    match Sp.getD t.handOn (i - 1) [] with
    | [] => if t.gone.contains (i - 1) then .take 0 true else .wait
    | e :: _ => if e.filled && decide (e.usable ≤ now) then .take e.value e.restart else .short

/-- Whether the outgoing queue has no room (R38). -/
def Team.handFull (t : Team) (i : Nat) : Bool :=
  decide (i + 1 < t.ngroups) && !t.gone.contains (i + 1) && decide (4 ≤ (Sp.getD t.handOn i []).length)

/-- The issue of a linked instruction at the queues: the incoming entry is taken, an outgoing one is reserved, and the
chain with its outcome is in flight until its last lane step (R35, R38, R41). -/
def Team.linkIssue (t : Team) (i endCycle : Nat) (carry : DWord) (restart : Bool) : Team :=
  let last := decide (t.ngroups ≤ i + 1)
  let gone := t.gone.contains (i + 1)
  let h := if i = 0 then t.handOn else Sp.modify t.handOn (i - 1) (fun q => q.drop 1)
  let h := if last || gone then h else Sp.set h i (Sp.getD h i [] ++ [{ filled := false }])
  { t with
    handOn := h,
    chains := Sp.set t.chains i (Sp.getD t.chains i [] ++
      [{ endCycle := endCycle, carry := carry, restart := restart, last := last, discard := gone && !last }]) }

/-! ### One issue of an instruction that computes in registers -/

/-- What an entry says of such an instruction: the use of each field, its latency class, whether it writes a latch, and
its operation: from the lane and the three sources to the result and the flags it raises. -/
structure Alu where
  d : FieldKind
  a : FieldKind := .unused
  b : FieldKind := .unused
  c : FieldKind := .unused
  cls : Nat := 1
  latch : Bool := true
  f : Nat → Nat → Nat → Nat → Nat × Fl

/-- The fields that name sources. -/
def Alu.named (al : Alu) (o : Ops) (linked : Bool) : List Named :=
  [(al.a, o.a), (al.b, o.b)] ++ (if al.c.isSeed && !linked then [] else [(al.c, o.c)])

/-- The fields that name the destination. -/
def Alu.dest (al : Alu) (o : Ops) : List Named := if o.k then [(al.d, o.d)] else []

/-- Whether the word is linked (R31). -/
def Alu.linked (al : Alu) (o : Ops) : Bool :=
  (al.a.isSrc && o.a == 240) || (al.b.isSrc && o.b == 240) || (al.c.isSrc && o.c == 240)

/-- The operation with the sources of a lane. -/
def Alu.at_ (al : Alu) (o : Ops) (x : Group) (lane : Nat) (lk : DWord) : Nat × Fl :=
  al.f lane (x.read al.a o.a lane lk) (x.read al.b o.b lane lk) (x.read al.c o.c lane lk)

/-- A result written in a lane: to d when k = 1, to latch ld, and its flags (R34, R150, R203). -/
def Alu.put (al : Alu) (o : Ops) (x : Group) (lane : Nat) (r : Nat × Fl) : Group :=
  let x := if o.k then x.writeDst al.d o.d lane r.1 else x
  let x := if al.latch then x.setLatch o.ld lane (BitVec.ofNat 64 r.1) else x
  x.raise lane r.2

/-- All writing lanes, each from its own registers (an unlinked instruction). -/
def Alu.plain (al : Alu) (o : Ops) (x : Group) (ws : List Nat) : Group :=
  ws.foldl (fun y j => al.put o y j (al.at_ o x j 0)) x

/-- All writing lanes with the one result of the uniform lane (R49). -/
def Alu.uniform (al : Alu) (o : Ops) (x : Group) (ws : List Nat) : Group :=
  let r := al.at_ o x x.uniformLane 0
  ws.foldl (fun y j => al.put o y j r) x

/-- The link value of a result: the whole result, of a quad the low 64 bits (R33, R317). -/
def linkValue (v : Nat) : DWord := BitVec.ofNat 64 v

/-- One lane of a linked chain (R35): the group, the carry and the restart flag. A word whose c field is no seed has the seed 0
(DESIGN CHOICE [118]). -/
def Alu.chainLane (al : Alu) (o : Ops) (x0 : Group) (lbm : DWord) (ws : List Nat) (st : Group × DWord × Bool) (j : Nat) :
    Group × DWord × Bool :=
  let (y, carry, restart) := st
  let restart := restart || laneBit lbm j
  if ws.contains j then
    let seed := if al.c.isSeed then x0.read al.c o.c j 0 else 0
    let lk := if restart then BitVec.ofNat 64 seed else carry
    let r := al.at_ o x0 j lk
    (al.put o y j r, linkValue r.1, false)
  else (y, carry, restart)

/-- The chain over all W lanes of the group (R35). -/
def Alu.chain (al : Alu) (o : Ops) (x : Group) (ws : List Nat) (carry : DWord) (restart : Bool) : Group × DWord × Bool :=
  (List.range x.width).foldl (al.chainLane o x x.lbm ws) (x, carry, restart)

/-- The cycle from which a result is usable in every lane of a group at once: every lane step that makes it is done then
(R26, R49, R235). -/
def Producer.done (p : Producer) (w : Nat) : Nat :=
  if p.every then p.t0 + p.cls else if p.linked then p.t0 + w * p.cls else p.t0 + w + p.cls - 1

/-- The results an issue has in their latency class, for the test of R29. -/
def Alu.producers (al : Alu) (o : Ops) (t0 : Nat) (linked : Bool) : List Producer :=
  let regs : List Nat :=
    match al.d with
    | .dstMask => if o.d = 0 then [] else [256 + o.d]
    | k => if o.k then (List.range (fieldRegs k)).map (fun i => o.d + i) else []
  (regs ++ (if al.latch then [272 + o.ld] else [])).map (fun r => { res := r, t0 := t0, cls := al.cls, linked := linked, every := o.u })

/-- The context that a group's activity is counted on (R399). -/
def State.kernelCtx (s : State) (x : Group) : Option Nat :=
  (s.ctxs.find? (fun p => p.1 / 8 == x.ckey && p.2.launch == x.launch && p.2.num < 6)).map Prod.fst

/-- The slice cycle in which the word that runs was issued: its t0 (R26). The slice has counted it already. -/
def State.issueCycle (s : State) (x : Group) : Nat := s.sliceNow x - 1

/-- A group that has issued one more word: its slot's next instruction dates from now; the results in their latency class, and
when the last lane step ends (R23, R24, R26). -/
def Group.issuedAt (x : Group) (b : Bool) (now : Nat) (ps : List Producer) : Group :=
  { (x.modSlot b (fun v => { v with age := now })) with
    issued := x.issued + 1,
    prods := x.prods.filter (fun (p : Producer) => decide (now < p.done x.width)) ++ ps,
    stepsEnd := ps.foldl (fun n (p : Producer) => max n (p.done x.width)) (max x.stepsEnd (now - 1 + x.width)) }.unpark now

/-- One issue of a group: its counters, the age of its slot's next instruction, the energy activity (R24, R186, R399). -/
def State.noteIssue (s : State) (g : Nat) (b : Bool) (ps : List Producer) : State :=
  match s.group? g with
  | none => s
  | some x =>
    let s := s.setGroup g (x.issuedAt b (s.sliceNow x) ps)
    match s.kernelCtx x with
    | none => s
    | some xk => s.modCtx xk (fun c => { c with laneSteps := c.laneSteps + x.width })

/-- The issuing group slot, if the current agent is one. -/
def State.withLane (s : State) (f : Nat → Bool → Group → State) : Host.Outcome State Fault Refusal :=
  match s.cur with
  | .lane g b =>
    match s.group? g with
    | some x => .next (f g b x)
    | none => .fault .noIssuer
  | _ => .fault .noIssuer

/-- A stop before the word: the event names the slot's current word (R74, R403). -/
def State.stopBefore (s : State) (g : Nat) (b : Bool) (x : Group) (cause : Nat) (lanes : DWord) (detail addr : Nat) : State :=
  s.takeEvent g b cause (x.slot b).pc lanes detail addr

/-- The answer of the gate carried out: `k` runs when the instruction may issue. -/
def State.gated (s : State) (g : Nat) (b : Bool) (x : Group) (r : Gate) (k : State) : State :=
  match r with
  | .go => k
  | .stay => s
  | .wait w rs => s.park g b w rs
  | .event cause lanes => s.stopBefore g b x cause lanes 0 0

/-- The issue after its tests: results, links, flags, latches, and the slot at the next word. -/
def State.aluRun (s : State) (al : Alu) (o : Ops) (g : Nat) (b : Bool) (x : Group) (ws : List Nat) : State :=
  let t0 := s.issueCycle x
  if al.linked o then
    match s.team? x.team with
    | none => s
    | some t =>
      match t.handIn x.index t0 with
      | .wait => s.park g b .handOn []
      | .short => s
      | .take carry restart =>
        if t.handFull x.index then s
        else
          let r := al.chain o x ws carry restart
          let s := s.setTeam x.team (t.linkIssue x.index (t0 + x.width * al.cls) r.2.1 r.2.2)
          (s.setGroup g (r.1.advance b)).noteIssue g b (al.producers o t0 true)
  else
    let y := if o.u then (if ws.isEmpty then x else al.uniform o x ws) else al.plain o x ws
    (s.setGroup g (y.advance b)).noteIssue g b (al.producers o t0 false)

/-- ONE ISSUE of a lane instruction that computes in registers, by a group slot (R34, R35, R49, R226). A lane that would
read a register with a latent error consumes it first (R177, R453). -/
def State.aluLane (s : State) (al : Alu) (o : Ops) (g : Nat) (b : Bool) (x : Group) : State :=
  let ws := x.writers b o.p o.pn
  let linked := al.linked o
  s.gated g b x (s.gate g b x ws o.u (al.named o linked) (al.dest o))
    (match x.consumers (if o.u && !ws.isEmpty then [x.uniformLane] else ws) (al.named o linked) with
     | [] => s.aluRun al o g b x ws
     | dying => s.consumeAt g dying)

/-- The issue by the current agent. -/
def State.aluIssue (s : State) (al : Alu) (o : Ops) : Host.Outcome State Fault Refusal :=
  s.withLane (fun g b x => s.aluLane al o g b x)

/-- An issue whose effect on the group is one function of it: the gate, the effect, the slot at the next word. -/
def State.groupIssue (s : State) (ps : List Producer) (ws : List Nat) (srcs dst : List Named) (g : Nat) (b : Bool) (x : Group)
    (f : Group → Group) : State :=
  s.gated g b x (s.gate g b x ws false srcs dst)
    (match x.consumers ws srcs with
     | [] => (s.setGroup g ((f x).advance b)).noteIssue g b ps
     | dying => s.consumeAt g dying)

end Sys2Proof.Machine
end

