-- ==== Sys2Proof/Machine/Integer.lean ====
section
/-! DEFINITION. Integer and bit-field arithmetic (R227 to R231): one meaning per instruction over the one issue of
`State.aluIssue`. -/

namespace Sys2Proof.Machine

/-! ### The operations -/

/-- The width of a type's operands (R227). -/
def tyBits (t : Ty) : Nat := if t.wide then 64 else 32

/-- The integer an operand stands for under the type's signedness (R228). -/
def tyVal (t : Ty) (v : Nat) : Int := if t.signed then signedOf (tyBits t) v else Int.ofNat v

/-- The bounds of a type's range. -/
def tyLeast (t : Ty) : Int := if t.signed then -(2 ^ ((tyBits t) - 1)) else 0
def tyMost (t : Ty) : Int := if t.signed then 2 ^ ((tyBits t) - 1) - 1 else 2 ^ (tyBits t) - 1

/-- An exact result narrowed: clamped to the range with `.sat`, else modulo the width (R147, R227). -/
def tyNarrow (t : Ty) (sat : Bool) (v : Int) : Nat :=
  wrapOf (tyBits t) (if sat then max (tyLeast t) (min (tyMost t) v) else v)

def intAdd (t : Ty) (sat : Bool) (a b : Nat) : Nat := tyNarrow t sat (tyVal t a + tyVal t b)
def intSub (t : Ty) (sat : Bool) (a b : Nat) : Nat := tyNarrow t sat (tyVal t a - tyVal t b)
def intMul (t : Ty) (a b : Nat) : Nat := tyNarrow t false (tyVal t a * tyVal t b)
/-- The high half of the exact product. -/
def intMulh (t : Ty) (a b : Nat) : Nat := tyNarrow t false (tyVal t a * tyVal t b / 2 ^ (tyBits t))
def intMad (t : Ty) (a b c : Nat) : Nat := tyNarrow t false (tyVal t a * tyVal t b + tyVal t c)
def intAbs (t : Ty) (sat : Bool) (a : Nat) : Nat := tyNarrow t sat (if tyVal t a < 0 then -(tyVal t a) else tyVal t a)
def intMin (t : Ty) (a b : Nat) : Nat := if tyVal t a ≤ tyVal t b then a else b
def intMax (t : Ty) (a b : Nat) : Nat := if tyVal t a ≤ tyVal t b then b else a
def intAnd (a b : Nat) : Nat := Nat.land a b
def intOr (a b : Nat) : Nat := Nat.lor a b
def intXor (a b : Nat) : Nat := Nat.xor a b
/-- a AND NOT b, for b below 2^width. -/
def intAndn (t : Ty) (a b : Nat) : Nat := Nat.land a (2 ^ (tyBits t) - 1 - b % 2 ^ (tyBits t))
/-- The shift count: b modulo the width (R228). -/
def shiftCount (t : Ty) (b : Nat) : Nat := b % (tyBits t)
def intShl (t : Ty) (a b : Nat) : Nat := a * 2 ^ shiftCount t b % 2 ^ (tyBits t)
def intShr (t : Ty) (a b : Nat) : Nat := a / 2 ^ shiftCount t b
/-- Sign fill, whatever the type. -/
def intSra (t : Ty) (a b : Nat) : Nat := wrapOf (tyBits t) (signedOf (tyBits t) a / 2 ^ shiftCount t b)
def intRot (t : Ty) (a b : Nat) : Nat := (a * 2 ^ shiftCount t b + a / 2 ^ ((tyBits t) - shiftCount t b)) % 2 ^ (tyBits t)

/-- The number of one bits among the low w. -/
def popCount (w a : Nat) : Nat := ((List.range w).filter (fun i => a.testBit i)).length
/-- The number of zeros above the highest one of w bits; w when there is none. -/
def leadingZeros (w a : Nat) : Nat := (((List.range w).reverse.findIdx? (fun i => a.testBit i)).getD w)
/-- The number of zeros below the lowest one of w bits; w when there is none. -/
def trailingZeros (w a : Nat) : Nat := (((List.range w).findIdx? (fun i => a.testBit i)).getD w)
/-- The w bits in reverse order. -/
def bitReverse (w a : Nat) : Nat := (List.range w).foldl (fun n i => 2 * n + (a.testBit i).toNat) 0

/-- The field a descriptor names in a w-bit value: its position and the length it has there (R229). -/
def bitField (w b : Nat) : Nat × Nat := (b % 256, min (b % 256 + b / 256 % 256) w - b % 256)

def intBfx (t : Ty) (sgn : Bool) (a b : Nat) : Nat :=
  let (pos, len) := bitField (tyBits t) b
  if len = 0 then 0
  else
    let v := a / 2 ^ pos % 2 ^ len
    if sgn then wrapOf (tyBits t) (signedOf len v) else v

def intBfi (t : Ty) (a b c : Nat) : Nat :=
  let (pos, len) := bitField (tyBits t) b
  if len = 0 then c
  else c - c / 2 ^ pos % 2 ^ len * 2 ^ pos + a % 2 ^ len * 2 ^ pos

/-- A comparison under the type's signedness (R230); codes 6 and 7 are refused by the composition check. -/
def compareInt (c : Cond) (a b : Int) : Bool :=
  match c with
  | .eq => decide (a = b) | .ne => decide (a ≠ b) | .lt => decide (a < b) | .le => decide (a ≤ b)
  | .gt => decide (b < a) | .ge => decide (b ≤ a) | .c6 => false | .c7 => false

def intCmp (t : Ty) (c : Cond) (a b : Nat) : Nat := (compareInt c (tyVal t a) (tyVal t b)).toNat

/-- a + (ext(b) << s): b is signed for i64, else unsigned (R229); for 32-bit types the signedness makes no difference. -/
def intLea (t : Ty) (a b s : Nat) : Nat :=
  wrapOf (tyBits t) (Int.ofNat a + (if t == .i64 then signedOf 32 b else Int.ofNat b) * 2 ^ s)

/-! ### The shapes of the entries -/

/-- Two wide sources, or one wide and a 32-bit count; a wide result. -/
def alu2 (t : Ty) (cls : Nat) (b32 : Bool) (f : Nat → Nat → Nat) : Alu :=
  { d := dstW t.wide, a := srcW t.wide, b := if b32 then .src32 else srcW t.wide, c := seedW t.wide, cls := cls,
    f := fun _ a b _ => (f a b, Fl.none_) }

/-- Three sources. -/
def alu3 (t : Ty) (cls : Nat) (b32 : Bool) (f : Nat → Nat → Nat → Nat) : Alu :=
  { d := dstW t.wide, a := srcW t.wide, b := if b32 then .src32 else srcW t.wide, c := srcW t.wide, cls := cls,
    f := fun _ a b c => (f a b c, Fl.none_) }

/-- One wide source; a wide result, or a 32-bit count. -/
def alu1 (t : Ty) (d32 : Bool) (f : Nat → Nat) : Alu :=
  { d := if d32 then .dst32 else dstW t.wide, a := srcW t.wide, c := if d32 then .seed32 else seedW t.wide,
    f := fun _ a _ _ => (f a, Fl.none_) }

/-- The outcome of a compare, to a mask bit or to a register with `.v` (R230). -/
def aluCmp (k : FieldKind) (c : FieldKind) (v : Bool) (f : Nat → Nat → Nat → Bool) : Alu :=
  { d := if v then .dst32 else .dstMask, a := k, b := k, c := c, latch := v, f := fun _ a b c => ((f a b c).toNat, Fl.none_) }

/-- The fields of an I-form word as those of a full-form word that writes L0 (R198, R231). -/
def immOps (o : IOps) : Ops := { d := o.d, a := o.a, p := o.p, pn := o.pn, u := o.u, k := o.k }

/-- An I-form operation on a and imm32 with type i32 (R231). -/
def aluI (cls : Nat) (f : Nat → Nat) : Alu :=
  { d := .dst32, a := .src32, cls := cls, f := fun _ a _ _ => (f a, Fl.none_) }

/-! ### The meanings -/

/-- ADD (R228). -/
def execAdd (o : Ops) (ty : Ty) (sat : Bool) (s : State) : Host.Outcome State Fault Refusal :=
  s.aluIssue (alu2 ty 1 false (intAdd ty sat)) o

/-- SUB (R228). -/
def execSub (o : Ops) (ty : Ty) (sat : Bool) (s : State) : Host.Outcome State Fault Refusal :=
  s.aluIssue (alu2 ty 1 false (intSub ty sat)) o

/-- MUL (R228). -/
def execMul (o : Ops) (ty : Ty) (s : State) : Host.Outcome State Fault Refusal :=
  s.aluIssue (alu2 ty 4 false (intMul ty)) o

/-- MULH (R228). -/
def execMulh (o : Ops) (ty : Ty) (s : State) : Host.Outcome State Fault Refusal :=
  s.aluIssue (alu2 ty 4 false (intMulh ty)) o

/-- MAD (R229): a linked one has seed zero. -/
def execMad (o : Ops) (ty : Ty) (s : State) : Host.Outcome State Fault Refusal :=
  s.aluIssue (alu3 ty 4 false (intMad ty)) o

/-- ABS (R229). -/
def execAbs (o : Ops) (ty : Ty) (sat : Bool) (s : State) : Host.Outcome State Fault Refusal :=
  s.aluIssue (alu1 ty false (intAbs ty sat)) o

/-- MIN (R228). -/
def execMin (o : Ops) (ty : Ty) (s : State) : Host.Outcome State Fault Refusal :=
  s.aluIssue (alu2 ty 1 false (intMin ty)) o

/-- MAX (R228). -/
def execMax (o : Ops) (ty : Ty) (s : State) : Host.Outcome State Fault Refusal :=
  s.aluIssue (alu2 ty 1 false (intMax ty)) o

/-- AND (R228). -/
def execAnd (o : Ops) (ty : Ty) (s : State) : Host.Outcome State Fault Refusal :=
  s.aluIssue (alu2 ty 1 false intAnd) o

/-- OR (R228). -/
def execOr (o : Ops) (ty : Ty) (s : State) : Host.Outcome State Fault Refusal :=
  s.aluIssue (alu2 ty 1 false intOr) o

/-- XOR (R228). -/
def execXor (o : Ops) (ty : Ty) (s : State) : Host.Outcome State Fault Refusal :=
  s.aluIssue (alu2 ty 1 false intXor) o

/-- ANDN (R228). -/
def execAndn (o : Ops) (ty : Ty) (s : State) : Host.Outcome State Fault Refusal :=
  s.aluIssue (alu2 ty 1 false (intAndn ty)) o

/-- SHL (R228). -/
def execShl (o : Ops) (ty : Ty) (s : State) : Host.Outcome State Fault Refusal :=
  s.aluIssue (alu2 ty 1 true (intShl ty)) o

/-- SHR (R228). -/
def execShr (o : Ops) (ty : Ty) (s : State) : Host.Outcome State Fault Refusal :=
  s.aluIssue (alu2 ty 1 true (intShr ty)) o

/-- SRA (R228). -/
def execSra (o : Ops) (ty : Ty) (s : State) : Host.Outcome State Fault Refusal :=
  s.aluIssue (alu2 ty 1 true (intSra ty)) o

/-- ROT (R228). -/
def execRot (o : Ops) (ty : Ty) (s : State) : Host.Outcome State Fault Refusal :=
  s.aluIssue (alu2 ty 1 true (intRot ty)) o

/-- POPC (R229). -/
def execPopc (o : Ops) (ty : Ty) (s : State) : Host.Outcome State Fault Refusal :=
  s.aluIssue (alu1 ty true (popCount (tyBits ty))) o

/-- CLZ (R229). -/
def execClz (o : Ops) (ty : Ty) (s : State) : Host.Outcome State Fault Refusal :=
  s.aluIssue (alu1 ty true (leadingZeros (tyBits ty))) o

/-- CTZ (R229). -/
def execCtz (o : Ops) (ty : Ty) (s : State) : Host.Outcome State Fault Refusal :=
  s.aluIssue (alu1 ty true (trailingZeros (tyBits ty))) o

/-- BREV (R229). -/
def execBrev (o : Ops) (ty : Ty) (s : State) : Host.Outcome State Fault Refusal :=
  s.aluIssue (alu1 ty false (bitReverse (tyBits ty))) o

/-- BFX (R229). -/
def execBfx (o : Ops) (ty : Ty) (sgn : Bool) (s : State) : Host.Outcome State Fault Refusal :=
  s.aluIssue (alu2 ty 1 true (intBfx ty sgn)) o

/-- BFI (R229). -/
def execBfi (o : Ops) (ty : Ty) (s : State) : Host.Outcome State Fault Refusal :=
  s.aluIssue (alu3 ty 1 true (intBfi ty)) o

/-- SEL (R229): lane j takes a where bit j of the mask in c is set, else b. -/
def execSel (o : Ops) (ty : Ty) (s : State) : Host.Outcome State Fault Refusal :=
  s.aluIssue
    { d := dstW ty.wide, a := srcW ty.wide, b := srcW ty.wide, c := .mask,
      f := fun _ a b c => (if c = 1 then a else b, Fl.none_) } o

/-- CMP (R230). -/
def execCmp (o : Ops) (ty : Ty) (cond : Cond) (v : Bool) (s : State) : Host.Outcome State Fault Refusal :=
  s.aluIssue (aluCmp (srcW ty.wide) .seed32 v (fun a b _ => compareInt cond (tyVal ty a) (tyVal ty b))) o

/-- LEA (R229). -/
def execLea (o : Ops) (ty : Ty) (s : State) : Host.Outcome State Fault Refusal :=
  s.aluIssue
    { d := dstW ty.wide, a := srcW ty.wide, b := .src32, c := .imm, f := fun _ a b c => (intLea ty a b c, Fl.none_) } o

/-- MOV (R229). -/
def execMov (o : Ops) (ty : Ty) (s : State) : Host.Outcome State Fault Refusal :=
  s.aluIssue (alu1 ty false (fun a => a)) o

/-- LDI (R231): d := imm32. -/
def execLdi (o : IOps) (s : State) : Host.Outcome State Fault Refusal :=
  s.aluIssue { d := .dst32, f := fun _ _ _ _ => (o.imm, Fl.none_) } (immOps o)

/-- The lanes of an LDIH (R231): v(d+1) := imm32, v(d) unchanged; L0 receives the whole pair after the write, with u = 1
that of the uniform lane. -/
def ldihRun (o : IOps) (x : Group) (ws : List Nat) : Group :=
  ws.foldl (fun y j =>
    let src := if o.u then x.uniformLane else j
    (y.setReg (o.d + 1) j (BitVec.ofNat 32 o.imm)).setLatch 0 j (BitVec.ofNat 64 ((x.reg o.d src).toNat + 2 ^ 32 * o.imm))) x

/-- LDIH (R231). -/
def execLdih (o : IOps) (s : State) : Host.Outcome State Fault Refusal :=
  s.withLane (fun g b x =>
    let ws := x.writers b o.p o.pn
    s.gated g b x (s.gate g b x ws o.u [(.src32, o.d)] [(.dst64, o.d)])
      (match x.consumers (if o.u && !ws.isEmpty then [x.uniformLane] else ws) [(.src32, o.d)] with
       | [] =>
         ((s.setGroup g ((ldihRun o x ws).advance b)).noteIssue g b
           [{ res := o.d + 1, t0 := s.issueCycle x, cls := 1, linked := false, every := o.u },
            { res := 272, t0 := s.issueCycle x, cls := 1, linked := false, every := o.u }])
       | dying => s.consumeAt g dying))

/-- I-form ADD (R231): the full form with type i32 and b replaced by imm32. -/
def execAddI (o : IOps) (s : State) : Host.Outcome State Fault Refusal :=
  s.aluIssue (aluI 1 (fun a => intAdd .i32 false a o.imm)) (immOps o)

/-- I-form MUL (R231): the full form with type i32 and b replaced by imm32. -/
def execMulI (o : IOps) (s : State) : Host.Outcome State Fault Refusal :=
  s.aluIssue (aluI 4 (fun a => intMul .i32 a o.imm)) (immOps o)

/-- I-form AND (R231): the full form with type i32 and b replaced by imm32. -/
def execAndI (o : IOps) (s : State) : Host.Outcome State Fault Refusal :=
  s.aluIssue (aluI 1 (fun a => intAnd a o.imm)) (immOps o)

/-- I-form OR (R231): the full form with type i32 and b replaced by imm32. -/
def execOrI (o : IOps) (s : State) : Host.Outcome State Fault Refusal :=
  s.aluIssue (aluI 1 (fun a => intOr a o.imm)) (immOps o)

/-- I-form XOR (R231): the full form with type i32 and b replaced by imm32. -/
def execXorI (o : IOps) (s : State) : Host.Outcome State Fault Refusal :=
  s.aluIssue (aluI 1 (fun a => intXor a o.imm)) (immOps o)

/-- I-form SHL (R231): the full form with type i32 and b replaced by imm32. -/
def execShlI (o : IOps) (s : State) : Host.Outcome State Fault Refusal :=
  s.aluIssue (aluI 1 (fun a => intShl .i32 a o.imm)) (immOps o)

/-- I-form SHR (R231): the full form with type i32 and b replaced by imm32. -/
def execShrI (o : IOps) (s : State) : Host.Outcome State Fault Refusal :=
  s.aluIssue (aluI 1 (fun a => intShr .i32 a o.imm)) (immOps o)

/-- I-form SRA (R231): the full form with type i32 and b replaced by imm32. -/
def execSraI (o : IOps) (s : State) : Host.Outcome State Fault Refusal :=
  s.aluIssue (aluI 1 (fun a => intSra .i32 a o.imm)) (immOps o)

/-- I-form MIN (R231): the full form with type i32 and b replaced by imm32. -/
def execMinI (o : IOps) (s : State) : Host.Outcome State Fault Refusal :=
  s.aluIssue (aluI 1 (fun a => intMin .i32 a o.imm)) (immOps o)

/-- I-form MAX (R231): the full form with type i32 and b replaced by imm32. -/
def execMaxI (o : IOps) (s : State) : Host.Outcome State Fault Refusal :=
  s.aluIssue (aluI 1 (fun a => intMax .i32 a o.imm)) (immOps o)

end Sys2Proof.Machine
end

