-- ==== Sys2Proof/Machine/Numbers.lean ====
section
/-! DEFINITION. The number formats (R147 to R165) on exact values: a finite value is a sign, a magnitude and a power of
two, and every operation computes exactly and rounds once. -/

namespace Sys2Proof.Machine

/-! ### Exact values -/

/-- What an image of a floating format stands for: a value m · 2^e with a sign, an infinity, a NaN, or NV (R148, R156). -/
inductive FVal where
  | fin (neg : Bool) (m : Nat) (e : Int)
  | inf (neg : Bool)
  | nan (signalling : Bool)
  | nv
deriving DecidableEq, Repr

/-- Two magnitudes m · 2^e over their common power of two. -/
def dyAlign (m1 : Nat) (e1 : Int) (m2 : Nat) (e2 : Int) : Nat × Nat × Int :=
  let e := min e1 e2
  (m1 * 2 ^ (e1 - e).toNat, m2 * 2 ^ (e2 - e).toNat, e)

/-- m1 · 2^e1 ≤ m2 · 2^e2. -/
def dyLe (m1 : Nat) (e1 : Int) (m2 : Nat) (e2 : Int) : Bool :=
  let r := dyAlign m1 e1 m2 e2
  decide (r.1 ≤ r.2.1)

/-- A signed magnitude as an integer over a power of two. -/
def signedMag (neg : Bool) (m : Nat) : Int := if neg then -(Int.ofNat m) else Int.ofNat m

/-- The number of bits of a magnitude. -/
def bitLen (m : Nat) : Nat := if m = 0 then 0 else Nat.log2 m + 1

/-! ### The formats (R148, R154, R156) -/

/-- A binary format: the bits of its image, its precision, and the power of two of its least bit. -/
structure Fmt where
  bits : Nat
  p : Nat
  qmin : Int
deriving DecidableEq, Repr

/-- The IEEE formats, BF16, E5M2 and E4M3. -/
def tyFmt : Ty → Fmt
  | .f16 => { bits := 16, p := 11, qmin := -24 }
  | .bf16 => { bits := 16, p := 8, qmin := -133 }
  | .e5m2 => { bits := 8, p := 3, qmin := -16 }
  | .e4m3 => { bits := 8, p := 4, qmin := -9 }
  | _ => { bits := 32, p := 24, qmin := -149 }

/-- The image of +∞, whose exponent field is all ones and whose fraction is 0. -/
def Fmt.infBits (f : Fmt) : Nat := 2 ^ (f.bits - 1) - 2 ^ (f.p - 1)

/-- The sign bit of an image. -/
def Fmt.signBit (f : Fmt) (neg : Bool) : Nat := if neg then 2 ^ (f.bits - 1) else 0

/-- The canonical NaN of a format (R148, R154); NV for the tapered formats. -/
def tyCanonNan : Ty → Nat
  | .f16 => 0x7E00 | .bf16 => 0x7FC0 | .e4m3 => 0x7F | .e5m2 => 0x7F | .kt8 => 0x80 | .kt8w => 0x80 | _ => 0x7FC00000

/-- The magnitude of a body of KT8 or KT8W (R156); `es` is the number of exponent bits, 1 or 2. -/
def taperedBody (es body : Nat) : Nat × Int :=
  if body = 0 then (0, 0)
  else
    let q := body.testBit 6
    let n := (([6, 5, 4, 3, 2, 1, 0].findIdx? (fun i => body.testBit i != q)).getD 7)
    let k : Int := if q then Int.ofNat n - 1 else -(Int.ofNat n)
    let w := 6 - n
    let t := body % 2 ^ w
    let f := w - es
    let e := t / 2 ^ f * 2 ^ (es - min w es)
    (2 ^ f + t % 2 ^ f, k * 2 ^ es + e - f)

/-- The number of exponent bits of a tapered format. -/
def taperedEs (t : Ty) : Nat := if t == .kt8w then 2 else 1

/-- The value of an image (R148, R154, R156); bits above the format's are ignored (R257). -/
def fpValue (t : Ty) (w : Nat) : FVal :=
  match t with
  | .kt8 | .kt8w =>
    let v := w % 256
    if v = 0x80 then .nv
    else
      let r := taperedBody (taperedEs t) (v % 128)
      .fin (decide (128 ≤ v)) r.1 r.2
  | t =>
    let f := (tyFmt t)
    let v := w % 2 ^ f.bits
    let neg := decide (2 ^ (f.bits - 1) ≤ v)
    let mag := v % 2 ^ (f.bits - 1)
    let frac := mag % 2 ^ (f.p - 1)
    let ex := mag / 2 ^ (f.p - 1)
    let finite := FVal.fin neg (if ex = 0 then frac else frac + 2 ^ (f.p - 1)) (f.qmin + (if ex = 0 then 0 else Int.ofNat ex - 1))
    match t with
    | .e4m3 => if mag = 0x7F then .nan false else finite
    | .e5m2 => if mag = f.infBits then .inf neg else if f.infBits < mag then .nan false else finite
    | _ =>
      if mag = f.infBits then .inf neg
      else if f.infBits < mag then .nan (!(frac.testBit (f.p - 2)))
      else finite

/-! ### Rounding (R149, R150, R155, R159) -/

/-- m · 2^e rounded to a multiple of 2^q in a mode: how many, and whether that differs. -/
def roundAt (mode : Rnd) (neg : Bool) (m : Nat) (e q : Int) : Nat × Bool :=
  if q ≤ e then (m * 2 ^ (e - q).toNat, false)
  else
    let d := 2 ^ (q - e).toNat
    let quo := m / d
    let rem := m % d
    let up := match mode with
      | .rn => decide (d < 2 * rem) || (decide (2 * rem = d) && quo % 2 == 1)
      | .rz => false
      | .rp => decide (rem ≠ 0) && !neg
      | .rm => decide (rem ≠ 0) && neg
    (quo + up.toNat, decide (rem ≠ 0))

/-- Whether a mode rounds an overflow of this sign to infinity (R149). -/
def overflowsToInf (mode : Rnd) (neg : Bool) : Bool :=
  match mode with | .rn => true | .rz => false | .rp => !neg | .rm => neg

/-- The power of two of the last kept bit of a magnitude at a precision, no less than a format's least. -/
def ulpAt (f : Fmt) (m : Nat) (e : Int) : Int := max (Int.ofNat (bitLen m) + e - f.p) f.qmin

/-- Whether a magnitude, rounded at the format's precision with an unbounded exponent, is non-zero and below the least
normal value (R150). -/
def isTiny (f : Fmt) (mode : Rnd) (neg : Bool) (m : Nat) (e : Int) : Bool :=
  let q := Int.ofNat (bitLen m) + e - f.p
  let r := roundAt mode neg m e q
  m != 0 && !(dyLe 1 (f.qmin + f.p - 1) r.1 q)

/-- An exact value rounded once into an IEEE format, BF16 or E5M2: its image and flags (R149, R150). -/
def roundIeee (f : Fmt) (mode : Rnd) (neg : Bool) (m : Nat) (e : Int) : Nat × Fl :=
  if m = 0 then (f.signBit neg, Fl.none_)
  else
    let q := ulpAt f m e
    let r := roundAt mode neg m e q
    let img := (q - f.qmin).toNat * 2 ^ (f.p - 1) + r.1
    if f.infBits ≤ img then
      (f.signBit neg + (if overflowsToInf mode neg then f.infBits else f.infBits - 1), { of := true, nx := true })
    else (f.signBit neg + img, { nx := r.2, uf := r.2 && isTiny f mode neg m e })

/-- An exact value into E4M3: on its grid extended past 448, saturating (R155). -/
def roundE4m3 (neg : Bool) (m : Nat) (e : Int) : Nat × Fl :=
  let f := (tyFmt .e4m3)
  if m = 0 then (f.signBit neg, Fl.none_)
  else
    let q := ulpAt f m e
    let r := roundAt .rn neg m e q
    if !dyLe r.1 q 448 0 then (f.signBit neg + 0x7E, { of := true, nx := true })
    else
      (f.signBit neg + ((q - f.qmin).toNat * 2 ^ (f.p - 1) + r.1), { nx := r.2, uf := r.2 && isTiny f .rn neg m e })

/-- An exact value into KT8 or KT8W (R159). -/
def roundTapered (es : Nat) (neg : Bool) (m : Nat) (e : Int) : Nat × Fl :=
  let top := taperedBody es 0x7F
  let sign := if neg then 128 else 0
  if m = 0 then (0, Fl.none_)
  else if dyLe top.1 top.2 m e then (sign + 0x7F, if dyLe m e top.1 top.2 then Fl.none_ else { of := true, nx := true })
  else
    let lo := (List.range 128).foldl (fun l b => let v := taperedBody es b; if dyLe v.1 v.2 m e then b else l) 0
    let a := taperedBody es lo
    let c := taperedBody es (lo + 1)
    let z := min (min a.2 c.2) e
    let at_ (n : Nat) (x : Int) : Nat := n * 2 ^ (x - z).toNat
    let low := at_ m e - at_ a.1 a.2
    let high := at_ c.1 c.2 - at_ m e
    let b := if low < high then lo else if high < low then lo + 1 else if lo % 2 = 0 then lo else lo + 1
    let exact := decide (b = lo ∧ low = 0)
    if b = 0 then (0, { nx := true, uf := true }) else (sign + b, { nx := !exact })

/-- A finite exact value into any floating format (R161). -/
def roundTo (t : Ty) (mode : Rnd) (neg : Bool) (m : Nat) (e : Int) : Nat × Fl :=
  match t with
  | .kt8 | .kt8w => roundTapered (taperedEs t) neg m e
  | .e4m3 => roundE4m3 neg m e
  | .e5m2 => roundIeee (tyFmt t) .rn neg m e
  | t => roundIeee (tyFmt t) mode neg m e

/-- The canonical NaN of a format with invalid raised or not. -/
def nanOf (t : Ty) (iv : Bool) : Nat × Fl := ((tyCanonNan t), { iv := iv })

/-- An infinity in a format (R155, R159, R161). -/
def infOf (t : Ty) (neg : Bool) : Nat × Fl :=
  match t with
  | .e4m3 => (0x7F, { iv := true })
  | .kt8 | .kt8w => (0x80, { iv := true })
  | t => ((tyFmt t).signBit neg + (tyFmt t).infBits, Fl.none_)

/-- Whether a format is tapered. -/
def tyTapered (t : Ty) : Bool := t == .kt8 || t == .kt8w

/-- A value converted into a format, rounded once (R160, R161). -/
def convertTo (t : Ty) (mode : Rnd) (v : FVal) : Nat × Fl :=
  match v with
  | .nan sig => nanOf t (sig || (tyTapered t))
  | .nv => nanOf t true
  | .inf neg => infOf t neg
  | .fin neg m e => roundTo t mode neg m e

/-- A conversion between formats; into the same one only a NaN changes, to the canonical one, but for the quiet NaNs of
the 8-bit formats and NV (R266). -/
def fcvt (dt src : Ty) (mode : Rnd) (w : Nat) : Nat × Fl :=
  if dt == src then
    match fpValue src w with
    | .nan sig => if isBig src then nanOf src sig else (w % 256, Fl.none_)
    | _ => (w % 2 ^ (if isBig src then (tyFmt src).bits else 8), Fl.none_)
  else convertTo dt mode (fpValue src w)

/-! ### Arithmetic (R259) -/

/-- Whether a value is a NaN. -/
def FVal.isNan : FVal → Bool | .nan _ => true | .nv => true | _ => false
/-- Whether a value is a signalling NaN. -/
def FVal.isSig : FVal → Bool | .nan s => s | _ => false

/-- a · b + c, rounded once (R259): the exact sum; an exact zero sum of opposite signs is +0, in mode rm −0. -/
def fma (t : Ty) (mode : Rnd) (a b c : FVal) : Nat × Fl :=
  let sig := a.isSig || b.isSig || c.isSig
  let addTo (neg : Bool) (m : Nat) (e : Int) : Nat × Fl :=
    match c with
    | .inf n => infOf t n
    | .fin n k x =>
      let r := dyAlign m e k x
      let v := signedMag neg r.1 + signedMag n r.2.1
      if v = 0 then ((tyFmt t).signBit (if neg == n then neg else mode == .rm), Fl.none_)
      else roundTo t mode (decide (v < 0)) v.natAbs r.2.2
    | _ => nanOf t sig
  let addInf (neg : Bool) : Nat × Fl :=
    match c with
    | .inf n => if n == neg then infOf t neg else nanOf t true
    | .fin _ _ _ => infOf t neg
    | _ => nanOf t sig
  match a, b with
  | .inf n, .fin k m _ => if m = 0 then nanOf t true else addInf (n != k)
  | .fin k m _, .inf n => if m = 0 then nanOf t true else addInf (n != k)
  | .inf n, .inf k => addInf (n != k)
  | .fin n m e, .fin k y z => addTo (n != k) (m * y) (e + z)
  | _, _ => nanOf t sig

/-- a · b, rounded once. -/
def fpMul (t : Ty) (mode : Rnd) (a b : FVal) : Nat × Fl :=
  match a, b with
  | .inf n, .fin k m _ => if m = 0 then nanOf t true else infOf t (n != k)
  | .fin k m _, .inf n => if m = 0 then nanOf t true else infOf t (n != k)
  | .inf n, .inf k => infOf t (n != k)
  | .fin n m e, .fin k y z => roundTo t mode (n != k) (m * y) (e + z)
  | _, _ => nanOf t (a.isSig || b.isSig)

/-- The value with the other sign; a NaN stays one. -/
def FVal.negate : FVal → FVal
  | .fin n m e => .fin (!n) m e
  | .inf n => .inf (!n)
  | v => v

/-- a + b (R259). -/
def fpAdd (t : Ty) (mode : Rnd) (a b : FVal) : Nat × Fl := fma t mode a (.fin false 1 0) b

/-- a − b (R259). -/
def fpSub (t : Ty) (mode : Rnd) (a b : FVal) : Nat × Fl := fpAdd t mode a b.negate

/-! ### Order (R151 to R153, R261) -/

/-- The sortable key of an image that is no NaN (R153). -/
def sortKey (t : Ty) (w : Nat) : Nat :=
  let f := (tyFmt t)
  let v := w % 2 ^ f.bits
  if 2 ^ (f.bits - 1) ≤ v then 2 ^ f.bits - 1 - v else v + 2 ^ (f.bits - 1)

/-- The lesser (`least`) or greater of two images, with the flags of R151. -/
def fpPick (t : Ty) (least : Bool) (a b : Nat) : Nat × Fl :=
  let va := fpValue t a
  let vb := fpValue t b
  let iv := va.isSig || vb.isSig
  let cut (w : Nat) : Nat := w % 2 ^ (tyFmt t).bits
  if va.isNan && vb.isNan then ((tyCanonNan t), { iv := iv })
  else if va.isNan then (cut b, { iv := iv })
  else if vb.isNan then (cut a, { iv := iv })
  else
    let aFirst := if least then decide (sortKey t a ≤ sortKey t b) else decide (sortKey t b ≤ sortKey t a)
    (cut (if aFirst then a else b), { iv := iv })

/-- Whether pair (v, i) beats pair (w, k) (R152). -/
def pairBeats (t : Ty) (least : Bool) (v i w k : Nat) : Bool :=
  let nv := (fpValue t v).isNan
  let nw := (fpValue t w).isNan
  if nv && nw then decide (i < k)
  else if nv != nw then nw
  else if sortKey t v = sortKey t w then decide (i < k)
  else if least then decide (sortKey t v < sortKey t w) else decide (sortKey t w < sortKey t v)

/-- FMAXX and FMINX on pairs of a value (low) and an index (high) (R152, R260). -/
def fpPickPair (t : Ty) (least : Bool) (a b : Nat) : Nat × Fl :=
  let n := 2 ^ (tyFmt t).bits
  let va := a % 2 ^ 32 % n
  let vb := b % 2 ^ 32 % n
  let ia := a / 2 ^ 32
  let ib := b / 2 ^ 32
  let iv := (fpValue t va).isSig || (fpValue t vb).isSig
  let win := if pairBeats t least vb ib va ia then (vb, ib) else (va, ia)
  let v := if (fpValue t win.1).isNan then (tyCanonNan t) else win.1
  (v + win.2 * 2 ^ 32, { iv := iv })

/-- A comparison of two images: its outcome, and whether it raises iv (R261). -/
def fpCompare (t : Ty) (c : Cond) (a b : Nat) : Bool × Fl :=
  let va := fpValue t a
  let vb := fpValue t b
  let un := va.isNan || vb.isNan
  let sig := va.isSig || vb.isSig
  let zero (v : FVal) : Bool := match v with | .fin _ m _ => m == 0 | _ => false
  let eq := !un && (sortKey t a == sortKey t b || (zero va && zero vb))
  let lt := !un && !eq && decide (sortKey t a < sortKey t b)
  match c with
  | .eq => (eq, { iv := sig })
  | .ne => (!eq, { iv := sig })
  | .lt => (lt, { iv := un })
  | .le => (lt || eq, { iv := un })
  | .gt => (!un && !eq && !lt, { iv := un })
  | .ge => (!un && !lt, { iv := un })
  | .c6 => (un, { iv := sig })
  | .c7 => (!un, { iv := sig })

/-! ### Rounding to integers, and integers (R262, R267, R268) -/

/-- FRND (R262). -/
def fpRound (mode : Rnd) (x : Bool) (w : Nat) : Nat × Fl :=
  match fpValue .f32 w with
  | .fin neg m e =>
    let r := roundAt mode neg m e 0
    ((roundTo .f32 .rn neg r.1 0).1, { nx := x && r.2 })
  | .inf neg => infOf .f32 neg
  | v => nanOf .f32 v.isSig

/-- The width of an integer type (R147). -/
def tyIntBits (t : Ty) : Nat := 8 * t.bytes

/-- The limits of an integer type (R147). -/
def tyIntMin (t : Ty) : Int := if t.signed then -(2 ^ ((tyIntBits t) - 1)) else 0
def tyIntMax (t : Ty) : Int := if t.signed then 2 ^ ((tyIntBits t) - 1) - 1 else 2 ^ (tyIntBits t) - 1

/-- The register image of an integer of a type: extended to 32 bits, or a pair (R257). -/
def intImage (t : Ty) (v : Int) : Nat := wrapOf (if t.wide then 64 else 32) v

/-- F2I (R267). -/
def fpToInt (it ft : Ty) (mode : Rnd) (w : Nat) : Nat × Fl :=
  match fpValue ft w with
  | .fin neg m e =>
    let r := roundAt mode neg m e 0
    let y := signedMag neg r.1
    if (tyIntMax it) < y then (intImage it (tyIntMax it), { of := true, nx := true })
    else if y < (tyIntMin it) then (intImage it (tyIntMin it), { of := true, nx := true })
    else (intImage it y, { nx := r.2 })
  | .inf neg => (intImage it (if neg then (tyIntMin it) else (tyIntMax it)), { iv := true })
  | _ => (0, { iv := true })

/-- The integer an image of an integer type stands for, read from its low bits (R257). -/
def intValue (t : Ty) (w : Nat) : Int := if t.signed then signedOf (tyIntBits t) w else Int.ofNat (w % 2 ^ (tyIntBits t))

/-- I2F (R268): integer 0 gives +0. -/
def intToFp (ft it : Ty) (mode : Rnd) (w : Nat) : Nat × Fl :=
  let v := intValue it w
  roundTo ft mode (decide (v < 0)) v.natAbs 0

/-! ### Packed 16-bit (R264, R265) -/

/-- Half h of a register. -/
def half (w h : Nat) : Nat := w / 2 ^ (16 * h) % 2 ^ 16

/-- An operation on each half; the flags of both are joined. -/
def onHalves (f : Nat → Nat × Fl) : Nat × Fl :=
  let lo := f 0
  let hi := f 1
  (lo.1 + 2 ^ 16 * hi.1, lo.2.or hi.2)

/-- PACK2: each FP32 into its half. -/
def fpPack (t : Ty) (mode : Rnd) (a b : Nat) : Nat × Fl :=
  onHalves (fun h => convertTo t mode (fpValue .f32 (if h = 0 then a else b)))

/-- UNPK2: half 0 and half 1 as FP32 values, in a pair. -/
def fpUnpack (t : Ty) (a : Nat) : Nat × Fl :=
  let lo := convertTo .f32 .rn (fpValue t (half a 0))
  let hi := convertTo .f32 .rn (fpValue t (half a 1))
  (lo.1 + 2 ^ 32 * hi.1, lo.2.or hi.2)

/-! ### Reciprocals, roots and transcendentals (R263) -/

/-- The greatest integer whose square is no more than n, found bit by bit from 2^k down. -/
def isqrtFrom (n : Nat) : Nat → Nat → Nat
  | 0, r => r
  | k + 1, r => isqrtFrom n k (if (r + 2 ^ k) * (r + 2 ^ k) ≤ n then r + 2 ^ k else r)

/-- The integer square root of a number below 2^(2k). -/
def isqrt (k n : Nat) : Nat := isqrtFrom n k 0

/-- A magnitude that lies strictly between v · 2^e and (v + 1) · 2^e, or is v · 2^e when exact: doubled, with the low bit
set when it is inexact, which keeps its place among all coarser rounding boundaries. -/
def sticky (v : Nat) (e : Int) (exact : Bool) : Nat × Int := (2 * v + (!exact).toNat, e - 1)

/-- 1 / (m · 2^e). -/
def recipMag (m : Nat) (e : Int) : Nat × Int :=
  let k := bitLen m + 60
  sticky (2 ^ k / m) (-(Int.ofNat k) - e) (decide (2 ^ k % m = 0))

/-- m · 2^e with an even exponent. -/
def evenExp (m : Nat) (e : Int) : Nat × Int := if e % 2 = 0 then (m, e) else (2 * m, e - 1)

/-- √(m · 2^e). -/
def sqrtMag (m : Nat) (e : Int) : Nat × Int :=
  let r := evenExp m e
  let n := r.1 * 2 ^ 120
  let v := isqrt 80 n
  sticky v (r.2 / 2 - 60) (decide (v * v = n))

/-- 1 / √(m · 2^e). -/
def rsqrtMag (m : Nat) (e : Int) : Nat × Int :=
  let r := evenExp m e
  let v := isqrt 90 (2 ^ 160 / r.1)
  sticky v (-80 - r.2 / 2) (decide (v * v * r.1 = 2 ^ 160))

/-- The fractional bits of the fixed-point values below. -/
def fixBits : Nat := 320

/-- ln 2 in fixed point: the sum of 1 / (k · 2^k). -/
def fixLn2 : Nat := (List.range 320).foldl (fun s k => s + 2 ^ fixBits / ((k + 1) * 2 ^ (k + 1))) 0

/-- e^y in fixed point, for 0 ≤ y < 1, by its power series. -/
def fixExp (y : Nat) : Nat :=
  ((List.range 80).foldl (fun (st : Nat × Nat) n => (st.1 + st.2, st.2 * y / 2 ^ fixBits / (n + 1))) (0, 2 ^ fixBits)).1

/-- ln of m / 2^k in fixed point, for 1 ≤ m / 2^k < 2, by the series of the inverse hyperbolic tangent. -/
def fixLn (m k : Nat) : Nat :=
  let z := (m - 2 ^ k) * 2 ^ fixBits / (m + 2 ^ k)
  let z2 := z * z / 2 ^ fixBits
  2 * ((List.range 110).foldl (fun (st : Nat × Nat) n => (st.1 + st.2 / (2 * n + 1), st.2 * z2 / 2 ^ fixBits)) (0, z)).1

/-- An approximation in fixed point whose error is below 2^40 units: its place between the boundaries of any coarser
rounding (DEDUCED [12]: no result of these functions at an FP32 argument lies nearer to one without being on it). -/
def fixMag (v : Nat) : Nat × Int := sticky (v / 2 ^ 40) (40 - Int.ofNat fixBits) false

/-- 2^x for x = i + f / 2^fixBits, f ≠ 0. -/
def exp2Frac (i : Int) (f : Nat) : Nat × Int :=
  let r := fixMag (fixExp (f * fixLn2 / 2 ^ fixBits))
  (r.1, r.2 + i)

/-- 2^(±m · 2^e). -/
def exp2Mag (neg : Bool) (m : Nat) (e : Int) : Nat × Int :=
  if !dyLe m e 512 0 then (1, if neg then -512 else 512)
  else
    let v := signedMag neg (roundAt .rz false m e (-(Int.ofNat fixBits))).1
    let i := v / 2 ^ fixBits
    let f := (v % 2 ^ fixBits).toNat
    if f = 0 then (1, i) else exp2Frac i f

/-- log2 (m · 2^e): sign and magnitude. -/
def log2Mag (m : Nat) (e : Int) : Bool × Nat × Int :=
  let k := bitLen m - 1
  let i := Int.ofNat k + e
  if m = 2 ^ k then (decide (i < 0), i.natAbs, 0)
  else
    let v := i * 2 ^ fixBits + Int.ofNat (fixLn m k * 2 ^ fixBits / fixLn2)
    let r := fixMag v.natAbs
    (decide (v < 0), r.1, r.2)

/-- tanh (m · 2^e): below 2^-13 a value just under the argument, above 16 one just under 1, else (1 − t) / (1 + t) with
t = e^(−2a). -/
def tanhMag (m : Nat) (e : Int) : Nat × Int :=
  if dyLe m e 1 (-13) then (m * 2 ^ 60 - 1, e - 60)
  else if !dyLe m e 16 0 then (2 ^ 60 - 1, -60)
  else
    let a := (roundAt .rz false m e (-(Int.ofNat fixBits))).1
    let y := 2 * a * 2 ^ fixBits / fixLn2
    let i := y / 2 ^ fixBits
    let t := 2 ^ (2 * fixBits) / (fixExp (y % 2 ^ fixBits * fixLn2 / 2 ^ fixBits) * 2 ^ i)
    fixMag ((2 ^ fixBits - t) * 2 ^ fixBits / (2 ^ fixBits + t))

/-- FRCP. -/
def fpRcp (mode : Rnd) (w : Nat) : Nat × Fl :=
  match fpValue .f32 w with
  | .fin neg m e =>
    if m = 0 then ((infOf .f32 neg).1, { dz := true })
    else let r := recipMag m e; roundTo .f32 mode neg r.1 r.2
  | .inf neg => ((tyFmt .f32).signBit neg, Fl.none_)
  | v => nanOf .f32 v.isSig

/-- FRSQ. -/
def fpRsq (mode : Rnd) (w : Nat) : Nat × Fl :=
  match fpValue .f32 w with
  | .fin neg m e =>
    if m = 0 then ((infOf .f32 neg).1, { dz := true })
    else if neg then nanOf .f32 true
    else let r := rsqrtMag m e; roundTo .f32 mode false r.1 r.2
  | .inf neg => if neg then nanOf .f32 true else (0, Fl.none_)
  | v => nanOf .f32 v.isSig

/-- FSQRT. -/
def fpSqrt (mode : Rnd) (w : Nat) : Nat × Fl :=
  match fpValue .f32 w with
  | .fin neg m e =>
    if m = 0 then ((tyFmt .f32).signBit neg, Fl.none_)
    else if neg then nanOf .f32 true
    else let r := sqrtMag m e; roundTo .f32 mode false r.1 r.2
  | .inf neg => if neg then nanOf .f32 true else infOf .f32 false
  | v => nanOf .f32 v.isSig

/-- FEXP2. -/
def fpExp2 (mode : Rnd) (w : Nat) : Nat × Fl :=
  match fpValue .f32 w with
  | .fin neg m e => let r := exp2Mag neg m e; roundTo .f32 mode false r.1 r.2
  | .inf neg => if neg then (0, Fl.none_) else infOf .f32 false
  | v => nanOf .f32 v.isSig

/-- FLOG2. -/
def fpLog2 (mode : Rnd) (w : Nat) : Nat × Fl :=
  match fpValue .f32 w with
  | .fin neg m e =>
    if m = 0 then ((infOf .f32 true).1, { dz := true })
    else if neg then nanOf .f32 true
    else let r := log2Mag m e; roundTo .f32 mode r.1 r.2.1 r.2.2
  | .inf neg => if neg then nanOf .f32 true else infOf .f32 false
  | v => nanOf .f32 v.isSig

/-- FTANH. -/
def fpTanh (mode : Rnd) (w : Nat) : Nat × Fl :=
  match fpValue .f32 w with
  | .fin neg m e =>
    if m = 0 then ((tyFmt .f32).signBit neg, Fl.none_)
    else let r := tanhMag m e; roundTo .f32 mode neg r.1 r.2
  | .inf neg => ((tyFmt .f32).signBit neg + 0x3F800000, Fl.none_)
  | v => nanOf .f32 v.isSig

/-! ### The FP32-extended accumulator format (R164, R165) -/

/-- The image of an FP32-extended value from its fields. -/
def extImage (neg : Bool) (ex frac : Nat) : BitVec 34 := BitVec.ofNat 34 (neg.toNat * 2 ^ 33 + ex * 2 ^ 23 + frac)

/-- The one NaN an accumulator holds. -/
def extNan : BitVec 34 := extImage false 1023 0x400000

/-- The value of an accumulator image (R164). -/
def extValue (w : BitVec 34) : FVal :=
  let neg := w.getLsbD 33
  let ex := w.toNat / 2 ^ 23 % 2 ^ 10
  let frac := w.toNat % 2 ^ 23
  if ex = 0 then .fin neg 0 0
  else if ex = 1023 then (if frac = 0 then .inf neg else .nan false)
  else .fin neg (2 ^ 23 + frac) (Int.ofNat ex - 511 - 23)

/-- A non-zero exact magnitude rounded onto the accumulator's grid (R165). -/
def extRound (neg : Bool) (m : Nat) (e : Int) : BitVec 34 :=
  let q := Int.ofNat (bitLen m) + e - 24
  let r := (roundAt .rn neg m e q).1
  let r' := if r = 2 ^ 24 then 2 ^ 23 else r
  let q' := if r = 2 ^ 24 then q + 1 else q
  let ex := q' + 23 + 511
  if 1022 < ex then extImage neg 1023 0
  else if ex < 1 then extImage neg 0 0
  else extImage neg ex.toNat (r' - 2 ^ 23)

/-- An accumulator update: the exact sum rounded once (R165). -/
def extAdd (old : BitVec 34) (neg : Bool) (m : Nat) (e : Int) : BitVec 34 :=
  match extValue old with
  | .fin n k x =>
    let r := dyAlign k x m e
    let v := signedMag n r.1 + signedMag neg r.2.1
    if v = 0 then 0 else extRound (decide (v < 0)) v.natAbs r.2.2
  | .inf n => extImage n 1023 0
  | _ => extNan

end Sys2Proof.Machine
end

