-- ==== Sys2Proof/Machine/Device.lean ====
section
/-! DEFINITION. Control space (R384, R394, R411, R429, R434, R436, R439) and who may reach it (R426, R442): reads, writes,
the queue kick, the cut's go and release, the swap request; the memory grant of a partition. -/

namespace Sys2Proof.Machine

/-! ### Partitions -/

/-- The number of clusters that a partition shows in its shape (R392). -/
def Part.count (q : Part) : Nat := if q.v128 then Config.logicalClusters else 2 * q.pairs.length

/-- The GDDR-7 controller that holds a logical memory slice (R190). Addresses, and so results, do not depend on it
(DESIGN CHOICE [108]). -/
def Part.controller (q : Part) (slice : Nat) : Nat := Sp.getD q.slices (slice % 64) (slice % 64)

/-- The clusters of a partition as programs see them (R189, R190). -/
def State.clustersOf (s : State) (p : Nat) : List Nat :=
  let q := s.part p
  if q.v128 then List.range Config.logicalClusters
  else (q.pairs.flatMap (fun n => [2 * n, 2 * n + 1])).filter (fun c => !s.house.retired.contains c)

/-- How many clusters a partition has to give (R189, R409). -/
def State.clusterCount (s : State) (p : Nat) : Nat := (s.clustersOf p).length

/-- The physical cluster of a logical one (R190). -/
def Part.physical (q : Part) (c : Nat) : Nat := Sp.getD q.remap c c

/-- The running cluster on a physical cluster: of the partition that is on, the logical cluster that holds it. -/
def State.clusterAt (s : State) (phys : Nat) : Option Nat :=
  (s.parts.filter (fun (p : Nat × Part) => p.2.on && p.2.pairs.contains (phys / 2))).head?.bind (fun p =>
    ((s.clustersOf p.1).find? (fun c => p.2.physical c == phys && !p.2.sliced.contains c)).map (fun c => clusterKey p.1 c))

/-- A partition has work to come in for (R412): a served queue with a launch that is not placed, or resident launches. -/
def State.hasWork (s : State) (p : Nat) : Bool :=
  s.queues.any (fun (q : Nat × Queue) => q.2.en && q.2.part == p && q.2.head != q.2.tail)
  || s.launches.any (fun l => l.2.part == p && (l.2.phase == .waiting || l.2.phase == .placing || l.2.phase == .placed))

/-- A debug hold on a group of a partition, or a halt that is to take effect first, holds its swaps back (R406). -/
def State.debugHeld (s : State) (p : Nat) : Bool := s.groups.any (fun y => y.2.part == p && (y.2.dbgHold || y.2.dbgPend))

/-- A swap that was triggered starts to drain when the group's swap engine is free and no debug hold is in the way (R406,
R412, R413). -/
def State.startSwap (s : State) (k : Nat) : State :=
  let x := s.share k
  let held := (s.shareMembers k).any (fun p => (s.part p).on && s.debugHeld p)
  if x.pending && !x.busy && x.phase == .run && !held then s.modShare k (fun x => { x with phase := .drain, pending := false }) else s

/-- Some other partition of a time-share group has work (R412). -/
def State.othersWork (s : State) (p : Nat) : Bool := (s.shareMembers (s.shareKey p)).any (fun q => q != p && s.hasWork q)

/-- A swap trigger of the time-share group of a partition that is on (R412): it waits while the group is busy. -/
def State.swapTrigger (s : State) (p : Nat) : State :=
  let k := s.shareKey p
  if (s.part p).on && s.othersWork p then
    (s.modShare k (fun x => { x with pending := true })).startSwap k
  else s

/-! ### The cut's register writes (R411, R424, R425) -/

/-- Record 0x33: a change of the cut state (R407). -/
def State.postCut (s : State) (p : Nat) : State :=
  let q := s.part p
  s.postSystem (clusterKey p q.firstCluster)
    { w0 := BitVec.ofNat 64 (0x33 * 2 ^ 56), w3 := recWord3 (q.cutState * 2 ^ 30) 0, w4 := BitVec.ofNat 64 q.target.toNat }

/-- A group, or its other copy, has issued an instruction: a lead and its stand-in are one unit of a cut (R186, R424). -/
def State.unitIssued (s : State) (x : Group) : Bool := decide (0 < x.issued) || (s.otherCopy x).any (fun y => decide (0 < y.2.issued))

/-- A write of go: a cut starts unless one runs or is done; what has not started is held (R424, R425). -/
def State.cutStart (s : State) (p : Nat) : State :=
  let q := s.part p
  if q.cutState = 1 || q.cutState = 2 then s
  else
    let s := s.setPart p { q with cutState := 1, cutFirst := true, target := 0 }
    let s := { s with
      groups := s.groups.map (fun (y : Nat × Group) => (y.1, if y.2.part == p && !s.unitIssued y.2 then { y.2 with cutStop := true } else y.2)),
      ctxs := s.ctxs.map (fun (y : Nat × Ctx) => (y.1, if y.2.part == p && decide (y.2.num < 6) && !y.2.issuedCue then { y.2 with cutStop := true } else y.2)) }
    s.postCut p

/-- Every unit and held context of a partition resumes. -/
def State.cutResume (s : State) (p : Nat) : State :=
  { s with
    groups := s.groups.map (fun (y : Nat × Group) => (y.1, if y.2.part == p then { y.2 with cutStop := false } else y.2)),
    ctxs := s.ctxs.map (fun (y : Nat × Ctx) => (y.1, if y.2.part == p then { y.2 with cutStop := false } else y.2)) }

/-- A write of release: a completed cut ends (R425). -/
def State.cutEnd (s : State) (p : Nat) : State :=
  if (s.part p).cutState = 2 then
    let s := s.modPart p (fun q => { q with cutState := 0, cutFirst := false })
    let s := s.cutResume p
    s.postCut p
  else s

/-! ### Launch queues (R384, R385) -/

/-- The slots of a ring. -/
def Queue.ring (q : Queue) : Nat := 64 * 2 ^ q.size

/-- The kicks that cover what lies below a tail: one whose tail is past it covers up to it (R385). -/
def Queue.kicksTo (q : Queue) (t : Nat) : List (Nat × Clock) :=
  let dist (n : Nat) : Nat := (n + 2 ^ 16 - q.head) % 2 ^ 16
  q.kicks.takeWhile (fun k => decide (dist k.1 < dist t)) ++
    (match q.kicks.find? (fun k => decide (dist t ≤ dist k.1)) with | some k => if t = q.head then [] else [(t, k.2)] | none => [])

/-- A queue kick (R384, R385): the tail is written; one that passes the ring's size disables the queue. The kick
publishes what happens before it to the launches between the old and the new tail; one that moves the tail back takes the launches past
it from the kicks before. -/
def State.kick (s : State) (n tail : Nat) (clk : Clock) : State :=
  let q := s.queue n
  let t := tail % 2 ^ 16
  let ks := q.kicksTo t
  if q.ring < (t + 2 ^ 16 - q.head) % 2 ^ 16 then s.setQueue n { q with en := false, overrun := true }
  else s.setQueue n { q with tail := t, kicks := if t = q.head ∨ ks.any (fun k => k.1 == t) then ks else ks ++ [(t, clk)] }

/-- What happens before the launch at the head of a queue: the first kick whose tail is past it covers it (R385). -/
def Queue.covering (q : Queue) : Clock :=
  ((q.kicks.find? (fun k => k.1 != q.head)).map Prod.snd).getD []

/-- The kicks that cover launches still to be taken, from a head on. -/
def Queue.kicksFrom (q : Queue) (head : Nat) : List (Nat × Clock) := q.kicks.dropWhile (fun k => k.1 == head)

/-- A write of QCFG (R4, R384): size and part are kept while the queue is enabled; a reserved code is ignored,
and leaves the queue disabled (DEDUCED [107]). -/
def Queue.configure (q : Queue) (v : Nat) : Queue :=
  let size := v / 2 ^ 16 % 16
  let prio := v % 64
  let part := v / 2 ^ 8 % 8
  let ok := decide (size ≤ 10) && decide (prio ≤ 47)
  let q := { q with prio := if prio ≤ 47 then prio else q.prio }
  let q := if q.en then q else { q with size := if size ≤ 10 then size else q.size, part := part }
  { q with en := v / 2 ^ 63 % 2 == 1 && ok }

/-- QCFG as read. -/
def Queue.config (q : Queue) : Nat := q.en.toNat * 2 ^ 63 + q.size * 2 ^ 16 + q.part * 2 ^ 8 + q.prio

/-- QSTAT as read. -/
def State.queueStat (s : State) (n : Nat) : Nat :=
  let waits := s.launches.any (fun l => l.2.queue == n && l.2.phase == .waiting)
  let places := s.launches.any (fun l => l.2.queue == n && (l.2.phase == .waiting || l.2.phase == .placing))
  (s.queue n).overrun.toNat * 4 + waits.toNat * 2 + places.toNat

/-! ### Reading control space (R434) -/

/-- An ALLRES launch with teams on a cluster pins its limit (R55). -/
def State.pinned (s : State) (ck : Nat) : Bool :=
  s.teams.any (fun t => (t.2.ckey == ck || (t.2.pair && t.2.ckey + 1 == ck)) && (s.launch? t.2.launch).any (fun l => l.allres))

/-- The resident-team limit in force: one asked for while it was pinned takes effect when the pin is released (R395). -/
def State.limitOf (s : State) (ck : Nat) : Nat :=
  let c := s.cluster ck
  if s.pinned ck then c.limit else c.limitWant.getD c.limit

/-- The slice ratios in force (R394, R444). -/
def State.ratioOf (s : State) (ck : Nat) : Nat := if s.house.ratioClamp then 0 else (s.cluster ck).ratio.toNat

/-- The teams that are resident on a cluster: residency ends with the exit (R58, R395). -/
def State.liveTeams (s : State) (ck : Nat) : List (Nat × Team) :=
  s.teams.filter (fun t => !t.2.exited && (t.2.ckey == ck || (t.2.pair && t.2.ckey + 1 == ck)))

/-- PSTAT of a physical cluster (R394). -/
def State.pstat (s : State) (phys : Nat) : Nat :=
  match s.clusterAt phys with
  | none => (if s.house.ratioClamp then 0 else 0x3FFFF) * 2 ^ 24 + 192 * 2 ^ 8
  | some ck =>
    let resident := (s.liveTeams ck).length
    (s.pinned ck).toNat * 2 ^ 42 + s.ratioOf ck * 2 ^ 24 + resident % 256 * 2 ^ 16 + s.limitOf ck * 2 ^ 8 + (s.kernelsOn ck).length

/-- GPSTAT of a port (R429). -/
def Port.stat (p : Port) : Nat :=
  p.peer % 2 ^ 11 * 2 ^ 42 + p.pport % 64 * 2 ^ 36 + min (p.replays / 65536) 0xFFFF * 2 ^ 16 + min p.sheds 255 * 2 ^ 8 + p.lanes * 4 + p.state

/-- The registers of a partition as read (R411). -/
def State.partReg (s : State) (p i : Nat) : Nat :=
  let q := s.part p
  match i with
  | 0 => q.root
  | 1 => q.on.toNat * 2 ^ 63 + (s.share (s.shareKey p)).busy.toNat * 2 ^ 62 + q.qnt * 2 ^ 32 + q.yield.toNat
  | 2 => q.tmo
  | 3 => q.cutState * 2 ^ 62 + q.target.toNat
  | _ => 0

/-- The registers of a queue as read (R384). -/
def State.queueReg (s : State) (n i : Nat) : Nat :=
  let q := s.queue n
  match i with
  | 0 => q.base
  | 1 => q.config
  | 2 => q.tail
  | 3 => q.head
  | 4 => q.note
  | 5 => s.queueStat n
  | _ => 0

/-- An 8-byte read of control space; unlisted offsets read zero (R434). -/
def State.controlRead (s : State) (off : Nat) : Nat :=
  if off = 0 then Config.partCode * 2 ^ 48 + s.device
  else if 0x10000 ≤ off ∧ off < 0x14000 then s.queueReg ((off - 0x10000) / 0x40) ((off - 0x10000) % 0x40 / 8)
  else if 0x20000 ≤ off ∧ off < 0x20800 then s.partReg ((off - 0x20000) / 0x100) ((off - 0x20000) % 0x100 / 8)
  else if 0x30000 ≤ off ∧ off < 0x30000 + 0x40 * Config.physClusters ∧ off % 0x40 = 0 then s.pstat ((off - 0x30000) / 0x40)
  else if 0x40000 ≤ off ∧ off < 0x41000 ∧ off % 0x40 = 0 then (s.port ((off - 0x40000) / 0x40)).stat
  else if 0x50000 ≤ off ∧ off < 0x50080 then (Sp.getD s.windows ((off - 0x50000) / 8) 0).toNat
  else if off = 0x60000 then s.erBase
  else if off = 0x60008 then s.erEn.toNat * 2 ^ 63 + s.erSize
  else if off = 0x60010 then s.erHead
  else if off = 0x60018 then s.erTail
  else 0

/-! ### Writing control space -/

/-- A write of PTROOT: the root, and every translation of the partition is invalid (R411). -/
def State.setRoot (s : State) (p v : Nat) : State :=
  let s := s.modPart p (fun q => { q with root := v / 2 ^ 12 % 2 ^ 44 * 2 ^ 12 })
  { s with
    clusters := s.clusters.map (fun (c : Nat × Cluster) => (c.1, { c.2 with tlb := c.2.tlb.filter (fun e => e.part != p) })),
    tlb2 := s.tlb2.map (fun (d : Nat × List TlbEntry) => (d.1, d.2.filter (fun e => e.part != p))) }

/-- A write of a partition's register (R411). -/
def State.writePartReg (s : State) (p i v : Nat) : State :=
  match i with
  | 0 => s.setRoot p v
  | 1 =>
    let s := s.modPart p (fun q => { q with qnt := v / 2 ^ 32 % 2 ^ 16 })
    if v % 2 = 1 then (s.modPart p (fun q => { q with yield := q.on && s.othersWork p })).swapTrigger p else s
  | 2 =>
    let s := s.modPart p (fun q => { q with tmo := if v % 2 ^ 16 = 0 then 1 else v % 2 ^ 16 })
    let s := if v / 2 ^ 62 % 2 = 1 then s.cutEnd p else s
    if v / 2 ^ 63 % 2 = 1 then s.cutStart p else s
  | _ => s

/-- A write of a queue's register (R384). -/
def State.writeQueueReg (s : State) (n i v : Nat) (clk : Clock) : State :=
  match i with
  | 0 => s.modQueue n (fun q => if q.en then q else { q with base := v / 2 ^ 12 % 2 ^ 44 * 2 ^ 12 })
  | 1 => s.modQueue n (fun q => q.configure v)
  | 2 => s.kick n v clk
  | 4 => s.modQueue n (fun q => { q with note := v % 2 ^ 56 })
  | 5 => s.modQueue n (fun q => if v / 4 % 2 = 1 then { q with overrun := false } else q)
  | _ => s

/-- A write of the error report ring's registers (R439); a reserved size is ignored (R4). -/
def State.writeErrReg (s : State) (i v : Nat) : State :=
  match i with
  | 0 => { s with erBase := v / 2 ^ 12 % 2 ^ 44 * 2 ^ 12 }
  | 1 =>
    let en := v / 2 ^ 63 % 2 == 1
    { s with erEn := en, erSize := if v % 16 ≤ 10 then v % 16 else s.erSize, erHead := if en && !s.erEn then 0 else s.erHead }
  | 3 => { s with erTail := v }
  | _ => s

/-- An 8-byte write of control space by someone with the right to it; unlisted and read-only offsets ignore it. -/
def State.controlWrite (s : State) (off v : Nat) (clk : Clock) : State :=
  if 0x10000 ≤ off ∧ off < 0x14000 then s.writeQueueReg ((off - 0x10000) / 0x40) ((off - 0x10000) % 0x40 / 8) v clk
  else if 0x20000 ≤ off ∧ off < 0x20800 then s.writePartReg ((off - 0x20000) / 0x100) ((off - 0x20000) % 0x100 / 8) v
  else if 0x60000 ≤ off ∧ off < 0x60020 then s.writeErrReg ((off - 0x60000) / 8) v
  else s

/-! ### Rights (R426, R434, R442) -/

/-- Word i of a host port's entry in the active configuration (R442). -/
def State.portRights (s : State) (port i : Nat) : Nat := ((s.house.active.words[98 + 5 * port + i]?).getD 0).toNat

/-- A unit of a partition may write the tail of the queues that name it, and nothing else (R442). -/
def State.unitMayWrite (s : State) (part off : Nat) : Bool :=
  decide (0x10000 ≤ off) && decide (off < 0x14000) && off % 0x40 == 0x10 && (s.queue ((off - 0x10000) / 0x40)).part == part

/-- The listed registers of the read-only blocks: PSTAT, GPSTAT and the reduction windows (R434). -/
def controlReadOnly (off : Nat) : Bool :=
  (decide (0x30000 ≤ off ∧ off < 0x30000 + 0x40 * Config.physClusters) && off % 0x40 == 0)
  || (decide (0x40000 ≤ off ∧ off < 0x41000) && off % 0x40 == 0) || decide (0x50000 ≤ off ∧ off < 0x50080)

/-- What a host port may read and write (R434, R442); an unlisted offset reads zero and ignores writes. -/
def State.hostMay (s : State) (port off : Nat) (write : Bool) : Bool :=
  if 0x10000 ≤ off ∧ off < 0x14000 ∧ off % 0x40 < 0x30 then
    let q := (off - 0x10000) / 0x40
    (s.portRights port (q / 64)).testBit (q % 64)
  else if 0x20000 ≤ off ∧ off < 0x20800 ∧ off % 0x100 < 0x20 then (s.portRights port 4).testBit ((off - 0x20000) / 0x100)
  else if off = 0 || controlReadOnly off then !write && (s.portRights port 4).testBit 8
  else if 0x60000 ≤ off ∧ off < 0x60020 then
    if write then (s.portRights port 4).testBit 9 && off != 0x60010 else (s.portRights port 4).testBit 8
  else true

/-- Whether an agent may write a control register: a host by its port, a unit by its partition (R426, R442). -/
def State.agentMayWrite (s : State) (ag : Agent) (off : Nat) : Bool :=
  match ag with
  | .host p => s.hostMay p off true
  | .group g => match s.group? g with | none => false | some x => s.unitMayWrite x.part off
  | .ctx c => match s.ctx? c with | none => false | some x => s.unitMayWrite x.part off
  | .engine ck _ => s.unitMayWrite (ck / 256) off

/-- The happens-before clock an agent's write publishes. -/
def State.agentClk (s : State) (ag : Agent) : Clock :=
  match ag with
  | .host _ => s.hostClk
  | .group g => match s.group? g with | none => [] | some x => x.clk
  | .ctx c => match s.ctx? c with | none => [] | some x => x.clk
  | .engine _ _ => []

/-- A violation by whatever master made it (R426). -/
def State.masterViolation (s : State) (ag : Agent) (slotB : Bool) (addr : Nat) : State :=
  match ag with
  | .host p => s.hostViolation p addr
  | .group g => match s.group? g with | none => s | some x => s.violation ag slotB x.part x.cluster addr
  | .ctx c => match s.ctx? c with | none => s | some x => s.violation ag false x.part x.cluster addr
  | .engine ck _ => s.violation ag false (ck / 256) (ck % 256) addr

/-- A control register written by an agent, or the violation that this is; a frozen port's request does nothing, nor one of a host
before bring-up serves hosts (R443). -/
def State.agentWrite (s : State) (ag : Agent) (slotB : Bool) (off v : Nat) (clk : Clock) : State :=
  let shut : Bool := match ag with | .host p => (s.port p).frozen || decide (s.house.step < 7) | _ => false
  if shut then s
  else if s.agentMayWrite ag off then s.controlWrite off v clk
  else s.masterViolation ag slotB off

/-! ### The memory grant (R433, R442) -/

/-- Physical device memory that exists (R442): the near tier and the far tier. -/
def memoryExists (phys : Nat) : Bool :=
  decide (phys < 0x3000000000) || (decide (0x10000000000 ≤ phys) && decide (phys < 0x20000000000))

/-- An enabled grant range covers a physical or fabric address (R442). -/
def Part.granted (q : Part) (addr : Nat) : Bool := q.grants.any (fun r => decide (r.1 ≤ addr) && decide (addr < r.1 + r.2))

/-- Where a physical address is served (R433): device memory here, another device, or control space here. -/
def State.servedAt (s : State) (addr : Nat) : Place :=
  if addr / 2 ^ 55 % 2 = 0 then .dev addr
  else if addr / 2 ^ 44 % 2 ^ 11 = s.device then
    if addr / 2 ^ 43 % 2 = 1 then .control (addr % 2 ^ 43) else .dev (addr % 2 ^ 43)
  else .remote addr

/-- Whether a unit of a partition may reach a physical address (R426, R442): reads of control space here are free, the
tail of the partition's queues may be written; all else must be granted and exist. -/
def State.unitMay (s : State) (part addr : Nat) (write : Bool) : Bool :=
  match s.servedAt addr with
  | .control off => !write || s.unitMayWrite part off
  | .dev phys => (s.part part).granted addr && memoryExists phys
  | _ => (s.part part).granted addr

end Sys2Proof.Machine
end

