-- ==== Sys2Proof/Machine/Translate.lean ====
section
/-! DEFINITION. Addresses: the page walk, the two levels of TLB and the walks that wait (R419 to R423); scratchpad
addresses, ensembles and the checks of R88; the sharing of scopes (R123, R124). -/

namespace Sys2Proof.Machine

/-! ### The page walk (R419, R420) -/

/-- Where a walk ends. -/
inductive WalkEnd where
  | page (frame bits : Nat) (w nochk far : Bool)
  | fault (level : Nat) (malformed invalid : Bool)
deriving DecidableEq, Repr

/-- The index bits of an address at a level (R420). -/
def walkIndex (level va : Nat) : Nat :=
  if level = 4 then va / 2 ^ 48 % 256 else va / 2 ^ (12 + 9 * level) % 512

/-- An entry that is valid but breaks the form of its level (R419, R420). -/
def entryMalformed (level e : Nat) : Bool :=
  let leaf := e.testBit 1
  let s64 := e.testBit 5
  e / 2 ^ 56 != 0 || e / 2 ^ 6 % 64 != 0
    || (leaf && decide (3 ≤ level)) || (!leaf && level == 0) || (s64 && !(leaf && level == 0))
    || (!leaf && e / 4 % 16 != 0)

/-- The walk from a table at a level down; the levels bound it. -/
def walkFrom (mem : Memory) (va : Nat) : Nat → Nat → WalkEnd
  | level, table =>
    let e := mem.read (table + 8 * walkIndex level va) 8
    let addr := e / 2 ^ 12 % 2 ^ 44 * 2 ^ 12
    if !e.testBit 0 then .fault level false true
    else if entryMalformed level e then .fault level true false
    else if e.testBit 1 then
      let bits := if level = 2 then 30 else if level = 1 then 21 else if e.testBit 5 then 16 else 12
      let frame := if level = 0 then addr - va / 2 ^ 12 % 2 ^ (bits - 12) * 2 ^ 12 else addr / 2 ^ bits * 2 ^ bits
      .page frame bits (e.testBit 2) (e.testBit 4) (e.testBit 3)
    else
      match level with
      | 0 => .fault 0 true false
      | n + 1 => walkFrom mem va n addr

/-- The walk of a partition's address (R420). -/
def State.walk (s : State) (part va : Nat) : WalkEnd := walkFrom s.mem va 4 (s.part part).root

/-! ### TLBs (R421) -/

/-- Whether a held translation covers an address of a partition. -/
def TlbEntry.covers (e : TlbEntry) (part va : Nat) : Bool := e.part == part && va / 2 ^ e.bits == e.page

/-- What a translation answers: a physical address and whether race detection applies, or that a walk is needed. -/
inductive Trans where
  | hit (phys : Nat) (check : Bool)
  | miss
deriving DecidableEq, Repr

/-- An entry's physical address for an address it covers; a write needs a writable page, and one that is not goes to the
walk, which faults (R422). -/
def TlbEntry.use (e : TlbEntry) (va : Nat) (write : Bool) : Trans :=
  if write && !e.w then .miss else .hit (e.frame + va % 2 ^ e.bits) (!e.nochk)

/-- The die of a physical cluster: half of the module's clusters each (R9). -/
def State.dieOf (s : State) (ck : Nat) : Nat := ((s.part (ck / 256)).physical (ck % 256)) / 72

/-- The second-level entries of the cluster's die. -/
def State.tlb2Of (s : State) (ck : Nat) : List TlbEntry := Sp.getD s.tlb2 (s.dieOf ck) []

/-- A translation for an agent on a cluster, from either TLB (R421). -/
def State.translate (s : State) (ck va : Nat) (write : Bool) : Trans :=
  let part := ck / 256
  match ((s.cluster ck).tlb ++ s.tlb2Of ck).find? (fun e => e.covers part va) with
  | some e => e.use va write
  | none => .miss

/-- The newest n of a list whose newest element stands last. -/
def newest {α : Type} (n : Nat) (l : List α) : List α := l.drop (l.length - n)

/-- A walk's result fills both TLBs; which older entry gives way is free of any effect (R421). -/
def State.fillTlb (s : State) (ck : Nat) (e : TlbEntry) : State :=
  let same (x : TlbEntry) : Bool := x.part == e.part && x.page == e.page && x.bits == e.bits
  let s := s.modCluster ck (fun c => { c with tlb := newest 256 (c.tlb.filter (fun x => !same x) ++ [e]) })
  { s with tlb2 := Sp.set s.tlb2 (s.dieOf ck) (newest 16384 ((s.tlb2Of ck).filter (fun x => !same x) ++ [e])) }

/-- Two requests of one agent for a walk of one page. -/
def WalkReq.same (x r : WalkReq) : Bool :=
  x.agent == r.agent && x.slot == r.slot && x.path == r.path && x.req == r.req && x.part == r.part && x.va / 4096 == r.va / 4096

/-- A walk is wanted (R421): it queues at its die, up to the 32 walkers and 256 places; a full queue takes nothing, and
the requester asks again. A fault that is not resolved is not walked for again. -/
def State.wantWalk (s : State) (r : WalkReq) (ck : Nat) : State :=
  let d := s.dieOf ck
  let q := Sp.getD s.walks d []
  if s.faulted.any r.same then s
  else if q.any r.same then
    { s with walks := Sp.set s.walks d (q.map (fun (x : WalkReq) => if x.same r then { x with lanes := x.lanes ||| r.lanes, write := x.write || r.write } else x)) }
  else if 288 ≤ q.length then s
  else { s with walks := Sp.set s.walks d (q ++ [r]) }

/-- A context's walk is queued, or its fault is not resolved. -/
def State.ctxWalking (s : State) (c : Nat) : Bool :=
  s.faulted.any (fun w => w.agent == Agent.ctx c) || s.walks.any (fun (p : Nat × List WalkReq) => p.2.any (fun w => w.agent == Agent.ctx c))

/-- An agent waits on a translation fault that is not yet resolved (R422). -/
def State.faultWaits (s : State) (ag : Agent) (path : Path) : Bool := s.faulted.any (fun w => w.agent == ag && w.path == path)

/-! ### Scratchpad addresses (R87, R88, R97 to R99) -/

/-- What a scratchpad address names. -/
inductive SpadRef where
  | bad
  | never
  | revoked
  | at_ (ck off declared base : Nat)
deriving DecidableEq, Repr

/-- The allocation of a team on one of its clusters. -/
def Team.allocOn (t : Team) (cluster : Nat) : Alloc := if t.pair && cluster != t.cluster then t.allocHi else t.alloc

/-- A team that has left its ensemble finds the slot it had there revoked, until another team joins there (R99). -/
def State.leftSlot (s : State) (tm : Team) (m : Nat) : SpadRef :=
  match tm.left with
  | none => .never
  | some (e, k) =>
    if k == m && s.ensembles.any (fun (y : Ensemble) => y.launch == tm.launch && y.e == e && y.revoked.contains m) then .revoked else .never

/-- The member of an ensemble that a group reaches through a slot; what it may see of it (R98): the EJOIN must happen
before the access, which is so for the member's own team's joining group. -/
def State.memberOf (s : State) (x : Group) (tm : Team) (m : Nat) : SpadRef ⊕ Team :=
  match tm.ensemble with
  | none => .inl (s.leftSlot tm m)
  | some (e, _) =>
    match s.ensembles.find? (fun y => y.launch == x.launch && y.e == e) with
    | none => .inl .never
    | some y =>
      match Sp.get? y.members m, Sp.get? y.joined m with
      | some t, some (uid, time) =>
        if uid == x.uid || Clock.has x.clk uid time then
          match s.team? t with | some mt => .inr mt | none => .inl .revoked
        else .inl .never
      | _, _ => if y.revoked.contains m then .inl .revoked else .inl .never

/-- The cluster on which a group reaches a member's allocation: its own team's slot is its slot 0 (R98); of another PAIR member it is
that of the lower cluster (DESIGN CHOICE [97]). -/
def Team.reachedOn (t : Team) (own : Bool) (cluster : Nat) : Nat := if own then cluster else t.cluster

/-- A scratchpad address of a group, without its range check (R87, R88 orders 1 and 2). -/
def State.spadRef (s : State) (x : Group) (addr : Nat) : SpadRef :=
  match s.team? x.team with
  | none => .bad
  | some tm =>
    let slot := addr / 2 ^ 20 % 16
    let off := addr % 2 ^ 20
    let named (t : Team) (cluster : Nat) : SpadRef :=
      let a := t.allocOn cluster
      .at_ (clusterKey t.part cluster) off a.declared a.base
    if 2 ^ 24 ≤ addr then .bad
    else if slot = 0 then named tm x.cluster
    else if slot ≤ 8 then match s.memberOf x tm (slot - 1) with | .inl r => r | .inr t => named t (t.reachedOn (t.uid == tm.uid) x.cluster)
    else if slot = 15 && tm.pair then named tm (if x.cluster = tm.cluster then tm.cluster + 1 else tm.cluster)
    else .bad

/-- A failing check of a lane: its place in the order of R88, with cause and detail (R273). -/
structure Check where
  rank : Nat
  cause : Nat
  detail : Nat
deriving DecidableEq, Repr

/-- The checks of R88 for an access of `size` bytes aligned to `align`: the place, or the first check that fails.
`whole` says that a poisoned granule stops it (a store below 16 bytes, or an atomic). -/
def State.spadCheck (s : State) (x : Group) (addr size align : Nat) (whole : Bool) : Place ⊕ Check :=
  match s.spadRef x addr with
  | .bad => .inr { rank := 1, cause := 0x01, detail := 0 }
  | r =>
    if addr % align ≠ 0 then .inr { rank := 1, cause := 0x01, detail := 0 }
    else
      match r with
      | .bad => .inr { rank := 1, cause := 0x01, detail := 0 }
      | .never => .inr { rank := 2, cause := 0x05, detail := 1 }
      | .revoked => .inr { rank := 2, cause := 0x05, detail := 2 }
      | .at_ ck off declared base =>
        if declared < off + size then .inr { rank := 3, cause := 0x04, detail := 0 }
        else if whole && (s.cluster ck).poison.contains ((base + off) / 16) then .inr { rank := 4, cause := 0x04, detail := 3 }
        else .inl (.spad ck (base + off))

/-- The check of a device address (R81). -/
def deviceCheck (addr size : Nat) : Option Check :=
  if 2 ^ 56 ≤ addr ∨ addr % size ≠ 0 then some { rank := 1, cause := 0x01, detail := 0 } else none

/-- The first check in the order of R88 that any lane fails, as the lowest lane that fails it has it, with every lane
that fails one of the same cause (R88, R273). -/
def firstCheck (cs : List (Nat × Check)) : Option (Check × List Nat) :=
  (leastBy (fun (p : Nat × Check) => p.2.rank) cs).map (fun p =>
    (p.2, (cs.filter (fun q => q.2.cause == p.2.cause)).map Prod.fst))

/-! ### Scopes (R123, R124) -/

/-- The standing of an agent now. -/
def State.standing (s : State) (ag : Agent) : Standing :=
  match ag with
  | .group g =>
    match s.group? g with
    | none => {}
    | some x =>
      { uid := x.uid, team := some x.team, tuid := ((s.team? x.team).map Team.uid).getD 0, ck := some x.ckey, launch := some x.launch }
  | .ctx c =>
    match s.ctx? c with
    | none => {}
    | some x => { uid := x.uid, ck := some (c / 8), launch := if x.num < 6 then some x.launch else none, ctx := some c }
  | .engine ck _ => { ck := some ck }
  | .host _ => { host := true }

/-- The teams that an agent's team scope spans (R123): a group's own; for a context every team it serves. -/
def State.teamsOf (s : State) (a : Standing) : List Nat :=
  match a.team with
  | some t => [t]
  | none =>
    match a.ctx with
    | none => []
    | some c =>
      if c % 8 < 6 then (s.teams.filter (fun (t : Nat × Team) => t.2.ctx == c)).map Prod.fst
      else (s.teams.filter (fun (t : Nat × Team) => some t.2.ckey == a.ck || (t.2.pair && some (t.2.ckey + 1) == a.ck))).map Prod.fst

/-- The teams of the ensembles of some teams. -/
def State.ensembleTeams (s : State) (ts : List Nat) : List Nat :=
  ts ++ ts.flatMap (fun t =>
    match s.team? t with
    | none => []
    | some tm =>
      match tm.ensemble with
      | none => []
      | some (e, _) => (s.ensembles.filter (fun y => y.launch == tm.launch && y.e == e)).flatMap (fun y => y.members.map Prod.snd))

/-- Whether a team's scope holds an agent: its groups, the generator context of its kernel, and the assist and system
contexts of its clusters (R123). -/
def State.inTeam (s : State) (t : Nat) (b : Standing) : Bool :=
  match s.team? t with
  | none => false
  | some tm =>
    b.tuid == tm.uid
    || (match b.ctx with
        | none => false
        | some c => c == tm.ctx || (decide (6 ≤ c % 8) && (c / 8 == tm.ckey || (tm.pair && c / 8 == tm.ckey + 1))))

/-- Whether the scope of an operation by `a` contains agent `b` (R123). -/
def State.inScope (s : State) (sc : Scope) (a b : Standing) : Bool :=
  match sc with
  | .sys => true
  | .dev => !b.host
  | .pair =>
    match a.ck, b.ck with
    | some x, some y => x / 256 == y / 256 && x % 256 / 2 == y % 256 / 2
    | _, _ => false
  | .grp => decide (a.uid ≠ 0) && a.uid == b.uid
  | .team => (s.teamsOf a).any (fun t => s.inTeam t b) || (decide (a.uid ≠ 0) && a.uid == b.uid) || (decide (a.tuid ≠ 0) && a.tuid == b.tuid)
  | .ens => (s.ensembleTeams (s.teamsOf a)).any (fun t => s.inTeam t b) || (decide (a.uid ≠ 0) && a.uid == b.uid)
    || (decide (a.tuid ≠ 0) && a.tuid == b.tuid)

/-- Two operations share a scope (R124). -/
def State.shareScope (s : State) (sa : Scope) (a : Standing) (sb : Scope) (b : Standing) : Bool :=
  s.inScope sa a b && s.inScope sb b a

end Sys2Proof.Machine
end

