-- ==== Sys2Proof/Machine/Access.lean ====
section
/-! DEFINITION. What an access does at its home: race detection (R135 to R138), the release sequences (R124, R125), the
effect of one lane's part (R84, R90, R91, R276, R280 to R284, R287, R293, R294), and the counters of R397. -/

namespace Sys2Proof.Machine

/-! ### Races (R135, R136, R137) -/

/-- The bytes a place names: a space (0 for device memory, a cluster key + 1 for its scratchpad) and an address. -/
def Place.bytes : Place → Option (Nat × Nat)
  | .dev a => some (0, a)
  | .spad ck off => some (ck + 1, off)
  | _ => none

/-- Two ranges share a byte. -/
def rangesMeet (a n b m : Nat) : Bool := decide (a < b + m) && decide (b < a + n)

/-- What an access is, for the test of a race. -/
structure Acc where
  space : Nat
  addr : Nat
  size : Nat
  write : Bool
  atomic : Bool
  scope : Scope
deriving DecidableEq, Repr

/-- Whether a remembered access X and an access of a group race (R135): a byte in common, one writes, X does not happen
before it, and they are not both atomic on the same bytes with a shared scope. -/
def State.races (s : State) (x : Group) (who : Standing) (y : Acc) (a : Access) : Bool :=
  a.uid != x.uid && a.space == y.space && rangesMeet a.addr a.size y.addr y.size && (a.write || y.write)
    && !Clock.has x.clk a.uid a.time
    && !(a.atomic && y.atomic && a.addr == y.addr && a.size == y.size && s.shareScope a.scope a.who y.scope who)

/-- The detail word about X (R137). -/
def Access.detail (a : Access) : Nat :=
  a.handle * 2 ^ 24 + a.cluster * 2 ^ 16 + a.group * 2 ^ 11 + a.atomic.toNat * 2 + a.write.toNat

/-- Race detection judges a lead's or a sole copy's accesses only (R186). -/
def State.judged (s : State) (x : Group) : Bool :=
  match s.team? x.team with
  | none => true
  | some t => match t.copy with | .standIn _ => false | _ => true

/-- The lanes whose accesses race, each with its X (R136). Where several remembered accesses race with one of a lane, the one
remembered longest is taken, and the record describes that of the lowest lane (DESIGN CHOICE [98]). -/
def State.raced (s : State) (x : Group) (ys : List (Nat × Acc)) : List (Nat × Access) :=
  if !s.judged x then []
  else
    let who := s.standing (.group ((x.ckey * 6 + x.slice) * 32 + x.gslot))
    ys.filterMap (fun (p : Nat × Acc) => (s.access.find? (fun a => s.races x who p.2 a)).map (fun a => (p.1, a)))

/-- Accesses of a group are remembered, each kind at its newest, while it has issued no release since (R136). -/
def State.remember (s : State) (x : Group) (time rels : Nat) (ys : List Acc) : State :=
  if !s.judged x || rels != x.rels then s
  else
    let who := s.standing (.group ((x.ckey * 6 + x.slice) * 32 + x.gslot))
    let rec_ (y : Acc) : Access :=
      { uid := x.uid, time := time, rel := rels, space := y.space, addr := y.addr, size := y.size, write := y.write,
        atomic := y.atomic, scope := y.scope, who := who, handle := x.team % 192, cluster := x.cluster, group := x.index }
    let same (a b : Access) : Bool :=
      a.uid == b.uid && a.space == b.space && a.addr == b.addr && a.size == b.size && a.write == b.write && a.atomic == b.atomic
        && a.scope == b.scope
    { s with access := ys.foldl (fun l y => (l.filter (fun a => !same a (rec_ y))) ++ [rec_ y]) s.access }

/-- The race that a lead met is awaited by its pair until the stand-in stands at the same word (R186). -/
def State.awaitRace (s : State) (g : Nat) (r : Rec) : State :=
  match s.group? g with
  | none => s
  | some x =>
    match s.pairOf? x.team with
    | none => s
    | some p => s.modPair p.lead (fun q => { q with awaited := some (x.index, x.issued, r) })

/-- The event of a detected race: the lanes, X's description, and the lowest lane's address (R136, R137); that of a lead is
awaited by its pair (R186). -/
def State.raceStop (s : State) (g : Nat) (b : Bool) (pc : BitVec 20) (rs : List (Nat × Access)) (addrOf : Nat → Nat) : State :=
  match rs, s.group? g with
  | (l, a) :: _, some x =>
    let r := s.laneRec x b 0x09 pc (lanesMask (rs.map Prod.fst)) a.detail (addrOf l)
    (s.awaitRace g r).takeEvent g b 0x09 pc (lanesMask (rs.map Prod.fst)) a.detail (addrOf l)
  | _, _ => s

/-! ### Release sequences (R124, R125) -/

/-- What a write leaves of the release sequences at its bytes: a read-modify-write continues them, any other write ends
them; then what the write itself publishes. -/
def State.publish (s : State) (space addr size : Nat) (rmw : Bool) (who : Standing) (rel : List (Scope × Clock)) : State :=
  let kept := if rmw then s.published else s.published.filter (fun p => !(p.space == space && rangesMeet p.addr p.size addr size))
  { s with published := kept ++ rel.map (fun r => { space := space, addr := addr, size := size, scope := r.1, who := who, clk := r.2 }) }

/-- The release sequences an atomic read of these bytes meets. -/
def State.meets (s : State) (space addr size : Nat) : List (Scope × Standing × Clock) :=
  (s.published.filter (fun p => p.space == space && rangesMeet p.addr p.size addr size)).map (fun p => (p.scope, p.who, p.clk))

/-- The clocks that an acquire at a scope takes from what was met (R125). -/
def State.taken (s : State) (sc : Scope) (who : Standing) (ms : List (Scope × Standing × Clock)) : Clock :=
  (ms.filter (fun m => s.shareScope m.1 m.2.1 sc who)).foldl (fun c m => Clock.join c m.2.2) []

/-- An order that acquires, and one that releases (R124). -/
def orderAcquires : Order → Bool | .acq => true | .ar => true | .sc => true | _ => false
def orderReleases : Order → Bool | .rel => true | .ar => true | .sc => true | _ => false
/-- A scope at least as wide as the team (R136). -/
def scopeWide : Scope → Bool | .grp => false | _ => true

/-! ### Poison (R84, R90) -/

/-- Poison in the granules that a range of a scratchpad covers. -/
def Cluster.poisoned (c : Cluster) (off n : Nat) : Bool := c.poison.any (fun k => rangesMeet (16 * k) 16 off n)

/-- Poison in the lines that a range of device memory covers. -/
def State.linePoisoned (s : State) (a n : Nat) : Bool := s.poisonLines.any (fun k => rangesMeet (64 * k) 64 a n)

/-- A release in the sense of R136: a store or a read-modify-write that releases at team scope or wider. -/
def AccKind.releases (k : AccKind) (sc : Scope) (od : Order) : Bool :=
  orderReleases od && scopeWide sc && (match k with | .load _ | .ldsFe _ _ | .target | .bwait => false | _ => true)

/-! ### Paths (R120, R127, R129) -/

/-- A byte of device memory (space 0) or of a cluster's scratchpad. -/
def State.byteAt (s : State) (space a : Nat) : Byte := if space = 0 then s.mem.byte a else (s.cluster (space - 1)).spad.byte a

/-- A write: what its bytes held stays in the reach of reads that it does not happen before. It is told before the write. -/
def State.noteLate (s : State) (w : Late) (p : Place) (n : Nat) : State :=
  match p.bytes with
  | none => s
  | some (sp, a) =>
    { s with late := s.late ++ (List.range n).map (fun i =>
        { w with space := sp, addr := a + i, start := a, old := s.byteAt sp (a + i), pub := s.meets sp (a + i) 1 }) }

/-- Whether a write happens before the holder of a clock: one of an engine's request with an operation that observed the request
(R126, R129). -/
def Late.before (e : Late) (k : Clock) : Bool :=
  if e.req = 0 then Clock.has k e.uid e.time else e.crossed.any (fun c => Clock.has k c.2.1 c.2.2)

/-- A read need not see a write: none of its path has returned it (R131), it does not happen before the read on its own path, no
crossing that brought it to the path happens before the read (R127), and they are not both sc (R133). -/
def Late.hides (e : Late) (rd : Reader) : Bool :=
  !e.seen.contains rd.path && !(e.path == rd.path && e.before rd.clk)
    && !e.crossed.any (fun c => c.1 == rd.path && Clock.has rd.clk c.2.1 c.2.2) && !(rd.sc && e.sc)

/-- Whether a read sees a write that it need not see: one answer for all bytes of the write (R132). -/
def Late.taken (e : Late) (rd : Reader) (free : Nat) : Bool :=
  !e.hides rd || Config.freeSeen free [e.space, e.start, e.uid, e.time, e.req]

/-- The writes to a byte, the newest first. -/
def State.lateAt (s : State) (space a : Nat) : List Late := (s.late.filter (fun e => e.space == space && e.addr == a)).reverse

/-- What a read of a byte takes, from its newest writes back, and the release sequence it meets there (R124; DESIGN CHOICE [17]). -/
def lateByte (rd : Reader) (free : Nat) : List Late → Byte × List (Scope × Standing × Clock) → Byte × List (Scope × Standing × Clock)
  | [], v => v
  | e :: t, v => if e.taken rd free then v else lateByte rd free t (e.old, e.pub)

/-- A byte as a read takes it. -/
def State.peekByte (s : State) (rd : Reader) (space a : Nat) : Byte := (lateByte rd s.free (s.lateAt space a) (s.byteAt space a, [])).1

/-- Every write to a range is one that a read sees. -/
def State.sees (s : State) (rd : Reader) (p : Place) (n : Nat) : Bool :=
  match p.bytes with
  | none => true
  | some (sp, a) => s.late.all (fun e => !(e.space == sp && decide (a ≤ e.addr) && decide (e.addr < a + n) && e.hides rd))

/-- A write marked as seen on a path. -/
def Late.see (e : Late) (q : Path) : Late := if e.seen.contains q then e else { e with seen := e.seen ++ [q] }

/-- A read of a byte has returned a write, the newest that it takes: that and every earlier one is seen by every later read on its
path (R131). The writes are the newest first. -/
def markByte (rd : Reader) (free : Nat) (space a : Nat) : List Late → List Late
  | [] => []
  | e :: t =>
    if e.space == space && e.addr == a then
      if e.taken rd free then e.see rd.path :: t.map (fun o => if o.space == space && o.addr == a then o.see rd.path else o)
      else e :: markByte rd free space a t
    else e :: markByte rd free space a t

/-- The writes that a read of some bytes has returned are marked, byte by byte; what every path sees is forgotten. -/
def State.marksIn (s : State) (rd : Reader) (pick : Late → Bool) : State :=
  match ((s.late.filter pick).map (fun e => (e.space, e.addr))).eraseDups with
  | [] => s
  | ks =>
    let es := ks.foldl (fun l k => markByte rd s.free k.1 k.2 l) s.late.reverse
    { s with late := es.reverse.filter (fun e => decide (e.seen.length < 5)) }

/-- The marks of a read at a place. -/
def State.marks (s : State) (rd : Reader) (p : Place) (n : Nat) : State :=
  match p.bytes with
  | none => s
  | some (sp, a) => s.marksIn rd (fun e => e.space == sp && decide (a ≤ e.addr) && decide (e.addr < a + n))

/-- The release sequences that an atomic read meets: at each byte those of the write that it takes (R124, R125). -/
def State.met (s : State) (rd : Reader) (p : Place) (n : Nat) : List (Scope × Standing × Clock) :=
  match p.bytes with
  | none => []
  | some (sp, a) =>
    if s.sees rd p n then s.meets sp a n
    else ((List.range n).flatMap (fun i => (lateByte rd s.free (s.lateAt sp (a + i)) (0, s.meets sp (a + i) 1)).2)).eraseDups

/-- A crossing (R127): reads on a path that it happens before see the writes that a test picks. It is an operation of an agent, and
what an earlier one of the same agent brought there need not be brought again. -/
def State.cross (s : State) (q : Path) (uid time : Nat) (pick : Late → Bool) : State :=
  { s with late := s.late.map (fun e =>
      if pick e && !e.crossed.any (fun c => c.1 == q && c.2.1 == uid) then { e with crossed := e.crossed ++ [(q, uid, time)] } else e) }

/-- A crossing to every path. -/
def State.crossAll (s : State) (uid time : Nat) (pick : Late → Bool) : State :=
  [Path.lane, .copy, .matrix, .gather, .coll].foldl (fun s q => s.cross q uid time pick) s

/-- The paths of the engines that a completion brings to the lanes (R129). -/
def Path.engine : Path → Bool
  | .copy | .gather | .coll => true
  | _ => false

/-- A lane write of a scratchpad; all 16 bytes of a granule clear its poison. -/
def State.spadWrite (s : State) (ck off n v : Nat) : State :=
  s.modCluster ck (fun c =>
    { c with spad := c.spad.write off n v, poison := if n = 16 && off % 16 = 0 then delNat (off / 16) c.poison else c.poison })

/-! ### The operations of atomics (R280, R283, R284) -/

/-- The bits of a 32- or 64-bit atomic. -/
def atomBits (t : Ty) : Nat := if t.wide then 64 else 32

/-- The new value of ATOM or RED (R280); FP addition is rounded once to nearest even (R284). -/
def atomNew (op : Nat) (t : Ty) (old b : Nat) : Nat :=
  let v (x : Nat) : Int := if t.signed then signedOf (atomBits t) x else Int.ofNat x
  match op with
  | 0 => (old + b) % 2 ^ atomBits t
  | 1 => if v old ≤ v b then old else b
  | 2 => if v old ≤ v b then b else old
  | 3 => Nat.land old b
  | 4 => Nat.lor old b
  | 5 => Nat.xor old b
  | 6 => b
  | 7 => if b ≤ old then 0 else old + 1
  | 8 => if old = 0 ∨ b < old then b else old - 1
  | 9 => (fpAdd .f32 .rn (fpValue .f32 old) (fpValue .f32 b)).1
  | _ => old

/-- The result of a read-modify-write on the old value: the new value if one is written, and what d receives. -/
def rmwResult (k : AccKind) (old b c : Nat) : Option Nat × Nat :=
  match k with
  | .atom op t => (some (atomNew op t old b), old)
  | .red op t => (some (atomNew op t old b), 0)
  | .cas _ => (if old = b then some c else none, old)
  | .bfi t => (some (Nat.lor (Nat.land old (2 ^ atomBits t - 1 - c)) (Nat.land b c)), old)
  | .ffcs =>
    match (List.range 64).find? (fun i => !old.testBit i) with
    | some i => (some (old + 2 ^ i), i)
    | none => (none, 64)
  | .plset =>
    let n := Nat.lor old b
    if popCount 64 n ≤ c then (some n, old + 2 ^ 64) else (none, old)
  | _ => (none, old)

/-- Whether an access reads, writes, or does both as one. -/
def AccKind.rmw : AccKind → Bool
  | .atom _ _ | .cas _ | .bfi _ | .ffcs | .plset | .red _ _ | .binit _ | .arrive _ | .bwait => true
  | _ => false
def AccKind.reads : AccKind → Bool
  | .store _ | .stsFe _ | .red _ _ | .feset | .feclr | .binit _ => false
  | _ => true
def AccKind.isWrite : AccKind → Bool
  | .load _ | .ldsFe _ _ | .target | .bwait => false
  | _ => true
/-- FESET and FECLR take no part in R135 (R287). -/
def AccKind.inRaces : AccKind → Bool | .feset => false | .feclr => false | _ => true

/-- A value as a load writes it: narrow types are extended to 32 bits (R276). -/
def loadImage (t : Ty) (v : Nat) : Nat :=
  if t.signed && !t.wide then wrapOf 32 (signedOf (8 * t.bytes) v) else v

/-! ### Streams (R430) -/

/-- The device a fabric address names (R433). -/
def fabricDevice (addr : Nat) : Nat := addr / 2 ^ 44 % 2 ^ 11

/-- The up ports that reach a device, and the streams on a port. -/
def State.portsTo (s : State) (dev : Nat) : List Nat := (Sp.getD s.routes dev []).filter (fun p => (s.port p).state != 0)
def State.streamsOn (s : State) (p : Nat) : Nat := (s.streams.filter (fun x => x.port == p)).length

/-- A request sent on the stream of a cluster to a device: the stream is opened on the port with the fewest of them
(R430); to a device that is unreachable none is, and one that no port reaches is unreachable from now on (R432, R435). -/
def State.send (s : State) (ck dev id : Nat) : State :=
  if s.unreachable.contains dev then s
  else
    let s :=
      if s.streams.any (fun x => x.source == ck && x.dest == dev) then s
      else
        match leastBy (fun p => s.streamsOn p) (s.portsTo dev) with
        | none => { s with unreachable := insNat dev s.unreachable }.report 0x05 (ck / 256) dev 0
        | some p => { s with streams := s.streams ++ [{ source := ck, dest := dev, port := p }] }
    { s with streams := s.streams.map (fun x =>
        if x.source == ck && x.dest == dev then { x with sent := x.sent + 1, unacked := x.unacked ++ [(x.sent, id)] } else x) }

/-- A request acknowledged end to end (R432). -/
def State.acked (s : State) (id : Nat) : State :=
  { s with streams := s.streams.map (fun x => { x with unacked := x.unacked.filter (fun u => u.2 != id) }) }

/-! ### One lane's part -/

/-- The bytes of an access that a poisoned line or granule spoils. -/
def State.placePoisoned (s : State) (p : Place) (n : Nat) : Bool :=
  match p with
  | .dev a => s.linePoisoned a n
  | .spad ck off => (s.cluster ck).poisoned off n
  | .remote a => s.unreachable.contains (fabricDevice a)
  | _ => false

/-- What the bytes at a place read as; control space answers 8-byte reads, anything else there gets an error response
whose data is a free value, and so is what another device's memory holds. -/
def State.placeRead (s : State) (p : Place) (n : Nat) : Nat :=
  match p with
  | .dev a => s.mem.read a n
  | .spad ck off => (s.cluster ck).spad.read off n
  | .control off => if n = 8 then s.controlRead off else (Config.freeReply s.free).toNat % 2 ^ (8 * n)
  | .remote _ => (Config.freeReply s.free).toNat % 2 ^ (8 * n)
  | .none_ => 0

/-- What the bytes at a place read as (R127, R130). -/
def State.peek (s : State) (rd : Reader) (p : Place) (n : Nat) : Nat :=
  if s.sees rd p n then s.placeRead p n
  else
    match p.bytes with
    | none => s.placeRead p n
    | some (sp, a) => (List.range n).foldr (fun i (acc : Nat) => (s.peekByte rd sp (a + i)).toNat + 256 * acc) 0

/-- Whether reading a place takes a free value. -/
def Place.free (p : Place) (n : Nat) : Bool :=
  match p with | .control _ => n != 8 | .remote _ => true | _ => false

/-- What a read at a place leaves: the writes it returned are marked (R131), and the free values it has taken are used up. -/
def State.looked (s : State) (rd : Reader) (p : Place) (n : Nat) : State :=
  { s.marks rd p n with free := s.free + (p.free n).toNat + (!s.sees rd p n).toNat }

/-- Bytes written at a place by an agent. -/
def State.placeWrite (s : State) (ag : Agent) (slotB : Bool) (clk : Clock) (p : Place) (n v : Nat) : State :=
  match p with
  | .dev a => { s with mem := s.mem.write a n v }
  | .spad ck off => s.spadWrite ck off n v
  | .control off => if n = 8 then s.agentWrite ag slotB off v clk else s
  | _ => s

/-- The full bit of a granule set, with the clock it publishes (R91). -/
def State.setFull (s : State) (ck gr : Nat) (clk : Clock) : State :=
  s.modCluster ck (fun c => { c with full := Sp.set c.full gr clk })
def State.clearFull (s : State) (ck gr : Nat) : State := s.modCluster ck (fun c => { c with full := Sp.erase c.full gr })

/-- The full bits of a run of granules set or cleared (R287). -/
def State.fullRange (s : State) (ck gr : Nat) (set : Bool) : Nat → State
  | 0 => s
  | n + 1 => State.fullRange (if set then s.setFull ck gr [] else s.clearFull ck gr) ck (gr + 1) set n

/-- An operation as a reader on the lane path. -/
def MemOp.reader (op : MemOp) : Reader := { path := .lane, clk := op.clk, sc := op.order == .sc }

/-- A load's value. -/
def State.laneLoad (s : State) (rd : Reader) (a : LaneAcc) (t : Ty) : State × LaneAcc :=
  if s.placePoisoned a.place a.size then (s, { a with done := true, poisoned := true })
  else
    let v := loadImage t (s.peek rd a.place a.size)
    (s.looked rd a.place a.size, { a with done := true, result := BitVec.ofNat 128 v })

/-- A `.ord` contribution into a slot of the home's order buffer (R438). -/
def State.contribute (s : State) (op : MemOp) (a : LaneAcc) : State :=
  match a.place with
  | .dev phys =>
    let item : OrdItem := { launch := op.launch, phys := phys, key := a.data2.toNat, value := BitVec.ofNat 32 a.data.toNat }
    { s with ordBuf := s.ordBuf ++ [item], ordSlots := insNat op.launch s.ordSlots }
  | _ => s

/-- An operation as the writer of bytes on the lane path. -/
def MemOp.late (op : MemOp) : Late :=
  { space := 0, addr := 0, old := 0, path := .lane, uid := op.uid, time := op.time, sc := op.order == .sc }

/-- Every write to a range is seen on a path from now on: a read-modify-write has returned the newest (R130, R131). -/
def State.marksAll (s : State) (q : Path) (p : Place) (n : Nat) : State :=
  match p.bytes with
  | none => s
  | some (sp, a) => { s with late := s.late.map (fun e =>
      if e.space == sp && decide (a ≤ e.addr) && decide (e.addr < a + n) then e.see q else e) }

/-- One lane's read-modify-write, of the newest value (R130): not performed on poison (R84), its write published (R124). What another
device holds is free, and so is the data of control space's error response. -/
def State.laneRmw (s : State) (op : MemOp) (a : LaneAcc) : State × LaneAcc :=
  if op.ord then (s.contribute op a, { a with done := true })
  else if s.placePoisoned a.place a.size then
    (s, { a with done := true, poisoned := op.d.isSome })
  else
    let here : Bool := a.place.bytes.isSome
    let old := if here then s.placeRead a.place a.size else (Config.freeReply s.free).toNat % 2 ^ (8 * a.size)
    let s := if here then s.marksAll .lane a.place a.size else { s with free := s.free + 1 }
    let r := rmwResult op.kind old a.data.toNat a.data2.toNat
    let s := match r.1, a.place.bytes with
      | some v, some (sp, ad) =>
        ((s.noteLate op.late a.place a.size).placeWrite op.agent op.slot [] a.place a.size v).publish sp ad a.size true op.who op.relClk
      | _, _ => s
    let served : Bool := match a.place with | .control _ => false | _ => true
    (s, { a with done := true, result := BitVec.ofNat 128 (if served then r.2 else old) })

/-- The clock that an operation publishes with its releases, whatever their scopes. -/
def MemOp.publishes (op : MemOp) : Clock := op.relClk.foldl (fun c r => Clock.join c r.2) []

/-! ### Props table (R93 to R96) -/

/-- The set of a key for a context (R94). -/
def propsSet (ctx : Nat) (k : Nat) : Nat :=
  (List.range 7).foldl (fun s i => Nat.xor s (k / 2 ^ (9 * i) % 512)) (Nat.xor (ctx * 64) (k / 2 ^ 63 % 2 * 256)) % 512

/-- The slot that holds a key for a context, if one does. -/
def propsFind (t : Sp Prop_) (ctx : Nat) (k : DWord) : Option Nat :=
  ((List.range 8).map (fun w => propsSet ctx k.toNat * 8 + w)).find? (fun i =>
    match Sp.get? t i with | none => false | some e => e.ctx == ctx && e.key == k)

/-- PLOOK of one key (R95): the pair as one number, low word first. -/
def plook (t : Sp Prop_) (ctx : Nat) (k : DWord) : Nat :=
  match propsFind t ctx k with
  | none => 0xFFFF
  | some i => i + ((Sp.get? t i).map (fun e => e.payload.toNat)).getD 0 * 2 ^ 32

/-- PINS of one key (R95). -/
def pins (t : Sp Prop_) (ctx : Nat) (k : DWord) (payload : Word) (way : Nat) : Sp Prop_ × Nat :=
  let e : Prop_ := { ctx := ctx, key := k, payload := payload }
  match propsFind t ctx k with
  | some i => (Sp.set t i e, i)
  | none =>
    let base := propsSet ctx k.toNat * 8
    if way = 8 then
      match ((List.range 8).map (fun w => base + w)).find? (fun i => (Sp.get? t i).isNone) with
      | some i => (Sp.set t i e, i)
      | none => (t, 0xFFFF)
    else (Sp.set t (base + way) e, base + way)

/-- PINV of one slot (R95). -/
def pinv (t : Sp Prop_) (ctx slot : Nat) : Sp Prop_ × Nat :=
  match Sp.get? t slot with
  | some e => if e.ctx = ctx then (Sp.erase t slot, 1 + e.payload.toNat * 2 ^ 32) else (t, 0)
  | none => (t, 0)

/-- One lane's props operation (R95), in the table of its cluster, for the context that its second operand names. -/
def State.propsPart (s : State) (op : MemOp) (n : Nat) (a : LaneAcc) : State × LaneAcc :=
  let ck := clusterKey op.part op.cluster
  let c := s.cluster ck
  let ctx := a.data2.toNat / 2 ^ 40
  let r : Sp Prop_ × Nat := match n with
    | 0 => (c.props, plook c.props ctx (BitVec.ofNat 64 a.data.toNat))
    | 1 => pins c.props ctx (BitVec.ofNat 64 a.data.toNat) (BitVec.ofNat 32 a.data2.toNat) (a.data2.toNat / 2 ^ 32 % 16)
    | _ => pinv c.props ctx a.data.toNat
  (s.setCluster ck { c with props := r.1, propsClk := Clock.join c.propsClk op.publishes }, { a with done := true, result := BitVec.ofNat 128 r.2 })

/-- A team's list of barrier words: a word once; one initialised again with mode 0 is no longer counted by groups (R112). -/
def Team.listBar (t : Team) (mode : Bool) (k : Nat) : Team :=
  if mode then { t with bars1 := if t.bars1.contains k then t.bars1 else t.bars1 ++ [k] }
  else { t with bars0 := if t.bars0.contains k then t.bars0 else t.bars0 ++ [k], bars1 := delNat k t.bars1 }

/-- One lane's part of an access performed at its home (R276, R280, R284, R287, R293, R294). An atomic write is one that a release fence
before it publishes with, whatever its form (R125). -/
def State.lanePart (s : State) (op : MemOp) (a : LaneAcc) : State × LaneAcc :=
  match op.kind with
  | .load t | .ldsFe t _ => s.laneLoad op.reader a t
  | .target => s.laneLoad op.reader a .n32
  | .store n =>
    let s := (s.noteLate op.late a.place n).placeWrite op.agent op.slot op.publishes a.place n (a.data.toNat % 2 ^ (8 * n))
    let s := match a.place.bytes with | none => s | some (sp, ad) => s.publish sp ad n false op.who op.relClk
    (s, { a with done := true })
  | .stsFe n =>
    let s := (s.noteLate op.late a.place n).placeWrite op.agent op.slot [] a.place n (a.data.toNat % 2 ^ (8 * n))
    let s := match a.place.bytes with | none => s | some (sp, ad) => s.publish sp ad n false op.who op.relClk
    let s := match a.place with | .spad ck off => s.setFull ck (off / 16) op.publishes | _ => s
    (s, { a with done := true })
  | .feset => (match a.place with | .spad ck off => s.fullRange ck (off / 16) true (a.size / 16) | _ => s, { a with done := true })
  | .feclr => (match a.place with | .spad ck off => s.fullRange ck (off / 16) false (a.size / 16) | _ => s, { a with done := true })
  | .binit m =>
    (match a.place with
     | .spad ck off =>
       let s := ((s.publish (ck + 1) off 16 false op.who op.relClk).spadWrite ck off 16 0).barUpdate ck off [] (fun _ =>
         { pending := 0, rejected := false, mode := m, phase := false, arrived := 0, expected := a.data.toNat })
       s.modTeam op.team (fun t => t.listBar m (ck * 2 ^ 20 + off))
     | _ => s, { a with done := true })
  | .arrive lanes =>
    match a.place with
    | .spad ck off =>
      let w := BarWord.ofNat ((s.cluster ck).spad.read off 16)
      let s := s.publish (ck + 1) off 16 true op.who op.relClk
      let s := s.barUpdate ck off op.publishes (fun w =>
        { w with arrived := (w.arrived + (if w.mode then 1 else (lanesOf lanes).length)) % 2 ^ 32, pending := signedOf 32 (wrapOf 32 (w.pending + signedOf 32 a.data.toNat)) })
      (s, { a with done := true, result := BitVec.ofNat 128 w.phase.toNat })
    | _ => (s, { a with done := true })
  | .bwait => (s, { a with done := true })
  | .props n => s.propsPart op n a
  | _ => s.laneRmw op a

/-- What an atomic read of a lane meets (R124, R125): a read-modify-write the newest, a props operation every earlier one of the
cluster (R96). -/
def State.lanesMeet (s : State) (op : MemOp) (a : LaneAcc) : List (Scope × Standing × Clock) :=
  match op.kind with
  | .props _ => [(.sys, op.who, (s.cluster (clusterKey op.part op.cluster)).propsClk)]
  | k => if k.rmw then (match a.place.bytes with | none => [] | some (sp, ad) => s.meets sp ad a.size) else s.met op.reader a.place a.size

/-- The access of a lane, for the race test. -/
def MemOp.acc (op : MemOp) (a : LaneAcc) : Option (Nat × Acc) :=
  if !a.check || !op.kind.inRaces then none
  else (a.place.bytes).map (fun p =>
    (a.lane, { space := p.1, addr := p.2, size := a.size, write := a.write, atomic := op.atomic, scope := op.scope }))

/-- Lanes of an access performed in lane order (R121); the clocks its reads met are kept with it. -/
def State.performLanes (s : State) (op : MemOp) (pick : LaneAcc → Bool) : State × MemOp :=
  let step (st : State × List LaneAcc × List (Scope × Standing × Clock)) (a : LaneAcc) :=
    if a.done || !pick a then (st.1, st.2.1 ++ [a], st.2.2)
    else
      let met := if op.atomic && op.kind.reads then st.1.lanesMeet op a else []
      let r := st.1.lanePart op a
      (r.1, st.2.1 ++ [r.2], st.2.2 ++ met)
  let r := op.lanes.foldl step (s, [], [])
  (r.1, { op with lanes := r.2.1, acq := op.acq ++ r.2.2, performed := r.2.1.all (fun a => a.done) })

end Sys2Proof.Machine
end

