-- ==== Sys2Proof/Machine/Compare.lean ====
section
/-! DEFINITION. Lead and stand-in: the signature of a compared operation and its entry in the compare buffer (R180, R181,
R185). -/

namespace Sys2Proof.Machine

/-! ### CRC-64 with the ECMA-182 polynomial (R180) -/

/-- One bit of the remainder. -/
def crcBit (crc : Nat) (bit : Bool) : Nat :=
  let top := crc.testBit 63 != bit
  let sh := crc * 2 % 2 ^ 64
  if top then Nat.xor sh 0x42F0E1EBA9EA3693 else sh

/-- The remainder over the low n bits of a value, the most significant first. -/
def crcBits (crc v : Nat) : Nat → Nat
  | 0 => crc
  | n + 1 => crcBits (crcBit crc (v.testBit n)) v n

/-- The signature of a list of 128-bit fields. -/
def crcFields (l : List Nat) : DWord := BitVec.ofNat 64 (l.foldl (fun c v => crcBits c v 128) 0)

/-- The fields a signature covers (R180): the writing lanes, each lane's address, size, data and operands, scope and
order. The order in which they are fed is the model's (DESIGN CHOICE [14]): only equality of signatures matters. -/
def signature (kind : Nat) (lanes : DWord) (accs : List LaneAcc) (sc : Scope) (od : Order) : DWord :=
  crcFields ([kind, lanes.toNat, sc.code, od.code] ++ accs.flatMap (fun a => [a.addr, a.size, a.data.toNat, a.data2.toNat]))

/-- A number for each type of an atomic. -/
def tyCode (t : Ty) : Nat := 2 * (if t.wide then 1 else 0) + (if t.signed then 1 else 0)

/-- The operation kinds of the compare buffer, with the operation and type of an atomic (R180); 0 for what is not compared. -/
def AccKind.compareKind : AccKind → Nat
  | .store _ => 1
  | .atom op t => 0x200 + op * 4 + tyCode t
  | .cas t => 0x300 + tyCode t
  | .bfi t => 0x400 + tyCode t
  | .ffcs => 5
  | .plset => 6
  | .red op t => 0x700 + op * 4 + tyCode t
  | _ => 0

/-! ### Entries (R181, R185) -/

/-- What a compared operation meets at issue. -/
inductive Compared where
  /-- no stand-in execution: the operation is performed as it is -/
  | alone
  /-- the copy must wait: its slack or the buffer is used up -/
  | stall
  /-- an entry was made; the operation awaits its confirmation -/
  | entered
  /-- replay: the logged operation is the same, it is not performed, and its result is the logged one (R185) -/
  | replayed (result : List (Nat × QWord))
  /-- replay: the logged operation differs (R185) -/
  | diverged
deriving DecidableEq, Repr

/-- The logged operation that the next compared operation of a group repeats in replay (R185). -/
def PairOf.logged? (p : PairOf) (x : Group) : Option LogEntry :=
  if p.replay then p.log.find? (fun e => e.group == x.index && e.ordinal == x.compared) else none

/-- A copy of a group's team has used up its slack or the buffer (R181). -/
def PairOf.full (p : PairOf) (x : Group) : Bool :=
  let mine := p.entries.filter (fun e => e.lead == p.isLead x.team)
  decide (p.slack ≤ mine.length) || decide (64 ≤ mine.length)

/-- What a compared operation of a group meets (R181, R185). -/
def State.compareAt (s : State) (x : Group) (sig : DWord) : Compared :=
  match s.pairOf? x.team with
  | none => .alone
  | some p =>
    match p.logged? x with
    | some e => if e.sig = sig then .replayed e.result else .diverged
    | none => if p.full x then .stall else .entered

/-- The next compared operation of a group would stall (R181). -/
def State.compareStalls (s : State) (x : Group) : Bool :=
  match s.pairOf? x.team with | none => false | some p => (p.logged? x).isNone && p.full x

/-- The entry of a compared operation, with the identifier of what awaits it. -/
def State.enterCompare (s : State) (x : Group) (kind : Nat) (sig : DWord) (op : Nat) : State :=
  match s.pairOf? x.team with
  | none => s
  | some p =>
    let e : CmpEntry :=
      { ordinal := x.compared, group := x.index, kind := kind, sig := sig, op := op, lead := p.isLead x.team,
        events := x.events, cue := x.cue.toNat }
    s.modPair p.lead (fun q => { q with entries := q.entries ++ [e] })

/-- A group has issued one more compared operation. -/
def State.noteCompared (s : State) (g : Nat) : State := s.modGroup g (fun x => { x with compared := x.compared + 1 })

/-- A copy is the stand-in of a lead. -/
def State.isStandIn (s : State) (x : Group) : Bool :=
  match s.team? x.team with
  | none => false
  | some t => match t.copy with | .standIn _ => true | _ => false

/-- A copy belongs to a pair. -/
def State.isPaired (s : State) (x : Group) : Bool := (s.pairOf? x.team).isSome

end Sys2Proof.Machine
end

