-- ==== Sys2Proof/Machine/Area.lean ====
section
/-! DEFINITION. The context area of a launch (R182, R387, R415 to R417): its regions, packed registers, the records of spill
slots, checkpoints and save images, and writing and reading them in device memory. -/

namespace Sys2Proof.Machine

/-! ### Writing a context area from the device's side (R415) -/

/-- The physical address of a partition's address by a fresh walk, where the partition may reach it. -/
def State.physOf (s : State) (part va : Nat) (write : Bool) : Option Nat :=
  match s.walk part va with
  | .fault _ _ _ => none
  | .page frame bits w _ _ =>
    let phys := frame + va % 2 ^ bits
    if write && !w then none
    else match s.servedAt phys with | .dev p => if s.unitMay part phys write then some p else none | _ => none

/-- Bytes written at a partition's address; none where one of them is not mapped writable. -/
def State.writeVirtual (s : State) (part va : Nat) : List Byte → Option State
  | [] => some s
  | b :: t =>
    match s.physOf part va true with
    | none => none
    | some p => State.writeVirtual { s.plain 0 p 1 with mem := s.mem.setByte p b } part (va + 1) t

/-- Bytes read at a partition's address; none where one of them is not mapped. -/
def State.readVirtual (s : State) (part va : Nat) : Nat → Option (List Byte)
  | 0 => some []
  | n + 1 => (s.physOf part va false).bind (fun p => (State.readVirtual s part (va + 1) n).map (fun t => s.mem.byte p :: t))

/-- A number as n little-endian bytes (R6). -/
def leBytes (v : Nat) : Nat → List Byte
  | 0 => []
  | n + 1 => BitVec.ofNat 8 v :: leBytes (v / 256) n

/-- The context area of a launch (R387, R415). -/
def Launch.area (l : Launch) : Nat := ((l.desc[4]?).getD 0).toNat % 2 ^ 44 * 2 ^ 12

/-- The width by which a context area is laid out: 16 for a fused launch (R415). -/
def Launch.areaWidth (l : Launch) : Nat := if ((l.desc[0]?).getD 0).getLsbD 57 then 16 else l.width

/-- The next 4 KB boundary. -/
def pageUp (a : Nat) : Nat := (a + 4095) / 4096 * 4096

/-- The place of a cluster among those its partition shows (R415). -/
def State.clusterIndex (s : State) (p c : Nat) : Nat := ((s.clustersOf p).findIdx? (fun k => k == c)).getD 0

/-- The group slot index of R415. -/
def State.slotIndex (s : State) (x : Group) : Nat := (6 * s.clusterIndex x.part x.cluster + x.slice) * 32 + x.gslot

/-- The offset of the spill region and of a group's slot in it (R415). -/
def State.spillOffset (s : State) (x : Group) (l : Launch) : Nat :=
  let c := (s.part x.part).count
  pageUp (0x1000 + c * 192 * 16 * l.stack) + s.slotIndex x * (40960 + 2048 * l.areaWidth)

/-! ### Packed registers (R117, R417) -/

/-- The first packing that reproduces the lanes: its tag and its bytes, padded to a multiple of 4. -/
def packRegister (vals : List Nat) : Nat × List Byte :=
  let w := vals.length
  let base := vals.headD 0
  let stride := (vals.getD 1 base + 2 ^ 32 - base) % 2 ^ 32
  let ext (n : Nat) (v : Nat) : Bool := wrapOf 32 (signedOf n v) == v
  let narrow (n : Nat) : List Byte := vals.flatMap (fun v => leBytes v n)
  let pad (l : List Byte) : List Byte := l ++ List.replicate ((4 - l.length % 4) % 4) 0
  if vals.all (fun v => v == 0) then (0, [])
  else if vals.all (fun v => v == base) then (1, leBytes base 4)
  else if (List.range w).all (fun j => vals.getD j 0 == (base + j * stride) % 2 ^ 32) then (2, leBytes base 4 ++ leBytes stride 4)
  else if vals.all (fun v => ext 8 v) then (3, pad (narrow 1))
  else if vals.all (fun v => decide (v < 2 ^ 8)) then (4, pad (narrow 1))
  else if vals.all (fun v => ext 16 v) then (5, pad (narrow 2))
  else if vals.all (fun v => decide (v < 2 ^ 16)) then (6, pad (narrow 2))
  else (7, narrow 4)

/-- The header word of a save record (R417). -/
def saveHeader (type team group slice gslot length : Nat) : Nat :=
  type * 2 ^ 56 + team * 2 ^ 48 + group * 2 ^ 43 + slice * 2 ^ 40 + gslot * 2 ^ 35 + length

/-- The tag array: two 4-bit tags a byte, 128 bytes (R417). -/
def tagArray (tags : List Nat) : List Byte :=
  (List.range 128).map (fun i => BitVec.ofNat 8 (tags.getD (2 * i) 0 + 16 * tags.getD (2 * i + 1) 0))

/-! ### Records of spill slots, checkpoints and save images (R182, R416, R417) -/

/-- A record: its header and its body, padded to a multiple of 8 bytes. -/
def saveRecord (type team group slice gslot : Nat) (body : List Byte) : List Byte :=
  let body := body ++ List.replicate ((8 - body.length % 8) % 8) 0
  leBytes (saveHeader type team group slice gslot body.length) 8 ++ body

/-- The body of a record that is internal to firmware (R417): one word, free (DESIGN CHOICE [29]). What it stands for stays in
the state of the model. -/
def internalBody (type who : Nat) : List Byte := (List.range 8).map (fun i => Config.freeBody type who i)

/-- A record of a group. -/
def Group.record (x : Group) (type : Nat) (body : List Byte) : List Byte := saveRecord type (x.team % 192) x.index x.slice x.gslot body

/-- A group's registers as a record of type 0x02 (R417). -/
def Group.regRecord (x : Group) : List Byte :=
  let rs := (List.range x.nregs).map (fun r => packRegister ((List.range x.width).map (fun j => (x.reg r j).toNat)))
  x.record 0x02 (tagArray (rs.map Prod.fst) ++ rs.flatMap Prod.snd)

/-- A spill slot with a group's registers in it: evicted, or a checkpoint (R415, R417). -/
def Group.spillRecord (x : Group) : List Byte := x.regRecord ++ leBytes 0 8

/-- What a group has in its spill slot (R415): its registers while it is evicted, its held B while another holds the buffer. -/
def Group.spillSlot (x : Group) : List Byte :=
  (if x.evicted then x.regRecord else []) ++ (if x.heldSpilled then x.record 0x07 (internalBody 0x07 x.uid) else []) ++ leBytes 0 8

/-- Bits as bytes, the first in bit 0. -/
def bitBytes (l : List Bool) : List Byte :=
  (List.range ((l.length + 7) / 8)).map (fun i =>
    BitVec.ofNat 8 ((List.range 8).foldl (fun n k => n + ((l[8 * i + k]?).getD false).toNat * 2 ^ k) 0))

/-- A scratchpad allocation as a record holds it (R417): its bytes, then the full and the poison bit of each granule. -/
def Cluster.allocBody (c : Cluster) (a : Alloc) : List Byte :=
  let gs := (List.range ((a.declared + 15) / 16)).map (fun i => a.base / 16 + i)
  c.spad.bytes a.base a.declared ++ bitBytes (gs.map (fun k => (Sp.get? c.full k).isSome)) ++ bitBytes (gs.map c.poison.contains)

/-- An accumulator tile as a record holds it: the images of its elements by row (R164), then its counts (R188). -/
def Tile.image (t : Tile) : List Byte :=
  (List.range 2048).flatMap (fun i => leBytes (Sp.getD t.elems i 0).toNat 8) ++ leBytes (t.uncorr * 2 ^ 16 + t.corr) 8

/-- A group's records: its control state, its registers, its pending replies (R414) and its held B. -/
def State.groupRecords (s : State) (g : Nat) (x : Group) : List Byte :=
  x.record 0x01 (internalBody 0x01 x.uid) ++ x.regRecord
    ++ (if s.flight.any (fun m => m.agent == Agent.group g && m.uid == x.uid && m.d.isSome) then x.record 0x03 (internalBody 0x03 x.uid) else [])
    ++ (if x.heldB.isSome then x.record 0x07 (internalBody 0x07 x.uid) else [])

/-- The accumulator tiles of a team on a cluster: the upper cluster's are numbered from 32 on (R100). -/
def Team.tilesOn (t : Team) (ck : Nat) : List Nat := (List.range t.tiles).map (fun k => if t.ckey == ck then k else 32 + k)

/-- A team's records on a cluster: its state and the declared bytes of its allocation there. -/
def State.teamRecords (s : State) (tk : Nat) (t : Team) (ck : Nat) : List Byte :=
  saveRecord 0x04 (tk % 192) 0 0 0 (internalBody 0x04 t.uid)
    ++ saveRecord 0x05 (tk % 192) 0 0 0 ((s.cluster ck).allocBody (t.allocOn (ck % 256)))

/-- The record of a team's tiles on a cluster. -/
def Team.tileRecord (t : Team) (tk ck : Nat) : List Byte :=
  if t.tiles = 0 then [] else saveRecord 0x06 (tk % 192) 0 0 0 ((t.tilesOn ck).flatMap (fun k => (Sp.getD t.accTiles k {}).image))

/-- Whole lines that a write covers lose their poison (R84). -/
def State.cleanLines (s : State) (part va n : Nat) : State :=
  let lines := (List.range (n / 64)).filterMap (fun i => s.physOf part (va + 64 * i) true)
  { s with poisonLines := s.poisonLines.filter (fun k => !lines.any (fun p => p / 64 == k)) }

/-- A run of records written from a line's start on, in whole lines; none where the area is not mapped writable. -/
def State.writeRecords (s : State) (part va : Nat) (rs : List Byte) : Option State :=
  let rs := rs ++ List.replicate ((64 - rs.length % 64) % 64) 0
  (s.writeVirtual part va rs).map (fun t => t.cleanLines part va rs.length)

/-- Where the checkpoint region of a launch begins (R415). -/
def State.ckptOffset (s : State) (l : Launch) : Nat :=
  let c := (s.part l.part).count
  pageUp (pageUp (0x1000 + c * 192 * 16 * l.stack) + c * 192 * (40960 + 2048 * l.areaWidth))

/-- Where a save area begins (R415): the checkpoint region stands before them when the launch has a slack. -/
def State.saveOffset (s : State) (l : Launch) (area : Nat) : Nat :=
  let c := (s.part l.part).count
  s.ckptOffset l + (if l.slack = 0 then 0 else 2 * c * 2 ^ 22) + area * (c * 2 ^ 22)

/-- A team's checkpoint written (R182): each group's registers in its spill slot (R415), the rest in the checkpoint region, in
the half that cue numbers take in turn: its state and allocation at twice the base of the allocation, its tiles in the upper 2 MB after
those of the teams with lower handles (DESIGN CHOICE [29]). -/
def State.writeCheckpoint (s : State) (tk cue : Nat) : Option State :=
  match s.team? tk with
  | none => some s
  | some t =>
    match s.launch? t.launch with
    | none => some s
    | some l =>
      let c := (s.part t.part).count
      let half := l.area + s.ckptOffset l + (cue % 2 * c + s.clusterIndex t.part t.cluster) * 2 ^ 22
      let below := (s.teams.filter (fun p => p.2.ckey == t.ckey && decide (p.1 < tk))).foldl (fun n p => n + p.2.tiles) 0
      let regs := (s.groupsOf tk).foldl (fun (r : Option State) (p : Nat × Group) =>
        r.bind (fun s => s.writeVirtual p.2.part (l.area + s.spillOffset p.2 l) { p.2 with evicted := true }.spillSlot)) (some s)
      (regs.bind (fun s => s.writeRecords t.part (half + 2 * t.alloc.base) (s.teamRecords tk t t.ckey ++ leBytes 0 8))).bind (fun s =>
        if t.tiles = 0 then some s
        else s.writeRecords t.part (half + 2 ^ 21 + below * 2 ^ 15) (t.tileRecord tk t.ckey ++ leBytes 0 8))

/-- The image of a launch's state on a cluster (R416, R417). -/
def State.saveImage (s : State) (u ck : Nat) : List Byte :=
  let gs := s.groups.filter (fun p => p.2.launch == u && p.2.ckey == ck)
  let ts := s.teams.filter (fun p => p.2.launch == u && (p.2.ckey == ck || (p.2.pair && p.2.ckey + 1 == ck)))
  let cs := s.ctxs.filter (fun p => p.1 / 8 == ck && decide (p.2.num < 6) && p.2.launch == u)
  let c := s.cluster ck
  let own (type : Nat) (there : Bool) : List Byte := if there then saveRecord type 0xFF 0 0 0 (internalBody type ck) else []
  gs.flatMap (fun p => s.groupRecords p.1 p.2) ++ ts.flatMap (fun p => s.teamRecords p.1 p.2 ck ++ p.2.tileRecord p.1 ck)
    ++ own 0x08 (!cs.isEmpty) ++ own 0x09 (cs.any (fun p => !p.2.store.isEmpty))
    ++ own 0x0A (c.props.any (fun e => cs.any (fun p => p.2.num == e.2.ctx)))
    ++ own 0x0B ((c.reqQ ++ c.work).any (fun r => r.launch == u) || (c.mxQ ++ c.mxHeld).any (fun m => m.launch == u))
    ++ leBytes 0 8

/-- What the exchange of a swap saves of a launch on a cluster: held B and props entries (R413). -/
def State.exchangeImage (s : State) (u ck : Nat) : List Byte :=
  let gs := s.groups.filter (fun p => p.2.launch == u && p.2.ckey == ck && p.2.heldB.isSome)
  let cs := s.ctxs.filter (fun p => p.1 / 8 == ck && decide (p.2.num < 6) && p.2.launch == u)
  gs.flatMap (fun p => p.2.record 0x07 (internalBody 0x07 p.2.uid))
    ++ (if (s.cluster ck).props.any (fun e => cs.any (fun p => p.2.num == e.2.ctx)) then saveRecord 0x0A 0xFF 0 0 0 (internalBody 0x0A ck) else [])
    ++ leBytes 0 8

/-- It is written where the launch's save image begins (R413, R415). -/
def State.writeExchange (s : State) (u : Nat) (l : Launch) : Option State :=
  (s.clustersOf l.part).foldl (fun (r : Option State) c =>
    r.bind (fun s => s.writeRecords l.part (l.area + s.saveOffset l 0 + s.clusterIndex l.part c * 2 ^ 22) (s.exchangeImage u (clusterKey l.part c)))) (some s)

/-- The images of a launch written into a save area (R415, R416). -/
def State.writeImages (s : State) (u : Nat) (l : Launch) (area : Nat) : Option State :=
  (s.clustersOf l.part).foldl (fun (r : Option State) c =>
    r.bind (fun s => s.writeRecords l.part (l.area + s.saveOffset l area + s.clusterIndex l.part c * 2 ^ 22) (s.saveImage u (clusterKey l.part c)))) (some s)

/-- Whether a run of records is good to its end (R416): mapped, not poisoned, no reserved type, no tag of 8 to 15. An area holds
at most 2 ^ 19 headers. -/
def State.recordsGood (s : State) (part : Nat) : Nat → Nat → Bool
  | 0, _ => false
  | n + 1, va =>
    let clean (m : Nat) : Bool := (List.range (m / 64 + 2)).all (fun i => (s.physOf part (va + 64 * i) false).all (fun p => !s.poisonLines.contains (p / 64)))
    match s.readVirtual part va 8 with
    | none => false
    | some h =>
      let w := bytesWord h
      let len := w % 2 ^ 32
      let tags : Bool := w / 2 ^ 56 != 2 || (match s.readVirtual part (va + 8) 128 with
        | none => false
        | some bs => bs.all (fun b => decide (b.toNat % 16 < 8) && decide (b.toNat / 16 < 8)))
      if !clean len || 0x0B < w / 2 ^ 56 || !tags then false
      else if w / 2 ^ 56 = 0 then true
      else State.recordsGood s part n (va + 8 + len)

/-- The selector word of a launch's save areas written (R415, R416); none where it has no translation. -/
def State.writeSelector (s : State) (l : Launch) (area : Nat) : Option State :=
  s.writeVirtual l.part (l.area + 0x20) (leBytes (2 ^ 63 + area) 8)

/-- Whether the image of a launch that the selector names is good (R416). A launch whose selector is not valid was not saved. -/
def State.imageGood (s : State) (l : Launch) : Bool :=
  match s.readVirtual l.part (l.area + 0x20) 8 with
  | none => false
  | some bs =>
    let v := bytesWord bs
    v / 2 ^ 63 == 0 || (s.clustersOf l.part).all (fun c =>
      s.recordsGood l.part (2 ^ 19) (l.area + s.saveOffset l (v % 2) + s.clusterIndex l.part c * 2 ^ 22))

/-- A launch saved in an area, then its selector (R416). -/
def State.saveIn (s : State) (u : Nat) (l : Launch) (area : Nat) : Option State :=
  (s.writeImages u l area).bind (fun s => s.writeSelector l area)

/-! ### Spills (R48, R309, R415) -/

/-- The spill of what the chip has no room for, or its refill, in a context area: one that is not mapped loses the launch (R415). -/
def State.spilled (s : State) (launch : Nat) (t : Option State) : State := t.getD (s.endLaunch launch 0x09 0)

/-- A group's spill slot written as it stands (R415). -/
def State.writeSpill (s : State) (x : Group) : State :=
  match s.launch? x.launch with
  | none => s
  | some l => s.spilled x.launch (s.writeVirtual x.part (l.area + s.spillOffset x l) x.spillSlot)

/-- A group's spill slot read. -/
def State.readSpill (s : State) (x : Group) : State :=
  match s.launch? x.launch with
  | none => s
  | some l => s.spilled x.launch ((s.readVirtual x.part (l.area + s.spillOffset x l) x.spillSlot.length).map (fun _ => s))

/-- What a change of a group's reconvergence stack does in its stack area (R48, R415): past four entries the oldest are spilled,
16 bytes each, and they are refilled when the top falls below them. The bytes are internal to the device (DESIGN CHOICE [29]). -/
def State.stackMoves (s : State) (old x : Group) : State :=
  match s.launch? x.launch with
  | none => s
  | some l =>
    let at_ := l.area + 0x1000 + s.slotIndex x * (16 * l.stack)
    let out (y : Group) : Nat := y.stack.length - 4
    if out old < out x then
      s.spilled x.launch (s.writeVirtual x.part (at_ + 16 * out old)
        ((List.range (16 * (out x - out old))).map (fun i => Config.freeBody 0x100 x.uid (16 * out old + i))))
    else if out x < out old then
      s.spilled x.launch ((s.readVirtual x.part (at_ + 16 * out x) (16 * (out old - out x))).map (fun _ => s))
    else s

end Sys2Proof.Machine
end

