-- ==== Sys2Proof/Machine/Masks.lean ====
section
/-! DEFINITION. Mask operations (R232 to R234). -/

namespace Sys2Proof.Machine

/-- A mask bit from two mask bits, in each writing lane. -/
def aluMask2 (f : Bool → Bool → Bool) : Alu :=
  { d := .dstMask, a := .mask, b := .mask, latch := false, f := fun _ a b _ => ((f (a == 1) (b == 1)).toNat, Fl.none_) }

/-- A value that is the same in every writing lane, computed from the group at issue. -/
def aluWhole (d : FieldKind) (v : Nat) : Alu := { d := d, f := fun _ _ _ _ => (v, Fl.none_) }

/-- MAND (R234). -/
def execMand (o : Ops) (s : State) : Host.Outcome State Fault Refusal := s.aluIssue (aluMask2 (fun a b => a && b)) o

/-- MOR (R234). -/
def execMor (o : Ops) (s : State) : Host.Outcome State Fault Refusal := s.aluIssue (aluMask2 (fun a b => a || b)) o

/-- MXOR (R234). -/
def execMxor (o : Ops) (s : State) : Host.Outcome State Fault Refusal := s.aluIssue (aluMask2 (fun a b => a != b)) o

/-- MANDN (R234). -/
def execMandn (o : Ops) (s : State) : Host.Outcome State Fault Refusal := s.aluIssue (aluMask2 (fun a b => a && !b)) o

/-- MPOP (R234): the number of set bits below W, read whole at issue (R233). -/
def execMpop (o : Ops) (s : State) : Host.Outcome State Fault Refusal :=
  s.withLane (fun g b x => s.aluLane (aluWhole .dst32 (popCount x.width (x.maskReg o.a).toNat)) o g b x)

/-- The lowest set bit of a mask below W, or 64. -/
def maskFirst (w : Nat) (m : DWord) : Nat := ((List.range w).find? (fun j => laneBit m j)).getD 64

/-- MFIRST (R234). -/
def execMfirst (o : Ops) (s : State) : Host.Outcome State Fault Refusal :=
  s.withLane (fun g b x => s.aluLane (aluWhole .dst32 (maskFirst x.width (x.maskReg o.a))) o g b x)

/-- VTOM (R234): the bit of a non-zero register; linkable. -/
def execVtom (o : Ops) (s : State) : Host.Outcome State Fault Refusal :=
  s.aluIssue
    { d := .dstMask, a := .src32, c := .seed32, latch := false, f := fun _ a _ _ => ((a != 0).toNat, Fl.none_) } o

/-- VTOM.w (R234): all 64 bits from the pair of the lowest writing lane. -/
def execVtomW (o : Ops) (s : State) : Host.Outcome State Fault Refusal :=
  s.withLane (fun g b x =>
    let ws := x.writers b o.p o.pn
    s.groupIssue [{ res := 256 + o.d, t0 := s.issueCycle x, cls := 1, linked := false }] (ws.take 1) [(.src64, o.a)] [] g b x
      (fun y => match ws with | [] => y | l :: _ => y.setMask o.d (BitVec.ofNat 64 (x.read .src64 o.a l 0))))

/-- MTOV (R234): bit j as 0 or 1. -/
def execMtov (o : Ops) (s : State) : Host.Outcome State Fault Refusal :=
  s.aluIssue { d := .dst32, a := .mask, f := fun _ a _ _ => (a, Fl.none_) } o

/-- MTOV.w (R234): all 64 bits, read whole at issue (R233). -/
def execMtovW (o : Ops) (s : State) : Host.Outcome State Fault Refusal :=
  s.withLane (fun g b x => s.aluLane (aluWhole .dst64 (x.maskReg o.a).toNat) o g b x)

end Sys2Proof.Machine
end

