-- ==== Sys2Proof/Machine/CrossLane.lean ====
section
/-! DEFINITION. Cross-lane instructions (R235 to R240). -/

namespace Sys2Proof.Machine

/-- What a lane receives from another lane's register: all-ones from a dead lane, 0 from beyond the extent, else the
register as it stands at issue (R52, R236). -/
def Group.fromLane (x : Group) (k : FieldKind) (v src : Nat) : Nat :=
  if laneBit x.deadMask src then 2 ^ (32 * fieldRegs k) - 1
  else if x.extent ≤ src then 0
  else x.read k v src 0

/-- The source lane of SHFL; none where it falls outside the group (R236). -/
def shflSource (m : ShflMode) (w j n : Nat) : Option Nat :=
  match m with
  | .idx => if n < w then some n else none
  | .up => if n ≤ j then some (j - n) else none
  | .dn => if j + n < w then some (j + n) else none
  | .x => if Nat.xor j n < w then some (Nat.xor j n) else none

/-- The source lane of each writing lane of a SHFL: its own where the named one lies outside. -/
def Group.shflFrom (x : Group) (o : Ops) (imm : Bool) (m : ShflMode) (j : Nat) : Nat × Bool :=
  let n := if imm then o.c else x.read .src32 o.b j 0
  match shflSource m x.width j n with
  | some src => (src, true)
  | none => (j, false)

/-- A lane supplies a register: it is below the extent and not dead (R52, R236). -/
def Group.supplies (x : Group) (j : Nat) : Bool := decide (j < x.extent) && !laneBit x.deadMask j

/-- The tests before an issue that moves values between lanes: those of every issue, and a latch read in the lane it is taken
from (R204). `own` are the fields that the lanes of `readers` read in themselves. -/
def State.crossGate (s : State) (k dk : FieldKind) (o : Ops) (own : List Named) (readers : List Nat) (g : Nat) (b : Bool) (x : Group)
    (ws : List Nat) (from_ : Nat → Nat) : Gate :=
  match s.gate g b x ws false [] ((if o.k then [(dk, o.d)] else []) ++ (k, o.a) :: own) with
  | .go =>
    match ws.filter (fun j => (readers.contains j && own.any (fun f => Named.lost x j f))
        || (x.supplies (from_ j) && Named.lost x (from_ j) (k, o.a))) with
    | [] => .go
    | lost => .event 0x06 (lanesMask lost)
  | r => r

/-- The lanes that would consume a latent error by such an issue (R177): in a field of their own, or in the lane they take
field a from. -/
def Group.crossConsumers (x : Group) (k : FieldKind) (o : Ops) (own : List Named) (readers ws : List Nat) (from_ : Nat → Nat) : List Nat :=
  ws.filter (fun j => (readers.contains j && !(x.consumers [j] own).isEmpty)
    || (x.supplies (from_ j) && !(x.consumers [from_ j] [(k, o.a)]).isEmpty))

/-- What the lanes receive: to d when k = 1, and to latch ld (R203, R235). -/
def Group.crossWrite (x : Group) (dk : FieldKind) (o : Ops) (ws : List Nat) (val : Nat → Nat) : Group :=
  ws.foldl (fun y j =>
    (if o.k then y.writeDst dk o.d j (val j) else y).setLatch o.ld j (BitVec.ofNat 64 (val j))) x

/-- An issue that moves values between lanes: `from_` is the lane each writing lane takes field a from, `val` what it
gets; the results are usable in every lane W cycles after the issue (R235). -/
def State.crossIssue (s : State) (k dk : FieldKind) (o : Ops) (own : List Named) (readers : List Nat) (g : Nat) (b : Bool) (x : Group)
    (ws : List Nat) (from_ : Nat → Nat) (val : Nat → Nat) (deadRead : Bool) : State :=
  s.gated g b x (s.crossGate k dk o own readers g b x ws from_)
    (match x.crossConsumers k o own readers ws from_ with
     | [] =>
       let y := x.crossWrite dk o ws val
       let regs := if o.k then (List.range (fieldRegs dk)).map (fun i => o.d + i) else []
       (s.setGroup g ({ y with deadRead := y.deadRead || deadRead }.advance b)).noteIssue g b
         ((regs ++ [272 + o.ld]).map (fun r => { res := r, t0 := s.issueCycle x, cls := x.width, linked := false, every := true }))
     | l => s.consumeAt g l)

/-- SHFL (R236). -/
def execShfl (o : Ops) (ty : Ty) (imm : Bool) (m : ShflMode) (s : State) : Host.Outcome State Fault Refusal :=
  s.withLane (fun g b x =>
    let ws := x.writers b o.p o.pn
    let k := srcW ty.wide
    let src (j : Nat) := x.shflFrom o imm m j
    s.crossIssue k (dstW ty.wide) o (if imm then [] else [(.src32, o.b)]) ws g b x ws (fun j => (src j).1)
      (fun j => if (src j).2 then x.fromLane k o.a (src j).1 else x.read k o.a j 0)
      (ws.any (fun j => (src j).2 && laneBit x.deadMask (src j).1)))

/-- The result of VOTE over the writing lanes (R237). -/
def Group.vote (x : Group) (m : VoteMode) (a : Nat) (ws : List Nat) : Nat :=
  match m with
  | .any => (ws.any (fun j => x.read .src32 a j 0 != 0)).toNat
  | .all => (ws.all (fun j => x.read .src32 a j 0 != 0)).toNat
  | .ballot => (lanesMask (ws.filter (fun j => x.read .src32 a j 0 != 0))).toNat
  | .eq =>
    match ws with
    | [] => 1
    | l :: _ => (ws.all (fun j => x.read .src32 a j 0 == x.read .src32 a l 0)).toNat

/-- VOTE (R237). -/
def execVote (o : Ops) (m : VoteMode) (s : State) : Host.Outcome State Fault Refusal :=
  s.withLane (fun g b x =>
    let ws := x.writers b o.p o.pn
    s.crossIssue .src32 (dstW (m == .ballot)) o [] [] g b x ws (fun j => j) (fun _ => x.vote m o.a ws) false)

/-- BCAST (R238). A lane number at or above W in the word is beyond the extent, where no lane is read: it gives 0
(DESIGN CHOICE [119]). -/
def execBcast (o : Ops) (ty : Ty) (imm : Bool) (first : Bool) (s : State) : Host.Outcome State Fault Refusal :=
  s.withLane (fun g b x =>
    let ws := x.writers b o.p o.pn
    let k := srcW ty.wide
    let own : List Named := if imm || first then [] else [(.src32, o.b)]
    let l := ws.headD 0
    let src := if imm then o.c else if first then l else x.read .src32 o.b l 0
    if s.gate g b x (ws.take 1) false own [] == .go && !ws.isEmpty && decide (x.width ≤ src) && !imm then
      s.stopBefore g b x 0x01 (lanesMask [l]) 1 0
    else
      s.crossIssue k (dstW ty.wide) o own (ws.take 1) g b x ws (fun _ => src) (fun _ => x.fromLane k o.a src)
        (!ws.isEmpty && laneBit x.deadMask src))

/-- The break mask after LKBRK (R239). -/
def breakMask (m : BrkMode) (lbm ma : DWord) : DWord :=
  match m with
  | .set => ma
  | .or => lbm ||| ma
  | .andn => lbm &&& ~~~ma
  | .clr => 0

/-- LKBRK (R239): once, at issue. -/
def execLkbrk (o : Ops) (m : BrkMode) (s : State) : Host.Outcome State Fault Refusal :=
  s.withLane (fun g b x =>
    s.groupIssue [] [] [] [] g b x (fun y => { y with lbm := breakMask m x.lbm (x.maskReg o.a) }))

/-- The team's tail register as a lane of the group sees it (R43). -/
def State.tailOf (s : State) (x : Group) : DWord := match s.team? x.team with | none => 0 | some t => t.tail

/-- The last group of the line has a linked chain in flight: its LKTAIL waits (R240). -/
def State.tailPending (s : State) (x : Group) : Bool :=
  match s.team? x.team with
  | none => false
  | some t => decide (t.ngroups ≤ x.index + 1) && !(Sp.getD t.chains x.index []).isEmpty

/-- LKTAIL (R240). -/
def execLktail (o : Ops) (ty : Ty) (s : State) : Host.Outcome State Fault Refusal :=
  s.withLane (fun g b x =>
    if s.tailPending x then s
    else s.aluLane (aluWhole (dstW ty.wide) (if ty.wide then (s.tailOf x).toNat else (s.tailOf x).toNat % 2 ^ 32)) o g b x)

end Sys2Proof.Machine
end

