-- ==== Sys2Proof/Machine/Control.lean ====
section
/-! DEFINITION. Control (R241 to R252): branches, reconvergence, calls, exits, cue points, traps. -/

namespace Sys2Proof.Machine

/-! ### Targets and transfers (R64, R210) -/

/-- The target a branch's imm32 names, from its own word (R210). -/
def branchTarget (pc : BitVec 20) (imm : Nat) : BitVec 20 :=
  if imm / 2 ^ 30 % 4 = 1 then BitVec.ofNat 20 imm
  else BitVec.ofInt 20 (Int.ofNat pc.toNat + signedOf 21 imm)

/-- The items the group's stack area may hold: 4 + E (R48, R244, R387). -/
def State.stackLimit (s : State) (x : Group) : Nat := match s.launch? x.launch with | none => 4 | some l => 4 + l.stack

/-- A control instruction at issue: the gate, then its effect on the group, or the lane event it meets. -/
def State.controlIssue (s : State) (g : Nat) (b : Bool) (x : Group) (srcs : List Named) (k : Option Group) : State :=
  let ws := x.writers b 0 false
  s.gated g b x (s.gate g b x ws false srcs [])
    (match k with
     | some y => (((s.setGroup g (s.landed x y)).noteIssue g b []).stackMoves x y)
     | none => s.stopBefore g b x 0x07 (lanesMask ws) 0 0)

/-! ### Branches and JOIN (R242, R243) -/

/-- BRA (R242). -/
def execBra (o : IOps) (s : State) : Host.Outcome State Fault Refusal :=
  s.withLane (fun g b x => s.controlIssue g b x [] (some (x.goto b (branchTarget (x.slot b).pc o.imm))))

/-- BRX of a slot by a condition mask (R45); none where the group stops with STACK_OVERFLOW. -/
def Group.brx (x : Group) (b : Bool) (cond : DWord) (target : BitVec 20) (limit : Nat) : Option Group :=
  let v := x.slot b
  let t := v.mask &&& cond
  let n := v.mask &&& ~~~cond
  if t = 0 then some (x.advance b)
  else if n = 0 then some (x.goto b target)
  else
    match x.newTag with
    | none => none
    | some (tag, y) =>
      let free := !(x.slot (!b)).live
      let cost := if free then v.calls.length else 1 + v.calls.length
      if limit < x.items + cost then none
      else
        let outer := if free then v.tag else v.outer
        let y := { y with outerOf := Sp.set y.outerOf tag outer }
        let y := (y.modSlot b (fun w => { w with mask := n, tag := tag, outer := outer })).advance b
        if free then some (y.setSlot (!b) { pc := target, mask := t, tag := tag, outer := outer, calls := v.calls, age := v.age })
        else some { y with stack := { tag := tag, outer := v.tag, defPc := target, defMask := t, defCalls := v.calls } :: y.stack }

/-- BRX (R242): the mask is read whole at issue (R233). -/
def execBrx (o : IOps) (s : State) : Host.Outcome State Fault Refusal :=
  s.withLane (fun g b x =>
    s.controlIssue g b x [] (x.brx b (x.maskReg o.a) (branchTarget (x.slot b).pc o.imm) (s.stackLimit x)))

/-- JOIN of a slot (R243): it goes on at the next word unless it waits or has taken a deferred part. -/
def Group.joinWord (x : Group) (b : Bool) : Group :=
  match x.join b none with
  | (y, .waits) => y
  | (y, .deferred) => y
  | (y, _) => y.advance b

/-- JOIN (R243). -/
def execJoin (_o : Ops) (s : State) : Host.Outcome State Fault Refusal :=
  s.withLane (fun g b x => s.controlIssue g b x [] (some (x.joinWord b)))

/-! ### Calls (R244 to R247) -/

/-- A call with one target: the record takes the rebind state, which is emptied (R245, R246). -/
def Group.callOne (x : Group) (b : Bool) (target : BitVec 20) (limit : Nat) : Option Group :=
  if limit < x.items + 1 then none
  else
    some (x.modSlot b (fun v =>
      let r := v.rebind.getD (false, 0)
      { v with calls := { ret := v.pc + 1, split := r.1, base := r.2 } :: v.calls, rebind := none, pc := target,
               past := false, wait := .run }))

/-- CALL (R245). -/
def execCall (o : IOps) (s : State) : Host.Outcome State Fault Refusal :=
  s.withLane (fun g b x => s.controlIssue g b x [] (x.callOne b (branchTarget (x.slot b).pc o.imm) (s.stackLimit x)))

/-- The distinct targets of a CALLI in increasing order, each with its lanes. -/
def calliParts (ts : List (Nat × Nat)) : List (Nat × DWord) :=
  ts.foldl (fun (acc : Sp DWord) (p : Nat × Nat) => Sp.set acc p.2 (Sp.getD acc p.2 0 ||| (1#64 <<< p.1))) []

/-- The stacked parts of a divergent CALLI of a slot, the highest target last, so on top: each takes a new tag, and the tag
before it as its outer tag; the slot's own outer tag is unchanged (R47, R246). -/
def Group.calliStack (x : Group) (b : Bool) (calls : List CallRec) (outer : Nat) : List (Nat × DWord) → Option (Group × Nat)
  | [] => some (x, outer)
  | (t, m) :: rest =>
    match x.newTag with
    | none => none
    | some (a, y) =>
      Group.calliStack
        { y with
          outerOf := Sp.set y.outerOf a (x.slot b).outer,
          stack := { tag := a, outer := outer, defPc := BitVec.ofNat 20 t, defMask := m, defCalls := calls } :: y.stack }
        b calls a rest

/-- CALLI of a slot to the targets of its lanes (R246); none where the group stops with STACK_OVERFLOW. -/
def Group.calli (x : Group) (b : Bool) (ts : List (Nat × Nat)) (limit : Nat) : Option Group :=
  match calliParts ts with
  | [] => some (x.advance b)
  | [(t, _)] => x.callOne b (BitVec.ofNat 20 t) limit
  | (t1, m1) :: (t2, m2) :: rest =>
    let v := x.slot b
    let free := !(x.slot (!b)).live
    let calls := { ret := v.pc + 1, split := true, base := v.tag } :: v.calls
    let stacked := if free then rest else (t2, m2) :: rest
    let cost := 1 + stacked.length * (1 + calls.length) + (if free then calls.length else 0)
    if limit < x.items + cost then none
    else
      match (x.modSlot b (fun w => { w with calls := calls, rebind := none })).calliStack b calls v.tag stacked with
      | none => none
      | some (y, outer) =>
        let at_ (w : Slot) : Slot := { w with pc := BitVec.ofNat 20 t1, mask := m1, past := false, wait := .run }
        if free then
          match y.newTag with
          | none => none
          | some (tag, z) =>
            let z := { z with outerOf := Sp.set z.outerOf tag outer }
            let z := z.modSlot b (fun w => { at_ w with tag := tag, outer := outer })
            some (z.setSlot (!b)
              { pc := BitVec.ofNat 20 t2, mask := m2, tag := tag, outer := outer, calls := calls, age := v.age })
        else some (y.modSlot b (fun w => { at_ w with tag := outer }))

/-- The lanes whose target word has bits 31:20 set (R246). -/
def badTargets (ts : List (Nat × Nat)) : DWord := lanesMask ((ts.filter (fun p => decide (2 ^ 20 ≤ p.2))).map Prod.fst)

/-- The rest of a CALLI once the target of each lane is known (R246); a CALLI.m has issued before. -/
def State.calliTo (s : State) (g : Nat) (b : Bool) (x : Group) (ts : List (Nat × Nat)) (issues : Bool) : State :=
  if badTargets ts != 0 then s.stopBefore g b x 0x01 (badTargets ts) 2 0
  else
    match x.calli b ts (s.stackLimit x) with
    | none => s.stopBefore g b x 0x07 (x.slot b).mask 0 0
    | some y =>
      let s := s.setGroup g (s.landed x y)
      (if issues then s.noteIssue g b [] else s).stackMoves x y

/-- CALLI (R246), with the target in register a of each lane of the slot. -/
def execCalli (o : Ops) (s : State) : Host.Outcome State Fault Refusal :=
  s.withLane (fun g b x =>
    let ws := x.writers b 0 false
    s.gated g b x (s.gate g b x ws false [(.src32, o.a)] [])
      (match x.consumers ws [(.src32, o.a)] with
       | [] => s.calliTo g b x (ws.map (fun j => (j, x.read .src32 o.a j 0))) true
       | dying => s.consumeAt g dying))

/-- RET of a slot (R247); none where its call stack is empty. -/
def Group.ret (x : Group) (b : Bool) : Option Group :=
  let v := x.slot b
  match v.calls with
  | [] => none
  | r :: rest =>
    let y := x.setSlot b { v with calls := rest, pc := r.ret, past := false, wait := .run }
    some (if r.split then y.repeatJoin b r.base y.nesting else y)

/-- RET (R247). -/
def execRet (_o : Ops) (s : State) : Host.Outcome State Fault Refusal :=
  s.withLane (fun g b x =>
    match x.ret b with
    | some y => s.controlIssue g b x [] (some y)
    | none =>
      s.gated g b x (s.gate g b x [] false [] []) (s.stopBefore g b x 0x01 (lanesMask (x.writers b 0 false)) 3 0))

/-! ### EXIT, NOP, YIELD (R249, R250) -/

/-- The exit of a group: a release at device scope (R125, R249). -/
def State.exits (s : State) (g : Nat) : State := (s.release g).exitGroup g

/-- EXIT (R249). -/
def execExit (o : Ops) (s : State) : Host.Outcome State Fault Refusal :=
  s.withLane (fun g b x =>
    let ws := x.writers b o.p o.pn
    s.gated g b x (s.gate g b x ws false [] [])
      (let m := lanesMask ws
       let left := (x.slot b).mask &&& ~~~m
       let y := if left = 0 then x.dropLanes m false b else (x.dropLanes m false b).advance b
       let s := ((s.setGroup g (s.landed x y)).noteIssue g b []).stackMoves x y
       if y.empty then s.exits g else s))

/-- NOP (R250). -/
def execNop (_o : Ops) (s : State) : Host.Outcome State Fault Refusal :=
  s.withLane (fun g b x => s.controlIssue g b x [] (some (x.advance b)))

/-- A group that is ready in the wings (R23). -/
def Group.readyInWings (x : Group) : Bool := x.run == .active && x.holdsClear && !x.onStage && !x.parked && !x.evicted && x.started

/-- Whether a wings group of a slice is ready (R23, R250). -/
def State.wingsReady (s : State) (sk : Nat) : Bool := s.groups.any (fun p => p.2.skey == sk && p.2.readyInWings)

/-- A group leaves the stage for the wings, ready; its latches are lost (R20, R23). -/
def Group.leaves (x : Group) (now : Nat) : Group := { x with onStage := false, yielding := false, latches := [], readyAge := now }

/-- YIELD (R250): with a ready wings group the group leaves the stage, as soon as its lane steps in flight are finished (R23). -/
def execYield (_o : Ops) (s : State) : Host.Outcome State Fault Refusal :=
  s.withLane (fun g b x =>
    s.controlIssue g b x [] (some (
      let y := x.advance b
      if x.onStage && s.wingsReady x.skey then
        if x.stepsDone (s.issueCycle x) then y.leaves (s.sliceNow x) else { y with yielding := true }
      else y)))

/-! ### Cue points and the curtain (R251, R182, R424) -/

/-- The other copy of a group, where there is one: both are one unit of a cut (R186, R424). -/
def State.cutTwin (s : State) (x : Group) : List Group := ((s.otherCopy x).map Prod.snd).toList

/-- A group is counted with its other copy, by the lead. -/
def State.cutCounted (s : State) (x : Group) : Bool :=
  match (s.team? x.team).map Team.copy with | some (.standIn _) => (s.otherCopy x).isNone | _ => true

/-- A group stands in the way of a cut until it resumes: halted by an event, a translation fault or a debug hold (R425). -/
def Group.blocksCut (x : Group) : Bool := x.run == .halted || !x.holdsClear || x.dbgPend

/-- A unit of a cut: whether it stands, whether it is blocked, and its cue count. -/
structure CutUnit where
  stands : Bool
  blocked : Bool
  cue : Nat
deriving DecidableEq, Repr

/-- The units of a partition's cut (R424): groups that have issued, a lead with its stand-in as one, and generator contexts that have
executed a CUEPT. -/
def State.cutUnits (s : State) (p : Nat) : List CutUnit :=
  ((s.groups.filter (fun y => y.2.part == p && s.unitIssued y.2 && s.cutCounted y.2)).map (fun y =>
      let all := y.2 :: s.cutTwin y.2
      { stands := all.all Group.cutStop, blocked := all.any Group.blocksCut, cue := all.foldl (fun n x => max n x.cue.toNat) 0 }))
    ++ ((s.ctxs.filter (fun y => y.2.part == p && y.2.num < 6 && y.2.issuedCue)).map (fun y =>
      { stands := y.2.cutStop, blocked := false, cue := y.2.cue.toNat }))

/-- The units that stand below a count run on (R424). -/
def State.cutRunOn (s : State) (p t : Nat) : State :=
  { s with
    groups := s.groups.map (fun y =>
      (y.1, if y.2.part == p && s.unitIssued y.2 && decide (y.2.cue.toNat < t) then { y.2 with cutStop := false } else y.2)),
    ctxs := s.ctxs.map (fun y =>
      (y.1, if y.2.part == p && y.2.issuedCue && decide (y.2.cue.toNat < t) then { y.2 with cutStop := false } else y.2)) }

/-- A unit has completed a CUEPT in a running cut: the target is set, or rises, and units below it run on (R424). -/
def State.cutSettle (s : State) (p : Nat) : State :=
  let q := s.part p
  if q.cutState != 1 then s
  else
    let us := s.cutUnits p
    let high := us.foldl (fun n u => if u.stands then max n u.cue else n) 0
    if q.cutFirst then
      if us.all CutUnit.stands then
        (s.setPart p { q with cutFirst := false, target := BitVec.ofNat 32 high }).cutRunOn p high
      else s
    else if q.target.toNat < high then (s.setPart p { q with target := BitVec.ofNat 32 high }).cutRunOn p high
    else s

/-- Whether a unit stops at the CUEPT it has just completed (R424). -/
def Part.stopsAt (q : Part) (n : Nat) : Bool := q.cutState == 1 && (q.cutFirst || decide (q.target.toNat ≤ n))

/-- What a fault injection names of a group (R453): its launch, team number, copy and index, and a target that exists. -/
def State.injects (s : State) (j : Injection) (x : Group) : Bool :=
  let w (i : Nat) : Nat := ((j.words[i]?).getD 0).toNat
  w 0 / 2 ^ 12 % 32 == x.index && (s.launch? x.launch).any (fun l => l.id.toNat == w 0 / 2 ^ 32)
    && (s.team? x.team).any (fun t => t.q % 256 == w 0 / 2 ^ 24 % 256 && j.target x t
          && (match t.copy with | .standIn _ => w 0 / 2 ^ 17 % 2 == 1 | _ => w 0 / 2 ^ 17 % 2 == 0))

/-- A group's cue count has become n: the requests whose trigger that is fire before its next instruction, each in the first such
team (R375, R453). -/
def State.armCue (s : State) (x : Group) (n : Nat) : State :=
  { s with house := { s.house with armed := s.house.armed.map (fun (j : Injection) =>
      let w (i : Nat) : Nat := ((j.words[i]?).getD 0).toNat
      if j.due.isNone && w 3 / 2 ^ 60 % 4 == 1 && w 4 % 2 ^ 32 == n && s.injects j x then { j with due := some x.uid } else j) } }

/-- The CUEPT of a group completes: both slots that stood at it go on, and the cue count is n (R251). -/
def State.cueDone (s : State) (g : Nat) (n : Nat) : State :=
  match s.group? g with
  | none => s
  | some x =>
    let stands (v : Slot) : Bool := v.live && (match v.wait with | .teamCue _ => true | .atCue _ => true | _ => false)
    let y := if stands x.slotA then x.advance false else x
    let y := if stands x.slotB then y.advance true else y
    let y := Group.ageSlot (s.sliceNow x) x (Group.ageSlot (s.sliceNow x) x y false) true
    let s := s.setGroup g ({ y with cue := BitVec.ofNat 32 n, cutStop := (s.part x.part).stopsAt n }.unpark (s.sliceNow x))
    (s.armCue x n).cutSettle x.part

/-- Under stand-in execution a cue point is one of the whole team (R182): when every group of the copy that has not
exited stands at it, the checkpoint is written into the launch's context area, and the groups go on; an area that is not mapped
loses the launch (R415). -/
def State.teamCue (s : State) (t n : Nat) : State :=
  match s.pairOf? t with
  | none => s
  | some p =>
    let gs := s.groupsOf t
    let stands (x : Group) : Bool := x.slotA.wait == .teamCue n || x.slotB.wait == .teamCue n
    if gs.all (fun y => stands y.2) && !p.pending.any (fun k => teamKey k.team.ckey k.team.handle == t) then
      let s := gs.foldl (fun s y => s.cueDone y.1 n) s
      match s.checkpoint t n, s.writeCheckpoint t n with
      | some k, some s => s.modPair p.lead (fun q => { q with pending := q.pending ++ [k] })
      | some k, none => s.endLaunch k.team.launch 0x09 0
      | none, _ => s
    else s

/-- Whether everything the group issued earlier has completed, memory replies and matrix instructions included (R251). -/
def State.allDone (s : State) (g : Nat) (x : Group) : Bool :=
  let c := s.cluster x.ckey
  s.settled g x && !(c.mxQ ++ c.mxHeld).any (fun m => m.agent == Agent.group g && m.uid == x.uid)

/-- CUEPT (R251): the group is parked until every earlier instruction has completed in every lane. -/
def execCuept (o : Ops) (s : State) : Host.Outcome State Fault Refusal :=
  s.withLane (fun g b x =>
    let lanes := (x.slot b).mask
    let l := (lowestLane lanes).getD 0
    let n := x.read .src32 o.a l 0
    let other := x.slot (!b)
    s.gated g b x (s.gate g b x [l] false [(.src32, o.a)] [])
      (if !s.allDone g x || !x.stepsDone (s.issueCycle x) then s.park g b .reply
       else if !(x.consumers [l] [(.src32, o.a)]).isEmpty then s.consumeAt g [l]
       else
         let stop (d : Nat) := s.stopBefore g b x 0x01 lanes d 0
         let waiting : Option Nat := match other.wait with | .atCue m => some m | _ => none
         if other.live && waiting.isNone then s.park g b (.atCue n)
         else if other.live && waiting != some n then stop 4
         else if n ≤ x.cue.toNat then stop 5
         else
           match s.pairOf? x.team with
           | none =>
             let s := (s.park g b (.atCue n)).noteIssue g b []
             s.cueDone g n
           | some _ =>
             let elsewhere := (s.groupsOf x.team).any (fun y =>
               y.2.index != x.index && (match y.2.slotA.wait, y.2.slotB.wait with
                 | .teamCue m, _ => m != n
                 | _, .teamCue m => m != n
                 | _, _ => false))
             if elsewhere then stop 10
             else
               let s := (s.park g b (.teamCue n)).noteIssue g b []
               let s := if other.live then s.park g (!b) (.teamCue n) else s
               s.teamCue x.team n))

/-! ### Traps (R252) and BIND (R248) -/

/-- A stop after the word: the slot stands at the following word (R74, R252, R403). -/
def State.stopAfter (s : State) (g : Nat) (b : Bool) (x : Group) (o : Ops) (cause code : Nat) : State :=
  let ws := x.writers b o.p o.pn
  s.gated g b x (s.gate g b x ws false [] [])
    (let s := (s.setGroup g (x.advance b)).noteIssue g b []
     if ws.isEmpty then s else s.takeEvent g b cause (x.slot b).pc (lanesMask ws) code 0)

/-- TRAP (R252). -/
def execTrap (o : Ops) (code : Nat) (s : State) : Host.Outcome State Fault Refusal :=
  s.withLane (fun g b x => s.stopAfter g b x o 0x02 code)

/-- BKPT (R252). -/
def execBkpt (o : Ops) (code : Nat) (s : State) : Host.Outcome State Fault Refusal :=
  s.withLane (fun g b x => s.stopAfter g b x o 0x03 code)

/-- BIND (R248): the top call record goes into the rebind state, and the group stops at the stub word. -/
def execBind (_o : Ops) (_code : Nat) (s : State) : Host.Outcome State Fault Refusal :=
  s.withLane (fun g b x =>
    let v := x.slot b
    let ws := x.writers b 0 false
    s.gated g b x (s.gate g b x ws false [] [])
      (match v.calls with
       | [] => s.takeEvent g b 0x0A v.pc v.mask 0 0
       | r :: rest =>
         let s := s.setGroup g (x.setSlot b { v with calls := rest, rebind := some (r.split, r.base) })
         s.takeEvent g b 0x0A v.pc v.mask 0 (r.ret - 1).toNat))

end Sys2Proof.Machine
end

