-- ==== Sys2Proof/Machine/Memory.lean ====
section
/-! DEFINITION. Loads, stores, prefetch, the atomic family, fences, full/empty ranges and barrier words (R270 to R287,
R293 to R295): the issue of an access, with its checks, before it goes to its home. -/

namespace Sys2Proof.Machine

/-! ### One issue of an access (R273 to R275, R402, R404) -/

/-- What an entry says of its access: the fields it names, the kind, the order, and each writing lane's part, with the
address as the lane computes it. -/
structure MemPlan where
  srcs : List Named
  dst : List Named := []
  spad : Bool
  /-- the alignment that a scratchpad range needs -/
  align : Nat := 16
  kind : AccKind
  sc : Scope := .grp
  od : Order := .plain
  atomic : Bool := false
  /-- a poisoned granule stops it (R88 order 4) -/
  whole : Bool := false
  d : Option Nat := none
  ord : Bool := false
  lanes : List LaneAcc
  /-- a check on operand values that fails before any address is looked at (R273) -/
  pre : Option (Check × List Nat) := none
  /-- the writing lanes, where some of them make no access -/
  all : Option (List Nat) := none

/-- The lanes that write, each with its part. -/
def MemPlan.writers (p : MemPlan) : List Nat := p.all.getD (p.lanes.map LaneAcc.lane)

/-- Later memory instructions are held (R277, R285, R133): an acquire's reply has not arrived, an sc operation has not
taken its place, or a fence that acquires waits for earlier reads. -/
def State.memHeld (s : State) (g : Nat) (x : Group) : Bool :=
  x.fence.isSome || s.flight.any (fun m => m.agent == Agent.group g && m.uid == x.uid &&
    ((orderAcquires m.order && m.kind.reads && m.d.isSome) || (m.order == .sc && !m.performed)))

/-- What the checks and the translation of an access answer. -/
inductive Placed where
  | ok (lanes : List LaneAcc)
  | stop (c : Check) (lanes : List Nat)
  | walks (vas : List (Nat × Nat))
  | violates (addr : Nat)
deriving DecidableEq, Repr

/-- The address of a lane's part. -/
def LaneAcc.addrOf (l : List LaneAcc) (lane : Nat) : Nat :=
  match l.find? (fun a => a.lane == lane) with | none => 0 | some a => a.addr

/-- Whether an address lies in an enabled reduction window (R436). -/
def State.windowed (s : State) (phys : Nat) : Bool :=
  phys / 2 ^ 55 % 2 == 1 && s.windows.any (fun (w : Nat × DWord) =>
    w.2.getLsbD 63 &&
      (let base := w.2.toNat / 2 ^ 21 % 2 ^ 35 * 2 ^ 21
       decide (base ≤ phys) && decide (phys < base + w.2.toNat % 2 ^ 12 * 2 ^ 21)))

/-- The scratchpad checks of every lane (R88). -/
def State.placeSpad (s : State) (x : Group) (p : MemPlan) : Placed :=
  let rs := p.lanes.map (fun a => (a, s.spadCheck x a.addr a.size (min p.align a.size) p.whole))
  match firstCheck (rs.filterMap (fun r => match r.2 with | .inr c => some (r.1.lane, c) | .inl _ => none)) with
  | some (c, ls) => .stop c ls
  | none => .ok (rs.map (fun r => match r.2 with | .inl q => { r.1 with place := q } | .inr _ => r.1))

/-- The device checks of every lane, in the order of R404: form and alignment, translation, then the grant (R426). -/
def State.placeDev (s : State) (x : Group) (p : MemPlan) : Placed :=
  match firstCheck (p.lanes.filterMap (fun a => (deviceCheck a.addr a.size).map (fun c => (a.lane, c)))) with
  | some (c, ls) => .stop c ls
  | none =>
    let rs := p.lanes.map (fun a => (a, s.translate x.ckey a.addr a.write))
    match rs.filterMap (fun r => match r.2 with | .miss => some (r.1.lane, r.1.addr) | _ => none) with
    | v :: vs => .walks (v :: vs)
    | [] =>
      let ps := rs.map (fun r => match r.2 with | .hit q chk => (r.1, q, chk) | .miss => (r.1, 0, false))
      match ps.find? (fun r => !s.unitMay x.part r.2.1 r.1.write) with
      | some r => .violates r.1.addr
      | none =>
        let fadd : Bool := match p.kind with | .red op _ => op == 9 && !p.ord | _ => false
        let bad := if fadd && (s.part x.part).v128 then ps.filter (fun r => s.windowed r.2.1) else []
        if !bad.isEmpty then .stop { rank := 5, cause := 0x01, detail := 6 } (bad.map (fun r => r.1.lane))
        else
          .ok (ps.map (fun r =>
            let q := s.servedAt r.2.1
            let here : Bool := match q with | .dev _ => true | _ => false
            { r.1 with place := q, check := r.2.2 && here }))

/-- The counter that an access holds (R397): stores and REDs the first, atomics the second. -/
def AccKind.counter : AccKind → Nat
  | .store _ | .stsFe _ | .red _ _ => 1
  | .atom _ _ | .cas _ | .bfi _ | .ffcs | .plset => 2
  | _ => 0

/-- Two lanes' parts touch a byte in common. -/
def LaneAcc.meets (a b : LaneAcc) : Bool :=
  match a.place.bytes, b.place.bytes with
  | some p, some q => p.1 == q.1 && rangesMeet p.2 a.size q.2 b.size
  | _, _ => a.place == b.place && a.place != .none_

/-- Accesses to a byte of some parts that happen before a group's next word, its own earlier ones among them, are not performed yet
(R130). -/
def State.undoneAt (s : State) (g : Nat) (x : Group) (lanes : List LaneAcc) : Bool :=
  s.flight.any (fun m => ((m.agent == Agent.group g && m.uid == x.uid) || Clock.has x.clk m.uid m.time) && !m.performed
    && m.lanes.any (fun a => lanes.any (fun b => a.meets b)))

/-- The operation of a plan as it leaves the group. One that releases counts its own release; an atomic write follows what its
last release fence follows (R136, R285). -/
def State.memOp (s : State) (p : MemPlan) (g : Nat) (b : Bool) (x : Group) (lanes : List LaneAcc) (id : Nat) : MemOp :=
  let own := Clock.tick x.clk x.uid
  { id := id, agent := .group g, uid := x.uid, launch := x.launch, part := x.part, cluster := x.cluster, team := x.team,
    kind := p.kind, scope := p.sc, order := p.od, atomic := p.atomic, slot := b, pc := (x.slot b).pc, lanes := lanes,
    d := p.d, counter := p.kind.counter, ord := p.ord, who := s.standing (.group g), time := Sp.getD own x.uid 0,
    rels := x.rels + (p.kind.releases p.sc p.od).toNat, after := if p.atomic && p.kind.isWrite then x.relAt else 0,
    relClk := (if orderReleases p.od then [(p.sc, own)] else []) ++ (if p.atomic then x.relFence else []), clk := Clock.join own x.scClk,
    judged := s.isStandIn x || !p.kind.inRaces || lanes.all (fun a => !a.check) }

/-- The group after the issue of an access: one more operation of its own, the slot at the next word, a release counted
when the operation is one at team scope or wider; one that is still to be judged counts it with its verdict (R126, R136). -/
def State.memIssued (s : State) (p : MemPlan) (judged : Bool) (g : Nat) (b : Bool) (x : Group) : State :=
  let s := s.setGroup g ({ x with clk := Clock.tick x.clk x.uid }.advance b)
  let s := s.noteIssue g b []
  if judged && p.kind.releases p.sc p.od then s.release g else s

/-- The writes to a path's bytes that happen before an operation of a group cross to another (R127, R129): those of the group's own
requests there, which it has waited for, among them. -/
def State.crosses (s : State) (p q : Path) (x : Group) (time : Nat) : State :=
  s.cross q x.uid time (fun e => e.path == p && ((e.req != 0 && e.uid == x.uid) || e.before x.clk))

/-- Accesses that happen before an operation of a group and are not performed yet (R126, R127). -/
def State.undoneBefore (s : State) (g : Nat) (x : Group) : Bool :=
  s.undone g x || s.flight.any (fun m => !m.performed && Clock.has x.clk m.uid m.time)

/-- The operation sent: its counter is raised, and a request to another device goes on its stream (R397, R430). -/
def State.launchOp (s : State) (op : MemOp) : State :=
  let ck := clusterKey op.part op.cluster
  let s := { s with flight := s.flight ++ [op] }
  let s := if op.standIn then s else s.count op.launch ck op.counter op.away true
  op.lanes.foldl (fun s a => match a.place with | .remote phys => s.send ck (fabricDevice phys) op.id | _ => s) s

/-- Whether a plan is a compared operation (R180): a store, an atomic or a RED to device memory. -/
def MemPlan.compared (p : MemPlan) : Bool := !p.spad && p.kind.compareKind != 0

/-- An access that has passed its checks is sent (R275), or compared first under stand-in execution (R180 to R186). -/
def State.memSend (s : State) (p : MemPlan) (g : Nat) (b : Bool) (x : Group) (lanes : List LaneAcc) : State :=
  let op := s.memOp p g b x lanes (s.nextId + 1)
  let s1 := { s with nextId := s.nextId + 1 }
  if p.compared && s.isPaired x then
    let sig := signature p.kind.compareKind (lanesMask p.writers) lanes p.sc p.od
    match s.compareAt x sig with
    | .stall => s
    | .diverged => s.endLaunch x.launch 0x0B 0
    | .replayed res =>
      let s := (s1.memIssued p true g b x).noteCompared g
      let back := lanes.map (fun a => { a with done := true, result := ((res.find? (fun r => r.1 == a.lane)).map Prod.snd).getD 0 })
      if p.d.isSome then { s with flight := s.flight ++ [{ op with lanes := back, performed := true, judged := true, counter := 0, standIn := true }] }
      else s
    | _ =>
      let waits : Bool := match p.kind with | .store _ => false | _ => !s.isStandIn x
      let op := { op with compared := true, standIn := s.isStandIn x, judged := op.judged && !waits }
      let s := s1.enterCompare x p.kind.compareKind sig op.id
      ((s.memIssued p op.judged g b x).noteCompared g).launchOp op
  else (s1.memIssued p op.judged g b x).launchOp op

/-- The walks a group's access wants; the slot waits for them (R421). -/
def State.walkFor (s : State) (g : Nat) (b : Bool) (x : Group) (write : Bool) (vas : List (Nat × Nat)) : State :=
  let s := vas.foldl (fun s v =>
    s.wantWalk { part := x.part, cluster := x.cluster, va := v.2, write := write, agent := .group g, slot := b, lanes := 1#64 <<< v.1 } x.ckey) s
  s.park g b .walk

/-- The stop of a check on operand values, before any address is looked at: it names the lanes whose address fails with the same
cause too, and carries its own detail (R273; DESIGN CHOICE [99]). -/
def State.stopPre (s : State) (g : Nat) (b : Bool) (x : Group) (placed : Placed) (c : Check) (ls : List Nat) : State :=
  let more := match placed with | .stop k ms => if k.cause = c.cause then ms else [] | _ => []
  s.stopBefore g b x c.cause (lanesMask ls ||| lanesMask more) c.detail 0

/-- ONE ISSUE of an access by a group slot: the gate, the order it must keep, the checks, the translation, then the
access itself (R273, R275, R277, R404). -/
def State.memLaneAt (s : State) (p : MemPlan) (placed : Placed) (g : Nat) (b : Bool) (x : Group) : State :=
  let ws := p.writers
  s.gated g b x (s.gate g b x ws false p.srcs p.dst)
    (match x.consumers ws p.srcs with
     | l :: ls => s.consumeAt g (l :: ls)
     | [] =>
       if ws.isEmpty then (s.setGroup g (x.advance b)).noteIssue g b []
       else if s.memHeld g x then s.park g b .memOrder [0]
       else
         match p.pre with
         | some (c, ls) => s.stopPre g b x placed c ls
         | none =>
           if p.lanes.isEmpty then (s.setGroup g (x.advance b)).noteIssue g b []
           else
             match placed with
             | .stop c ls => s.stopBefore g b x c.cause (lanesMask ls) c.detail (LaneAcc.addrOf p.lanes (ls.headD 0))
             | .walks vas => s.walkFor g b x (p.lanes.any (fun a => a.write)) vas
             | .violates addr => s.violation (.group g) b x.part x.cluster addr
             | .ok lanes => s.memSend p g b x lanes)

/-- The issue of an access whose every lane's part is checked as it stands. -/
def State.memLane (s : State) (p : MemPlan) (g : Nat) (b : Bool) (x : Group) : State :=
  s.memLaneAt p (if p.spad then s.placeSpad x p else s.placeDev x p) g b x

/-- The issue by the current agent. -/
def State.memIssue (s : State) (plan : Nat → Bool → Group → MemPlan) : Host.Outcome State Fault Refusal :=
  s.withLane (fun g b x => s.memLane (plan g b x) g b x)

/-! ### Addresses and parts -/

/-- The offset of `[va+off]` (R208). -/
def memOffset (c unit : Nat) : Int := signedOf 8 c * 16 ^ unit

/-- The address a lane computes: modulo 2^64 for device memory, modulo 2^32 for the scratchpad (R208). -/
def Group.address (x : Group) (spad : Bool) (a : Nat) (off : Int) (lane : Nat) : Nat :=
  if spad then wrapOf 32 (Int.ofNat (x.read .src32 a lane 0) + off) else wrapOf 64 (Int.ofNat (x.read .src64 a lane 0) + off)

/-- The address field as a source. -/
def addrNamed (spad : Bool) (a : Nat) : Named := (if spad then .src32 else .src64, a)

/-- A lane's part of an access. -/
def lanePartOf (lane addr size : Nat) (write : Bool) (data data2 : Nat) : LaneAcc :=
  { lane := lane, addr := addr, place := .none_, size := size, write := write, data := BitVec.ofNat 128 data,
    data2 := BitVec.ofNat 128 data2 }

/-! ### Loads and stores (R276 to R279) -/

/-- LD and LDS (R276, R277). -/
def loadPlan (spad : Bool) (o : Ops) (unit : Nat) (ty : Ty) (sc : Scope) (od : Order) (b : Bool) (x : Group) : MemPlan :=
  { srcs := [addrNamed spad o.a], dst := [(memDst ty, o.d)], spad := spad, kind := .load ty, sc := sc, od := od,
    atomic := od != .plain, d := some o.d,
    lanes := (x.writers b o.p o.pn).map (fun j =>
      lanePartOf j (x.address spad o.a (memOffset o.c unit) j) ty.bytes false 0 0) }

/-- ST and STS (R276, R277). -/
def storePlan (spad : Bool) (o : Ops) (unit : Nat) (ty : Ty) (sc : Scope) (od : Order) (b : Bool) (x : Group) : MemPlan :=
  { srcs := [addrNamed spad o.a, (memSrc ty, o.b)], spad := spad, kind := .store ty.bytes, sc := sc, od := od,
    atomic := od != .plain, whole := decide (ty.bytes < 16),
    lanes := (x.writers b o.p o.pn).map (fun j =>
      lanePartOf j (x.address spad o.a (memOffset o.c unit) j) ty.bytes true (x.read (memSrc ty) o.b j 0) 0) }

/-- LD (R276). -/
def execLd (o : Ops) (unit : Nat) (ty : Ty) (sc : Scope) (od : Order) (s : State) : Host.Outcome State Fault Refusal :=
  s.memIssue (fun _ b x => loadPlan false o unit ty sc od b x)

/-- ST (R276). -/
def execSt (o : Ops) (unit : Nat) (ty : Ty) (sc : Scope) (od : Order) (s : State) : Host.Outcome State Fault Refusal :=
  s.memIssue (fun _ b x => storePlan false o unit ty sc od b x)

/-! ### Full and empty (R91, R92, R278) -/

/-- The granules that lanes name, as keys. -/
def granuleKeys (lanes : List LaneAcc) : List Nat :=
  (lanes.filterMap (fun a => match a.place with | .spad ck off => some (ck * 65536 + off / 16) | _ => none)).eraseDups

/-- Whether a granule is full. -/
def State.isFull (s : State) (k : Nat) : Bool := (Sp.get? (s.cluster (k / 65536)).full (k % 65536)).isSome

/-- Whether a waiter goes before one at a place: its wait is older, and it is blocked no more, or is to try its word again. -/
def Slot.ahead (w : Slot) (at_ : Nat) (keys : List Nat) (full : Nat → Bool) : Bool :=
  w.live && (w.wait == .fullEmpty || w.wait == .run) && w.waitAt != 0 && decide (w.waitAt < at_) && w.wants.all full
    && w.wants.any (fun k => keys.contains k)

/-- Granules for which an older waiter that can proceed goes first (R92); a group that does not run is none. -/
def State.olderWaiter (s : State) (at_ : Nat) (keys : List Nat) : Bool :=
  s.groups.any (fun p => p.2.run == .active && p.2.holdsClear && !p.2.cutStop
    && (p.2.slotA.ahead at_ keys s.isFull || p.2.slotB.ahead at_ keys s.isFull))

/-- The place of a slot among waiters: a slot that has not waited stands after all that have. -/
def State.waitPlace (s : State) (v : Slot) (keys : List Nat) : Nat :=
  if v.wants == keys && v.waitAt != 0 then v.waitAt else s.nextId + 1

/-- A wait on granules or on a barrier word, which keeps its place among the waiters while it lasts (R92). -/
def State.waitOn (s : State) (g : Nat) (b : Bool) (w : Wait) (keys : List Nat) : State :=
  match s.group? g with
  | none => s
  | some x =>
    let at_ := s.waitPlace (x.slot b) keys
    let s := { s with nextId := s.nextId + 1 }.park g b w keys
    s.modGroup g (fun x => x.modSlot b (fun u => { u with waitAt := at_ }))

/-- The accesses of an operation that is performed at once, for the race test. -/
def MemOp.accs (op : MemOp) : List (Nat × Acc) := op.lanes.filterMap (fun a => op.acc a)

/-- An operation that takes its place at once: judged, then performed in lane order and remembered, or stopped by a race. -/
def State.performNow (s : State) (op : MemOp) (g : Nat) (b : Bool) (x : Group) (k : State → MemOp → State) : State :=
  match s.raced x op.accs with
  | r :: rs => s.raceStop g b op.pc (r :: rs) (LaneAcc.addrOf op.lanes)
  | [] =>
    let r := s.performLanes op (fun _ => true)
    k (r.1.remember x op.time op.rels (op.accs.map Prod.snd)) r.2

/-- LDS.fe and LDS.fec (R91, R92): they proceed when every granule is full, reading and clearing in one event; what filled
the granules synchronises with them, and an engine's bytes there cross to the lane path (R125, R129). -/
def State.ldsFe (s : State) (p : MemPlan) (clear : Bool) (g : Nat) (b : Bool) (x : Group) : State :=
  s.gated g b x (s.gate g b x p.writers false p.srcs p.dst)
    (match x.consumers p.writers p.srcs with
     | l :: ls => s.consumeAt g (l :: ls)
     | [] =>
       if p.lanes.isEmpty then (s.setGroup g (x.advance b)).noteIssue g b []
       else if s.memHeld g x then s.park g b .memOrder [0]
       else
         match s.placeSpad x p with
         | .ok lanes =>
           let keys := granuleKeys lanes
           if s.undoneAt g x lanes then s.park g b .memOrder [1]
           else if !keys.all (fun k => s.isFull k) || s.olderWaiter (s.waitPlace (x.slot b) keys) keys then s.waitOn g b .fullEmpty keys
           else
             let clk := keys.foldl (fun c k => Clock.join c (Sp.getD (s.cluster (k / 65536)).full (k % 65536) [])) []
             let op := s.memOp p g b x lanes (s.nextId + 1)
             let s := s.cross .lane x.uid op.time (fun e => e.path.engine && e.space != 0 && keys.contains ((e.space - 1) * 65536 + e.addr / 16))
             s.performNow op g b x (fun s op =>
               let s := { s with nextId := s.nextId + 1 }
               let s := if clear then keys.foldl (fun s k => s.clearFull (k / 65536) (k % 65536)) s else s
               let y := { x with clk := Clock.join (Clock.tick x.clk x.uid) clk }
               let s := (s.setGroup g ((y.advance b).modSlot b (fun v => { v with wants := [], waitAt := 0 }))).noteIssue g b []
               { s with flight := s.flight ++ [{ op with judged := true }] })
         | .stop c ls => s.stopBefore g b x c.cause (lanesMask ls) c.detail (LaneAcc.addrOf p.lanes (ls.headD 0))
         | _ => s)

/-- LDS, LDS.fe and LDS.fec (R276, R278). -/
def execLds (o : Ops) (unit : Nat) (ty : Ty) (sc : Scope) (od : Order) (fem : FeMode) (s : State) :
    Host.Outcome State Fault Refusal :=
  s.withLane (fun g b x =>
    match fem with
    | .plain => s.memLane (loadPlan true o unit ty sc od b x) g b x
    | .fe => s.ldsFe { loadPlan true o unit ty .ens od b x with kind := .ldsFe ty false } false g b x
    | .fec => s.ldsFe { loadPlan true o unit ty .ens od b x with kind := .ldsFe ty true } true g b x)

/-- STS and STS.fe (R276, R278): the full/empty form writes and sets full in one event. -/
def execSts (o : Ops) (unit : Nat) (ty : Ty) (sc : Scope) (od : Order) (fe : Bool) (s : State) :
    Host.Outcome State Fault Refusal :=
  s.memIssue (fun _ b x =>
    if fe then { storePlan true o unit ty .ens od b x with kind := .stsFe ty.bytes } else storePlan true o unit ty sc od b x)

/-- PREF (R279): the lines of the lanes whose address is in order and mapped are brought in; nothing faults or waits. -/
def State.prefetch (s : State) (x : Group) (addr : Nat) : State :=
  if (deviceCheck addr 1).isSome then s
  else
    match s.walk x.part addr with
    | .fault _ _ _ => s
    | .page frame bits _ _ _ =>
      match s.servedAt (frame + addr % 2 ^ bits) with
      | .dev phys => if s.unitMay x.part phys false then { s with cached := insNat (phys / 64) s.cached } else s
      | _ => s

/-- PREF. -/
def execPref (o : Ops) (unit : Nat) (s : State) : Host.Outcome State Fault Refusal :=
  s.withLane (fun g b x =>
    let ws := x.writers b o.p o.pn
    s.gated g b x (s.gate g b x ws false [(.src64, o.a)] [])
      (match x.consumers ws [(.src64, o.a)] with
       | l :: ls => s.consumeAt g (l :: ls)
       | [] =>
         let s := ws.foldl (fun s j => s.prefetch x (x.address false o.a (memOffset o.c unit) j)) s
         (s.setGroup g (x.advance b)).noteIssue g b []))

/-! ### The atomic family (R280 to R284) -/

/-- A read-modify-write (R280, R282, R283): `kb`, `kc` are the uses of b and c, `dk` that of d. -/
def rmwPlan (sp : Bool) (o : Ops) (size : Nat) (kind : AccKind) (sc : Scope) (od : Order) (kb kc dk : FieldKind) (b : Bool)
    (x : Group) : MemPlan :=
  { srcs := [addrNamed sp o.a, (kb, o.b), (kc, o.c)], dst := [(dk, o.d)], spad := sp, kind := kind, sc := sc, od := od,
    atomic := true, whole := true, d := if dk == .unused then none else some o.d,
    lanes := (x.writers b o.p o.pn).map (fun j =>
      lanePartOf j (x.address sp o.a 0 j) size true (x.read kb o.b j 0) (x.read kc o.c j 0)) }

/-- ATOM (R280). -/
def execAtom (o : Ops) (ty : Ty) (sc : Scope) (od : Order) (sp : Bool) (s : State) : Host.Outcome State Fault Refusal :=
  s.memIssue (fun _ b x => rmwPlan sp o ty.bytes (.atom o.c ty) sc od (srcW ty.wide) .unused (dstW ty.wide) b x)

/-- ACAS (R282). -/
def execAcas (o : Ops) (ty : Ty) (sc : Scope) (od : Order) (sp : Bool) (s : State) : Host.Outcome State Fault Refusal :=
  s.memIssue (fun _ b x => rmwPlan sp o ty.bytes (.cas ty) sc od (srcW ty.wide) (srcW ty.wide) (dstW ty.wide) b x)

/-- ABFI (R283). -/
def execAbfi (o : Ops) (ty : Ty) (sc : Scope) (od : Order) (sp : Bool) (s : State) : Host.Outcome State Fault Refusal :=
  s.memIssue (fun _ b x => rmwPlan sp o ty.bytes (.bfi ty) sc od (srcW ty.wide) (srcW ty.wide) (dstW ty.wide) b x)

/-- AFFCS (R283). -/
def execAffcs (o : Ops) (sc : Scope) (od : Order) (sp : Bool) (s : State) : Host.Outcome State Fault Refusal :=
  s.memIssue (fun _ b x => rmwPlan sp o 8 .ffcs sc od .unused .unused .dst32 b x)

/-- APLSET (R283). -/
def execAplset (o : Ops) (sc : Scope) (od : Order) (sp : Bool) (s : State) : Host.Outcome State Fault Refusal :=
  s.memIssue (fun _ b x => rmwPlan sp o 8 .plset sc od .src64 .src32 .dst128 b x)

/-- The logical key of a lane's next `.ord` contribution to a location (R284, R438). -/
def Group.ordKey (x : Group) (q lane addr : Nat) : Nat :=
  let n := ((x.ordUsed.find? (fun e => e.1 == lane && e.2.1 == addr)).map (fun e => e.2.2)).getD 0
  ((q * 32 + x.index) * 64 + lane) * 2 ^ 21 + n

/-- The ordinals of a group's `.ord` contributions after one issue. -/
def Group.ordNext (x : Group) (ls : List (Nat × Nat)) : Group :=
  { x with ordUsed := ls.foldl (fun l (p : Nat × Nat) =>
      if l.any (fun e => e.1 == p.1 && e.2.1 == p.2) then
        l.map (fun e => if e.1 == p.1 && e.2.1 == p.2 then (e.1, e.2.1, e.2.2 + 1) else e)
      else l ++ [(p.1, p.2, 1)]) x.ordUsed }

/-- The location that a lane's address names, for its contributions to it (R284): by its translation. -/
def State.ordPlace (s : State) (x : Group) (addr : Nat) : Nat :=
  match s.translate x.ckey addr true with | .hit phys _ => phys | .miss => addr

/-- A contribution that the other copy, or the run before a rollback, has counted is not counted again: the launch's count
does not depend on stand-in execution (R193, R438). -/
def State.ordCounted (s : State) (x : Group) : Bool :=
  match s.pairOf? x.team with
  | none => false
  | some p =>
    (p.replay && p.log.any (fun e => e.group == x.index && e.ordinal == x.compared))
      || p.entries.any (fun e => e.group == x.index && e.ordinal == x.compared && e.lead != p.isLead x.team)

/-- An issue of `.ord` contributions is counted, in its launch and, under stand-in execution, in its entry. -/
def State.ordCount (s : State) (x : Group) (n : Nat) : State :=
  let s := s.modLaunch x.launch (fun l => { l with ordCount := l.ordCount + n })
  match s.pairOf? x.team with
  | none => s
  | some p => s.modPair p.lead (fun q => { q with entries := q.entries.map (fun (e : CmpEntry) =>
      if e.group == x.index && e.ordinal == x.compared && e.lead == p.isLead x.team then { e with ord := n } else e) })

/-- RED (R280, R284): with `.ord` each contribution carries its key, and the launch's count of them is bounded (R438). -/
def execRed (o : Ops) (ty : Ty) (sc : Scope) (od : Order) (sp : Bool) (ord : Bool) (s : State) :
    Host.Outcome State Fault Refusal :=
  s.withLane (fun g b x =>
    let p := rmwPlan sp o ty.bytes (.red o.c ty) sc od (srcW ty.wide) .unused .unused b x
    if !ord then s.memLane p g b x
    else
      let q := ((s.team? x.team).map Team.q).getD 0
      let n := ((s.launch? x.launch).map Launch.ordCount).getD 0
      let counted := s.ordCounted x
      let over_ := !counted && decide (1048576 < n + p.lanes.length)
      let at_ (a : LaneAcc) : Nat := s.ordPlace x a.addr
      let p := { p with
        ord := true,
        pre := if over_ then some ({ rank := 0, cause := 0x01, detail := 7 }, p.writers) else none,
        lanes := p.lanes.map (fun a => { a with data2 := BitVec.ofNat 128 (x.ordKey q a.lane (at_ a)) }) }
      let t := s.memLane p g b x
      if t.nextId = s.nextId then t
      else
        let t := if counted then t else t.ordCount x p.lanes.length
        t.modGroup g (fun y => y.ordNext (p.lanes.map (fun a => (a.lane, at_ a)))))

/-! ### Instructions that act once (R274) -/

/-- A word that acts once: the gate for the operands of the lowest writing lane, then its effect; without one it has none. -/
def State.onceLane (s : State) (o : Ops) (srcs dst : List Named) (g : Nat) (b : Bool) (x : Group)
    (k : Nat → List Nat → State) : State :=
  let ws := x.writers b o.p o.pn
  s.gated g b x (s.gate g b x (ws.take 1) false srcs dst)
    (match ws with
     | [] => (s.setGroup g (x.advance b)).noteIssue g b []
     | l :: _ =>
       match x.consumers [l] srcs with
       | [] => k l ws
       | dying => s.consumeAt g dying)

/-- The group goes on to its next word. -/
def State.goesOn (s : State) (g : Nat) (b : Bool) (f : Group → Group) : State :=
  (s.modGroup g (fun x => (f x).advance b)).noteIssue g b []

/-- A stop of a word that acts once: its one lane, with a detail (R273, R274). -/
def State.stopOnce (s : State) (g : Nat) (b : Bool) (x : Group) (l : Nat) (c : Check) (addr : Nat) : State :=
  s.stopBefore g b x c.cause (lanesMask [l]) c.detail addr

/-! ### Fences (R285, R286) -/

/-- A release fence at a scope: what later atomic writes publish (R125). -/
def Group.fenced (x : Group) (sc : Scope) : Group :=
  let k := Clock.tick x.clk x.uid
  { x with clk := k, relFence := (x.relFence.filter (fun r => r.1 != sc)) ++ [(sc, k)] }

/-- A fence that acquires is done when every earlier atomic read has returned, with sc when every earlier access is performed:
it acquires the release sequences that they met (R125, R285); with sc it takes its place in the sc order, after which comes everything
that follows it (R133). -/
def State.fenceSettle (s : State) (g : Nat) : State :=
  match s.group? g with
  | none => s
  | some x =>
    match x.fence with
    | none => s
    | some (sc, od) =>
      let reads := s.flight.any (fun m => m.agent == Agent.group g && m.uid == x.uid && m.atomic && m.d.isSome)
      if reads || (od == .sc && s.undone g x) then s
      else
        let c := s.taken sc (s.standing (.group g)) x.acqPend
        let order := if od == .sc then Clock.join s.scClk [(x.uid, Sp.getD x.clk x.uid 0)] else s.scClk
        let s : State := { s with scClk := order }
        s.setGroup g { x with
          fence := none, clk := Clock.join x.clk c, scClk := if od == .sc then Clock.join x.scClk order else x.scClk,
          relFence := if orderReleases od then x.relFence.map (fun r => if r.1 == sc then (r.1, Clock.join r.2 c) else r) else x.relFence }

/-- FENCE (R285): the group goes on at once. With rel later atomic writes are performed after every earlier access; with acq
later memory words are held until every earlier atomic read has returned. -/
def execFence (o : Ops) (sc : Scope) (od : Order) (s : State) : Host.Outcome State Fault Refusal :=
  s.withLane (fun g b x =>
    s.onceLane o [] [] g b x (fun _ _ =>
      if s.memHeld g x then s.park g b .memOrder [0]
      else
        let last := s.nextId
        let s := s.goesOn g b (fun x =>
          let x := if orderReleases od then { x.fenced sc with relAt := last } else x
          if orderAcquires od then { x with fence := some (sc, od) } else x)
        (if orderReleases od && scopeWide sc then s.release g else s).fenceSettle g))

/-- Requests and matrix instructions of a group that a path still holds (R128). -/
def State.pathBusy (s : State) (g : Nat) (x : Group) (path : Nat) : Bool :=
  let c := s.cluster x.ckey
  let kindOf (r : Request) : Nat := ((r.words[3]?).getD 0).toNat / 2 ^ 52 % 16
  match path with
  | 1 => (c.reqQ ++ c.work).any (fun r => r.group == x.uid && kindOf r == 0)
  | 2 => (c.mxQ ++ c.mxHeld).any (fun m => m.agent == Agent.group g && m.uid == x.uid)
  | 3 => (c.reqQ ++ c.work).any (fun r => r.group == x.uid && kindOf r == 1)
  | 4 => (c.reqQ ++ c.work).any (fun r => r.group == x.uid && kindOf r == 2)
  | _ => s.undone g x

/-- The path a code of PFENCE names (R286). -/
def pathOf (n : Nat) : Path :=
  match n with | 0 => .lane | 1 => .copy | 2 => .matrix | 3 => .gather | _ => .coll

/-- PFENCE (R128, R286): what happens before it on the one path crosses to the other (R127). It is a later instruction than an acquire
whose reply it waits for. -/
def execPfence (o : Ops) (s : State) : Host.Outcome State Fault Refusal :=
  s.withLane (fun g b x =>
    s.onceLane o [] [] g b x (fun _ _ =>
      let from_ := o.c % 8
      if from_ = o.c / 8 % 8 then s.goesOn g b (fun x => x)
      else if s.memHeld g x then s.park g b .memOrder [0]
      else if from_ = 0 && s.undoneBefore g x then s.park g b .memOrder [3]
      else if s.pathBusy g x from_ then s.park g b (.path (pathOf from_)) [from_]
      else
        let k := Clock.tick x.clk x.uid
        (s.crosses (pathOf from_) (pathOf (o.c / 8 % 8)) x (Sp.getD k x.uid 0)).goesOn g b (fun x => { x with clk := k })))

/-! ### Full/empty ranges (R287) -/

/-- FESET and FECLR. -/
def fePlan (set : Bool) (o : Ops) (unit : Nat) (b : Bool) (x : Group) : MemPlan :=
  let ws := x.writers b o.p o.pn
  let many := ws.filter (fun j => decide (65536 < x.read .src32 o.b j 0))
  { srcs := [addrNamed true o.a, (.src32, o.b)], spad := true, align := 16, kind := if set then .feset else .feclr,
    all := some ws,
    pre := if many.isEmpty then none else some ({ rank := 0, cause := 0x01, detail := 7 }, many),
    lanes := (ws.filter (fun j => x.read .src32 o.b j 0 != 0)).map (fun j =>
      { lanePartOf j (x.address true o.a (memOffset o.c unit) j) (16 * x.read .src32 o.b j 0) true 0 0 with check := false }) }

/-- FESET. -/
def execFeset (o : Ops) (unit : Nat) (s : State) : Host.Outcome State Fault Refusal :=
  s.memIssue (fun _ b x => fePlan true o unit b x)

/-- FECLR. -/
def execFeclr (o : Ops) (unit : Nat) (s : State) : Host.Outcome State Fault Refusal :=
  s.memIssue (fun _ b x => fePlan false o unit b x)

/-! ### Barrier words (R110 to R112, R293 to R295) -/

/-- The lowest writing lane alone (R274). -/
def oncePart (x : Group) (o : Ops) (b : Bool) (f : Nat → LaneAcc) : List LaneAcc :=
  match x.writers b o.p o.pn with | [] => [] | l :: _ => [f l]

/-- The words of mode 0 that a team will have when what its groups have issued is performed (R112): a word that is not among 64 of
them may not be added. -/
def State.barsFull (s : State) (t : Team) (p : Place) : Bool :=
  let key (q : Place) : Option Nat := match q with | .spad ck off => some (ck * 2 ^ 20 + off) | _ => none
  let coming := s.flight.flatMap (fun m =>
    if m.kind == .binit false && !m.performed && m.team == teamKey t.ckey t.handle then m.lanes.filterMap (fun a => key a.place) else [])
  let all := (t.bars0 ++ coming).eraseDups
  !(key p).any all.contains && decide (64 ≤ all.length)

/-- BINIT (R111, R112, R293). -/
def execBinit (o : Ops) (unit : Nat) (mode : Bool) (s : State) : Host.Outcome State Fault Refusal :=
  s.withLane (fun g b x =>
    let e (l : Nat) : Nat := x.read .src32 o.b l 0
    let p : MemPlan :=
      { srcs := [addrNamed true o.a, (.src32, o.b)], spad := true, kind := .binit mode, sc := .ens, od := .rlx, atomic := true,
        whole := true,
        pre := match x.writers b o.p o.pn with
          | [] => none
          | l :: _ => if e l = 0 ∨ 2 ^ 31 ≤ e l then some ({ rank := 0, cause := 0x01, detail := 8 }, [l]) else none,
        lanes := oncePart x o b (fun l => lanePartOf l (x.address true o.a (memOffset o.c unit) l) 16 true (e l) 0) }
    let full : Bool := match s.placeSpad x p, s.team? x.team with
      | .ok [a], some t => !mode && s.barsFull t a.place
      | _, _ => false
    s.memLane (if full && p.pre.isNone then { p with pre := some ({ rank := 0, cause := 0x01, detail := 9 }, p.writers) } else p) g b x)

/-- ARRIVE (R111, R294): a release; d receives the phase that it counts towards. -/
def execArrive (o : Ops) (unit : Nat) (s : State) : Host.Outcome State Fault Refusal :=
  s.withLane (fun g b x =>
    let ws := x.writers b o.p o.pn
    s.memLane
      { srcs := [addrNamed true o.a, (.src32, o.b)], dst := if o.k then [(.dst32, o.d)] else [], spad := true,
        kind := .arrive (lanesMask ws), sc := .ens, od := .rel, atomic := true, whole := true, d := if o.k then some o.d else none,
        lanes := oncePart x o b (fun l =>
          lanePartOf l (x.address true o.a (memOffset o.c unit) l) 16 true (x.read .src32 o.b l 0) 0) } g b x)

/-- BWAIT (R111, R295): it goes on when the phase differs from the one observed, and acquires what the completed phase
published; the bytes that engines counted down on the word cross to the lane path (R129). Else it parks. -/
def execBwait (o : Ops) (unit : Nat) (s : State) : Host.Outcome State Fault Refusal :=
  s.withLane (fun g b x =>
    let p : MemPlan :=
      { srcs := [addrNamed true o.a, (.src32, o.b)], spad := true, kind := .bwait, sc := .ens, od := .acq, atomic := true,
        whole := true,
        lanes := oncePart x o b (fun l => { lanePartOf l (x.address true o.a (memOffset o.c unit) l) 16 false 0 0 with write := false }) }
    s.onceLane o p.srcs [] g b x (fun l _ =>
      if s.memHeld g x then s.park g b .memOrder [0]
      else
        match s.placeSpad x p with
        | .ok lanes =>
          if s.undoneAt g x lanes then s.park g b .memOrder [1] else
          match lanes.head?.map LaneAcc.place with
          | some (.spad ck off) =>
            let op := s.memOp p g b x lanes (s.nextId + 1)
            s.performNow op g b x (fun s _ =>
              let w := BarWord.ofNat ((s.cluster ck).spad.read off 16)
              let seen := x.read .src32 o.b l 0 % 2
              if w.phase == (seen == 1) then s.waitOn g b .barrier [2 ^ 80 + (ck * 2 ^ 20 + off) * 2 + seen]
              else
                let c := (Sp.getD (s.cluster ck).barClk off ([], [])).2
                (s.cross .lane x.uid op.time (fun e => e.path.engine && e.bar == ck * 2 ^ 20 + off + 1 && Clock.has c e.uid e.time)).goesOn g b (fun x =>
                  ({ x with clk := Clock.join (Clock.tick x.clk x.uid) c }.modSlot b (fun v => { v with wants := [], waitAt := 0 }))))
          | _ => s
        | .stop c _ => s.stopOnce g b x l c (LaneAcc.addrOf p.lanes l)
        | _ => s))

end Sys2Proof.Machine
end

