-- ==== Sys2Proof/Machine/Curve.lean ====
section
/-! DEFINITION. Curve coordinates (R173, R174, R317 to R325): words and packs, the comparison and the next word in a box,
the ranges of a box in curve order. -/

namespace Sys2Proof.Machine

/-! ### Words and packs (R173, R174, R318) -/

/-- The bits of an axis. -/
def curveK (d : Nat) : Nat := 64 / d
/-- A word with its unused bits cleared. -/
def curveClean (d w : Nat) : Nat := w % 2 ^ (d * curveK d)
def curveMalformed (d w : Nat) : Bool := w % 2 ^ 64 != curveClean d w
/-- Axis a of a word. -/
def curveAxis (d w a : Nat) : Nat := (List.range (curveK d)).foldl (fun v i => if w.testBit (i * d + a) then v + 2 ^ i else v) 0
/-- The axes of a word. -/
def curveAxes (d w : Nat) : List Nat := (List.range d).map (fun a => curveAxis d w a)
/-- The word of a list of axes, each modulo 2^k. -/
def curveWord (d : Nat) (axes : List Nat) : Nat :=
  (List.range (curveK d)).foldl (fun v i => (List.range d).foldl (fun v a => if (axes.getD a 0).testBit i then v + 2 ^ (i * d + a) else v) v) 0

/-- The bits of a field of a pack. -/
def packBits (d : Nat) : Nat := if d = 1 then 64 else if d ≤ 4 then 32 else 16
/-- Field a of a pack. -/
def packField (d p a : Nat) : Nat := p / 2 ^ (packBits d * a) % 2 ^ packBits d
/-- The pack of a list of axes. -/
def packOf (d : Nat) (axes : List Nat) : Nat := (axes.zip (List.range d)).foldl (fun v p => v + p.1 * 2 ^ (packBits d * p.2)) 0
/-- A field beyond the last axis is non-zero. -/
def packBeyond (d p : Nat) : Bool := p % 2 ^ 128 / 2 ^ (packBits d * d) != 0

/-- A point lies in a box (R318). -/
def inBox (axes lo hi : List Nat) : Bool := (axes.zip (lo.zip hi)).all (fun p => decide (p.2.1 ≤ p.1) && decide (p.1 ≤ p.2.2))

/-! ### The operations (R319 to R323) -/

/-- CVENC. -/
def curveEncode (d p : Nat) : Nat := curveWord d ((List.range d).map (fun a => packField d p a))
/-- CVDEC. -/
def curveDecode (d w : Nat) : Nat := packOf d (curveAxes d w)

/-- CVADD: the word, then the flags from bit 64 up. -/
def curveAdd (d : Nat) (sat : Bool) (w p : Nat) : Nat :=
  let k := curveK d
  let sums := (List.range d).map (fun a => Int.ofNat (curveAxis d w a) + signedOf (packBits d) (packField d p a))
  let out (v : Int) : Bool := decide (v < 0) || decide (2 ^ k ≤ v)
  let axes := sums.map (fun v => if sat then (min (max v 0) (2 ^ k - 1)).toNat else wrapOf k v)
  let ov := (sums.zip (List.range d)).foldl (fun f q => if out q.1 then f + 2 ^ q.2 else f) 0
  curveWord d axes + 2 ^ 64 * (ov + (curveMalformed d w || packBeyond d p).toNat * 256)

/-- The outcome of CVCMP (R321). -/
def curveCompare (d : Nat) (c : Cond) (a b e : Nat) : Bool :=
  let inside := inBox (curveAxes d a) (curveAxes d b) (curveAxes d e)
  match c with
  | .c6 => inside
  | .c7 => !inside
  | c =>
    let x := curveClean d a
    let y := curveClean d b
    match c with
    | .eq => decide (x = y) | .ne => decide (x ≠ y) | .lt => decide (x < y) | .le => decide (x ≤ y) | .gt => decide (y < x) | _ => decide (y ≤ x)

/-- The bits of axis a among the low p bits of a word. -/
def freeBits (d p a : Nat) : Nat := min (curveK d) ((p + d - 1 - a) / d)

/-- The cell of the words that share the bits of w from p up, axis by axis: its least point and its side. -/
def curveCell (d w p : Nat) : List (Nat × Nat) := (List.range d).map (fun a => (curveAxis d w a, 2 ^ freeBits d p a))

/-- A cell holds a point of the box. -/
def cellMeets (cell : List (Nat × Nat)) (lo hi : List Nat) : Bool :=
  (cell.zip (lo.zip hi)).all (fun q => decide (q.2.1 ≤ q.2.2) && decide (q.1.1 ≤ q.2.2) && decide (q.2.1 < q.1.1 + q.1.2))
/-- A cell lies in the box whole. -/
def cellInside (cell : List (Nat × Nat)) (lo hi : List Nat) : Bool :=
  (cell.zip (lo.zip hi)).all (fun q => decide (q.2.1 ≤ q.1.1) && decide (q.1.1 + q.1.2 ≤ q.2.2 + 1))

/-- The least word of a cell that a test of cells allows, found bit by bit: `ok` holds of a cell when some word of it serves. -/
def leastIn (ok : Nat → Nat → Bool) : Nat → Nat → Nat
  | 0, w => w
  | p + 1, w => leastIn ok p (if ok w p then w else w + 2 ^ p)

/-- The least well-formed word from z on that serves: z itself, or one that leaves z's bits at the lowest bit it can. -/
def curveLeast (d : Nat) (ok : Nat → Nat → Bool) (z : Nat) : Option Nat :=
  if ok z 0 then some z
  else
    match (List.range (d * curveK d)).find? (fun p => !z.testBit p && ok (z / 2 ^ p * 2 ^ p + 2 ^ p) p) with
    | none => none
    | some p => some (leastIn ok p (z / 2 ^ p * 2 ^ p + 2 ^ p))

/-- The least word in the box from z on (R322). -/
def curveNext (d z : Nat) (lo hi : List Nat) : Option Nat := curveLeast d (fun w p => cellMeets (curveCell d w p) lo hi) z
/-- The least word outside the box from z on. -/
def curveLeave (d z : Nat) (lo hi : List Nat) : Option Nat := curveLeast d (fun w p => !cellInside (curveCell d w p) lo hi) z

/-- CVNEXT: the word, then its flags from bit 64 up. -/
def curveNextResult (d a b c : Nat) : Nat :=
  let bad := (curveMalformed d a || curveMalformed d b || curveMalformed d c).toNat * 256
  match curveNext d (curveClean d a) (curveAxes d b) (curveAxes d c) with
  | some w => w + 2 ^ 64 * bad
  | none => 2 ^ 64 * (bad + 1)

/-- CVLVL. -/
def curveLevel (d a b : Nat) : Nat :=
  let x := Nat.xor (curveClean d a) (curveClean d b)
  if x = 0 then curveK d else curveK d - 1 - Nat.log2 x / d

/-- CVENC (R319). -/
def execCvenc (o : Ops) (dim : Nat) (s : State) : Host.Outcome State Fault Refusal :=
  s.aluIssue { d := .dst64, a := .src128, c := .seed64, cls := 4, f := fun _ a _ _ => (curveEncode dim a, Fl.none_) } o

/-- CVDEC (R319). -/
def execCvdec (o : Ops) (dim : Nat) (s : State) : Host.Outcome State Fault Refusal :=
  s.aluIssue { d := .dst128, a := .src64, c := .seed64, cls := 4, f := fun _ a _ _ => (curveDecode dim a, Fl.none_) } o

/-- CVADD (R320). -/
def execCvadd (o : Ops) (dim : Nat) (sat : Bool) (s : State) : Host.Outcome State Fault Refusal :=
  s.aluIssue { d := .dst128, a := .src64, b := .src128, c := .seed64, cls := 4, f := fun _ a b _ => (curveAdd dim sat a b, Fl.none_) } o

/-- CVCMP (R321). -/
def execCvcmp (o : Ops) (dim : Nat) (cond : Cond) (v : Bool) (s : State) : Host.Outcome State Fault Refusal :=
  let box := cond == .c6 || cond == .c7
  s.aluIssue
    { d := if v then .dst32 else .dstMask, a := .src64, b := .src64, c := if box then .src64 else .seed32, latch := v,
      f := fun _ a b c => ((curveCompare dim cond a b c).toNat, Fl.none_) } o

/-- CVNEXT (R322). -/
def execCvnext (o : Ops) (dim : Nat) (s : State) : Host.Outcome State Fault Refusal :=
  s.aluIssue { d := .dst128, a := .src64, b := .src64, c := .src64, cls := 4, f := fun _ a b c => (curveNextResult dim a b c, Fl.none_) } o

/-- CVLVL (R323). -/
def execCvlvl (o : Ops) (dim : Nat) (s : State) : Host.Outcome State Fault Refusal :=
  s.aluIssue { d := .dst32, a := .src64, b := .src64, c := .seed32, cls := 4, f := fun _ a b _ => (curveLevel dim a b, Fl.none_) } o

/-! ### CVSPLIT (R324, R325) -/

/-- The runs of a box from z on, at most n of them: start and end of each. -/
def curveRuns (d : Nat) (lo hi : List Nat) : Nat → Nat → List (Nat × Nat)
  | 0, _ => []
  | n + 1, z =>
    match curveNext d z lo hi with
    | none => []
    | some a =>
      match curveLeave d a lo hi with
      | none => [(a, 2 ^ (d * curveK d) - 1)]
      | some e => (a, e - 1) :: curveRuns d lo hi n e

/-- What CVSPLIT writes for a lane: the granules, the trailer last, and d. -/
def curveSplit (d n lo hi z : Nat) : List Nat × Nat :=
  let runs := curveRuns d (curveAxes d lo) (curveAxes d hi) (n + 1) (curveClean d z)
  let more := decide (n < runs.length)
  let out := if more then runs.take (n - 1) else runs
  let resume := if more then (runs.getD (n - 1) (0, 0)).1 else 0
  let bad := curveMalformed d lo || curveMalformed d hi || curveMalformed d z
  (out.map (fun r => r.1 + 2 ^ 64 * r.2) ++ [out.length + more.toNat * 2 ^ 32 + bad.toNat * 2 ^ 33 + resume * 2 ^ 64],
   out.length + more.toNat * 2 ^ 31)

/-- The granules of a lane from its address on. -/
def splitParts (lane addr result : Nat) (vs : List Nat) : List LaneAcc :=
  (vs.zip (List.range vs.length)).map (fun v => { lanePartOf lane (addr + 16 * v.2) 16 true v.1 0 with result := BitVec.ofNat 128 result })

/-- CVSPLIT (R324, R325): each lane's 16·(n + 1) bytes are checked as one access; then its runs and trailer are stored,
and d is written when they are performed. -/
def execCvsplit (o : Ops) (dim : Nat) (n : Nat) (sp : Bool) (s : State) : Host.Outcome State Fault Refusal :=
  s.withLane (fun g b x =>
    let ws := x.writers b o.p o.pn
    let addr (j : Nat) : Nat := x.address sp o.a 0 j
    let outs := ws.map (fun j =>
      let box := x.read .src128 o.b j 0
      (j, curveSplit dim n (box % 2 ^ 64) (box / 2 ^ 64) (x.read .src64 o.c j 0)))
    let p : MemPlan :=
      { srcs := [addrNamed sp o.a, (.src128, o.b), (.src64, o.c)], dst := [(.dst32, o.d)], spad := sp, kind := .store 16, d := some o.d,
        all := some ws, lanes := outs.flatMap (fun q => splitParts q.1 (addr q.1) q.2.2 q.2.1) }
    let placed : Placed :=
      if sp then
        match s.placeSpad x { p with lanes := ws.map (fun j => lanePartOf j (addr j) (16 * (n + 1)) true 0 0) } with
        | .ok ls => .ok (p.lanes.map (fun a =>
            match ls.find? (fun l => l.lane == a.lane) with
            | some l => (match l.place with | .spad ck off => { a with place := .spad ck (off + (a.addr - l.addr)) } | _ => a)
            | none => a))
        | r => r
      else
        match s.placeDev x { p with lanes := ws.flatMap (fun j => splitParts j (addr j) 0 (List.replicate (n + 1) 0)) } with
        | .ok ls => .ok (p.lanes.map (fun a => match ls.find? (fun l => l.lane == a.lane && l.addr == a.addr) with | some l => { a with place := l.place, check := l.check } | none => a))
        | r => r
    s.memLaneAt p placed g b x)

end Sys2Proof.Machine
end

