-- ==== Sys2Proof/Machine/Sync.lean ====
section
/-! DEFINITION. The props table, ensembles, mailboxes, remote put, arrivals, requests and batches, registers that grow and
shrink, the deterministic heap, and CALLI.m (R93 to R99, R107, R109, R113 to R118, R246, R288 to R292, R296 to R299). -/

namespace Sys2Proof.Machine

/-! ### Props table (R93 to R96, R288) -/

/-- A props instruction (R96, R288) as an access to the table of its cluster: an atomic with order ar at pair scope, whose replies
write d. `part` gives a lane's key or slot, its payload and its way; the last part of the second operand is the context. -/
def propsPlan (s : State) (n : Nat) (o : Ops) (srcs : List Named) (bad : Group → Nat → Bool) (part : Group → Nat → Nat × Nat × Nat) (b : Bool)
    (x : Group) : MemPlan :=
  let ws := x.writers b o.p o.pn
  let out := ws.filter (fun j => bad x j)
  let ctx := ((s.kernelCtx x).getD 0) % 8
  { srcs := srcs, dst := [(.dst64, o.d)], spad := true, kind := .props n, sc := .pair, od := .ar, atomic := true, d := some o.d,
    pre := if out.isEmpty then none else some ({ rank := 0, cause := 0x01, detail := 7 }, out),
    lanes := ws.map (fun j =>
      let v := part x j
      { lanePartOf j 0 8 true v.1 (v.2.1 + v.2.2 * 2 ^ 32 + ctx * 2 ^ 40) with check := false }) }

/-- The issue of a props instruction: its table needs no address. -/
def State.propsIssue (s : State) (n : Nat) (o : Ops) (srcs : List Named) (bad : Group → Nat → Bool)
    (part : Group → Nat → Nat × Nat × Nat) : Host.Outcome State Fault Refusal :=
  s.withLane (fun g b x =>
    let p := propsPlan s n o srcs bad part b x
    s.memLaneAt p (.ok p.lanes) g b x)

/-- PLOOK (R95, R288). -/
def execPlook (o : Ops) (s : State) : Host.Outcome State Fault Refusal :=
  s.propsIssue 0 o [(.src64, o.a)] (fun _ _ => false) (fun x j => (x.read .src64 o.a j 0, 0, 0))

/-- PINS (R95, R288). -/
def execPins (o : Ops) (s : State) : Host.Outcome State Fault Refusal :=
  s.propsIssue 1 o [(.src64, o.a), (.src32, o.b), (.src32, o.c)] (fun x j => decide (8 < x.read .src32 o.c j 0))
    (fun x j => (x.read .src64 o.a j 0, x.read .src32 o.b j 0, x.read .src32 o.c j 0))

/-- PINV (R95, R288). -/
def execPinv (o : Ops) (s : State) : Host.Outcome State Fault Refusal :=
  s.propsIssue 2 o [(.src32, o.a)] (fun x j => decide (4095 < x.read .src32 o.a j 0)) (fun x j => (x.read .src32 o.a j 0, 0, 0))

/-! ### Ensembles (R97 to R99, R289) -/

/-- The status of EJOIN (R97): 3 where the team is a member already; of a slot that is held and a cluster that has a member, the slot
(DESIGN CHOICE [100]). -/
def State.joinStatus (s : State) (x : Group) (tm : Team) (e m : Nat) : Nat :=
  let en := s.ensembles.find? (fun y => y.launch == x.launch && y.e == e)
  let held : Bool := match en with | none => false | some y => (Sp.get? y.members m).isSome
  let sameCk : Bool := match en with
    | none => false
    | some y => y.members.any (fun p => (s.team? p.2).any (fun t => t.ckey == tm.ckey || (t.pair && t.ckey + 1 == tm.ckey) || (tm.pair && tm.ckey + 1 == t.ckey)))
  if tm.ensemble.isSome then 3 else if held then 1 else if sameCk then 2 else 0

/-- The team joins its ensemble as member m; the slot is mapped for whoever this happens before (R98). -/
def State.joins (s : State) (x : Group) (e m time : Nat) : State :=
  let fresh_ := !s.ensembles.any (fun y => y.launch == x.launch && y.e == e)
  let s := if fresh_ then { s with ensembles := s.ensembles ++ [{ launch := x.launch, e := e }] } else s
  let s := { s with ensembles := s.ensembles.map (fun (y : Ensemble) =>
    if y.launch == x.launch && y.e == e then
      { y with members := Sp.set y.members m x.team, joined := Sp.set y.joined m (x.uid, time), revoked := delNat m y.revoked }
    else y) }
  s.modTeam x.team (fun t => { t with ensemble := some (e, m), left := none })

/-- EJOIN (R97, R289). -/
def execEjoin (o : Ops) (s : State) : Host.Outcome State Fault Refusal :=
  s.withLane (fun g b x =>
    s.onceLane o [(.src32, o.a), (.src32, o.b)] [(.dst32, o.d)] g b x (fun l ws =>
      let e := x.read .src32 o.a l 0
      let m := x.read .src32 o.b l 0
      if 255 < e ∨ 7 < m ∨ s.isPaired x then s.stopOnce g b x l { rank := 1, cause := 0x01, detail := 7 } 0
      else
        match s.team? x.team with
        | none => s
        | some tm =>
          let st := s.joinStatus x tm e m
          let k := Clock.tick x.clk x.uid
          let s := if st = 0 then s.joins x e m (Sp.getD k x.uid 0) else s
          s.goesOn g b (fun x => ws.foldl (fun y j => y.setReg o.d j (BitVec.ofNat 32 st)) { x with clk := k })))

/-- ELEAVE (R99, R289). -/
def execEleave (o : Ops) (s : State) : Host.Outcome State Fault Refusal :=
  s.withLane (fun g b x =>
    s.onceLane o [] [] g b x (fun _ _ =>
      match s.team? x.team with
      | none => s
      | some tm =>
        if tm.ensemble.isSome && s.allocBusy tm x.team then s.park g b .leave
        else (s.leaveEnsemble x.team).goesOn g b (fun x => x)))

/-! ### Mailboxes (R72, R73, R290) -/

/-- The place of a lane group in the arbitration of R73: its slice, 6 to 11 on the upper cluster, then its index. -/
def State.mailOrder (s : State) (x : Group) : Nat := s.recSlice x * 32 + x.index

/-- A mailbox instruction is put to arbitration; the slot waits for the cycle that performs it, and is parked only when that finds
it blocked (R290). -/
def State.mailIssue (s : State) (o : Ops) (op : MbOp) : Host.Outcome State Fault Refusal :=
  s.withLane (fun g b x =>
    let puts := op == .put || op == .write
    let srcs : List Named := if puts then [(.src64, o.a)] else []
    let dst : List Named := if puts then [] else [(.dst64, o.d)]
    s.onceLane o srcs dst g b x (fun l ws =>
      match s.team? x.team with
      | none => s
      | some t =>
        if t.requests.any (fun r => r.agent == Agent.group g && r.slot == b) then s
        else if s.memHeld g x then s.park g b .memOrder [0]
        else
          let k := Clock.tick x.clk x.uid
          let r : MbReq := { agent := .group g, slot := b, order := s.mailOrder x, op := op, mb := o.c,
                             value := if puts then BitVec.ofNat 64 (x.read .src64 o.a l 0) else 0, d := o.d, lanes := lanesMask ws, clk := k }
          let s := s.setTeam x.team { t with requests := t.requests ++ [r] }
          s.park g b .mailbox))

/-- MBGET (R72, R290). -/
def execMbget (o : Ops) (s : State) : Host.Outcome State Fault Refusal := s.mailIssue o .get
/-- MBPUT (R72, R290). -/
def execMbput (o : Ops) (s : State) : Host.Outcome State Fault Refusal := s.mailIssue o .put
/-- MBR (R72, R290). -/
def execMbr (o : Ops) (s : State) : Host.Outcome State Fault Refusal := s.mailIssue o .read
/-- MBW (R72, R290). -/
def execMbw (o : Ops) (s : State) : Host.Outcome State Fault Refusal := s.mailIssue o .write

/-! ### Remote put and arrivals (R113 to R115, R291, R292) -/

/-- The team that a target slot of RPUT names (R113), with the checks of R88 orders 1 and 2. Slot 15 reaches any group of the PAIR
team, one on the sender's own cluster too (DESIGN CHOICE [101]). -/
def State.rputTeam (s : State) (x : Group) (slot : Nat) : Team ⊕ Check :=
  match s.team? x.team with
  | none => .inr { rank := 1, cause := 0x01, detail := 0 }
  | some tm =>
    if slot = 0 then .inl tm
    else if slot = 15 then if tm.pair then .inl tm else .inr { rank := 1, cause := 0x01, detail := 0 }
    else
      match s.memberOf x tm (slot - 1) with
      | .inr t => .inl t
      | .inl .revoked => .inr { rank := 2, cause := 0x05, detail := 2 }
      | .inl _ => .inr { rank := 2, cause := 0x05, detail := 1 }

/-- The resident group of an index in a team, if it has not exited. -/
def State.groupOf (s : State) (tk index : Nat) : Option Nat :=
  ((s.groupsOf tk).find? (fun p => p.2.index == index)).map Prod.fst

/-- RPUT sent (R113, R291): a release; each writing lane's value goes to the same lane of the target. -/
def State.rputSend (s : State) (o : Ops) (g : Nat) (b : Bool) (x : Group) (t : Team) (index : Nat) (ws : List Nat)
    (waiting standIn : Bool) (id : Nat) : State :=
  let k := Clock.tick x.clk x.uid
  let target := (s.groupOf (teamKey t.ckey t.handle) index).bind (fun q => (s.group? q).map Group.uid)
  let r : Rput := { id := id, sender := x.uid, launch := x.launch, srcCluster := x.ckey, target := target,
                    reg := 224 + o.c % 16, values := ws.map (fun j => (j, BitVec.ofNat 32 (x.read .src32 o.a j 0))), clk := k,
                    team := x.team, via := if 1 ≤ o.c / 16 ∧ o.c / 16 ≤ 8 then some (teamKey t.ckey t.handle) else none,
                    waiting := waiting, standIn := standIn }
  let s := { s with rputs := s.rputs ++ [r], nextId := id }
  let s := if standIn then s else s.count x.launch x.ckey 3 ws.length true
  let s := s.goesOn g b (fun x => { x with clk := k })
  s.release g

/-- The tests before RPUT: the values of every writing lane, the index of the lowest (R274, R291). -/
def State.rputGate (s : State) (o : Ops) (g : Nat) (b : Bool) (x : Group) (ws : List Nat) : Gate :=
  (s.gate g b x ws false [(.src32, o.a)] []).both (s.gate g b x (ws.take 1) false [(.src32, o.b)] [])

/-- RPUT that has passed its tests (R113): it does not wait for earlier accesses, its arrival does. Under stand-in execution it is a
compared operation (R180, R186). In replay it is sent again: its landing is part of the team's own state, which the restore
took back (DEDUCED [40]). -/
def State.rputIssue (s : State) (o : Ops) (g : Nat) (b : Bool) (x : Group) (l : Nat) (ws : List Nat) : State :=
  let index := x.read .src32 o.b l 0
  match s.rputTeam x (o.c / 16) with
  | .inr c => s.stopOnce g b x l c 0
  | .inl t =>
    if t.ngroups ≤ index then s.stopOnce g b x l { rank := 1, cause := 0x01, detail := 7 } 0
    else if s.memHeld g x then s.park g b .memOrder [0]
    else
      let id := s.nextId + 1
      if s.isPaired x then
        let accs := ws.map (fun j => lanePartOf j index 4 true (x.read .src32 o.a j 0) o.c)
        let sig := signature 8 (lanesMask ws) accs .grp .plain
        match s.compareAt x sig with
        | .stall => s
        | .diverged => s.endLaunch x.launch 0x0B 0
        | .replayed _ => (s.rputSend o g b x t index ws false true id).noteCompared g
        | _ => ((s.enterCompare x 8 sig id).rputSend o g b x t index ws true (s.isStandIn x) id).noteCompared g
      else s.rputSend o g b x t index ws false false id

/-- RPUT (R113, R291). -/
def execRput (o : Ops) (s : State) : Host.Outcome State Fault Refusal :=
  s.withLane (fun g b x =>
    let ws := x.writers b o.p o.pn
    s.gated g b x (s.rputGate o g b x ws)
      (match ws with
       | [] => (s.setGroup g (x.advance b)).noteIssue g b []
       | l :: _ =>
         match x.consumers ws [(.src32, o.a)] ++ x.consumers [l] [(.src32, o.b)] with
         | [] => s.rputIssue o g b x l ws
         | dying => s.consumeAt g dying))

/-- The arrivals that a WAITA of n accounts for: their clocks, and what is left (R114, R125). -/
def takeArrivals (l : List (Nat × Clock)) (n : Nat) : Clock × List (Nat × Clock) :=
  match l with
  | [] => ([], [])
  | (m, c) :: t =>
    if n = 0 then ([], (m, c) :: t)
    else if m ≤ n then
      let r := takeArrivals t (n - m)
      (Clock.join c r.1, r.2)
    else (c, (m - n, c) :: t)

/-- WAITA (R114, R292). -/
def execWaita (o : Ops) (s : State) : Host.Outcome State Fault Refusal :=
  s.withLane (fun g b x =>
    s.onceLane o [(.src32, o.a)] [] g b x (fun l _ =>
      let n := x.read .src32 o.a l 0
      if n = 0 ∨ 65535 < n then s.stopOnce g b x l { rank := 1, cause := 0x01, detail := 7 } 0
      else if x.arrivals.toNat < n then s.park g b .arrivals [n]
      else
        s.goesOn g b (fun x =>
          let r := takeArrivals x.arrClk n
          { x with arrivals := x.arrivals - BitVec.ofNat 32 n, arrClk := r.2, clk := Clock.join x.clk r.1 })))

/-! ### Requests and batches (R102, R107, R109, R180, R296, R297) -/

/-- Whether a request writes outside the team's own slot-0 allocation (R180). -/
def writesOutside (w : List DWord) : Bool :=
  let word (i : Nat) : Nat := ((w[i]?).getD 0).toNat
  let kind := word 3 / 2 ^ 52 % 16
  if kind = 1 then decide (word 1 % 2 ^ 24 / 2 ^ 20 ≠ 0)
  else if kind = 2 then true
  else word 3 / 2 ^ 49 % 2 == 0 || decide (word 1 / 2 ^ 20 ≠ 0)

/-- The four words of a request in a scratchpad, as a reader on the lane path reads them, a granule at a time (R91). -/
def State.requestWords (s : State) (rd : Reader) (ck a : Nat) : List DWord :=
  [a, a + 16].flatMap (fun a =>
    let v := s.peek rd (.spad ck a) 16
    [BitVec.ofNat 64 v, BitVec.ofNat 64 (v / 2 ^ 64)])

/-- A group's next word as a reader on the lane path. -/
def Group.reader (x : Group) : Reader := { path := .lane, clk := Clock.join (Clock.tick x.clk x.uid) x.scClk }

/-- Whether a KICK's requests write outside the allocation, so that it is compared (R180). -/
def State.kickOutside (s : State) (o : Ops) (b : Bool) (x : Group) : Bool :=
  match x.writers b o.p o.pn with
  | [] => false
  | l :: _ =>
    match s.spadCheck x (x.read .src32 o.a l 0) (32 * o.c) 32 false with
    | .inl (.spad ck off) => (List.range o.c).any (fun i => writesOutside (s.requestWords x.reader ck (off + 32 * i)))
    | _ => false

/-- KICK (R107, R296): the request words are read on the lane path, one granule at a time (R91), into the engine's queue,
and the requests join the open batch; the group is parked until its earlier accesses are performed. An address that names a slot
other than 0 is accepted where R88 accepts it (DESIGN CHOICE [103]). -/
def execKick (o : Ops) (s : State) : Host.Outcome State Fault Refusal :=
  s.withLane (fun g b x =>
    s.onceLane o [(.src32, o.a)] [] g b x (fun l ws =>
      let addr := x.read .src32 o.a l 0
      if s.memHeld g x || s.undoneBefore g x then s.park g b .kick [0, 3]
      else
        match s.spadCheck x addr (32 * o.c) 32 false with
        | .inr c => s.stopOnce g b x l c addr
        | .inl (.spad ck off) =>
          let accs := (List.range (2 * o.c)).map (fun i =>
            (l, ({ space := ck + 1, addr := off + 16 * i, size := 16, write := false, atomic := false, scope := .grp } : Acc)))
          match s.raced x accs with
          | r :: rs => s.raceStop g b (x.slot b).pc (r :: rs) (fun _ => addr)
          | [] =>
            let reqs := (List.range o.c).map (fun i => s.requestWords x.reader ck (off + 32 * i))
            let s := s.looked x.reader (.spad ck off) (32 * o.c)
            let id := s.nextId + 1
            let kick (waits standIn : Bool) : State :=
              let k := Clock.tick x.clk x.uid
              let s := s.remember x (Sp.getD k x.uid 0) x.rels (accs.map Prod.snd)
              let rs : List Request := (List.range o.c).map (fun i =>
                let w := reqs.getD i []
                { id := id + i, group := x.uid, team := x.team, launch := x.launch, part := x.part, cluster := x.cluster, words := w,
                  at_ := addr % 2 ^ 20 + 32 * i, standIn := standIn && writesOutside w, waiting := waits && writesOutside w, clk := k })
              let s := { s with nextId := s.nextId + o.c }
              let s := s.modCluster x.ckey (fun c => { c with reqQ := c.reqQ ++ rs })
              s.goesOn g b (fun x =>
                { x with clk := k, openBatch := { open_ := x.openBatch.open_ ++ rs.map Request.id, any := true } })
            if s.isPaired x && reqs.any writesOutside then
              let parts := reqs.map (fun w => lanePartOf l addr 32 true ((w.headD 0).toNat + 2 ^ 64 * ((w[1]?).getD 0).toNat)
                (((w[2]?).getD 0).toNat + 2 ^ 64 * ((w[3]?).getD 0).toNat))
              let sig := signature 9 (lanesMask ws) parts .grp .plain
              match s.compareAt x sig with
              | .stall => s
              | .diverged => s.endLaunch x.launch 0x0B 0
              | .replayed _ => (kick false true).noteCompared g
              | _ => ((kick true (s.isStandIn x)).enterCompare x 9 sig id).noteCompared g
            else kick false false
        | .inl _ => s))

/-- Closed batches that are outstanding (R109). -/
def Group.outstanding (x : Group) : Nat := (x.batches.filter (fun k => !k.open_.isEmpty)).length

/-- The open batch closed, when it holds a request (R109). -/
def Group.closeBatch (x : Group) : Group :=
  if x.openBatch.any then
    { x with batches := (x.batches.filter (fun k => !k.open_.isEmpty)) ++ [x.openBatch], openBatch := {} }
  else x

/-- To close the open batch would make a sixteenth outstanding one (R109): one that is delivered already is not outstanding. -/
def Group.sixteenth (x : Group) : Bool := x.openBatch.any && !x.openBatch.open_.isEmpty && decide (15 ≤ x.outstanding)

/-- What a wait for batches waits for: room for one more (16), or, for WAITB, at most n of them. -/
def Group.batchMet (x : Group) (n : Nat) : Bool := if n = 16 then !x.sixteenth else decide (x.outstanding ≤ n)

/-- BCLOSE (R109, R297). -/
def execBclose (o : Ops) (s : State) : Host.Outcome State Fault Refusal :=
  s.withLane (fun g b x =>
    s.onceLane o [] [] g b x (fun _ _ => if x.sixteenth then s.park g b .batch [16] else s.goesOn g b Group.closeBatch))

/-- What the requests of a group's batches that are waited out have delivered crosses to the lane path (R129). -/
def State.waitedOut (s : State) (x : Group) (time : Nat) : State :=
  let left := x.openBatch.open_ ++ x.batches.flatMap Batch.open_
  s.cross .lane x.uid time (fun e => e.path.engine && e.req != 0 && e.uid == x.uid && !left.contains e.req)

/-- WAITB (R109, R297): BCLOSE first, once, then the wait for at most n outstanding batches. A slot that waits for them has closed. -/
def execWaitb (o : Ops) (s : State) : Host.Outcome State Fault Refusal :=
  s.withLane (fun g b x =>
    s.onceLane o [] [] g b x (fun _ _ =>
      let closed := (x.slot b).wants == [o.c]
      if !closed && x.sixteenth then s.park g b .batch [16]
      else
        let y := if closed then x else x.closeBatch
        if y.outstanding ≤ o.c then
          let k := Clock.tick x.clk x.uid
          (s.waitedOut y (Sp.getD k x.uid 0)).goesOn g b (fun x => { (if closed then x else x.closeBatch) with clk := k })
        else (s.setGroup g y).park g b .batch [o.c]))

/-! ### Registers that grow and shrink (R19, R116, R298, R418) -/

/-- The words of each physical lane that an allocation uses (R19). -/
def regWords (width n : Nat) : Nat := if width = 64 then 2 * n else n

/-- Whether a group's lanes lie in a half of its slice (R19). -/
def Group.usesHalf (x : Group) (h : Nat) : Bool := x.width != 16 || x.half == h

/-- The register words used in a half of a slice by the groups a test picks; an evicted group uses none (R418). -/
def State.wordsUsed (s : State) (sk h : Nat) (pick : Group → Bool) : Nat :=
  s.groups.foldl (fun n p => if p.2.skey == sk && p.2.usesHalf h && !p.2.evicted && pick p.2 then n + regWords p.2.width p.2.nregs else n) 0

/-- Whether a group's allocation may become n (R19). -/
def State.mayGrow (s : State) (x : Group) (n : Nat) : Bool :=
  [0, 1].all (fun h => !x.usesHalf h ||
    decide (s.wordsUsed x.skey h (fun _ => true) + regWords x.width n ≤ 1536 + (if x.evicted then 0 else regWords x.width x.nregs)))

/-- A register-grow wait: the group and slot, the allocation it asks for, and its place among such waits. -/
structure Grower where
  g : Nat
  slotB : Bool
  x : Group
  n : Nat
  at_ : Nat
deriving DecidableEq, Repr

/-- A group waits on RGROW (R418): a slot does, and the group is parked with it. -/
def Group.growing (x : Group) : Bool :=
  x.mayPark && ((x.slotA.live && x.slotA.wait == .grow) || (x.slotB.live && x.slotB.wait == .grow))

/-- The register-grow waits of a slice, the oldest first, ties to the lower group slot. -/
def State.growers (s : State) (sk : Nat) : List Grower :=
  let of_ (p : Nat × Group) (b : Bool) : List Grower :=
    let v := p.2.slot b
    if v.live && v.wait == .grow then [{ g := p.1, slotB := b, x := p.2, n := v.wants.headD 0 % 2 ^ 81, at_ := v.waitAt }] else []
  sortBy (fun w => w.at_ * 32 + w.x.gslot) ((s.groups.filter (fun p => p.2.skey == sk)).flatMap (fun p => of_ p false ++ of_ p true))

/-- Whether a waiter's request fits in the free words and what groups that do not wait on RGROW hold (R418). -/
def State.couldGrow (s : State) (x : Group) (n : Nat) : Bool :=
  [0, 1].all (fun h => !x.usesHalf h ||
    decide (s.wordsUsed x.skey h Group.growing + (regWords x.width n - regWords x.width x.nregs) ≤ 1536))

/-- A waiter's request fits now; an evicted group's is for its re-admission (R19, R418). -/
def State.growFits (s : State) (w : Grower) : Bool := !w.x.evicted && s.mayGrow w.x w.n

/-- The oldest wait of a slice whose request fits is the one that goes on (DESIGN CHOICE [102]). -/
def State.growTurn (s : State) (g : Nat) (x : Group) (b : Bool) : Bool :=
  match (s.growers x.skey).find? s.growFits with | none => false | some w => w.g == g && w.slotB == b

/-- A waiter granted: its RGROW is issued, its allocation grows, and its slot goes on (R116, R418). -/
def State.grantGrow (s : State) (w : Grower) : State :=
  (s.modGroup w.g (fun x =>
    ({ x with nregs := w.n, evicted := false }.modSlot w.slotB (fun v => { v with wants := [], waitAt := 0 })).advance w.slotB)).noteIssue w.g w.slotB []

/-- A waiter evicted (R418): its registers go to its spill slot; a context area that is not mapped loses the launch. -/
def State.evict (s : State) (g : Nat) : State :=
  match s.group? g with
  | none => s
  | some x =>
    match s.launch? x.launch with
    | none => s
    | some l =>
      match s.writeVirtual x.part (l.area + s.spillOffset x l) { x with evicted := true }.spillSlot with
      | none => s.endLaunch x.launch 0x09 0
      | some s =>
        let (id, s) := s.fresh
        s.modGroup g (fun x => { x with evicted := true, evictedAt := id, onStage := false, latches := if x.onStage then [] else x.latches })

/-- Evictions, youngest wait first, until the oldest waiter's request fits (R418). -/
def State.evictUntil (s : State) (o : Grower) : List Grower → State
  | [] => s
  | w :: t =>
    match s.group? o.g with
    | none => s
    | some x =>
      if s.mayGrow x o.n || w.g == o.g then s
      else State.evictUntil (if (s.group? w.g).any (fun y => y.growing && !y.evicted) then s.evict w.g else s) o t

/-- Waiters granted in order of age while their requests fit (R418). -/
def State.grantAll (s : State) : List Grower → State
  | [] => s
  | w :: t =>
    match s.group? w.g with
    | none => State.grantAll s t
    | some x => if x.evicted then State.grantAll s t else if s.mayGrow x w.n then State.grantAll (s.grantGrow w) t else s

/-- The test for a register-grow deadlock of a slice, and its resolution (R418). -/
def State.growTest (s : State) (sk : Nat) : State :=
  match (s.growers sk).filter (fun w => !w.x.evicted && w.x.growing) with
  | [] => s
  | o :: rest =>
    if (o :: rest).any (fun w => s.couldGrow w.x w.n) then s
    else
      let s := s.evictUntil o (o :: rest).reverse
      s.grantAll (s.growers sk)

/-- RGROW (R116, R298): it goes on when the new size is admitted, else it waits; the wait tests for a deadlock (R418). -/
def execRgrow (o : Ops) (s : State) : Host.Outcome State Fault Refusal :=
  s.withLane (fun g b x =>
    s.onceLane o [] [] g b x (fun _ _ =>
      if o.c ≤ x.nregs then s.goesOn g b (fun x => x)
      else if s.mayGrow x o.c then
        s.goesOn g b (fun x => { x with nregs := o.c }.modSlot b (fun v => { v with wants := [], waitAt := 0 }))
      else (s.waitOn g b .grow [2 ^ 81 + o.c]).growTest x.skey))

/-- A group's allocation cut to n: the registers above are lost. -/
def Group.shrink (x : Group) (n : Nat) : Group :=
  { x with nregs := n, regs := x.regs.filter (fun p => decide (p.1 / 64 < n)), latent := x.latent.filter (fun k => decide (k / 64 < n)) }

/-- A mailbox word of the group that waits for its cycle and would write a register that is freed is issued again, and stops there
(R298). -/
def State.reissueMail (s : State) (g : Nat) (x : Group) (n : Nat) : State :=
  match s.team? x.team with
  | none => s
  | some t =>
    let lost (r : MbReq) : Bool := r.agent == Agent.group g && (r.op == .get || r.op == .read) && decide (n < r.d + 2)
    if !t.requests.any lost then s
    else (t.requests.filter lost).foldl (fun s r =>
      s.modGroup g (fun y => (y.modSlot r.slot (fun v => { v with wait := .run })).unpark (s.sliceNow y)))
      (s.setTeam x.team { t with requests := t.requests.filter (fun r => !lost r) })

/-- RSHRINK (R116, R298): it waits for the replies to registers that it frees, those of MXCHK among them; then waiters of its slice
may go on. -/
def execRshrink (o : Ops) (s : State) : Host.Outcome State Fault Refusal :=
  s.withLane (fun g b x =>
    s.onceLane o [] [] g b x (fun _ _ =>
      let freed := (List.range 240).filter (fun r => decide (o.c ≤ r) && s.awaited g x r)
      let checks := (s.cluster x.ckey).mxQ.any (fun m => m.agent == Agent.group g && m.uid == x.uid && decide (o.c ≤ m.d) &&
        (match m.op with | .chk _ _ => true | _ => false))
      if x.nregs ≤ o.c then s.goesOn g b (fun x => x)
      else if !freed.isEmpty then s.park g b .reply freed
      else if checks then s.park g b .reply
      else ((s.goesOn g b (fun x => x.shrink o.c)).reissueMail g x o.c).growTest x.skey))

/-! ### The deterministic heap (R118, R299) -/

/-- The heap of a launch: its base and the slice of a team; none when it gives no heap (R387). -/
def Launch.heap (l : Launch) : Option (Nat × Nat) :=
  let word (i : Nat) : Nat := ((l.desc[i]?).getD 0).toNat
  if word 0 / 2 ^ 60 % 2 = 1 then some (word 5 % 2 ^ 56, word 3 / 2 ^ 24 % 2 ^ 24 * 16) else none

/-- One lane's request (R118): the address, or 0, and what of its part is used then. -/
def heapServe (l : Launch) (tm : Team) (x : Group) (lane bytes : Nat) : Nat × Nat :=
  let used := Sp.getD x.heapUsed lane 0
  match l.heap with
  | none => (0, used)
  | some (h, sl) =>
    let part := sl / (tm.ngroups * x.width)
    let n := (bytes + 15) / 16 * 16
    if bytes = 0 ∨ 2 ^ 24 < bytes ∨ part < used + n then (0, used)
    else (h + tm.q * sl + x.index * (sl / tm.ngroups) + lane * part + used, used + n)

/-- DALLOC (R118, R299). -/
def execDalloc (o : Ops) (s : State) : Host.Outcome State Fault Refusal :=
  s.withLane (fun g b x =>
    let ws := x.writers b o.p o.pn
    s.gated g b x (s.gate g b x ws false [(.src32, o.a)] [(.dst64, o.d)])
      (match x.consumers ws [(.src32, o.a)] with
       | l :: ls => s.consumeAt g (l :: ls)
       | [] =>
         match s.launch? x.launch, s.team? x.team with
         | some l, some tm =>
           s.goesOn g b (fun x0 => ws.foldl (fun y j =>
             let r := heapServe l tm y j (x.read .src32 o.a j 0)
             { (y.setRegs o.d j r.1 2) with heapUsed := Sp.set y.heapUsed j r.2 }) x0)
         | _, _ => s))

/-! ### CALLI.m (R246) -/

/-- CALLI.m: the targets come by a plain load of device memory; the slot stays at the word until they arrive. -/
def execCalliM (o : Ops) (unit : Nat) (s : State) : Host.Outcome State Fault Refusal :=
  s.withLane (fun g b x =>
    let waits := s.flight.any (fun m => m.agent == Agent.group g && m.uid == x.uid && m.slot == b && m.kind == .target)
    if waits then s
    else
      let p : MemPlan :=
        { srcs := [(.src64, o.a)], spad := false, kind := .target, d := some 241,
          lanes := (x.writers b 0 false).map (fun j => lanePartOf j (x.address false o.a (memOffset o.c unit) j) 4 false 0 0) }
      let t := s.memLane p g b x
      if t.flight.length = s.flight.length then t
      else (t.modGroup g (fun y => y.modSlot b (fun v => { v with pc := (x.slot b).pc, past := (x.slot b).past }))).park g b .reply)

end Sys2Proof.Machine
end

