-- ==== Sys2Proof/Machine/Home.lean ====
section
/-! DEFINITION. What happens to an access after its issue: its place at its home and the verdict on a race (R136), the
reply (R275), the acknowledgement (R397); RPUT arrivals (R113 to R115), the mailbox cycle (R73), the end of a linked
chain (R38), the events posted late (R76), and register-grow waiters re-admitted (R418). -/

namespace Sys2Proof.Machine

/-! ### Operations in flight -/

def State.op? (s : State) (id : Nat) : Option MemOp := s.flight.find? (fun (m : MemOp) => m.id == id)
def State.setOp (s : State) (op : MemOp) : State := { s with flight := s.flight.map (fun (m : MemOp) => if m.id == op.id then op else m) }
def State.dropOp (s : State) (id : Nat) : State := { s with flight := s.flight.filter (fun (m : MemOp) => m.id != id) }

/-- The operations issued before one (they stand before it). -/
def State.before (s : State) (id : Nat) : List MemOp := s.flight.takeWhile (fun (m : MemOp) => m.id != id)

/-- Two operations touch a byte in common. -/
def MemOp.meets (a b : MemOp) : Bool := a.lanes.any (fun x => b.lanes.any (fun y => x.meets y))

/-- The group of an operation, while it is resident. -/
def State.opGroup (s : State) (op : MemOp) : Option (Nat × Group) :=
  match op.agent with
  | .group g => (s.group? g).bind (fun x => if x.uid = op.uid then some (g, x) else none)
  | _ => none

/-- An `.ord` operation finds a slot in the order buffer of each of its homes that is this device (R438). -/
def State.ordRoom (s : State) (op : MemOp) : Bool :=
  s.ordSlots.contains op.launch || decide (s.ordSlots.length < 16) || op.lanes.all (fun a => match a.place with | .dev _ => false | _ => true)

/-- Whether an operation may take its place at its home now: earlier accesses of its agent to a byte of it are performed
(R121), and so are those of others that happen before it (R130); for one that releases all of its agent's, for an atomic write those
before its last release fence (R277, R285); a compared one is confirmed, and a pair's go in program order (R181, R186); an `.ord` one
has a slot of the home's order buffer (R438). -/
def State.homeReady (s : State) (op : MemOp) : Bool :=
  let prior := (s.before op.id).filter (fun m => m.agent == op.agent && m.uid == op.uid && !m.performed)
  !op.performed && !op.compared
    && !prior.any (fun m => orderReleases op.order || decide (m.id ≤ op.after) || m.meets op)
    && !s.flight.any (fun m => !m.performed && m.uid != op.uid && Clock.has op.clk m.uid m.time && m.meets op)
    && (op.twin.isNone || !prior.any (fun m => m.counter != 0))
    && (!op.ord || s.ordRoom op)

/-- The lanes that go together: those asked for, and those at the same place (R281); all of them for a verdict (R136). -/
def MemOp.together (op : MemOp) (lanes : DWord) (a : LaneAcc) : Bool :=
  !op.judged || laneBit lanes a.lane || op.lanes.any (fun b => laneBit lanes b.lane && b.place == a.place)

/-- The ordinals of a group's `.ord` contributions before one issue that is taken back (R284). -/
def Group.ordBack (x : Group) (ls : List (Nat × Nat)) : Group :=
  { x with ordUsed := ls.foldl (fun l (p : Nat × Nat) => l.map (fun e => if e.1 == p.1 && e.2.1 == p.2 then (e.1, e.2.1, e.2.2 - 1) else e)) x.ordUsed }

/-- A word that has not issued: its operation is gone, and its group stands at it (R136); its `.ord` contributions are not
counted (R438). -/
def State.unissue (s : State) (op : MemOp) (g : Nat) (x : Group) : State :=
  let s := (s.dropOp op.id).count op.launch (clusterKey op.part op.cluster) op.counter op.away false
  let y := { (x.goto op.slot op.pc) with issued := x.issued - 1, compared := if op.twin.isSome then x.compared - 1 else x.compared }
  let s := s.setGroup g (if op.ord then y.ordBack (op.lanes.map (fun a => (a.lane, s.ordPlace x a.addr))) else y)
  let s := if op.ord then s.modLaunch op.launch (fun l => { l with ordCount := l.ordCount - op.lanes.length }) else s
  match s.pairOf? x.team with
  | none => s
  | some p => s.modPair p.lead (fun q => { q with log := q.log.filter (fun e => !(e.group == y.index && e.ordinal == y.compared)) })

/-- A verdict that stops the group before the word (R136, R403): the access is not performed, and the word has not issued;
a lead's stop waits for its stand-in (R186). -/
def State.raceFound (s : State) (op : MemOp) (g : Nat) (x : Group) (rs : List (Nat × Access)) : State :=
  (s.unissue op g x).raceStop g op.slot op.pc rs (LaneAcc.addrOf op.lanes)

/-- The results of a lead's operation, by lane. -/
def MemOp.results (op : MemOp) : List (Nat × QWord) := op.lanes.map (fun (a : LaneAcc) => (a.lane, a.result))

/-- What a lead's performed operation gives its stand-in's copy and the replay log (R185, R186). -/
def State.serveTwin (s : State) (op : MemOp) : State :=
  match op.twin with
  | none => s
  | some t =>
    let give (m : MemOp) : MemOp :=
      { m with performed := true, compared := false, lanes := m.lanes.map (fun a =>
          match op.lanes.find? (fun b => b.lane == a.lane) with
          | some b => { a with done := true, result := b.result, poisoned := b.poisoned }
          | none => { a with done := true }) }
    let s := { s with flight := (s.flight.map (fun (m : MemOp) => if m.id == t then give m else m)).filter (fun (m : MemOp) => m.id != t || m.d.isSome) }
    match s.pairOf? op.team with
    | none => s
    | some p => s.modPair p.lead (fun q =>
        { q with log := q.log.map (fun (e : LogEntry) => if e.op == op.id then { e with result := op.results } else e) })

/-- Lanes of an operation performed, and what follows from it. -/
def State.perform (s : State) (op : MemOp) (lanes : DWord) : State :=
  let r := s.performLanes op (op.together lanes)
  let op' := { r.2 with judged := true }
  let s := r.1.setOp op'
  let s := match s.opGroup op with | none => s | some (_, x) => s.remember x op.time op.rels (op'.accs.map Prod.snd)
  if !op'.performed then s
  else
    let s := s.serveTwin op'
    let s := (if op'.d.isNone && (op'.counter = 0 || op'.away = 0) then s.dropOp op.id else s).reapAll.exitWaiting
    match s.opGroup op with | none => s | some (g, _) => (s.fenceSettle g).settles g

/-- HOME_ACCESS (R136, R281, R404): an access takes its place and is judged; without a race it is performed. -/
def execHomeAccess (id : Nat) (lanes : DWord) (s : State) : Host.Outcome State Fault Refusal :=
  .next (
    match s.op? id with
    | none => s
    | some op =>
      if !s.homeReady op || (op.judged && !op.lanes.any (fun a => laneBit lanes a.lane)) then s
      else if op.judged then s.perform op lanes
      else
        match s.opGroup op with
        | none => s.perform op lanes
        | some (g, x) =>
          match s.raced x op.accs with
          | [] => (if op.kind.releases op.scope op.order then s.release g else s).perform op lanes
          | rs => s.raceFound op g x rs)

/-! ### Replies (R275, R397) -/

/-- The clock a group takes from a reply, or keeps for a later fence (R125). -/
def State.replyClock (s : State) (op : MemOp) (x : Group) : Group :=
  if orderAcquires op.order && op.kind.reads then { x with clk := Clock.join x.clk (s.taken op.scope op.who op.acq) }
  else if op.atomic then { x with acqPend := x.acqPend ++ op.acq } else x

/-- The registers a reply writes, lane by lane; a poisoned part writes nothing (R275). The one update of an ARRIVE answers
every writing lane (R294). -/
def MemOp.writeRegs (op : MemOp) (x : Group) (d : Nat) : Group :=
  op.lanes.foldl (fun y a =>
    if a.poisoned then y
    else
      let ls : List Nat := match op.kind with | .arrive m => lanesOf m | _ => [a.lane]
      ls.foldl (fun y j => y.setRegs d j a.result.toNat op.dstRegs) y) x

/-- The lanes of an operation that received poisoned data, which die (R84, R90). -/
def MemOp.deadLanes (op : MemOp) : List Nat := (op.lanes.filter (fun a => a.poisoned)).map LaneAcc.lane

/-- The lanes of a CALLI.m that are still in its slot, with the targets that were loaded (R246). -/
def MemOp.targets (op : MemOp) (x : Group) : List (Nat × Nat) :=
  (op.lanes.filter (fun a => laneBit (x.slot op.slot).mask a.lane && !a.poisoned)).map (fun a => (a.lane, a.result.toNat))

/-- The targets of a CALLI.m have come, its lanes on poisoned lines have died: the rest is grouped (R246). -/
def State.calliReply (s : State) (op : MemOp) (g : Nat) : State :=
  match s.group? g with
  | none => s
  | some y =>
    match op.targets y with
    | [] => s
    | ts =>
      let y := (y.modSlot op.slot (fun v => { v with wait := .run })).unpark (s.sliceNow y)
      (s.setGroup g y).calliTo g op.slot y ts false

/-- A reply written to a group: registers or call targets, the lanes that die, then a fence and an event that waited for it. -/
def State.replyGroup (s : State) (op : MemOp) (g : Nat) (x : Group) (d : Nat) : State :=
  let s := match op.kind with | .target => s | _ => s.setGroup g (s.replyClock op (op.writeRegs x d))
  let s := op.deadLanes.foldl (fun s l => s.consume g l) s
  let s := match op.kind with | .target => s.calliReply op g | _ => s
  (s.fenceSettle g).settles g

/-- A reply to a group that has exited writes what its registers hold, until its slot is taken (R275). -/
def State.lateReply (s : State) (op : MemOp) (d : Nat) : State :=
  match op.agent, op.kind with
  | .group _, .target => s
  | .group g, _ => { s with oldGroups := Sp.modify s.oldGroups g (fun x => if x.uid = op.uid then op.writeRegs x d else x) }
  | _, _ => s

/-- What a reply gives a prompter context: the value to its register; poisoned data is a loss of a generator's context
(R183, R331, R333, R334); for the other contexts it is a partition-fatal loss of their state (R176). -/
def State.replyCtx (s : State) (op : MemOp) (c : Nat) : State :=
  match s.ctx? c, op.lanes with
  | some x, a :: _ =>
    if x.uid ≠ op.uid then s
    else if a.poisoned then
      if x.num < 6 then s.ctxError c x else s.fatal x.part 0
    else
      let ext : Nat :=
        match op.kind with
        | .load t | .atom _ t => if t.signed then wrapOf 64 (signedOf (8 * t.bytes) a.result.toNat) else a.result.toNat % 2 ^ (8 * t.bytes)
        | _ => a.result.toNat
      let k : Clock := if orderAcquires op.order then s.taken op.scope op.who op.acq else []
      s.modCtx c (fun x =>
        { x with
          regs := match op.d with | some 0 => x.regs | none => x.regs | some d => Sp.put 0 x.regs d (BitVec.ofNat 64 ext),
          wait := if x.replyReg == op.d then .run else x.wait, replyReg := if x.replyReg == op.d then none else x.replyReg,
          clk := Clock.join x.clk k,
          acqPend := if orderAcquires op.order || !op.atomic then x.acqPend else x.acqPend ++ op.acq })
  | _, _ => s

/-- MEMORY_REPLY (R275): the reply of a performed access is written; the atomics counter falls (R397). -/
def execMemoryReply (id : Nat) (s : State) : Host.Outcome State Fault Refusal :=
  .next (
    match s.op? id with
    | none => s
    | some op =>
      match op.d with
      | none => s
      | some d =>
        if !op.performed then s
        else
          let s := (s.dropOp id).acked id
          let s := if op.standIn then s else s.count op.launch (clusterKey op.part op.cluster) op.counter op.away false
          match op.agent with
          | .ctx c => s.replyCtx op c
          | _ => match s.opGroup op with | none => s.lateReply op d | some (g, x) => s.replyGroup op g x d)

/-- STORE_ACK (R397): a store or RED that was performed away from its cluster is acknowledged. -/
def execStoreAck (id : Nat) (s : State) : Host.Outcome State Fault Refusal :=
  .next (
    match s.op? id with
    | none => s
    | some op =>
      if !op.performed || op.d.isSome then s
      else
        let s := (s.dropOp id).acked id
        if op.standIn then s else s.count op.launch (clusterKey op.part op.cluster) op.counter op.away false)

/-! ### RPUT arrivals (R113 to R115) -/

/-- The landing of an RPUT in its target: kept in live lanes below the extent of a group with 240 registers. -/
def Group.land_ (x : Group) (r : Rput) : Group :=
  let y :=
    if x.nregs < 240 then x
    else r.values.foldl (fun (y : Group) (p : Nat × Word) =>
      if laneBit x.deadMask p.1 || decide (x.extent ≤ p.1) then y else y.setReg r.reg p.1 p.2) x
  { y with arrivals := y.arrivals + BitVec.ofNat 32 r.values.length, arrClk := y.arrClk ++ [(r.values.length, r.clk)] }

/-- RPUT_ARRIVAL (R115): in the sender's issue order, after the accesses that its sender made before it are performed, since it
releases (R125, R130); registers first, then the counter. Every lane's value lands in one step, and a read of a landing register
returns what has landed last, where the spec lets each lane's value be the old or the new one until a WAITA accounts for it
(DESIGN CHOICE [121]). -/
def execRputArrival (id : Nat) (s : State) : Host.Outcome State Fault Refusal :=
  .next (
    match s.rputs.find? (fun r => r.id == id) with
    | none => s
    | some r =>
      let earlier := (s.rputs.takeWhile (fun q => q.id != id)).any (fun q => q.sender == r.sender && q.target == r.target)
      let pending := s.flight.any (fun (m : MemOp) => m.uid == r.sender && decide (m.id < r.id) && !m.performed)
      if r.waiting || earlier || pending then s
      else
        let s := { s with rputs := s.rputs.filter (fun (q : Rput) => q.id != id) }
        let s := if r.standIn then s else s.count r.launch r.srcCluster 3 r.values.length false
        let s := match s.groups.find? (fun p => some p.2.uid == r.target) with
          | none => s
          | some p => s.setGroup p.1 (p.2.land_ r)
        s.reapAll.exitWaiting)

/-! ### The mailbox cycle (R72, R73) -/

/-- Whether a request may take part in this cycle: its agent is there and not halted, and for a write what its group has done before,
which it releases, is performed (R125, R130). -/
def State.mailActive (s : State) (r : MbReq) : Bool :=
  match r.agent with
  | .group g => match s.group? g with
    | none => false
    | some x => s.running x.ckey && x.run == .active && x.holdsClear && !((r.op == .put || r.op == .write) && s.undone g x)
  | .ctx c => s.running (c / 8) && (s.ctx? c).isSome
  | _ => false

/-- The requests on one mailbox that proceed in a cycle (R73). -/
def mailProceed (full : Bool) (rs : List MbReq) : List MbReq :=
  let blocking := rs.find? (fun r => (r.op == .get && full) || (r.op == .put && !full))
  rs.filter (fun r => r.op == .read || r.op == .write || (match blocking with | none => false | some b => b.agent == r.agent && b.slot == r.slot))

/-- The mailbox after the cycle: the last writer's value stands; the bit is set by any write, else cleared by a get. -/
def mailAfter (m : Mailbox) (rs : List MbReq) : Mailbox :=
  let ws := rs.filter (fun r => r.op == .put || r.op == .write)
  match ws.getLast? with
  | some w => { value := w.value, full := true, clk := w.clk }
  | none => if rs.any (fun r => r.op == .get) then { m with full := false } else m

/-- What a request that proceeds does to its agent: the value read, the clock taken, and the next word. -/
def State.mailDone (s : State) (r : MbReq) (value : DWord) (clk : Clock) : State :=
  let reads := r.op == .get || r.op == .read
  match r.agent with
  | .group g =>
    match s.group? g with
    | none => s
    | some x =>
      let y := if reads then (lanesOf r.lanes).foldl (fun y j => y.setRegs r.d j value.toNat 2) x else x
      let y := { (y.advance r.slot) with clk := Clock.join (Clock.join y.clk r.clk) (if reads then clk else []) }
      let s := (s.setGroup g (y.unpark (s.sliceNow x))).noteIssue g r.slot []
      if reads then s else s.release g
  | .ctx c =>
    s.modCtx c (fun x =>
      { x with
        regs := if reads && r.d != 0 then Sp.put 0 x.regs r.d value else x.regs, pc := x.pc + 1, wait := .run, instrs := x.instrs + 1,
        clk := Clock.join (Clock.join x.clk r.clk) (if reads then clk else []) })
  | _ => s

/-- A lane group whose mailbox word does not proceed in a cycle is blocked: that parks it (R72, R290). -/
def State.mailBlocked (s : State) (r : MbReq) : State :=
  match r.agent with
  | .group g => s.park g r.slot .mailBlocked
  | _ => s

/-- One mailbox of a team for one cycle; number 16 is the tail (R72). -/
def State.mailCycle (s : State) (t mb : Nat) : State :=
  match s.team? t with
  | none => s
  | some tm =>
    let here_ := sortBy MbReq.order (tm.requests.filter (fun r => r.mb == mb && s.mailActive r))
    if mb = 16 then
      let s := s.setTeam t { tm with requests := tm.requests.filter (fun r => !here_.contains r) }
      here_.foldl (fun s r => s.mailDone r tm.tail []) s
    else
      let m := Sp.getD tm.mailboxes mb {}
      let go := mailProceed m.full here_
      let s := s.setTeam t { tm with mailboxes := Sp.put {} tm.mailboxes mb (mailAfter m go), requests := tm.requests.filter (fun r => !go.contains r) }
      let s := go.foldl (fun s r => s.mailDone r m.value m.clk) s
      (here_.filter (fun r => !go.contains r)).foldl State.mailBlocked s

/-- MAILBOX_CYCLE (R73): every mailbox of a team for one cluster cycle. -/
def execMailboxCycle (team : Nat) (s : State) : Host.Outcome State Fault Refusal :=
  .next ((List.range 17).foldl (fun s mb => s.mailCycle team mb) s)

/-! ### The end of a linked chain (R38, R41 to R43) -/

/-- The first entry that is reserved and not filled, filled: it is usable from a cycle of the consumer on. -/
def fillEntry (carry : DWord) (restart : Bool) (usable : Nat) (q : List HandOn) : List HandOn :=
  changeFirst (fun e => !e.filled) (fun _ => { filled := true, usable := usable, value := carry, restart := restart }) q

/-- The cycle of the consuming group's slice from which an entry that is filled now is usable: 2 cycles after the fill, 24 between
the clusters of a pair (R42). The last lane step ended with the cycle before the one that comes next. -/
def State.usableFrom (s : State) (team group : Nat) : Nat :=
  let here (i : Nat) : Option Group := (s.groupOf team i).bind s.group?
  let was (i : Nat) : Option Group := ((s.oldGroups.find? (fun p => p.2.team == team && p.2.index == i)).map Prod.snd)
  match here (group + 1) with
  | none => 0
  | some y => s.sliceNow y + (if ((here group).or (was group)).any (fun x => x.cluster == y.cluster) then 1 else 23)

/-- A chain that has ended: its outcome is the tail, a hand-on entry, or discarded. -/
def Team.chainEnd (t : Team) (i usable : Nat) (c : Chain) : Team :=
  let t := { t with chains := Sp.modify t.chains i (fun cs => cs.drop 1) }
  if c.last then { t with tail := c.carry }
  else if c.discard then t
  else { t with handOn := Sp.modify t.handOn i (fillEntry c.carry c.restart usable) }

/-- LINKED_CHAIN_END (R38): the oldest chain of a group whose last lane step is done; a stop that waited may post (R403). -/
def execLinkedChainEnd (team group : Nat) (s : State) : Host.Outcome State Fault Refusal :=
  .next (
    match s.team? team with
    | none => s
    | some t =>
      match Sp.getD t.chains group [] with
      | [] => s
      | c :: _ =>
        let g := s.groupOf team group
        let now := ((g.bind s.group?).map (fun x => s.sliceNow x)).getD c.endCycle
        if now < c.endCycle then s
        else
          let s := s.setTeam team (t.chainEnd group (s.usableFrom team group) c)
          match g with | none => s.reapTeam team | some g => s.settles g)

/-! ### Events posted late (R76, R186) -/

/-- A stand-in halted before the word at which its lead met a race; its own record is discarded (R186). -/
def State.haltStandIn (s : State) (g : Nat) (r : Rec) : State :=
  s.modGroup g (fun x =>
    { x with run := .halted, evHold := true, onStage := false, parked := false, latches := [], stop := some r, posted := true,
             events := x.events + 1 })

/-- Whether an operation of a pair is on its way that the restore has to wait for (R184): what was confirmed is performed
and answered, and requests that are not held back are finished. -/
def State.pairBusy (s : State) (p : PairOf) : Bool :=
  s.flight.any (fun (m : MemOp) => (m.team == p.lead || m.team == p.standIn) && (m.twin.isSome || (m.performed && m.counter != 0 && m.away != 0)))
    || s.clusters.any (fun c => (c.2.reqQ ++ c.2.work).any (fun r => (r.team == p.lead || r.team == p.standIn) && !r.waiting && !r.standIn))

/-- What is not confirmed is discarded and never performed (R184): its counters fall. The RPUTs of both copies go with it: the
restore takes back what has landed, sends again what was on its way at the cue point, and the copies send the rest again. -/
def State.discardUnconfirmed (s : State) (p : PairOf) : State :=
  let mine (t : Nat) : Bool := t == p.lead || t == p.standIn
  let uids := p.confirmed.flatMap (fun k => k.groups.map (fun (q : Nat × Group) => q.2.uid))
  let gone := s.flight.filter (fun (m : MemOp) => mine m.team && !m.standIn && m.counter != 0)
  let s := gone.foldl (fun s m => s.count m.launch (clusterKey m.part m.cluster) m.counter m.away false) s
  let lost := s.rputs.filter (fun (r : Rput) => uids.contains r.sender && !r.standIn)
  let s := lost.foldl (fun s r => s.count r.launch r.srcCluster 3 r.values.length false) s
  let ords := p.entries.foldl (fun n e => n + e.ord) 0
  let s := match s.team? p.lead with | none => s | some t => s.modLaunch t.launch (fun l => { l with ordCount := l.ordCount - ords })
  let drop (l : List Request) : List Request := l.filter (fun r => !(mine r.team && (r.waiting || r.standIn)))
  { s with
    flight := s.flight.filter (fun (m : MemOp) => !mine m.team),
    rputs := s.rputs.filter (fun (r : Rput) => !uids.contains r.sender),
    clusters := s.clusters.map (fun (c : Nat × Cluster) => (c.1, { c.2 with
      reqQ := drop c.2.reqQ, work := drop c.2.work,
      mxQ := c.2.mxQ.filter (fun m => !mine m.team), mxHeld := c.2.mxHeld.filter (fun m => !mine m.team) })) }

/-- The rollback of a pair, once nothing is on its way (R184). -/
def State.rollBackPair (s : State) (p : PairOf) : State := if s.pairBusy p then s else (s.discardUnconfirmed p).rollback p

/-- A race that the lead of a pair met: posted when both copies stand before the word; a stand-in that has issued it goes
back with its lead to the last confirmed cue point (R186). -/
def State.postAwaited (s : State) (p : PairOf) : State :=
  match p.awaited with
  | none => s
  | some (i, n, r) =>
    match s.groupOf p.lead i, s.groupOf p.standIn i with
    | some g, some h =>
      match s.group? g, s.group? h with
      | some x, some y =>
        if n < y.issued then s.rollBackPair p
        else if x.issued = n ∧ y.issued = n then
          let s := if y.stop.isNone then s.haltStandIn h r else s
          let s := if x.stop.isNone then s.modGroup g (fun x =>
            { x with run := .halted, evHold := true, onStage := false, parked := false, latches := [], stop := some r, posted := false,
                     events := x.events + 1 }) else s
          s.tryPost g
        else s
      | _, _ => s
    | _, _ => s

/-- EVENT_POST_DEFERRED (R76): a halted group posts when it may. -/
def execEventPostDeferred (g : Nat) (s : State) : Host.Outcome State Fault Refusal :=
  .next (
    match (s.group? g).bind (fun x => s.pairOf? x.team) with
    | some p => if p.awaited.isSome then s.postAwaited p else s.tryPost g
    | none => s.tryPost g)

/-! ### Register-grow waiters re-admitted (R418) -/

/-- RGROW_READMIT (R418): a slice in which a group waits for registers is tested for a deadlock, as the freeing of registers asks;
then its oldest eviction is restored and granted when its request fits the free words. -/
def execRgrowReadmit (cl sl : Nat) (s : State) : Host.Outcome State Fault Refusal :=
  .next (
    let s := s.growTest (cl * 6 + sl)
    match leastBy (fun (w : Grower) => w.x.evictedAt) ((s.growers (cl * 6 + sl)).filter (fun w => w.x.evicted)) with
    | none => s
    | some w => if s.mayGrow w.x w.n then (s.readSpill w.x).grantGrow w else s)

end Sys2Proof.Machine
end

