-- ==== Sys2Proof/Machine/Special.lean ====
section
/-! DEFINITION. Special registers (R18, R253 to R255). -/

namespace Sys2Proof.Machine

/-- team_id (R18). -/
def Team.ident (t : Team) : Nat := t.z % 2 ^ 16 * 2 ^ 40 + t.y % 2 ^ 16 * 2 ^ 24 + t.x % 2 ^ 24

/-- dead: the mask in bits 63:0, dead.read in bit 64 (R18). -/
def Group.deadReg (x : Group) : Nat := x.deadMask.toNat + x.deadRead.toNat * 2 ^ 64

/-- energy.mj of the group's kernel on its cluster (R255, R400). -/
def State.energyMj (s : State) (x : Group) : Nat :=
  match (s.kernelCtx x).bind s.ctx? with | none => 0 | some c => c.energy / 1000

/-- What SRD of a register gives a lane (R18, R253, R255). -/
def State.special (s : State) (x : Group) (num lane : Nat) : Nat :=
  match num with
  | 0 => lane
  | 1 => x.index
  | 2 => match s.team? x.team with | none => 0 | some t => t.ident
  | 3 => x.linePos lane
  | 4 => x.width
  | 5 => x.extent
  | 6 => x.lbm.toNat
  | 7 => x.deadReg
  | 8 => x.arrivals.toNat
  | 9 => (s.tailOf x).toNat
  | 10 => s.energyMj x
  | 11 => (s.cluster x.ckey).clock.toNat
  | 12 => x.cue.toNat
  | 13 => (x.flags lane).toNat
  | _ => 0

/-- A linked chain of the group has lane steps left: SRD and SWR wait for it (R254). -/
def State.chainPending (s : State) (x : Group) : Bool :=
  match s.team? x.team with | none => false | some t => !(Sp.getD t.chains x.index []).isEmpty

/-- SRD (R253): no latch is written. -/
def execSrd (o : Ops) (num : Nat) (s : State) : Host.Outcome State Fault Refusal :=
  s.withLane (fun g b x =>
    if s.chainPending x then s
    else s.aluLane { d := srdDst num, latch := false, f := fun j _ _ _ => (s.special x num j, Fl.none_) } o g b x)

/-- The group after SWR (R253): lbm from the lowest writing lane, dead.read cleared by a 1 in any writing lane (DESIGN CHOICE [120]),
fpflags per lane. -/
def Group.swr (x : Group) (num a : Nat) (ws : List Nat) : Group :=
  match num with
  | 6 => match ws with | [] => x | l :: _ => { x with lbm := BitVec.ofNat 64 (x.read .src64 a l 0) }
  | 7 => { x with deadRead := x.deadRead && !(ws.any (fun j => x.read .src32 a j 0 % 2 == 1)) }
  | 13 => ws.foldl (fun y j => y.setFlags j (BitVec.ofNat 32 (x.read .src32 a j 0))) x
  | _ => x

/-- SWR (R253). -/
def execSwr (o : Ops) (num : Nat) (s : State) : Host.Outcome State Fault Refusal :=
  s.withLane (fun g b x =>
    let ws := x.writers b o.p o.pn
    if s.chainPending x then s
    else s.groupIssue [] (if num = 6 then ws.take 1 else ws) [(swrSrc num, o.a)] [] g b x (fun y => y.swr num o.a ws))

end Sys2Proof.Machine
end

