-- ==== Sys2Proof/Machine/Slice.lean ====
section
/-! DEFINITION. The slice: stage and wings (R19, R20, R23, R396), waits that resolve (R22, R23), and the issue of the oldest
ready instruction (R24, R26 to R30, R38, R39). -/

namespace Sys2Proof.Machine

/-! ### Dependences that resolve (R22, R23) -/

/-- What a wait for memory waits for, by its number (R128, R277, R285, R286). -/
def State.orderMet (s : State) (g : Nat) (x : Group) (n : Nat) : Bool :=
  if n = 0 then !s.memHeld g x else if n = 1 then !s.undone g x else !s.undoneBefore g x

/-- Whether what a slot waits for has come about. -/
def State.resolved (s : State) (g : Nat) (x : Group) (b : Bool) : Bool :=
  let v := x.slot b
  match v.wait with
  | .reply => if v.wants.isEmpty then s.allDone g x && x.stepsDone (s.sliceNow x) else v.wants.all (fun r => !s.awaited g x r)
  | .grow => s.growTurn g x b
  | .memOrder | .kick => v.wants.all (s.orderMet g x)
  | .fullEmpty => v.wants.all (fun k => s.isFull k) && !s.olderWaiter v.waitAt v.wants
  | .barrier => v.wants.all (fun n =>
      let k := n % 2 ^ 80
      (BarWord.ofNat ((s.cluster (k / 2 / 2 ^ 20)).spad.read (k / 2 % 2 ^ 20) 16)).phase != (k % 2 == 1))
  | .handOn => match s.team? x.team with
    | none => false
    | some t => match t.handIn x.index (s.sliceNow x) with | .wait => false | _ => true
  | .arrivals => v.wants.all (fun n => decide (n ≤ x.arrivals.toNat))
  | .batch => v.wants.all x.batchMet
  | .path _ => v.wants.all (fun n => !s.pathBusy g x n)
  | .segment seg => match (s.ctxOf x).bind (fun c => Sp.get? c.segs seg) with
    | none => true
    | some sg => sg.state != .open_
  | .walk => !s.faultWaits (.group g) .lane && !s.walks.any (fun (p : Nat × List WalkReq) => p.2.any (fun w => w.agent == Agent.group g))
  | .leave => match s.team? x.team with | none => true | some t => !s.allocBusy t x.team
  | _ => false

/-- A slot that goes on to try its word again. -/
def Group.retry (x : Group) (b : Bool) : Group := x.modSlot b (fun v => { v with wait := .run })

/-- DEPENDENCE_RESOLVED (R23): a parked group on the stage is eligible again; one in the wings is ready from now on. -/
def execDependenceResolved (g : Nat) (s : State) : Host.Outcome State Fault Refusal :=
  .next (
    match s.group? g with
    | none => s
    | some x =>
      let y := if x.slotA.live && s.resolved g x false then x.retry false else x
      let y := if x.slotB.live && s.resolved g x true then y.retry true else y
      s.setGroup g (y.unpark (s.sliceNow x)))

/-! ### Stage and wings (R19, R20, R23) -/

/-- The groups of a slice. -/
def State.sliceGroups (s : State) (sk : Nat) : List (Nat × Group) := s.groups.filter (fun p => p.2.skey == sk)

/-- The oldest ready wings group of a slice; on a tie the lower group slot (R23, R396). -/
def State.nextReady (s : State) (sk : Nat) : Option (Nat × Group) :=
  leastBy (fun (p : Nat × Group) => p.2.readyAge * 32 + p.2.gslot) ((s.sliceGroups sk).filter (fun p => p.2.readyInWings))

/-- The parked stage group that leaves: parked longest, then the lower group slot (R23). -/
def State.leaver (s : State) (sk : Nat) : Option (Nat × Group) :=
  leastBy (fun (p : Nat × Group) => p.2.parkedAt * 32 + p.2.gslot)
    ((s.sliceGroups sk).filter (fun p => p.2.onStage && p.2.parked))

/-- A group that arrives on the stage: eligible 4 slice cycles later (R23). -/
def Group.arrive (x : Group) (now : Nat) : Group := { x with onStage := true, eligAt := now + 4 }

/-- Groups of a slice that have yielded leave the stage once their lane steps are done (R23, R250). -/
def State.leaveYielding (s : State) (sk : Nat) : State :=
  ((s.sliceGroups sk).filter (fun p => p.2.yielding && p.2.stepsDone (s.sliceNow p.2))).foldl (fun s p =>
    s.setGroup p.1 (p.2.leaves (s.sliceNow p.2))) s

/-- STAGE_SWAP (R23): a ready wings group takes a vacant stage slot, or that of a parked group once its lane steps are done, which
loses its latches (R20). -/
def execStageSwap (cl sl : Nat) (s : State) : Host.Outcome State Fault Refusal :=
  .next (
    let sk := cl * 6 + sl
    let s := s.leaveYielding sk
    match s.nextReady sk with
    | none => s
    | some r =>
      let now := s.sliceNow r.2
      if ((s.sliceGroups sk).filter (fun p => p.2.onStage)).length < 8 then s.setGroup r.1 (r.2.arrive now)
      else
        match s.leaver sk with
        | none => s
        | some l => if !l.2.stepsDone now then s else (s.setGroup l.1 { l.2 with onStage := false, latches := [] }).setGroup r.1 (r.2.arrive now))

/-- STAGE_ELIGIBLE (R23). -/
def execStageEligible (g : Nat) (s : State) : Host.Outcome State Fault Refusal :=
  .next (s.modGroup g (fun x => if x.onStage && decide (x.eligAt ≤ s.sliceNow x) then { x with eligAt := 0 } else x))

/-! ### What a word reads, and its class (R27, R29) -/

/-- The latency class (R27). -/
def Instr.latency : Instr → Nat
  | .mul _ _ | .mulh _ _ | .mad _ _ | .mulI _ | .fadd _ _ | .fsub _ _ | .fmul _ _ | .ffma _ _ | .hadd2 _ _ _ | .hmul2 _ _ _
  | .hfma2 _ _ _ | .frnd _ _ _ | .fcvt _ _ _ _ | .f2i _ _ _ _ | .i2f _ _ _ _ | .pack2 _ _ _ | .unpk2 _ _ | .cvenc _ _ | .cvdec _ _
  | .cvadd _ _ _ | .cvnext _ _ | .cvlvl _ _ => 4
  | .frcp _ _ | .frsq _ _ | .fsqrt _ _ | .fexp2 _ _ | .flog2 _ _ | .ftanh _ _ => 8
  | _ => 1

/-- What a word reads (a register, 256 + a mask register, 272 + a latch), which of that it reads in every lane at its issue
(R233, R235), and whether it is linked. -/
structure Uses where
  srcs : List Nat
  whole : List Nat := []
  /-- the registers it writes -/
  dst : List Nat := []
  linked : Bool
deriving DecidableEq, Repr

/-- The registers or latch that a source field reads. -/
def fieldUses (k : FieldKind) (v : Nat) : List Nat :=
  if k == .mask then [256 + v]
  else if 248 ≤ v ∧ v ≤ 251 then (if k.isSrc then [272 + (v - 248)] else [])
  else if k.isSrc || k.isSeed then Named.regs (k, v) else []

/-- What a lane word reads. -/
def wordUses (w : Nat) : Uses :=
  if bitOf w 63 then
    let f := (pairFirst w).h
    let g := (pairSecond w).h
    { srcs := [256 + f.p, 256 + g.p] ++ ([f.d, f.a, g.d, g.a].flatMap (fun v => fieldUses .src32 v)),
      whole := (if f.u then [256 + f.p] else []) ++ (if g.u then [256 + g.p] else []), linked := false }
  else if 0xC0 ≤ bitsOf w 55 8 && bitsOf w 55 8 ≤ 0xDF then
    let f := ImmW.ofNat w
    match immRow f.op with
    | none => { srcs := [], linked := false }
    | some r => { srcs := (256 + f.o.p) :: fieldUses r.a f.o.a, whole := if f.o.u then [256 + f.o.p] else [],
                  dst := Named.regs (r.d, f.o.d), linked := false }
  else
    let f := FullW.ofNat w
    match laneRow f.op with
    | none => { srcs := [], linked := false }
    | some r =>
      let sh := r.shape f.o.c f.fn
      let lk := sh.linked f.o
      { srcs := (256 + f.o.p) :: (fieldUses sh.a f.o.a ++ fieldUses sh.b f.o.b ++ (if sh.c.isSeed && !lk then [] else fieldUses sh.c f.o.c)),
        whole := if f.o.u then (256 + f.o.p) :: (if sh.c == .mask then [256 + f.o.c] else []) else [],
        dst := Named.regs (sh.d, f.o.d), linked := lk }

/-- What an instruction reads in every lane at its issue beside what its u bit says: whole masks (R233), and the register
sources of a cross-lane word (R235). -/
def Instr.whole : Instr → List Nat
  | .mpop o | .mfirst o | .mtovW o | .lkbrk o _ => [256 + o.a]
  | .brx o => [256 + o.a]
  | .shfl o ty imm _ => fieldUses (srcW ty.wide) o.a ++ (if imm then [] else fieldUses .src32 o.b)
  | .vote o _ => fieldUses .src32 o.a
  | .bcast o ty imm first => fieldUses (srcW ty.wide) o.a ++ (if imm || first then [] else fieldUses .src32 o.b)
  | _ => []

/-- A register that LDIH reads beside the fields of its word: v(d), for latch L0 (R231). -/
def Instr.also : Instr → List Nat
  | .ldih o => [o.d]
  | _ => []

/-- SRD and SWR issue after every lane step of earlier instructions (R254), LKTAIL after its group's linked ones (R240). -/
def State.stepsPending (s : State) (now : Nat) (x : Group) : Instr → Bool
  | .srd _ _ | .swr _ _ => s.chainPending x || !x.stepsDone now
  | .lktail _ _ => s.tailPending x
  | _ => false

/-- The earliest issue cycle a producer allows (R29). -/
def Producer.allows (p : Producer) (w : Nat) (linked : Bool) (cls : Nat) : Nat :=
  if !p.linked then p.t0 + p.cls
  else if linked && decide (p.cls ≤ cls) then p.t0 + p.cls
  else if linked then p.t0 + w * p.cls - (w - 1) * cls
  else p.t0 + w * p.cls - (w - 1)

/-- Two linked chains start a step on one physical lane in one cycle (R28, R30). -/
def chainsMeet (x y : Nat × Nat × Nat × Nat) : Bool :=
  let phys (c : Nat × Nat × Nat × Nat) (j : Nat) : Nat := (c.2.2.2 + j) % 32
  (List.range x.2.2.1).any (fun j => (List.range y.2.2.1).any (fun k => phys x j == phys y k && x.1 + j * x.2.1 == y.1 + k * y.2.1))

/-! ### Issue (R24, R25, R30) -/

/-- A slot that could issue in this cycle. -/
structure Ready where
  g : Nat
  slotB : Bool
  age : Nat
  gslot : Nat
  width : Nat
  half : Nat
  /-- the chain a linked word starts: first cycle, class, width, first physical lane -/
  chain : Option (Nat × Nat × Nat × Nat)
deriving DecidableEq, Repr

/-- What a slot's word does in this cycle: it is not ready, it parks its slot and takes no issue cycle, or it competes for one. -/
inductive Turnout where
  | no
  | parks
  | issues (chain : Option (Nat × Nat × Nat × Nat))
deriving DecidableEq, Repr

/-- A slot's word, or whether the slot parks at an open segment. -/
def State.slotWord (s : State) (x : Group) (v : Slot) : Option Nat × Bool :=
  match s.ctxOf x with
  | none => (none, false)
  | some c => if v.past then (none, false) else match c.fetch v.pc with | .word w _ => (some w.toNat, false) | .parks _ => (none, true) | .range => (none, false)

/-- The words that wait for an acquire, a fence that acquires or an sc operation before them (R133, R277, R285). -/
def Instr.ordered : Instr → Bool
  | .ld _ _ _ _ _ | .st _ _ _ _ _ | .lds _ _ _ _ _ _ | .sts _ _ _ _ _ _ | .atom _ _ _ _ _ | .acas _ _ _ _ _ | .abfi _ _ _ _ _ | .affcs _ _ _ _
  | .aplset _ _ _ _ | .red _ _ _ _ _ _ | .fence _ _ _ | .pfence _ | .feset _ _ | .feclr _ _ | .plook _ | .pins _ | .pinv _ | .mbget _ | .mbput _
  | .mbr _ | .mbw _ | .rput _ | .binit _ _ _ | .arrive _ _ | .bwait _ _ | .kick _ | .mxplane _ _ _ | .mxldb _ | .mxmul _ _ _ | .mxbat _ _
  | .mxzero _ _ | .mxdrain _ _ _ _ | .mxfill _ _ _ _ | .mxchk _ _ _ | .calliM _ _ | .cvsplit _ _ _ true => true
  | _ => false

/-- The words of the matrix engine's queue (R303). -/
def Instr.matrix : Instr → Bool
  | .mxplane _ _ _ | .mxldb _ | .mxmul _ _ _ | .mxbat _ _ | .mxzero _ _ | .mxdrain _ _ _ _ | .mxfill _ _ _ _ | .mxchk _ _ _ => true
  | _ => false

/-- The compared operations of device memory, RPUT and MXCHK (R180); a KICK is one by its requests. -/
def Instr.compared : Instr → Bool
  | .st _ _ _ _ _ | .atom _ _ _ _ false | .acas _ _ _ _ false | .abfi _ _ _ _ false | .affcs _ _ _ false | .aplset _ _ _ false
  | .red _ _ _ _ false _ | .rput _ | .mxchk _ _ _ => true
  | _ => false

/-- A wait that a word itself begins, by what it asks of its group (R109, R114, R128, R251, R289, R298). -/
def State.waitsItself (s : State) (g : Nat) (x : Group) (b : Bool) : Instr → Bool
  | .cuept _ => !s.allDone g x || !x.stepsDone (s.sliceNow x)
  | .waita o => match x.writers b o.p o.pn with | [] => false | l :: _ => decide (x.arrivals.toNat < x.read .src32 o.a l 0)
  | .bclose _ => x.sixteenth
  | .waitb o => if (x.slot b).wants == [o.c] then decide (o.c < x.outstanding) else x.sixteenth
  | .eleave _ => (s.team? x.team).any (fun t => t.ensemble.isSome && s.allocBusy t x.team)
  | .rgrow o => decide (x.nregs < o.c) && !s.mayGrow x o.c
  | .kick _ => s.undoneBefore g x
  | .pfence o => o.c % 8 != o.c / 8 % 8 && (if o.c % 8 = 0 then s.undoneBefore g x else s.pathBusy g x (o.c % 8))
  | _ => false

/-- A word that stays where it is: the matrix queue is full (R303), or its copy has used up its slack (R181). -/
def State.stands (s : State) (x : Group) (b : Bool) (i : Instr) : Bool :=
  (Instr.matrix i && decide (16 ≤ (s.cluster x.ckey).mxQ.length))
    || (s.compareStalls x && (Instr.compared i || (match i with | .kick o => s.kickOutside o b x | _ => false)))

/-- What a word does in a cycle: its registers are usable (R29), its queues ready (R38, R39), its chain free (R30). -/
def State.turnout (s : State) (now : Nat) (paths : List (Nat × Nat × Nat × Nat)) (g : Nat) (x : Group) (b : Bool) (w : Nat) (i : Instr) : Turnout :=
  let u := wordUses w
  let cls := Instr.latency i
  let late := x.prods.any (fun p =>
      ((u.srcs ++ Instr.also i).contains p.res && decide (now < p.allows x.width u.linked cls))
        || ((u.whole ++ Instr.whole i).contains p.res && decide (now < p.done x.width)))
    || s.stepsPending now x i
  if late || s.stands x b i then .no
  else if (u.srcs ++ u.dst ++ Instr.also i).any (fun r => decide (r < 240) && s.awaited g x r) then .parks
  else if (Instr.ordered i && s.memHeld g x) || s.waitsItself g x b i then .parks
  else if !u.linked then .issues none
  else
    match s.team? x.team with
    | none => .no
    | some t =>
      match t.handIn x.index now with
      | .wait => .parks
      | .short => .no
      | .take _ _ =>
        let ch := (now, cls, x.width, if x.width = 16 then 16 * x.half else 0)
        if t.handFull x.index || paths.any (fun p => chainsMeet p ch) then .no else .issues (some ch)

/-- What a slot does in a cycle (R24). A slot whose fetch is out of range competes for a cycle: its turn finds that out. -/
def State.slotTurnout (s : State) (now : Nat) (paths : List (Nat × Nat × Nat × Nat)) (g : Nat) (x : Group) (b : Bool) : Turnout :=
  let v := x.slot b
  if !v.live || v.wait != .run || !s.mayIssue g x then .no
  else
    match s.slotWord x v with
    | (none, parks) => if parks then .parks else .issues none
    | (some w, _) => match decodeLane w with | .error _ => .issues none | .ok i => s.turnout now paths g x b w i

/-- A slot that is ready in a cycle, and what it would start (R24, R29, R30, R38, R39). -/
def State.slotReady (s : State) (now : Nat) (paths : List (Nat × Nat × Nat × Nat)) (g : Nat) (x : Group) (b : Bool) : Option Ready :=
  match s.slotTurnout now paths g x b with
  | .issues ch => some { g := g, slotB := b, age := (x.slot b).age, gslot := x.gslot, width := x.width, half := x.half, chain := ch }
  | _ => none

/-- An unlinked word of an upper half whose first physical lane is taken in this cycle by an earlier word's step (R28, R30). -/
def Ready.upper (r : Ready) : Bool := r.width == 16 && r.half == 1 && r.chain.isNone

/-- The eligible stage groups of a slice. -/
def State.eligible (s : State) (sk : Nat) : List (Nat × Group) := (s.sliceGroups sk).filter (fun p => p.2.onStage && p.2.eligAt == 0)

/-- The ready slots of a slice's eligible stage groups. -/
def State.readySlots (s : State) (sk now : Nat) (paths : List (Nat × Nat × Nat × Nat)) (upperHeld : Bool) : List Ready :=
  ((s.eligible sk).flatMap (fun p =>
    ([false, true].filterMap (fun b => s.slotReady now paths p.1 p.2 b)))).filter (fun r => !(upperHeld && r.upper))

/-- The slots whose words park them in a cycle: they take no issue cycle from a ready one (R22, R24). -/
def State.parkingSlots (s : State) (sk now : Nat) (paths : List (Nat × Nat × Nat × Nat)) : List (Nat × Bool) :=
  (s.eligible sk).flatMap (fun p => ([false, true].filter (fun b => s.slotTurnout now paths p.1 p.2 b == .parks)).map (fun b => (p.1, b)))

/-- The later cycles in which an unlinked word issued now starts the first physical lane of the upper half (R28, R30). -/
def Ready.meetsUpper (r : Ready) (now : Nat) : List Nat :=
  if r.chain.isSome || r.width = 16 then [] else if r.width = 64 then [now + 16, now + 48] else [now + 16]

/-- The oldest of some ready slots; equal ages go round robin from the group slot after the last that won a tie (R24). Of the two
slots of one group, which that does not decide, slot A goes first (DESIGN CHOICE [95]). -/
def oldest (tie : Nat) (rs : List Ready) : Option Ready :=
  leastBy (fun (r : Ready) => (r.age * 64 + (r.gslot + 31 - tie % 32) % 32) * 2 + r.slotB.toNat) rs

/-- SLICE_ISSUE (R24): one slice cycle; the oldest ready instruction is issued next, and with a width-16 one the oldest of
the opposite half. -/
def execSliceIssue (cl sl : Nat) (s : State) : Host.Outcome State Fault Refusal :=
  .next (
    if !s.running cl then s else
    let c := s.cluster cl
    let now := Sp.getD c.cycle sl 0
    let paths := (c.paths.filter (fun p => p.2.2.2 / 64 == sl)).map (fun p => (p.1, p.2.1, p.2.2.1, p.2.2.2 % 64))
    let rs := if c.holds.contains (sl, now) then [] else s.readySlots (cl * 6 + sl) now paths (c.halfHolds.contains (sl, now))
    let first := oldest (Sp.getD c.tie sl 31) rs
    let second := match first with
      | some r => if r.width = 16 then oldest (Sp.getD c.tie sl 31) (rs.filter (fun q => q.width == 16 && q.half != r.half)) else none
      | none => none
    let go := first.toList ++ second.toList
    let parking := s.parkingSlots (cl * 6 + sl) now paths
    let tied : Bool := match first with | none => false | some r => decide (1 < (rs.filter (fun q => q.age == r.age)).length)
    let chains := go.filterMap (fun r => r.chain.map (fun ch => (ch.1, ch.2.1, ch.2.2.1, ch.2.2.2 + 64 * sl)))
    let holds := go.filterMap (fun r => if r.width = 64 && r.chain.isNone then some (sl, now + 32) else none)
    let s := s.setCluster cl { c with
      cycle := Sp.set c.cycle sl (now + 1), clock := c.clock + 1,
      tie := match first with | some r => if tied then Sp.set c.tie sl r.gslot else c.tie | none => c.tie,
      paths := (c.paths.filter (fun p => decide (now < p.1 + p.2.1 * p.2.2.1))) ++ chains,
      holds := (c.holds.filter (fun h => h.1 != sl || decide (now < h.2))) ++ holds,
      halfHolds := (c.halfHolds.filter (fun h => h.1 != sl || decide (now < h.2)))
        ++ go.flatMap (fun r => (r.meetsUpper now).map (fun n => (sl, n))) }
    { s with agenda := parking.map (fun p => Turn.lane p.1 p.2) ++ go.map (fun r => Turn.lane r.g r.slotB) ++ s.agenda })

end Sys2Proof.Machine
end

