-- ==== Sys2Proof/Machine/Engines.lean ====
section
/-! DEFINITION. The request engine and the copy, gather and collective engines (R89 to R91, R102 to R109, R111, R181, R397,
R435): requests taken or rejected, bytes delivered, barrier words counted down, batches finished. -/

namespace Sys2Proof.Machine

/-- A bar field that names slot 0 and is aligned (R103). -/
def Request.barGood (r : Request) : Bool := r.bar / 2 ^ 20 == 0 && r.bar % 16 == 0

/-- An address field that breaks its form (R103). -/
def badAddress (spad : Bool) (w : Nat) : Bool := if spad then 2 ^ 24 ≤ w else 2 ^ 56 ≤ w

/-- What the request engine rejects (R103, R105, R106). -/
def Request.rejected (r : Request) : Bool :=
  r.bits 3 51 1 == 0 || decide (2 < r.kind) || r.bits 3 56 8 != 0 || (!r.nobar && !r.barGood)
    || (if r.kind = 1 then
          r.bits 0 56 8 != 0 || r.bits 0 0 3 != 0 || r.bits 1 48 16 != 0 || r.bits 1 24 4 != 0 || r.bits 1 0 4 != 0
            || r.bits 3 47 3 != 0 || r.bits 3 0 40 != 0 || decide (64 < r.bits 3 40 7)
        else
          r.len == 0 || badAddress r.fromSpad (r.word 0) || badAddress r.toSpad (r.word 1) || (r.kind == 2 && r.toSpad))

/-! ### Where engines read and write (R89, R90, R98) -/

/-- The allocation that a slot names for a request's team; none through a reserved or unmapped slot (R89). -/
def State.engineAlloc (s : State) (r : Request) (slot : Nat) : Option (Nat × Alloc) :=
  match s.team? r.team with
  | none => none
  | some tm =>
    if slot = 0 then some (r.ckey, tm.allocOn r.cluster)
    else if slot ≤ 8 then
      match tm.ensemble with
      | none => none
      | some (e, _) =>
        match s.ensembles.find? (fun y => y.launch == r.launch && y.e == e) with
        | none => none
        | some y =>
          match Sp.get? y.members (slot - 1), Sp.get? y.joined (slot - 1) with
          | some t, some (uid, time) =>
            if uid == r.group || Clock.has r.clk uid time then
              (s.team? t).map (fun mt =>
                let c := mt.reachedOn (mt.uid == tm.uid) r.cluster
                (clusterKey mt.part c, mt.allocOn c))
            else none
          | _, _ => none
    else if slot = 15 && tm.pair then
      let other := if r.cluster = tm.cluster then tm.cluster + 1 else tm.cluster
      some (clusterKey tm.part other, tm.allocOn other)
    else none

/-- A scratchpad byte of an engine: the offset modulo the allocation (R89). -/
def State.engineSpad (s : State) (r : Request) (addr add : Nat) : Place :=
  match s.engineAlloc r (addr / 2 ^ 20 % 16) with
  | none => .none_
  | some (ck, a) => .spad ck (a.place (addr % 2 ^ 20 + add))

/-- What an engine meets at a device address. -/
inductive Reached where
  | at_ (p : Place)
  | walk (va : Nat)
  | violates (va : Nat)
deriving DecidableEq, Repr

/-- A device address of an engine, translated and held against the grant (R104, R426). R103 rejects a field past 2^56; what a row, a
column or a key adds to it is taken modulo 2^56 (DESIGN CHOICE [122]). -/
def State.engineDev (s : State) (r : Request) (va : Nat) (write : Bool) : Reached :=
  let va := va % 2 ^ 56
  match s.translate r.ckey va write with
  | .miss => .walk va
  | .hit phys _ => if s.unitMay r.part phys write then .at_ (s.servedAt phys) else .violates va

/-- The place of a byte of a request's source or destination. -/
def State.engineByte (s : State) (r : Request) (src : Bool) (i : Nat) : Reached :=
  let row := i / r.len
  let col := i % r.len
  if src then
    let add := row * r.bits 3 0 24 + col
    if r.fromSpad then .at_ (s.engineSpad r (r.word 0) add) else s.engineDev r (r.word 0 + add) false
  else
    let add := row * r.bits 3 24 24 + col
    if r.toSpad then .at_ (s.engineSpad r (r.word 1) add) else s.engineDev r (r.word 1 + add) true

/-- The engine that serves a request, as an agent and a path (R104). -/
def Request.path (r : Request) : Path := if r.kind = 0 then .copy else if r.kind = 1 then .gather else .coll
def Request.agent (r : Request) : Agent := .engine r.ckey (if r.kind = 0 then 2 else if r.kind = 1 then 4 else 5)

/-- The writer of bytes on the path of a request (R120), with what brings them to the lanes (R129). -/
def State.lateOf (s : State) (r : Request) : Late :=
  { space := 0, addr := 0, old := 0, path := r.path, uid := r.group, time := Sp.getD r.clk r.group 0, req := r.id,
    bar := if r.nobar || !r.barGood then 0 else match s.engineSpad r r.bar 0 with | .spad ck off => ck * 2 ^ 20 + off + 1 | _ => 0 }

/-- An engine as a reader for a request (R104, R126). -/
def Request.reader (r : Request) : Reader := { path := r.path, clk := r.clk }

/-- The requests of another device's memory go on the stream of the cluster to it, under the request's name (R430, R432). -/
def State.sendTo (s : State) (r : Request) (ps : List Place) : State :=
  let devs := (ps.filterMap (fun p => match p with | .remote a => some (fabricDevice a) | _ => none)).eraseDups
  devs.foldl (fun s d =>
    if s.streams.any (fun x => x.source == r.ckey && x.dest == d && x.unacked.any (fun u => u.2 == r.id)) then s else s.send r.ckey d r.id) s

/-- An engine waits for walks (R104, R421). -/
def State.engineWalks (s : State) (r : Request) (write : Bool) (vas : List Nat) : State :=
  vas.foldl (fun s va => s.wantWalk { part := r.part, cluster := r.cluster, va := va, write := write, agent := r.agent, path := r.path, req := r.id } r.ckey) s

/-! ### The end of a request (R109, R111, R181) -/

/-- Bytes counted down on a request's barrier word (R111). -/
def State.countDown (s : State) (r : Request) (n : Nat) (rejected : Bool) : State :=
  if r.nobar || !r.barGood then s
  else
    match s.engineSpad r r.bar 0 with
    | .spad ck off => s.barUpdate ck off r.clk (fun w =>
        { w with pending := signedOf 32 (wrapOf 32 (w.pending - Int.ofNat n)), rejected := w.rejected || rejected })
    | _ => s

/-- A request that is finished leaves its engine and its batch; its stand-in's may finish now, and a team that has exited
may be gone (R86, R109, R181). -/
def State.finishRequest (s : State) (r : Request) : State :=
  let leave (b : Batch) : Batch := { b with open_ := delNat r.id b.open_ }
  let s := s.acked r.id
  let s := s.modCluster r.ckey (fun c => { c with work := c.work.filter (fun q => q.id != r.id), reqQ := c.reqQ.filter (fun q => q.id != r.id) })
  let s := { s with
    groups := s.groups.map (fun (p : Nat × Group) => (p.1,
      if p.2.uid == r.group then { p.2 with openBatch := leave p.2.openBatch, batches := p.2.batches.map leave } else p.2)) }
  let s := match r.twin with
    | none => s
    | some t => { s with clusters := s.clusters.map (fun (c : Nat × Cluster) => (c.1, { c.2 with
        work := c.2.work.map (fun (q : Request) => if q.id == t then { q with waiting := false } else q),
        reqQ := c.2.reqQ.map (fun (q : Request) => if q.id == t then { q with waiting := false } else q) })) }
  s.reapTeam r.team

/-- A rejected request (R103, R407): recorded, its barrier word counted down if it has a good one. -/
def State.rejectRequest (s : State) (r : Request) : State :=
  let s := s.modCluster r.ckey (fun c =>
    { c with copyCount := min (c.copyCount + 1) (2 ^ 32 - 1), copyTeam := r.team % 192, copyAddr := r.at_ })
  let s := s.postSystem r.ckey { w0 := recWord0 0x31 (r.team % 192) 0 0 0 0 0, w4 := BitVec.ofNat 64 r.at_ }
  (s.countDown r r.total true).finishRequest r

/-- REQUEST_ENGINE_TAKE (R103, R104, R108): the requests of a cluster start in the order in which they were kicked; one
that awaits its stand-in's holds the rest (R181). -/
def execRequestEngineTake (cl : Nat) (s : State) : Host.Outcome State Fault Refusal :=
  .next (
    match (s.cluster cl).reqQ with
    | [] => s
    | r :: rest =>
      if !s.enginesRun cl || (r.waiting && !r.standIn) then s
      else if r.standIn then s.modCluster cl (fun c => { c with reqQ := rest, work := c.work ++ [r] })
      else if r.rejected then s.rejectRequest r
      else s.modCluster cl (fun c => { c with reqQ := rest, work := c.work ++ [r] }))

/-! ### Copies and sends (R90, R91, R106, R108) -/

/-- A byte of a request is delivered. -/
def Request.has (r : Request) (i : Nat) : Bool := r.delivered.any (fun p => decide (p.1 ≤ i) && decide (i < p.1 + p.2))

/-- One byte written by an engine on its path: the poison of its source goes with it (R84, R90), and the release sequences at
the byte end (R124). What goes to another device's memory is that device's. -/
def State.engineWrite (s : State) (r : Request) (p : Place) (v : Nat) (poison : Bool) : State :=
  let s := s.noteLate (s.lateOf r) p 1
  let s := match p.bytes with | none => s | some (sp, a) => s.publish sp a 1 false {} []
  match p with
  | .dev a =>
    let s := { s with mem := s.mem.write a 1 v }
    if poison then { s with poisonLines := insNat (a / 64) s.poisonLines } else s
  | .spad ck off => s.modCluster ck (fun c =>
      { c with spad := c.spad.write off 1 v, poison := if poison then insNat (off / 16) c.poison else c.poison })
  | .control off => s.placeWrite r.agent false [] (.control off) 1 v
  | _ => s

/-- One byte moved: read at its source on the engine's path (R127), written at its destination. -/
def State.moveByte (s : State) (r : Request) (src dst : Place) : State :=
  let poison := s.placePoisoned src 1
  let v := s.peek r.reader src 1
  (s.looked r.reader src 1).engineWrite r dst v poison

/-- Granules and lines that one delivery writes whole from clean data lose their poison (R84, R90; DESIGN CHOICE [104]). -/
def State.clearPoison (s : State) (ps : List (Place × Bool)) : State :=
  let clean := ps.filter (fun p => !p.2)
  let whole (n k : Nat) (at_ : Nat → Place) : Bool := (List.range n).all (fun i => clean.any (fun p => p.1 == at_ (n * k + i)))
  clean.foldl (fun s p =>
    match p.1 with
    | .dev a => if a % 64 = 0 && whole 64 (a / 64) Place.dev then { s with poisonLines := delNat (a / 64) s.poisonLines } else s
    | .spad ck off =>
      if off % 16 = 0 && whole 16 (off / 16) (Place.spad ck) then s.modCluster ck (fun c => { c with poison := delNat (off / 16) c.poison }) else s
    | _ => s) s

/-- The granules of a delivery whose every byte of the request is delivered are full (R91). -/
def State.fillGranules (s : State) (r : Request) (ps : List Place) : State :=
  let keys := (ps.filterMap (fun p => match p with | .spad ck off => some (ck * 65536 + off / 16) | _ => none)).eraseDups
  keys.foldl (fun s k =>
    let left := (List.range r.total).any (fun i => !r.has i && (match s.engineByte r false i with | .at_ (.spad ck off) => ck * 65536 + off / 16 == k | _ => false))
    if left then s else s.setFull (k / 65536) (k % 65536) r.clk) s

/-- Bytes of a copy or a send delivered (R106, R108): none before its walk is done; the barrier word counts what was
delivered; the last byte finishes the request. They leave and are acknowledged in this one event, so that the stores or the sends
counter, raised and lowered by it, is as it was (R397; DESIGN CHOICE [123]). -/
def State.deliver (s : State) (r : Request) (start n : Nat) : State :=
  let is := (List.range n).map (fun i => start + i)
  if n = 0 || r.total < start + n || is.any r.has then s
  else
    let srcs := is.map (fun i => s.engineByte r true i)
    let dsts := is.map (fun i => s.engineByte r false i)
    let walks (l : List Reached) : List Nat := l.filterMap (fun x => match x with | .walk va => some va | _ => none)
    let bad (l : List Reached) : List Nat := l.filterMap (fun x => match x with | .violates va => some va | _ => none)
    match bad (srcs ++ dsts), walks srcs, walks dsts with
    | va :: _, _, _ => s.violation r.agent false r.part r.cluster va
    | [], [], [] =>
      let place (x : Reached) : Place := match x with | .at_ p => p | _ => .none_
      let ps := dsts.map place
      let poisons := srcs.map (fun x => s.placePoisoned (place x) 1)
      let s := s.sendTo r (srcs.map place ++ ps)
      let s := (srcs.zip dsts).foldl (fun s p => s.moveByte r (place p.1) (place p.2)) s
      let s := s.clearPoison (ps.zip poisons)
      let r := { r with delivered := r.delivered ++ [(start, n)] }
      let s := s.modCluster r.ckey (fun c => { c with work := c.work.map (fun (q : Request) => if q.id == r.id then r else q) })
      let s := s.fillGranules r ps
      let s := s.countDown r n false
      if r.count = r.total then s.finishRequest r else s
    | [], ws, wd => (s.engineWalks r false ws).engineWalks r true wd

/-- A request that the engines of some cluster work on. -/
def State.request? (s : State) (id : Nat) : Option Request :=
  (s.clusters.flatMap (fun c => c.2.work)).find? (fun r => r.id == id)

/-- A stand-in's request that its lead's has finished, or that a replay does not perform again: its whole total at once (R181). -/
def State.standInDone (s : State) (r : Request) : State :=
  if r.waiting then s else (s.countDown r r.total r.rejected).finishRequest r

/-- COPY_DELIVERY (R108): bytes `start` to `start + n − 1` of a copy. -/
def execCopyDelivery (id start n : Nat) (s : State) : Host.Outcome State Fault Refusal :=
  .next (
    match s.request? id with
    | none => s
    | some r => if r.standIn then s.standInDone r else if r.kind ≠ 0 || !s.enginesRun r.ckey then s else s.deliver r start n)

/-- SEND_DELIVERY (R106): bytes of a send, acknowledged by the memory port of their destination. -/
def execSendDelivery (id start n : Nat) (s : State) : Host.Outcome State Fault Refusal :=
  .next (
    match s.request? id with
    | none => s
    | some r => if r.standIn then s.standInDone r else if r.kind ≠ 2 || !s.enginesRun r.ckey then s else s.deliver r start n)

/-! ### Gathers (R105) -/

/-- What the gather engine finds at a key of the array. -/
inductive Key where
  | value (v : Nat)
  | poisoned
  | walk (va : Nat)
  | violates (va : Nat)
deriving DecidableEq, Repr

/-- The address of key i of the array (R105). -/
def Request.keyAt (r : Request) (i : Nat) : Nat := r.bits 0 0 56 + 8 * i

/-- Key i of the array, read on the gather path, with a free value of its own. -/
def State.readKey (s : State) (r : Request) (i : Nat) : Key :=
  match s.engineDev r (r.keyAt i) false with
  | .walk a => .walk a
  | .violates a => .violates a
  | .at_ p => if s.placePoisoned p 8 then .poisoned else .value ({ s with free := s.free + i }.peek r.reader p 8)

/-- What a search answers: an index, or why it ended. -/
inductive Found where
  | at_ (i : Nat)
  | poisoned (i : Nat)
  | stop (k : Key)
deriving DecidableEq, Repr

/-- The binary search for the first key not below a start, with the keys it reads; 25 halvings exhaust 2^24 keys. -/
def State.gatherFind (s : State) (r : Request) (start : Nat) : Nat → Nat → Nat → List Nat → Found × List Nat
  | 0, lo, _, ks => (.at_ lo, ks)
  | n + 1, lo, hi, ks =>
    if hi ≤ lo then (.at_ lo, ks)
    else
      let mid := (lo + hi) / 2
      match s.readKey r mid with
      | .value v => if v < start then State.gatherFind s r start n (mid + 1) hi (ks ++ [mid]) else State.gatherFind s r start n lo mid (ks ++ [mid])
      | .poisoned => (.poisoned mid, ks ++ [mid])
      | k => (.stop k, ks)

/-- The state of a gather: the hits so far, the keys it has read, and how it ended. -/
structure Gather where
  hits : List (Nat × Nat) := []
  read : List Nat := []
  more : Bool := false
  poisoned : Bool := false
  resume : Nat := 0
  over_ : Bool := false
  stop : Option Key := none
deriving DecidableEq, Repr

/-- The hits of one range from an index on; at most hmax + 2 keys are looked at. -/
def State.gatherScan (s : State) (r : Request) (last : Nat) : Nat → Nat → Gather → Gather
  | 0, _, g => g
  | n + 1, i, g =>
    if r.bits 2 0 24 ≤ i then g
    else
      let g' := { g with read := g.read ++ [i] }
      match s.readKey r i with
      | .value v =>
        if last < v then g'
        else if g.hits.length = r.bits 2 24 16 + 1 then { g' with more := true, resume := i, over_ := true }
        else State.gatherScan s r last n (i + 1) { g' with hits := g.hits ++ [(v, i)] }
      | .poisoned => { g' with poisoned := true, more := true, resume := i, over_ := true }
      | k => { g with stop := some k }

/-- The place of a range of the list (R105). -/
def State.rangePlace (s : State) (r : Request) (k : Nat) : Place := s.engineSpad r (r.bits 1 24 24) (16 * k)

/-- One range of the list, read on the gather path. -/
def State.gatherRange (s : State) (r : Request) (g : Gather) (k : Nat) : Gather :=
  if g.over_ || g.stop.isSome then g
  else
    let v := s.peek r.reader (s.rangePlace r k) 16
    match s.gatherFind r (v % 2 ^ 64) 25 0 (r.bits 2 0 24) g.read with
    | (.at_ i, ks) => s.gatherScan r (v / 2 ^ 64) (r.bits 2 24 16 + 2) i { g with read := ks }
    | (.poisoned i, ks) => { g with read := ks, poisoned := true, more := true, resume := i, over_ := true }
    | (.stop k, ks) => { g with read := ks, stop := some k }

/-- What a gather's reads leave: its ranges and keys have been read on the gather path (R131), and reads of another device's memory
are traffic of the cluster's stream to it (R430). -/
def State.gatherRead (s : State) (r : Request) (g : Gather) : State :=
  let ps := g.read.eraseDups.filterMap (fun i => match s.engineDev r (r.keyAt i) false with | .at_ p => some p | _ => none)
  let s := (List.range (r.bits 3 40 7)).foldl (fun s k => s.looked r.reader (s.rangePlace r k) 16) (s.sendTo r ps)
  ps.foldl (fun s p => s.looked r.reader p 8) s

/-- A 16-byte granule written by the gather engine: poison cleared, full set (R90, R91). -/
def State.gatherWrite (s : State) (r : Request) (i v : Nat) : State :=
  match s.engineSpad r (r.bits 1 0 24) (16 * i) with
  | .spad ck off =>
    let s := (s.noteLate (s.lateOf r) (.spad ck off) 16).publish (ck + 1) off 16 false {} []
    (s.spadWrite ck off 16 v).setFull ck (off / 16) r.clk
  | _ => s

/-- GATHER_REQUEST (R105): the search, the hits, the trailer, and the whole count on the barrier word. -/
def execGatherRequest (id : Nat) (s : State) : Host.Outcome State Fault Refusal :=
  .next (
    match s.request? id with
    | none => s
    | some r =>
      if r.standIn then s.standInDone r
      else if r.kind ≠ 1 || !s.enginesRun r.ckey then s
      else
        let g := (List.range (r.bits 3 40 7)).foldl (fun g k => s.gatherRange r g k) {}
        match g.stop with
        | some (.walk va) => s.engineWalks r false [va]
        | some (.violates va) => s.violation r.agent false r.part r.cluster va
        | _ =>
          let m := g.hits.length
          let s := s.gatherRead r g
          let s := { s with free := s.free + r.bits 2 0 24 + 1 }
          let s := (g.hits.zip (List.range m)).foldl (fun s h => s.gatherWrite r h.2 (h.1.1 + h.1.2 * 2 ^ 64)) s
          let s := s.gatherWrite r m (m + g.more.toNat * 2 ^ 32 + g.poisoned.toNat * 2 ^ 33 + g.resume * 2 ^ 64)
          (s.countDown r r.total false).finishRequest r)

end Sys2Proof.Machine
end

