-- ==== Sys2Proof/Machine/Matrix.lean ====
section
/-! DEFINITION. The matrix engine (R100, R101, R162 to R172, R187, R300 to R316): the format record, the checks at issue,
plane form, block accumulation, drain and fill, and the engine's queue. -/

namespace Sys2Proof.Machine

/-! ### The format record (R300, R301) -/

/-- One side of a product as the record describes it. -/
structure MxSide where
  kind : Nat
  cnt : Nat
  present : Bool
  soff : Nat
deriving DecidableEq, Repr

def mxA (rec_ : Nat) : MxSide :=
  { kind := rec_ % 16, cnt := rec_ / 2 ^ 8 % 8, present := rec_ / 2 ^ 16 % 2 == 1, soff := rec_ / 2 ^ 20 % 2 ^ 20 }
def mxB (rec_ : Nat) : MxSide :=
  { kind := rec_ / 16 % 16, cnt := rec_ / 2 ^ 11 % 8, present := rec_ / 2 ^ 17 % 2 == 1, soff := rec_ / 2 ^ 40 % 2 ^ 20 }

/-- The number of planes, elements of a row, and elements of a block (R166, R300). -/
def MxSide.planes (m : MxSide) : Nat := 2 ^ m.cnt
def mxK (rec_ : Nat) : Nat := 4096 / max (mxA rec_).planes (mxB rec_).planes
def mxBlock (rec_ : Nat) : Nat := 16 * 2 ^ (rec_ / 2 ^ 14 % 4)
/-- Blocks of a row. -/
def mxNB (rec_ : Nat) : Nat := mxK rec_ / mxBlock rec_
/-- The bytes of a row of a side. -/
def MxSide.rowBytes (m : MxSide) (k : Nat) : Nat := k * m.planes / 8

/-- The first record check that fails (R301, R305 orders 1 to 4). -/
def mxRecordCheck (rec_ : Nat) : Option Nat :=
  let a := mxA rec_
  let b := mxB rec_
  if 2 < a.kind ∨ 2 < b.kind ∨ 4 < a.cnt ∨ 4 < b.cnt then some 16
  else if (a.kind = 2 ∧ a.cnt = 0) ∨ (b.kind = 2 ∧ b.cnt = 0) then some 17
  else if rec_ / 2 ^ 60 % 16 ≠ 0 ∨ rec_ / 2 ^ 18 % 4 ≠ 0 then some 18
  else if (a.present && a.soff % 2 == 1) || (b.present && b.soff % 2 == 1) then some 19
  else none

/-! ### The checks at issue (R305) -/

/-- Whether an instruction takes a record (R300). -/
def MxOp.hasRecord : MxOp → Bool
  | .plane _ _ | .ldb | .mul _ _ | .bat _ => true
  | _ => false

/-- The tile an instruction names, if it names one. -/
def MxOp.tile? : MxOp → Option Nat
  | .mul t _ | .bat t | .zero t | .drain t _ _ | .fill t _ _ | .chk t _ | .accrd t _ _ | .accwr t _ _ _ => some t
  | _ => none

/-- Tile check (R100, R305 order 5). -/
def mxTileBad (op : MxOp) (tiles : Nat) (wide : Bool) : Bool :=
  match op.tile? with
  | none => false
  | some t => decide (tiles ≤ t) || (wide && (t % 2 == 1 || decide (tiles ≤ t + 1)))

/-- The side that MXPLANE writes. -/
def mxTarget (rec_ : Nat) (bside : Bool) : MxSide := if bside then mxB rec_ else mxA rec_

/-- The user scale and the row index of MXPLANE (R308). -/
def mxUser (second : Nat) : Int := signedOf 16 second
def mxIndex (second : Nat) : Nat := second / 2 ^ 16 % 2 ^ 16

/-- What a held B of a record's B operand records (R309). -/
def mxForm (rec_ : Nat) : BForm :=
  let b := mxB rec_
  { k := mxK rec_, kind := b.kind, planes := b.planes, blen := mxBlock rec_, bsp := b.present }

/-- The first check that fails, with its detail and the lanes it names (R305 orders 1 to 9). -/
def mxCheck (x : Group) (tiles : Nat) (op : MxOp) (rec_ : Nat) (rows : List MxRow) (ws : List Nat) : Option (Nat × List Nat) :=
  let low := ws.take 1
  let wide := x.width == 64
  match (if op.hasRecord then mxRecordCheck rec_ else none) with
  | some d => some (d, low)
  | none =>
    if mxTileBad op tiles wide then some (20, low)
    else
      match op with
      | .bat _ => if wide then some (21, low) else none
      | .plane st bside =>
        let t := mxTarget rec_ bside
        if (isFloat st && t.kind != 2) || (t.kind == 2 && !t.present) then some (22, low)
        else
          match (rows.filter (fun r => decide (1023 < mxIndex (r.second / 2 ^ 32)) || decide (254 < (mxUser (r.second / 2 ^ 32)).natAbs))).map MxRow.lane with
          | [] => none
          | l => some (23, l)
      | .mul _ true => if x.heldFor == some (mxForm rec_) then none else some (24, low)
      | _ => none

/-- The size of an element that MXDRAIN and MXFILL move (R313). -/
def mxElemSize (ty : Ty) (img : Bool) : Nat := if img then 8 else ty.bytes

/-- The checks of the rows of MXDRAIN and MXFILL (R305 order 10, R313): the base first, then slot and bounds as R88 has
them. A row's place is kept with it. -/
def State.mxPlace (s : State) (x : Group) (base size : Nat) (rows : List MxRow) (ws : List Nat) :
    List MxRow ⊕ (Check × List Nat × Nat) :=
  if base % 16 ≠ 0 then .inr ({ rank := 1, cause := 0x01, detail := 0 }, ws.take 1, base)
  else
    let rs := rows.map (fun r => (r, s.spadCheck x r.addr (64 * size) 16 false))
    match firstCheck (rs.filterMap (fun r => match r.2 with | .inr c => some (r.1.lane, c) | .inl _ => none)) with
    | some (c, ls) =>
      .inr (c, ls, ((rows.find? (fun r => r.lane == ls.headD 0)).map MxRow.addr).getD 0)
    | none => .inl (rs.map (fun r => match r.2 with | .inl (.spad ck off) => { r.1 with ck := ck, off := off } | _ => r.1))

/-! ### Reading rows, columns and scales on the matrix path (R87, R89, R90, R304) -/

/-- The team, group and clock a matrix instruction reaches the scratchpad with, in the form the engines share. -/
def MxReq.req (r : MxReq) : Request :=
  { id := r.id, group := r.uid, team := r.team, launch := r.launch, part := r.part, cluster := r.cluster, words := [], at_ := 0, clk := r.clk }
def MxReq.ckey (r : MxReq) : Nat := clusterKey r.part r.cluster

/-- A matrix instruction as the writer of bytes on the matrix path (R120). -/
def MxReq.late (r : MxReq) : Late := { space := 0, addr := 0, old := 0, path := .matrix, uid := r.uid, time := Sp.getD r.clk r.uid 0 }

/-- A matrix instruction as a reader on a path. -/
def MxReq.reader (r : MxReq) (q : Path) : Reader := { path := q, clk := r.clk }

/-- n bytes from base + add as the matrix path sees them (R127), as one number, with the places of those that are poisoned. -/
def State.mxRead (s : State) (r : MxReq) (base add n : Nat) : Nat × List Nat :=
  match s.engineAlloc r.req (base / 2 ^ 20 % 16) with
  | none => (0, [])
  | some (ck, a) =>
    let c := s.cluster ck
    let at_ (i : Nat) : Nat := a.place (base % 2 ^ 20 + add + i)
    let v := (List.range n).foldr (fun i (acc : Nat) => (s.peekByte (r.reader .matrix) (ck + 1) (at_ i)).toNat + 256 * acc) 0
    (v, if c.poison.isEmpty then [] else (List.range n).filter (fun i => c.poison.contains (at_ i / 16)))

/-- A scale entry (R162, R163): the sum of its two bytes, or NV; a poisoned granule supplies NV. -/
def scaleValue (w : Nat) (poisoned : Bool) : Option Int :=
  if poisoned ∨ w % 256 = 0x80 ∨ w / 256 % 256 = 0x80 then none else some (signedOf 8 w + signedOf 8 (w / 256))

/-- The entry of row or column x and block b of a side, in the team's slot-0 allocation (R167). -/
def State.mxScale (s : State) (r : MxReq) (soff i : Nat) : Option Int :=
  let v := s.mxRead r 0 (soff + 2 * i) 2
  scaleValue v.1 (!v.2.isEmpty)

/-- The pair that MXPLANE writes for a scale (R163). -/
def scalePair (t : Option Int) : Nat :=
  match t with
  | none => 0x8080
  | some t =>
    let b0 := max (-127) (min 127 t)
    wrapOf 8 b0 + 256 * wrapOf 8 (t - b0)

/-! ### Blocks and their products (R166, R167, R169, R170) -/

/-- A block: its significands and its power of two, or NV. -/
structure MxBlk where
  sig : List Int
  ex : Option Int
deriving DecidableEq, Repr

/-- The significand of element e of a row of K elements (R166, R167). -/
def mxSig (kind planes k bits e : Nat) : Int :=
  (List.range planes).foldl (fun (v : Int) i =>
    if bits.testBit (i * k + e) then (if i + 1 = planes ∧ kind ≠ 1 then v - 2 ^ i else v + 2 ^ i) else v) 0

/-- The power of two of a block of a side under its scale (R169). -/
def mxExp (kind planes : Nat) (present : Bool) (t : Option Int) : Option Int :=
  if kind = 2 then (if present then t.map (fun t => t - (Int.ofNat planes - 2)) else some (2 - Int.ofNat planes))
  else if present then t else some 0

/-- The blocks of a row: `scale b` is the entry of its block b. -/
def mxBlocks (kind planes k blen : Nat) (present : Bool) (row : Nat × List Nat) (scale : Nat → Option Int) : List MxBlk :=
  (List.range (k / blen)).map (fun b =>
    let es := (List.range blen).map (fun i => b * blen + i)
    let spoiled := !row.2.isEmpty && es.any (fun e => (List.range planes).any (fun i => row.2.contains (i * (k / 8) + e / 8)))
    { sig := es.map (fun e => mxSig kind planes k row.1 e),
      ex := if spoiled then none else mxExp kind planes present (scale b) })

/-- The exact partial of two blocks (R169). -/
def mxPartial (a b : MxBlk) : Int := (a.sig.zip b.sig).foldl (fun v p => v + p.1 * p.2) 0

/-- One accumulator element updated by a partial of two blocks, which is off by a difference (R165, R169, R170). -/
def mxUpdate (acc : BitVec 34) (p : MxBlk × MxBlk) (off : Int) : BitVec 34 :=
  match p.1.ex, p.2.ex with
  | some ea, some eb =>
    let v := mxPartial p.1 p.2 + off
    extAdd acc (decide (v < 0)) v.natAbs (ea + eb)
  | _, _ => extNan

/-- One accumulator element taken through the blocks in increasing order (R165, R169, R170). -/
def mxAccumulate (old : BitVec 34) (ps : List (MxBlk × MxBlk)) : BitVec 34 := ps.foldl (fun acc p => mxUpdate acc p 0) old

/-! ### The checksums of a block step (R187) -/

/-- By how much the partials of a row, or of a column, differ from its checksum, modulo 2^64. -/
def rowDiff (fs : List Flaw) (r : Nat) : Nat :=
  wrapOf 64 ((fs.filter (fun f => f.row == some r)).foldl (fun (n : Int) f => if f.col.isSome then n + f.delta else n - f.delta) 0)
def colDiff (fs : List Flaw) (c : Nat) : Nat :=
  wrapOf 64 ((fs.filter (fun f => f.col == some c)).foldl (fun (n : Int) f => if f.row.isSome then n + f.delta else n - f.delta) 0)

/-- The rows, and the columns, that do not agree with their checksums. -/
def badRows (fs : List Flaw) : List Nat := (List.range 32).filter (fun r => rowDiff fs r != 0)
def badCols (fs : List Flaw) : List Nat := (List.range 64).filter (fun c => colDiff fs c != 0)

/-- What a block step does with what its comparison found: the errors that its partials keep, what it corrects, the rows and
columns that are lost, and what it counts. -/
structure StepEnd where
  fs : List Flaw := []
  fix : Option (Nat × Nat × Int) := none
  rows : List Nat := []
  cols : List Nat := []
  corr : Nat := 0
  uncorr : Nat := 0
deriving DecidableEq, Repr

/-- A block step computed again: only an error that lasts is there still. -/
def stepAgain (fs : List Flaw) : StepEnd :=
  let gs := fs.filter Flaw.again
  if (badRows gs).isEmpty && (badCols gs).isEmpty then { fs := gs, corr := 1 }
  else { fs := gs, rows := badRows gs, cols := badCols gs, uncorr := 1 }

/-- The table of R187. -/
def stepEnd (fs : List Flaw) : StepEnd :=
  match badRows fs, badCols fs with
  | [], [] => { fs := fs }
  | [_], [] => { fs := fs }
  | [], [_] => { fs := fs }
  | [r], [c] => if rowDiff fs r = colDiff fs c then { fs := fs, fix := some (r, c, signedOf 64 (rowDiff fs r)), corr := 1 } else stepAgain fs
  | _, _ => stepAgain fs

/-- By how much the partial of an element is off that a block step accumulates. -/
def StepEnd.off (e : StepEnd) (r c : Nat) : Int :=
  let d := (e.fs.filter (fun f => f.row == some r && f.col == some c)).foldl (fun (n : Int) f => n + f.delta) 0
  match e.fix with | some (i, j, x) => if i = r ∧ j = c then d - x else d | none => d

/-- An element of a row and a column in one block step: lost with its row or column, or updated. -/
def StepEnd.update (e : StepEnd) (r c : Nat) (old : BitVec 34) (p : MxBlk × MxBlk) : BitVec 34 :=
  if e.rows.contains r || e.cols.contains c then extNan else mxUpdate old p (e.off r c)

/-- An element taken through its blocks, from block step i on: `es` holds the ends of those steps in which an error stands. -/
def mxThrough (es : List (Nat × StepEnd)) (r c : Nat) : Nat → BitVec 34 → List (MxBlk × MxBlk) → BitVec 34
  | _, old, [] => old
  | i, old, p :: ps =>
    mxThrough es r c (i + 1) (match es.find? (fun e => e.1 == i) with | none => mxUpdate old p 0 | some e => e.2.update r c old p) ps

/-! ### Tiles (R100, R164, R188) -/

def Tile.get (t : Tile) (row col : Nat) : BitVec 34 := Sp.getD t.elems (row * 64 + col) 0
def Tile.put (t : Tile) (row col : Nat) (v : BitVec 34) : Tile := { t with elems := Sp.put 0 t.elems (row * 64 + col) v }

/-- The key of a tile of a team's lower or upper cluster. -/
def tileKey (upper : Bool) (t : Nat) : Nat := if upper then 32 + t else t
def Team.tile (t : Team) (k : Nat) : Tile := Sp.getD t.accTiles k {}
def Team.setTile (t : Team) (k : Nat) (v : Tile) : Team := { t with accTiles := Sp.put {} t.accTiles k v }

/-- The tile of a row of the group, and the row in it (R302). -/
def MxReq.tileOf (r : MxReq) (tile lane : Nat) : Nat × Nat := (tileKey r.upper (tile + lane / 32), lane % 32)

/-- The keys of the tiles an instruction names. -/
def MxReq.tiles (r : MxReq) : List Nat :=
  match r.op.tile? with
  | none => []
  | some t => tileKey r.upper t :: (if r.wide then [tileKey r.upper (t + 1)] else [])

/-- An error of a block step that updates some elements: one in another element's partial does not arise, nor one in the checksum of a
row or column that has none (R187). -/
def Flaw.arises (f : Flaw) (updates : Nat → Nat → Bool) : Bool :=
  match f.row, f.col with
  | some r, some c => updates r c
  | some r, none => (List.range 64).any (fun c => updates r c)
  | none, some c => (List.range 32).any (fun r => updates r c)
  | none, none => false

/-- The ends of those of a tile's next n block steps in which an error stands (R187). -/
def Tile.judged (t : Tile) (n : Nat) (updates : Nat → Nat → Bool) : List (Nat × StepEnd) :=
  let fs := t.flaws.filter (fun f => decide (f.step < n) && f.arises updates)
  (fs.map Flaw.step).eraseDups.map (fun i => (i, stepEnd (fs.filter (fun f => f.step == i))))

/-- n block steps of a tile are past: each is counted once (R188), and the errors that come later are n steps nearer. -/
def Tile.stepped (t : Tile) (n : Nat) (es : List (Nat × StepEnd)) : Tile :=
  { t with
    corr := min (es.foldl (fun k e => k + e.2.corr) t.corr) 0xFFFF, uncorr := min (es.foldl (fun k e => k + e.2.uncorr) t.uncorr) 0xFFFF,
    flaws := (t.flaws.filter (fun f => decide (n ≤ f.step))).map (fun f => { f with step := f.step - n }) }

/-- The image of R164 as it is read: a zero fraction under exponent 0, the one NaN under exponent 1,023. -/
def extRead (w : Nat) : BitVec 34 :=
  let neg := w.testBit 33
  let ex := w / 2 ^ 23 % 2 ^ 10
  let frac := w % 2 ^ 23
  if ex = 0 then extImage neg 0 0 else if ex = 1023 ∧ frac ≠ 0 then extNan else extImage neg ex frac

/-- A loaded value as an accumulator element (R314). -/
def extOf (v : FVal) : BitVec 34 :=
  match v with
  | .fin neg m e => if m = 0 then extImage neg 0 0 else extRound neg m e
  | .inf neg => extImage neg 1023 0
  | _ => extNan

/-! ### MXMUL, MXBAT and MXLDB (R309 to R311) -/

/-- The columns and scale entries of B, read now (R309). -/
def State.mxSnapshot (s : State) (r : MxReq) : HeldB :=
  let b := mxB r.rec_
  let k := mxK r.rec_
  let n := b.rowBytes k
  { form := mxForm r.rec_,
    cols := (List.range 64).map (fun c => s.mxRead r r.base (c * n) n),
    scales := if b.present then (List.range (64 * mxNB r.rec_)).map (fun i => s.mxScale r b.soff i) else [] }

/-- The blocks of held column c. -/
def HeldB.column (h : HeldB) (c : Nat) : List MxBlk :=
  let f := h.form
  mxBlocks f.kind f.planes f.k f.blen f.bsp (h.cols.getD c (0, [])) (fun b => h.scales.getD (c * (f.k / f.blen) + b) none)

/-- The held B of a queued instruction's group (R309), while any of them is to be performed. -/
def State.mxHeldOf (s : State) (r : MxReq) : Option HeldB :=
  match (match r.agent with | .group g => s.group? g | _ => none) with
  | some x => if x.uid = r.uid then x.heldB else Sp.get? (s.cluster r.ckey).heldGone r.uid
  | none => Sp.get? (s.cluster r.ckey).heldGone r.uid

/-- What the block steps of an instruction do to one tile of the team: `rows` are its rows there, `n` the steps. -/
def Team.mxTile (t : Team) (key n : Nat) (rows : List MxRow) (row : MxRow → Nat) (cols : MxRow → Nat → Bool)
    (one : Tile → List (Nat × StepEnd) → MxRow → Tile) : Team × Bool :=
  let es := (t.tile key).judged n (fun i c => rows.any (fun w => row w == i && cols w c))
  if rows.isEmpty then (t, false)
  else (t.setTile key ((rows.foldl (fun tl w => one tl es w) (t.tile key)).stepped n es), es.any (fun e => e.2.uncorr != 0))

/-- The n block steps of MXMUL and MXBAT on each tile that they name: `here` picks the rows of a tile, `row` gives a row's place in
it, `cols` the columns that it updates, and `one` adds a row in. An uncorrectable one is a mismatch of a team's copies (R183). -/
def State.mxSteps (s : State) (r : MxReq) (n : Nat) (here : Nat → MxRow → Bool) (row : MxRow → Nat) (cols : MxRow → Nat → Bool)
    (one : Tile → List (Nat × StepEnd) → MxRow → Tile) : State :=
  match s.team? r.team with
  | none => s
  | some t =>
    let u := r.tiles.foldl (fun (u : Team × Bool) key =>
      let v := u.1.mxTile key n (r.rows.filter (here key)) row cols one
      (v.1, u.2 || v.2)) (t, false)
    let s := s.setTeam r.team u.1
    if u.2 && (s.pairOf? r.team).isSome then s.teamError r.team else s

/-- The product of R310 added into the tile, with the checksums of R187. -/
def State.mxMul (s : State) (r : MxReq) (tile : Nat) (hb : Bool) : State :=
  let a := mxA r.rec_
  let k := mxK r.rec_
  let blen := mxBlock r.rec_
  let held := if hb then (s.mxHeldOf r).getD (s.mxSnapshot r) else s.mxSnapshot r
  let cols := (List.range 64).map held.column
  s.mxSteps r (mxNB r.rec_) (fun key w => (r.tileOf tile w.lane).1 == key) (fun w => (r.tileOf tile w.lane).2) (fun _ _ => true) (fun tl es w =>
    let blocks := mxBlocks a.kind a.planes k blen a.present (s.mxRead r w.addr 0 (a.rowBytes k))
      (fun b => s.mxScale r a.soff (w.lane * mxNB r.rec_ + b))
    let row := (r.tileOf tile w.lane).2
    (cols.zip (List.range 64)).foldl (fun (tl : Tile) c => tl.put row c.2 (mxThrough es row c.2 0 (tl.get row c.2) (blocks.zip c.1))) tl)

/-- The blocks of sixteen segments, of row or column x (R311). -/
def State.mxSegments (s : State) (r : MxReq) (m : MxSide) (base x first : Nat) : List MxBlk :=
  let k := mxK r.rec_
  let nb := mxNB r.rec_
  (List.range 16).flatMap (fun sg =>
    mxBlocks m.kind m.planes k (mxBlock r.rec_) m.present (s.mxRead r base ((first + sg) * m.rowBytes k) (m.rowBytes k))
      (fun b => s.mxScale r m.soff (x * (16 * nb) + sg * nb + b)))

/-- The sixteen products of R311, with the checksums of R187. -/
def State.mxBat (s : State) (r : MxReq) : State :=
  s.mxSteps r (16 * mxNB r.rec_) (fun _ _ => true) MxRow.lane (fun w c => c / 4 == w.lane / 2) (fun tl es w =>
    let ab := s.mxSegments r (mxA r.rec_) w.addr w.lane 0
    (List.range 4).foldl (fun (tl : Tile) j =>
      let col := 4 * (w.lane / 2) + j
      tl.put w.lane col (mxThrough es w.lane col 0 (tl.get w.lane col) (ab.zip (s.mxSegments r (mxB r.rec_) r.base col (16 * col))))) tl)

/-! ### MXPLANE (R168, R308) -/

/-- A source element: an integer, or a floating value. -/
def mxElement (st : Ty) (w : Nat) : FVal :=
  if isFloat st then fpValue st w
  else let v := intValue st w; .fin (decide (v < 0)) v.natAbs 0

/-- What R168 makes of a block: the significands and the scale entry. -/
def mxConvert (kind planes : Nat) (u : Int) (xs : List FVal) (poisoned : Bool) : List Int × Option Int :=
  let zeros := xs.map (fun _ => (0 : Int))
  if kind = 2 then
    let finite (v : FVal) : Bool := match v with | .fin _ _ _ => true | _ => false
    if poisoned || !xs.all finite then (zeros, none)
    else
      let tops := xs.filterMap (fun v => match v with | .fin _ m e => if m = 0 then none else some (Int.ofNat (bitLen m) - 1 + e + u) | _ => none)
      let t := match tops with | [] => u | p :: ps => ps.foldl (fun a b => max a b) p
      if 254 < t then (zeros, none)
      else
        let t := max t (-254)
        let q := t - (Int.ofNat planes - 2)
        (xs.map (fun v =>
          match v with
          | .fin neg m e => max (-(2 ^ (planes - 1))) (min (2 ^ (planes - 1) - 1) (signedMag neg (roundAt .rn neg m (e + u) q).1))
          | _ => 0), some t)
  else
    let lo : Int := if kind = 1 then 0 else -(2 ^ (planes - 1))
    let hi : Int := if kind = 1 then 2 ^ planes - 1 else 2 ^ (planes - 1) - 1
    (xs.map (fun v => match v with | .fin neg m _ => max lo (min hi (signedMag neg m)) | _ => 0), some u)

/-- The bytes of a block's significands in a row: the place of each, and its value (R166). -/
def mxPlaneBytes (planes k blen blk : Nat) (ms : List Int) : List (Nat × Nat) :=
  let arr := (ms.map (fun m => wrapOf planes m)).toArray
  (List.range planes).flatMap (fun i => (List.range (blen / 8)).map (fun j =>
    (i * (k / 8) + blk * (blen / 8) + j,
     (List.range 8).foldl (fun v b => if (arr.getD (8 * j + b) 0).testBit i then v + 2 ^ b else v) 0)))

/-- A byte written on the matrix path (R89); the release sequences there end (R124). -/
def State.mxWrite (s : State) (r : MxReq) (base add v : Nat) : State :=
  match s.engineSpad r.req base add with
  | .spad ck off => ((s.noteLate r.late (.spad ck off) 1).publish (ck + 1) off 1 false {} []).modCluster ck (fun c => { c with spad := c.spad.write off 1 v })
  | _ => s

/-- The granules of a row that was written: poisoned, or clear where all their bytes were written (R90, R308). -/
def State.mxRowPoison (s : State) (r : MxReq) (base n : Nat) (poison : Bool) : State :=
  let ps := (List.range n).map (fun i => s.engineSpad r.req base i)
  if poison then
    ps.foldl (fun s p => match p with | .spad ck off => s.modCluster ck (fun c => { c with poison := insNat (off / 16) c.poison }) | _ => s) s
  else s.clearPoison (ps.map (fun p => (p, false)))

/-- One writing lane of MXPLANE. -/
def State.mxPlaneRow (s : State) (r : MxReq) (st : Ty) (bside : Bool) (w : MxRow) : State :=
  let m := mxTarget r.rec_ bside
  let k := mxK r.rec_
  let blen := mxBlock r.rec_
  let nb := mxNB r.rec_
  let dst := w.second % 2 ^ 32
  let hi := w.second / 2 ^ 32
  let size := st.bytes
  let src := s.mxRead r w.addr 0 (k * size)
  let elem (e : Nat) : FVal := mxElement st (src.1 / 2 ^ (8 * size * e) % 2 ^ (8 * size))
  let blk (s : State) (b : Nat) : State :=
    let es := (List.range blen).map (fun i => b * blen + i)
    let bad := !src.2.isEmpty && es.any (fun e => (List.range size).any (fun j => src.2.contains (e * size + j)))
    let c := mxConvert m.kind m.planes (mxUser hi) (es.map elem) bad
    let c := if bad && m.present then (c.1.map (fun _ => 0), none) else c
    let s := (mxPlaneBytes m.planes k blen b c.1).foldl (fun s p => s.mxWrite r dst p.1 p.2) s
    if m.present then
      let at_ := m.soff + 2 * (mxIndex hi * nb + b)
      let v := scalePair c.2
      (s.mxWrite r 0 at_ (v % 256)).mxWrite r 0 (at_ + 1) (v / 256)
    else s
  let s := (List.range nb).foldl blk s
  s.mxRowPoison r dst (m.rowBytes k) (!src.2.isEmpty && !m.present)

/-! ### MXDRAIN and MXFILL (R171, R172, R313, R314) -/

/-- An element below the smallest normal value of a drain's destination (R172). -/
def mxSubnormal (ty : Ty) (img : Bool) (v : BitVec 34) : Bool :=
  !img && (ty == .f32 || ty == .f16 || ty == .bf16) &&
    (match extValue v with | .fin neg m e => isTiny (tyFmt ty) .rn neg m e | _ => false)

/-- The elements of a lane's row, with their places from the row's first byte. -/
def Team.mxRowOf (t : Team) (r : MxReq) (tile lane : Nat) : List (Nat × BitVec 34) :=
  let p := r.tileOf tile lane
  (List.range 64).map (fun c => (c, (t.tile p.1).get p.2 c))

/-- The accesses of the rows, one for each granule (R91). -/
def MxReq.accs (r : MxReq) (size : Nat) (write : Bool) : List (Nat × Acc) :=
  r.rows.flatMap (fun w => (List.range (4 * size)).map (fun i =>
    (w.lane, ({ space := w.ck + 1, addr := w.off + 16 * i, size := 16, write := write, atomic := false, scope := .grp } : Acc))))

/-- One row stored, with the flags of its conversions. -/
def State.mxDrainRow (s : State) (r : MxReq) (g tile : Nat) (ty : Ty) (img : Bool) (w : MxRow) : State :=
  match s.team? r.team with
  | none => s
  | some t =>
    let size := mxElemSize ty img
    let out := (t.mxRowOf r tile w.lane).map (fun e =>
      (e.1, if img then (e.2.toNat, Fl.none_) else convertTo ty .rn (extValue e.2)))
    let s := (s.noteLate { r.late with path := .lane, time := r.time } (.spad w.ck w.off) (64 * size)).modCluster w.ck (fun c =>
      { c with
        spad := out.foldl (fun m e => m.write (w.off + e.1 * size) size e.2.1) c.spad,
        poison := c.poison.filter (fun k => !(w.off / 16 ≤ k && k < (w.off + 64 * size) / 16)) })
    let s := s.publish (w.ck + 1) w.off (64 * size) false {} []
    s.modGroup g (fun x => x.raise w.lane (out.foldl (fun f e => f.or e.2.2) Fl.none_))

/-- One row loaded on the lane path; none where it touches a poisoned granule (R314). A signalling NaN raises iv in the row's
lane (R148). -/
def State.mxFillRow (s : State) (r : MxReq) (g tile : Nat) (ty : Ty) (img : Bool) (w : MxRow) : State :=
  let size := mxElemSize ty img
  if (s.cluster w.ck).poisoned w.off (64 * size) then s
  else
    let p := r.tileOf tile w.lane
    let vs := (List.range 64).map (fun col => (col, s.peek (r.reader .lane) (.spad w.ck (w.off + col * size)) size))
    let iv := !img && vs.any (fun v => fpValue ty v.2 == .nan true)
    let s := (s.looked (r.reader .lane) (.spad w.ck w.off) (64 * size)).modTeam r.team (fun t =>
      t.setTile p.1 (vs.foldl (fun (tl : Tile) v => tl.put p.2 v.1 (if img then extRead v.2 else extOf (fpValue ty v.2))) (t.tile p.1)))
    if iv then s.modGroup g (fun x => x.raise w.lane { iv := true }) else s

/-- The counts of the named tiles set to zero (R188). -/
def State.mxClearCounts (s : State) (r : MxReq) : State :=
  s.modTeam r.team (fun t => r.tiles.foldl (fun t k => t.setTile k { t.tile k with corr := 0, uncorr := 0 }) t)

/-! ### The engine's time (R306) -/

/-- ⌈bytes / 8,192⌉. -/
def mxDelivery (bytes : Nat) : Nat := (bytes + 8191) / 8192

/-- The cluster cycles for which the engine keeps an instruction. -/
def MxReq.cycles (r : MxReq) : Nat :=
  let a := mxA r.rec_
  let b := mxB r.rec_
  let k := mxK r.rec_
  let nb := mxNB r.rec_
  let work := 2 * min a.planes b.planes
  let bBytes := 64 * b.rowBytes k + (if b.present then 128 * nb else 0)
  match r.op with
  | .mul _ hb =>
    let pass (lo : Nat) (first : Bool) : Nat :=
      let n := (r.rows.filter (fun w => w.lane / 32 == lo)).length
      max work (mxDelivery (n * (a.rowBytes k + (if a.present then 2 * nb else 0)) + (if first && !hb then bBytes else 0)))
    if r.wide then pass 0 true + pass 1 false else pass 0 true
  | .bat _ => max work (mxDelivery (16 * (r.rows.length * (a.rowBytes k + (if a.present then 2 * nb else 0)) + bBytes)))
  | .ldb => mxDelivery bBytes
  | .plane st bside => r.rows.length * ((k * st.bytes + (mxTarget r.rec_ bside).rowBytes k + 1023) / 1024 + 1)
  | .zero _ => if r.wide then 4 else 2
  | .drain _ _ _ | .fill _ _ _ => r.rows.length
  | _ => 1

/-! ### The engine's queue (R172, R303) -/

/-- Whether a queued instruction is held back by the drains that stand in service, or follows one of its group that is. -/
def mxBlocked (held : List MxReq) (after : List Nat) (r : MxReq) : Bool :=
  match r.op with
  | .accrd _ _ _ | .accwr _ _ _ _ => false
  | _ => after.contains r.uid || held.any (fun h => h.team == r.team && h.tiles.any (fun k => r.tiles.contains k))

/-- The instructions of the queue that are not held back. -/
def mxGoing (held : List MxReq) : List MxReq → List Nat → List MxReq
  | [], _ => []
  | r :: rest, after => if mxBlocked held after r then mxGoing held rest (r.uid :: after) else r :: mxGoing held rest after

/-- The first of them. -/
def mxNext (held q : List MxReq) : Option MxReq := (mxGoing held q []).head?

/-- The group of a queued instruction, while it is resident. -/
def State.mxGroup (s : State) (r : MxReq) : Option (Nat × Group) :=
  match r.agent with
  | .group g => (s.group? g).bind (fun x => if x.uid = r.uid then some (g, x) else none)
  | _ => none

/-- A join is done: its slot goes on at the next word (R303). -/
def State.mxJoined (s : State) (g : Nat) (b : Bool) : State :=
  match s.group? g with
  | none => s
  | some x => (s.setGroup g ((x.advance b).unpark (s.sliceNow x))).noteIssue g b []

/-- A join that has to stop its group: before its word, or, where the group is halted already, to be issued again. -/
def State.mxStop (s : State) (g : Nat) (b : Bool) (k : State → State) : State :=
  let s := s.modGroup g (fun x => x.modSlot b (fun v => { v with wait := .run }))
  match s.group? g with
  | none => s
  | some x => if x.run == .active then k s else s

/-- MXDRAIN in the engine's order: the assist (R172), the races of its stores (R136), then the rows (R313). -/
def State.mxDrain (s : State) (r : MxReq) (g : Nat) (x : Group) (tile : Nat) (ty : Ty) (img : Bool) : State :=
  match s.team? r.team with
  | none => s
  | some t =>
    if r.rows.any (fun w => (t.mxRowOf r tile w.lane).any (fun e => mxSubnormal ty img e.2)) then
      s.mxStop g r.slot (fun s =>
        let s := s.modCluster r.ckey (fun c => { c with mxHeld := c.mxHeld ++ [r] })
        s.takeEvent g r.slot 0x0B r.pc (lanesMask (r.rows.map MxRow.lane)) 0 r.base)
    else
      let accs := r.accs (mxElemSize ty img) true
      match s.raced x accs with
      | p :: ps => s.mxStop g r.slot (fun s => s.raceStop g r.slot r.pc (p :: ps) (fun l => ((r.rows.find? (fun w => w.lane == l)).map MxRow.addr).getD 0))
      | [] =>
        let s := s.remember x r.time r.rels (accs.map Prod.snd)
        let s := r.rows.foldl (fun s w => s.mxDrainRow r g tile ty img w) s
        s.mxJoined g r.slot

/-- MXFILL in the engine's order (R314); lanes that touched poison die (R90). -/
def State.mxFill (s : State) (r : MxReq) (g : Nat) (x : Group) (tile : Nat) (ty : Ty) (img : Bool) : State :=
  let size := mxElemSize ty img
  let accs := r.accs size false
  match s.raced x accs with
  | p :: ps => s.mxStop g r.slot (fun s => s.raceStop g r.slot r.pc (p :: ps) (fun l => ((r.rows.find? (fun w => w.lane == l)).map MxRow.addr).getD 0))
  | [] =>
    let s := s.remember x r.time r.rels (accs.map Prod.snd)
    let dying := (r.rows.filter (fun w => (s.cluster w.ck).poisoned w.off (64 * size))).map MxRow.lane
    let s := r.rows.foldl (fun s w => s.mxFillRow r g tile ty img w) s
    let s := (s.mxClearCounts r).mxJoined g r.slot
    dying.foldl (fun s l => s.consume g l) s

/-- The counts of the named tiles as MXCHK writes them (R315). -/
def Team.mxCounts (t : Team) (r : MxReq) : Nat :=
  let sum (f : Tile → Nat) : Nat := min (r.tiles.foldl (fun n k => n + f (t.tile k)) 0) 0xFFFF
  sum Tile.uncorr * 65536 + sum Tile.corr

/-- MXCHK in the engine's order (R315): in replay the logged result (R185); a lead's result is kept for its log. -/
def State.mxChk (s : State) (r : MxReq) (g : Nat) (clr : Bool) : State :=
  match s.team? r.team with
  | none => s
  | some t =>
    let v := match r.logged with | some w => w.toNat | none => t.mxCounts r
    let s := if clr then s.mxClearCounts r else s
    let s := s.modGroup g (fun x => r.rows.foldl (fun y w => y.setReg r.d w.lane (BitVec.ofNat 32 v)) x)
    let res : List (Nat × QWord) := r.rows.map (fun w => (w.lane, BitVec.ofNat 128 v))
    let s := match s.pairOf? r.team with
      | none => s
      | some p => s.modPair p.lead (fun q =>
          { q with
            entries := q.entries.map (fun (e : CmpEntry) => if e.op == r.id then { e with result := res } else e),
            log := q.log.map (fun (e : LogEntry) => if e.op == r.id then { e with result := res } else e) })
    s.mxJoined g r.slot

/-- ACCRD and ACCWR (R101, R345): one element read into the context's register, or written. -/
def State.mxElem (s : State) (r : MxReq) : State :=
  match r.agent, r.op with
  | .ctx c, .accrd tile row col =>
    let v := ((s.team? r.team).map (fun t => (t.tile (tileKey r.upper tile)).get row col)).getD 0
    s.modCtx c (fun x => { x with regs := if r.d = 0 then x.regs else Sp.put 0 x.regs r.d (v.setWidth 64), pc := x.pc + 1, wait := .run, instrs := x.instrs + 1 })
  | .ctx c, .accwr tile row col image =>
    let s := s.modTeam r.team (fun t =>
      let k := tileKey r.upper tile
      t.setTile k ((t.tile k).put row col (extRead image.toNat)))
    s.modCtx c (fun x => { x with pc := x.pc + 1, wait := .run, instrs := x.instrs + 1 })
  | _, _ => s

/-- A join performed for its group, if that is there. -/
def State.mxJoin (s : State) (r : MxReq) (k : Nat → Group → State) : State :=
  match s.mxGroup r with | none => s | some (g, x) => k g x

/-! ### The slice's B buffer (R309) -/

/-- The slice of an instruction's group, there or gone. -/
def State.mxSlice (s : State) (r : MxReq) : Option Nat :=
  match r.agent with
  | .group g => ((s.group? g).or (Sp.get? s.oldGroups g)).map Group.skey
  | _ => none

/-- The B buffer of a slice goes to one group: what another holds there goes to that group's spill slot, and what the one itself has in
its spill slot is restored (R309, R415). -/
def State.takeBuffer (s : State) (r : MxReq) : State :=
  match s.mxSlice r with
  | none => s
  | some sk =>
    let others := s.groups.filter (fun p => p.2.skey == sk && p.2.uid != r.uid && p.2.heldB.isSome && !p.2.heldSpilled)
    let s := others.foldl (fun s p =>
      let y := { p.2 with heldSpilled := true }
      (s.setGroup p.1 y).writeSpill y) s
    match s.mxGroup r with
    | some (g, x) => if x.heldSpilled then (s.modGroup g (fun x => { x with heldSpilled := false })).readSpill x else s
    | none => s

/-! ### What the matrix path reads (R131) -/

/-- The ranges of the scratchpad that an instruction reads on the matrix path: an address and a length (R308 to R311). -/
def MxReq.reads (r : MxReq) : List (Nat × Nat) :=
  let a := mxA r.rec_
  let b := mxB r.rec_
  let k := mxK r.rec_
  let nb := mxNB r.rec_
  let sides (n : Nat) (hb : Bool) : List (Nat × Nat) :=
    r.rows.flatMap (fun w => [(w.addr, n * a.rowBytes k), (a.soff + 2 * (w.lane * (n * nb)), 2 * n * nb)])
      ++ (if hb then [] else [(r.base, 64 * n * b.rowBytes k), (b.soff, 128 * n * nb)])
  match r.op with
  | .plane st _ => r.rows.map (fun w => (w.addr, k * st.bytes))
  | .ldb => [(r.base, 64 * b.rowBytes k), (b.soff, 128 * nb)]
  | .mul _ hb => sides 1 hb
  | .bat _ => sides 16 false
  | _ => []

/-- Whether a byte that was written lies in a range that an instruction reads (R89). -/
def State.mxCovers (s : State) (r : MxReq) (q : Nat × Nat) (e : Late) : Bool :=
  match s.engineAlloc r.req (q.1 / 2 ^ 20 % 16) with
  | none => false
  | some (ck, a) => e.space == ck + 1 && a.holds e.addr && decide ((e.addr - a.base + (a.size - q.1 % 2 ^ 20 % a.size)) % a.size < q.2)

/-- What an instruction's reads leave: the writes that they returned are marked, a free value is used up. -/
def State.mxLooked (s : State) (r : MxReq) : State :=
  match r.reads with
  | [] => s
  | qs => if s.late.isEmpty then s else { s.marksIn (r.reader .matrix) (fun e => qs.any (fun q => s.mxCovers r q e)) with free := s.free + 1 }

/-- One instruction's effect in the engine (R303). -/
def State.mxEffect (s : State) (r : MxReq) : State :=
  match r.op with
  | .plane st bside => r.rows.foldl (fun s w => s.mxPlaneRow r st bside w) s
  | .ldb =>
    let h := s.mxSnapshot r
    match s.mxGroup r with
    | some (g, _) => s.modGroup g (fun x => { x with heldB := some h })
    | none => s.modCluster r.ckey (fun c => { c with heldGone := Sp.set c.heldGone r.uid h })
  | .mul tile hb => s.mxMul r tile hb
  | .bat _ => s.mxBat r
  | .zero _ => s.modTeam r.team (fun t => r.tiles.foldl (fun t k => t.setTile k {}) t)
  | .drain tile ty img => s.mxJoin r (fun g x => s.mxDrain r g x tile ty img)
  | .fill tile ty img => s.mxJoin r (fun g x => s.mxFill r g x tile ty img)
  | .chk _ clr => s.mxJoin r (fun g _ => s.mxChk r g clr)
  | _ => s.mxElem r

/-- One instruction performed whole (R303); one that uses the held B has the slice's buffer first (R309). -/
def State.mxPerform (s : State) (r : MxReq) : State :=
  let buffer : Bool := match r.op with | .ldb | .mul _ true => true | _ => false
  ((if buffer then s.takeBuffer r else s).mxEffect r).mxLooked r

/-- MATRIX_ENGINE_STEP (R303): the next instruction that is not held back is performed. -/
def execMatrixEngineStep (cl : Nat) (s : State) : Host.Outcome State Fault Refusal :=
  .next (
    let c := s.cluster cl
    if !s.enginesRun cl then s
    else
      match mxNext c.mxHeld c.mxQ with
      | none => s
      | some r =>
        let s := s.modCluster cl (fun c => { c with mxQ := c.mxQ.filter (fun q => q.id != r.id) })
        let s := match s.ctxs.find? (fun p => p.1 / 8 == cl && p.2.launch == r.launch && p.2.num < 6) with
          | none => s
          | some p => s.modCtx p.1 (fun c => { c with mxCycles := c.mxCycles + r.cycles })
        let s := s.mxPerform r
        let s := s.modCluster cl (fun c => { c with heldGone := c.heldGone.filter (fun h => c.mxQ.any (fun q => q.uid == h.1)) })
        s.reapAll.exitWaiting)

/-! ### Issue (R302, R303, R305) -/

/-- What a matrix word names and takes from each lane. -/
structure MxPlan where
  op : MxOp
  srcs : List Named
  /-- the fields that are read in the lowest writing lane alone -/
  once : List Named := []
  dst : List Named := []
  rec_ : Nat → Nat := fun _ => 0
  base : Nat → Nat := fun _ => 0
  row : Nat → MxRow := fun j => { lane := j, addr := 0 }
  stride : Nat := 0
  d : Nat := 0

/-- A matrix instruction enters the queue: a join parks its slot, another lets the group go on. -/
def State.mxEnter (s : State) (p : MxPlan) (g : Nat) (b : Bool) (x : Group) (rows : List MxRow) (l : Nat)
    (logged : Option QWord) : State :=
  let id := s.nextId + 1
  let k := if p.op.joins then Clock.tick x.clk x.uid else x.clk
  let upper : Bool := match s.team? x.team with | none => false | some t => t.pair && x.cluster != t.cluster
  let r : MxReq :=
    { id := id, op := p.op, agent := .group g, uid := x.uid, launch := x.launch, team := x.team, part := x.part, cluster := x.cluster,
      upper := upper, wide := x.width == 64, slot := b, pc := (x.slot b).pc, rec_ := p.rec_ l, rows := rows,
      base := p.base l, stride := p.stride, d := p.d, logged := logged,
      time := Sp.getD k x.uid 0, rels := x.rels, clk := Clock.join k x.scClk }
  let s := { s with nextId := id }
  let s := s.modCluster x.ckey (fun c => { c with mxQ := c.mxQ ++ [r] })
  let s := s.setGroup g { x with clk := k }
  if p.op.joins then s.park g b .engine
  else
    s.goesOn g b (fun x => match p.op with | .ldb => { x with heldFor := some (mxForm r.rec_) } | _ => x)

/-- MXCHK under stand-in execution (R180, R185, R315): compared at issue. -/
def State.mxEnterCompared (s : State) (p : MxPlan) (g : Nat) (b : Bool) (x : Group) (rows : List MxRow) (l : Nat) (ws : List Nat) : State :=
  match p.op with
  | .chk tile clr =>
    if !s.isPaired x then s.mxEnter p g b x rows l none
    else
      let sig := signature 10 (lanesMask ws) [lanePartOf l tile 0 false clr.toNat 0] .grp .plain
      match s.compareAt x sig with
      | .stall => s
      | .diverged => s.endLaunch x.launch 0x0B 0
      | .replayed res => (s.mxEnter p g b x rows l (res.head?.map Prod.snd)).noteCompared g
      | _ =>
        let t := s.enterCompare x 10 sig (s.nextId + 1)
        (t.mxEnter p g b x rows l none).noteCompared g
  | _ => s.mxEnter p g b x rows l none

/-- ONE ISSUE of a matrix instruction (R302, R303, R305): a memory instruction that an earlier acquire holds (R277, R285). The record and
the base, the fields of `once`, are read in the lowest writing lane alone (R302). -/
def State.mxLane (s : State) (o : Ops) (plan : Group → MxPlan) (g : Nat) (b : Bool) (x : Group) : State :=
  let p := plan x
  let ws := x.writers b o.p o.pn
  s.gated g b x ((s.gate g b x ws false p.srcs p.dst).both (s.gate g b x (ws.take 1) false p.once []))
    (match (x.consumers ws p.srcs ++ x.consumers (ws.take 1) p.once).eraseDups with
     | l :: ls => s.consumeAt g (l :: ls)
     | [] =>
       match ws with
       | [] => (s.setGroup g (x.advance b)).noteIssue g b []
       | l :: _ =>
         let tiles := ((s.team? x.team).map Team.tiles).getD 0
         let rows := ws.map p.row
         match mxCheck x tiles p.op (p.rec_ l) rows ws with
         | some (d, ls) => s.stopBefore g b x 0x01 (lanesMask ls) d 0
         | none =>
           let moves : Option Nat := match p.op with | .drain _ ty i | .fill _ ty i => some (mxElemSize ty i) | _ => none
           let placed : List MxRow ⊕ (Check × List Nat × Nat) :=
             match moves with | some size => s.mxPlace x (p.base l) size rows ws | none => .inl rows
           match placed with
           | .inr (c, ls, addr) => s.stopBefore g b x c.cause (lanesMask ls) c.detail addr
           | .inl rows =>
             if s.memHeld g x then s.park g b .memOrder [0]
             else if moves.isSome && s.undone g x then s.park g b .memOrder [1]
             else if 16 ≤ (s.cluster x.ckey).mxQ.length then s
             else s.mxEnterCompared p g b x rows l ws)

/-- The issue by the current agent. -/
def State.mxIssue (s : State) (o : Ops) (plan : Group → MxPlan) : Host.Outcome State Fault Refusal :=
  s.withLane (fun g b x => s.mxLane o plan g b x)

/-- MXPLANE (R308). -/
def execMxplane (o : Ops) (src : Ty) (bside : Bool) (s : State) : Host.Outcome State Fault Refusal :=
  s.mxIssue o (fun x =>
    { op := .plane src bside, srcs := [(.src32, o.b), (.src64, o.c)], once := [(.src64, o.a)], rec_ := fun l => x.read .src64 o.a l 0,
      row := fun j => { lane := j, addr := x.read .src32 o.b j 0, second := x.read .src64 o.c j 0 } })

/-- MXLDB (R309). -/
def execMxldb (o : Ops) (s : State) : Host.Outcome State Fault Refusal :=
  s.mxIssue o (fun x =>
    { op := .ldb, srcs := [], once := [(.src64, o.a), (.src32, o.c)], rec_ := fun l => x.read .src64 o.a l 0, base := fun l => x.read .src32 o.c l 0 })

/-- MXMUL (R310). -/
def execMxmul (o : Ops) (tile : Nat) (hb : Bool) (s : State) : Host.Outcome State Fault Refusal :=
  s.mxIssue o (fun x =>
    { op := .mul tile hb, srcs := [(.src32, o.b)], once := (.src64, o.a) :: (if hb then [] else [(.src32, o.c)]),
      rec_ := fun l => x.read .src64 o.a l 0, base := fun l => if hb then 0 else x.read .src32 o.c l 0,
      row := fun j => { lane := j, addr := x.read .src32 o.b j 0 } })

/-- MXBAT (R311). -/
def execMxbat (o : Ops) (tile : Nat) (s : State) : Host.Outcome State Fault Refusal :=
  s.mxIssue o (fun x =>
    { op := .bat tile, srcs := [(.src32, o.b)], once := [(.src64, o.a), (.src32, o.c)], rec_ := fun l => x.read .src64 o.a l 0,
      base := fun l => x.read .src32 o.c l 0, row := fun j => { lane := j, addr := x.read .src32 o.b j 0 } })

/-- MXZERO (R312). -/
def execMxzero (o : Ops) (tile : Nat) (s : State) : Host.Outcome State Fault Refusal :=
  s.mxIssue o (fun _ => { op := .zero tile, srcs := [] })

/-- The plan of MXDRAIN and MXFILL: base and stride from the lowest writing lane, a row for each writing lane (R313). -/
def mxMovePlan (op : MxOp) (o : Ops) (b : Bool) (x : Group) : MxPlan :=
  let base := match x.writers b o.p o.pn with | [] => 0 | l :: _ => x.read .src32 o.a l 0
  { op := op, srcs := [], once := [(.src32, o.a)], base := fun _ => base, stride := 16 * o.c,
    row := fun j => { lane := j, addr := (base + j * (16 * o.c)) % 2 ^ 32 } }

/-- MXDRAIN (R313). -/
def execMxdrain (o : Ops) (tile : Nat) (ty : Ty) (x : Bool) (s : State) : Host.Outcome State Fault Refusal :=
  s.withLane (fun g b y => s.mxLane o (mxMovePlan (.drain tile ty x) o b) g b y)

/-- MXFILL (R314). -/
def execMxfill (o : Ops) (tile : Nat) (ty : Ty) (x : Bool) (s : State) : Host.Outcome State Fault Refusal :=
  s.withLane (fun g b y => s.mxLane o (mxMovePlan (.fill tile ty x) o b) g b y)

/-- MXCHK (R315). -/
def execMxchk (o : Ops) (tile : Nat) (clr : Bool) (s : State) : Host.Outcome State Fault Refusal :=
  s.mxIssue o (fun _ => { op := .chk tile clr, srcs := [], dst := [(.dst32, o.d)], d := o.d })

end Sys2Proof.Machine
end

