-- ==== Sys2Proof/Machine/Prompter.lean ====
section
/-! DEFINITION. The prompter (R56, R57, R326 to R335, R346, R347, R350, R351): when a context may execute, its faults, its
arithmetic, memory words, branches and control registers. -/

namespace Sys2Proof.Machine

/-! ### Registers and the execution of a word (R326, R328, R329) -/

/-- A prompter register: g0 reads zero. -/
def Ctx.reg (x : Ctx) (n : Nat) : DWord := if n = 0 then 0 else Sp.getD x.regs n 0

/-- A prompter register written: g0 discards it. -/
def Ctx.setReg (x : Ctx) (n : Nat) (v : DWord) : Ctx := if n = 0 then x else { x with regs := Sp.put 0 x.regs n v }

/-- The context goes on at an index. -/
def Ctx.goto (x : Ctx) (pc : BitVec 20) : Ctx := { x with pc := pc, wait := .run, stalled := false, instrs := x.instrs + 1 }

/-- The context goes on at its next word. -/
def Ctx.next (x : Ctx) : Ctx := x.goto (x.pc + 1)

/-- A word is done: its effect on the context, and the next word. -/
def State.ctxDone (s : State) (c : Nat) (f : Ctx → Ctx) : State := s.modCtx c (fun x => (f x).next)

/-- A generator context. -/
def Ctx.generator (x : Ctx) : Bool := decide (x.num < 6)

/-- Whether a context may execute a word: it is ready, or retries a stalled one (R57, R63). -/
def State.ctxMay (s : State) (c : Nat) (x : Ctx) : Bool :=
  s.running (c / 8) && x.active && x.imageLen != 0 && !x.mirror && !x.cutStop && (x.wait == .run || x.wait == .stall)

/-- Whether a register awaits a reply (R329). -/
def State.ctxAwaits (s : State) (c : Nat) (x : Ctx) (r : Nat) : Bool :=
  r != 0 && s.flight.any (fun (m : MemOp) => m.agent == Agent.ctx c && m.uid == x.uid && m.d == some r)

/-- The current prompter context, if the current agent is one. -/
def State.withCtx (s : State) (f : Nat → Ctx → State) : Host.Outcome State Fault Refusal :=
  match s.cur with
  | .prompter c =>
    match s.ctx? c with
    | some x => .next (f c x)
    | none => .fault .noIssuer
  | _ => .fault .noIssuer

/-! ### Faults (R78, R328, R334, R348, R350) -/

/-- A fault of the assist or system context enters its handler; inside a handler it makes the partition fatal (R350). -/
def State.enterHandler (s : State) (c : Nat) (x : Ctx) (code detail : Nat) : State :=
  if x.inHandler then s.fatal x.part 0
  else
    s.setCtx c { x with
      epc := x.pc.setWidth 64, ecause := BitVec.ofNat 64 (detail * 256 + code), pc := x.evec.setWidth 20, inHandler := true,
      wait := .run }

/-- The illegal-instruction fault with its detail (R328). -/
def State.ctxIllegal (s : State) (c : Nat) (x : Ctx) (detail : Nat) : State :=
  if x.generator then s.levelG c 0x23 { w3 := recWord3 detail 0 } else s.enterHandler c x 1 detail

/-- A prompter memory fault at an address (R334, R335). -/
def State.ctxMemFault (s : State) (c : Nat) (x : Ctx) (addr : Nat) : State :=
  if x.generator then s.levelG c 0x24 { w4 := BitVec.ofNat 64 addr } else s.enterHandler c x 2 0

/-- A word of the current context: not ready it does nothing, and a yield ends with the cycle; then the permission
(R328 detail 4), the registers it waits for, and its own effect. -/
def State.ctxWord (s : State) (ok : Ctx → Bool) (regs : List Nat) (k : Nat → Ctx → State) : Host.Outcome State Fault Refusal :=
  s.withCtx (fun c x =>
    if x.wait == .yield && s.running (c / 8) then s.setCtx c { x with wait := .run }
    else if !s.ctxMay c x then s
    else if !ok x then s.ctxIllegal c x 4
    else
      match regs.find? (fun r => s.ctxAwaits c x r) with
      | some r => s.setCtx c { x with wait := .reply, replyReg := some r }
      | none => k c x)

/-- Contexts that any word is permitted in. -/
def anyCtx (_ : Ctx) : Bool := true

/-- ILLEGAL_INSTRUCTION (R218, R328): a word that fails detail 1, 2 or 3. -/
def execIllegalInstruction (detail : Nat) (s : State) : Host.Outcome State Fault Refusal :=
  s.ctxWord anyCtx [] (fun c x => s.ctxIllegal c x detail)

/-- PROMPTER_MEMORY_FAULT (R335): a fetch at or beyond the end of the image. -/
def execPrompterMemoryFault (index : Nat) (s : State) : Host.Outcome State Fault Refusal :=
  s.ctxWord anyCtx [] (fun c x => s.ctxMemFault c x index)

/-! ### Arithmetic and constants (R330) -/

/-- A word that computes in registers. -/
def State.ctxAlu (s : State) (o : POps) (regs : List Nat) (f : Ctx → DWord) : Host.Outcome State Fault Refusal :=
  s.ctxWord anyCtx (regs ++ [o.d]) (fun c x => s.ctxDone c (fun y => y.setReg o.d (f x)))

/-- Two sources. -/
def State.ctxAlu2 (s : State) (o : POps) (f : DWord → DWord → DWord) : Host.Outcome State Fault Refusal :=
  s.ctxAlu o [o.a, o.b] (fun x => f (x.reg o.a) (x.reg o.b))

/-- imm32 sign-extended. -/
def popsSext (o : POps) : DWord := (BitVec.ofNat 32 o.imm).signExtend 64

/-- The high half of the product. -/
def prMulh (uns : Bool) (a b : DWord) : DWord :=
  if uns then BitVec.ofNat 64 (a.toNat * b.toNat / 2 ^ 64) else BitVec.ofInt 64 (a.toInt * b.toInt / 2 ^ 64)

/-- The quotient truncated toward zero, and the remainder with the dividend's sign; division never faults. -/
def prDiv (uns : Bool) (a b : DWord) : DWord :=
  if b = 0 then BitVec.allOnes 64 else if uns then BitVec.ofNat 64 (a.toNat / b.toNat) else BitVec.ofInt 64 (a.toInt.tdiv b.toInt)
def prRem (uns : Bool) (a b : DWord) : DWord :=
  if b = 0 then a else if uns then BitVec.ofNat 64 (a.toNat % b.toNat) else BitVec.ofInt 64 (a.toInt.tmod b.toInt)

/-- NOP (R351). -/
def execPrNop (_o : POps) (s : State) : Host.Outcome State Fault Refusal := s.ctxWord anyCtx [] (fun c _ => s.ctxDone c (fun y => y))
/-- ADD. -/
def execPrAdd (o : POps) (s : State) : Host.Outcome State Fault Refusal := s.ctxAlu2 o (fun a b => a + b)
/-- ADDI. -/
def execPrAddi (o : POps) (s : State) : Host.Outcome State Fault Refusal := s.ctxAlu o [o.a] (fun x => x.reg o.a + popsSext o)
/-- SUB. -/
def execPrSub (o : POps) (s : State) : Host.Outcome State Fault Refusal := s.ctxAlu2 o (fun a b => a - b)
/-- MUL. -/
def execPrMul (o : POps) (s : State) : Host.Outcome State Fault Refusal := s.ctxAlu2 o (fun a b => a * b)
/-- MULH. -/
def execPrMulh (o : POps) (uns : Bool) (s : State) : Host.Outcome State Fault Refusal := s.ctxAlu2 o (prMulh uns)
/-- DIV. -/
def execDiv (o : POps) (uns : Bool) (s : State) : Host.Outcome State Fault Refusal := s.ctxAlu2 o (prDiv uns)
/-- REM. -/
def execRem (o : POps) (uns : Bool) (s : State) : Host.Outcome State Fault Refusal := s.ctxAlu2 o (prRem uns)
/-- AND. -/
def execPrAnd (o : POps) (s : State) : Host.Outcome State Fault Refusal := s.ctxAlu2 o (fun a b => a &&& b)
/-- OR. -/
def execPrOr (o : POps) (s : State) : Host.Outcome State Fault Refusal := s.ctxAlu2 o (fun a b => a ||| b)
/-- XOR. -/
def execPrXor (o : POps) (s : State) : Host.Outcome State Fault Refusal := s.ctxAlu2 o (fun a b => a ^^^ b)
/-- SHL. -/
def execPrShl (o : POps) (s : State) : Host.Outcome State Fault Refusal := s.ctxAlu2 o (fun a b => a <<< (b.toNat % 64))
/-- SHR. -/
def execPrShr (o : POps) (s : State) : Host.Outcome State Fault Refusal := s.ctxAlu2 o (fun a b => a >>> (b.toNat % 64))
/-- SRA. -/
def execPrSra (o : POps) (s : State) : Host.Outcome State Fault Refusal := s.ctxAlu2 o (fun a b => a.sshiftRight (b.toNat % 64))
/-- SLT. -/
def execSlt (o : POps) (s : State) : Host.Outcome State Fault Refusal := s.ctxAlu2 o (fun a b => if a.toInt < b.toInt then 1 else 0)
/-- SLTN. -/
def execSltn (o : POps) (s : State) : Host.Outcome State Fault Refusal := s.ctxAlu2 o (fun a b => if a.toNat < b.toNat then 1 else 0)
/-- LI. -/
def execLi (o : POps) (s : State) : Host.Outcome State Fault Refusal := s.ctxAlu o [] (fun _ => popsSext o)
/-- LIH. -/
def execLih (o : POps) (s : State) : Host.Outcome State Fault Refusal :=
  s.ctxAlu o [] (fun x => (x.reg o.d &&& 0xFFFFFFFF) ||| BitVec.ofNat 64 (o.imm * 2 ^ 32))

/-! ### Branches (R335) -/

/-- The target of a relative branch: 21 bits of displacement, modulo 2^20. -/
def popsTarget (o : POps) (pc : BitVec 20) : BitVec 20 := pc + BitVec.ofNat 20 o.imm

/-- The condition of BC. -/
def prCond (c : PrCond) (a b : DWord) : Bool :=
  match c with
  | .eq => a == b | .ne => a != b | .lt => decide (a.toInt < b.toInt) | .ge => decide (b.toInt ≤ a.toInt)
  | .ltn => decide (a.toNat < b.toNat) | .gen => decide (b.toNat ≤ a.toNat)

/-- B. -/
def execB (o : POps) (s : State) : Host.Outcome State Fault Refusal :=
  s.ctxWord anyCtx [] (fun c x => s.modCtx c (fun y => y.goto (popsTarget o x.pc)))
/-- BC. -/
def execBc (o : POps) (cond : PrCond) (s : State) : Host.Outcome State Fault Refusal :=
  s.ctxWord anyCtx [o.a, o.b] (fun c x =>
    s.modCtx c (fun y => if prCond cond (x.reg o.a) (x.reg o.b) then y.goto (popsTarget o x.pc) else y.next))
/-- CALL. -/
def execPrCall (o : POps) (s : State) : Host.Outcome State Fault Refusal :=
  s.ctxWord anyCtx [31] (fun c x => s.modCtx c (fun y => (y.setReg 31 ((x.pc + 1).setWidth 64)).goto (popsTarget o x.pc)))
/-- JR. -/
def execJr (o : POps) (s : State) : Host.Outcome State Fault Refusal :=
  s.ctxWord anyCtx [o.a] (fun c x => s.modCtx c (fun y => y.goto ((x.reg o.a + popsSext o).setWidth 20)))

/-! ### Memory (R331 to R334) -/

/-- The context's accesses that are not performed yet, and those that hold later ones (R277, R331). -/
def State.ctxUndone (s : State) (c : Nat) (x : Ctx) : Bool :=
  s.flight.any (fun (m : MemOp) => m.agent == Agent.ctx c && m.uid == x.uid && !m.performed)
def State.ctxHeld (s : State) (c : Nat) (x : Ctx) : Bool :=
  s.flight.any (fun (m : MemOp) => m.agent == Agent.ctx c && m.uid == x.uid &&
    ((orderAcquires m.order && m.kind.reads && m.d.isSome) || (m.order == .sc && !m.performed)))

/-- What the context did before is done, and known to it: what a release of it waits for (R126, R130). -/
def State.ctxQuiet (s : State) (c : Nat) (x : Ctx) : Bool := !s.ctxUndone c x && !s.ctxHeld c x

/-- No team: the team of an access that no team makes. -/
def noTeam : Nat := 2 ^ 40

/-- The team that a handle names on a cluster; a PAIR team has one handle on both of its clusters. -/
def State.teamAt (s : State) (ck handle : Nat) : Option (Nat × Team) :=
  s.teams.find? (fun (t : Nat × Team) => t.2.handle == handle && !t.2.exited && (t.2.ckey == ck || (t.2.pair && t.2.ckey + 1 == ck)))

/-- The team that a context may name by a handle (R332, R340): a generator one of its kernel, the others any. -/
def State.ctxTeam (s : State) (c : Nat) (x : Ctx) (handle : Nat) : Option (Nat × Team) :=
  (s.teamAt (c / 8) handle).bind (fun t => if !x.generator || t.2.ctx == c then some t else none)

/-- A copy that stands in for another. -/
def Team.isStandIn (t : Team) : Bool := match t.copy with | .standIn _ => true | _ => false

/-- Stores and atomics to device memory that a context makes for stand-in teams are discarded (R179): of a generator that has
served such teams only, and of the assist context for such a team's event (R172). -/
def State.ctxDiscards (s : State) (c : Nat) (x : Ctx) : Bool :=
  if x.generator then !x.led && (s.launch? x.launch).any (fun l => l.slack != 0)
  else
    x.num == 6 && (match x.current with
      | none => false
      | some r => (s.teamAt (c / 8) (field r.w0 48 8)).any (fun t => t.2.isStandIn))

/-- An access of a context sent to its home. -/
def State.ctxSend (s : State) (c : Nat) (x : Ctx) (m : PMem) (kind : AccKind) (a : LaneAcc) (d : Option Nat) : State :=
  let id := s.nextId + 1
  let k := Clock.tick x.clk x.uid
  let atomic := m.order != .plain
  let op : MemOp :=
    { id := id, agent := .ctx c, uid := x.uid, launch := x.launch, part := x.part, cluster := x.cluster, team := noTeam, kind := kind,
      scope := m.scope, order := m.order, atomic := atomic, lanes := [{ a with check := false }], d := d, judged := true,
      counter := if x.generator then kind.counter else 0, who := s.standing (.ctx c), time := Sp.getD k x.uid 0,
      clk := Clock.join k x.scClk,
      relClk := (if orderReleases m.order then [(m.scope, k)] else []) ++ (if atomic then x.relFence else []) }
  let s := { s with nextId := id }
  (s.ctxDone c (fun y => { y with clk := k })).launchOp op

/-- A memory word whose order allows it to be sent now; otherwise it is retried. -/
def State.ctxOrdered (s : State) (c : Nat) (x : Ctx) (m : PMem) (k : State) : State :=
  if s.ctxHeld c x || (orderReleases m.order && s.ctxUndone c x) then s else k

/-- A context waits for a walk (R334, R421). -/
def State.ctxWalk (s : State) (c : Nat) (x : Ctx) (addr : Nat) (write : Bool) : State :=
  let t := s.wantWalk { part := x.part, cluster := x.cluster, va := addr, write := write, agent := .ctx c } (c / 8)
  if t.ctxWalking c then t.setCtx c { x with wait := .walk } else s

/-- The place of a device access of a context (R81, R331, R334, R426). -/
def State.ctxDevice (s : State) (c : Nat) (x : Ctx) (addr size : Nat) (write : Bool) (k : Place → State) : State :=
  if (deviceCheck addr size).isSome then s.ctxMemFault c x addr
  else
    match s.translate (c / 8) addr write with
    | .miss => s.ctxWalk c x addr write
    | .hit phys _ => if s.unitMay x.part phys write then k (s.servedAt phys) else s.violation (.ctx c) false x.part x.cluster addr

/-- What a scratchpad address names for a context that acts for a team (R87, R97 to R99, R332). -/
def State.ctxSpadRef (s : State) (x : Ctx) (tm : Team) (addr : Nat) : SpadRef :=
  let slot := addr / 2 ^ 20 % 16
  let off := addr % 2 ^ 20
  let named (t : Team) (cluster : Nat) : SpadRef :=
    let a := t.allocOn cluster
    .at_ (clusterKey t.part cluster) off a.declared a.base
  if 2 ^ 24 ≤ addr then .bad
  else if slot = 0 then named tm x.cluster
  else if slot ≤ 8 then
    match tm.ensemble.bind (fun e => s.ensembles.find? (fun y => y.launch == tm.launch && y.e == e.1)) with
    | none => .never
    | some y =>
      match Sp.get? y.members (slot - 1), Sp.get? y.joined (slot - 1) with
      | some t, some (uid, time) =>
        if Clock.has x.clk uid time then (match s.team? t with | some mt => named mt (mt.reachedOn (mt.uid == tm.uid) x.cluster) | none => .revoked) else .never
      | _, _ => if y.revoked.contains (slot - 1) then .revoked else .never
  else if slot = 15 && tm.pair then named tm (if x.cluster = tm.cluster then tm.cluster + 1 else tm.cluster)
  else .bad

/-- The place of a scratchpad access of a context (R88 orders 1 to 4, R332): a failing check is a prompter memory fault. -/
def State.ctxSpad (s : State) (c : Nat) (x : Ctx) (v : DWord) (o : POps) (size : Nat) (whole : Bool) (k : Place → State) : State :=
  let addr := wrapOf 32 (Int.ofNat (v.toNat % 2 ^ 32) + (popsSext o).toInt)
  match s.ctxTeam c x (field v 32 8) with
  | none => s.ctxMemFault c x addr
  | some (_, tm) =>
    match s.ctxSpadRef x tm addr with
    | .at_ ck off declared base =>
      if addr % size ≠ 0 || declared < off + size || (whole && (s.cluster ck).poison.contains ((base + off) / 16)) then s.ctxMemFault c x addr
      else k (.spad ck (base + off))
    | _ => s.ctxMemFault c x addr

/-- A load's, store's or atomic's part: of its operand as many bits as the access has (R333). -/
def ctxPart (addr : Nat) (p : Place) (size : Nat) (write : Bool) (v : DWord) : LaneAcc :=
  { lane := 0, addr := addr, place := p, size := size, data := BitVec.ofNat 128 (v.toNat % 2 ^ (8 * size)), write := write }

/-- LD (R331). -/
def execPrLd (o : POps) (m : PMem) (s : State) : Host.Outcome State Fault Refusal :=
  s.ctxWord anyCtx [o.a, o.d] (fun c x =>
    let addr := (x.reg o.a + popsSext o).toNat
    s.ctxOrdered c x m (s.ctxDevice c x addr m.ty.bytes false (fun p =>
      s.ctxSend c x m (.load m.ty) (ctxPart addr p m.ty.bytes false 0) (some o.d))))

/-- ST (R331); for a stand-in it is discarded (R179). -/
def execPrSt (o : POps) (m : PMem) (s : State) : Host.Outcome State Fault Refusal :=
  s.ctxWord anyCtx [o.a, o.b] (fun c x =>
    let addr := (x.reg o.a + popsSext o).toNat
    s.ctxOrdered c x m (s.ctxDevice c x addr m.ty.bytes true (fun p =>
      if s.ctxDiscards c x then s.ctxDone c (fun y => y)
      else s.ctxSend c x m (.store m.ty.bytes) (ctxPart addr p m.ty.bytes true (x.reg o.b)) none)))

/-- LDS (R332). -/
def execPrLds (o : POps) (m : PMem) (s : State) : Host.Outcome State Fault Refusal :=
  s.ctxWord anyCtx [o.a, o.d] (fun c x =>
    s.ctxOrdered c x m (s.ctxSpad c x (x.reg o.a) o m.ty.bytes false (fun p =>
      s.ctxSend c x m (.load m.ty) (ctxPart 0 p m.ty.bytes false 0) (some o.d))))

/-- STS (R332): full bits are not changed. -/
def execPrSts (o : POps) (m : PMem) (s : State) : Host.Outcome State Fault Refusal :=
  s.ctxWord anyCtx [o.a, o.b] (fun c x =>
    s.ctxOrdered c x m (s.ctxSpad c x (x.reg o.a) o m.ty.bytes true (fun p =>
      s.ctxSend c x m (.store m.ty.bytes) (ctxPart 0 p m.ty.bytes true (x.reg o.b)) none)))

/-- ATOM (R333); for a stand-in it is discarded and returns 0 (R179). -/
def execPrAtom (o : POps) (m : PMem) (s : State) : Host.Outcome State Fault Refusal :=
  s.ctxWord anyCtx [o.a, o.b, o.d] (fun c x =>
    let addr := (x.reg o.a).toNat
    s.ctxOrdered c x m (s.ctxDevice c x addr m.ty.bytes true (fun p =>
      if s.ctxDiscards c x then s.ctxDone c (fun y => y.setReg o.d 0)
      else s.ctxSend c x m (.atom (o.imm % 16) m.ty) (ctxPart addr p m.ty.bytes true (x.reg o.b)) (some o.d))))

/-- FENCE (R285, R333): with rel it waits for every earlier access, with acq for every earlier atomic read; sc takes its place in the sc
order (R133). -/
def execPrFence (_o : POps) (sc : Scope) (od : Order) (s : State) : Host.Outcome State Fault Refusal :=
  s.ctxWord anyCtx [] (fun c x =>
    let reads := s.flight.any (fun (m : MemOp) => m.agent == Agent.ctx c && m.uid == x.uid && m.atomic && m.d.isSome)
    if (orderReleases od && s.ctxUndone c x) || (orderAcquires od && reads) then s
    else
      let taken := if orderAcquires od then s.taken sc (s.standing (.ctx c)) x.acqPend else []
      let order := if od == .sc then Clock.join s.scClk [(x.uid, Sp.getD x.clk x.uid 0)] else s.scClk
      let s : State := { s with scClk := order }
      s.ctxDone c (fun y =>
        let k := Clock.join (Clock.tick y.clk y.uid) taken
        { y with clk := k, scClk := if od == .sc then Clock.join y.scClk order else y.scClk, relFence := if orderReleases od then y.relFence.filter (fun r => r.1 != sc) ++ [(sc, k)] else y.relFence }))

/-! ### Cue points and the rest (R346, R350, R351) -/

/-- CUEPT (R346): once every earlier access is performed; the curtain counts it (R424). -/
def execPrCuept (o : POps) (s : State) : Host.Outcome State Fault Refusal :=
  s.ctxWord anyCtx [o.a] (fun c x =>
    let n := (x.reg o.a).toNat % 2 ^ 32
    if s.ctxUndone c x then s
    else if n ≤ x.cue.toNat then s.ctxIllegal c x 5
    else
      (s.ctxDone c (fun y =>
        { y with cue := BitVec.ofNat 32 n, issuedCue := true, cutStop := y.generator && (s.part y.part).stopsAt n })).cutSettle x.part)

/-- ERET (R350): in a generator context it is not permitted. -/
def execEret (_o : POps) (s : State) : Host.Outcome State Fault Refusal :=
  s.ctxWord (fun x => !x.generator) [] (fun c x => s.setCtx c { x.goto (x.epc.setWidth 20) with inHandler := false })

/-- YIELD (R57, R351): not ready until the next cycle. -/
def execPrYield (_o : POps) (s : State) : Host.Outcome State Fault Refusal :=
  s.ctxWord anyCtx [] (fun c _ => s.modCtx c (fun y => { y.next with wait := .yield }))

/-! ### Control registers (R347, R408) -/

/-- Whether a context may name a control register. -/
def csrPermitted (n : Nat) (x : Ctx) : Bool :=
  if n ≤ 0x009 then true else if 0x100 ≤ n ∧ n ≤ 0x103 then !x.generator else x.num == 7

/-- cstat (R347). -/
def Ctx.cstat (x : Ctx) : Nat :=
  x.stalled.toNat * 2 ^ 23 + (match x.openSeg with | some g => x.nextOff * 2 ^ 10 + g * 4 + 2 | none => 0) + (!x.inService.isEmpty).toNat

/-- A control register as it reads. -/
def State.csrRead (s : State) (c : Nat) (x : Ctx) (n : Nat) : DWord :=
  let cl := s.cluster (c / 8)
  match n with
  | 0x000 => BitVec.ofNat 64 x.num
  | 0x001 => x.evmask
  | 0x002 => BitVec.ofNat 64 x.cstat
  | 0x003 => if x.generator then BitVec.ofNat 64 x.epoch else 0
  | 0x004 => BitVec.ofNat 64 (min x.events.length 64)
  | 0x005 => x.cue.setWidth 64
  | 0x006 => cl.clock
  | 0x007 => x.image
  | 0x008 => if x.generator then BitVec.ofNat 64 x.quota else 0
  | 0x009 => if x.generator then BitVec.ofNat 64 x.chunks else 0
  | 0x100 => x.epc
  | 0x101 => x.ecause
  | 0x102 => x.evec
  | 0x103 => x.escratch
  | 0x113 => if cl.tlbBusy.isEmpty then 0 else 1
  | 0x114 => BitVec.ofNat 64 (cl.copyCount * 2 ^ 32 + cl.copyTeam * 2 ^ 24 + cl.copyAddr)
  | _ => 0

/-- A control register written; reserved bits keep reading zero (R4). -/
def Ctx.csrWrite (x : Ctx) (n : Nat) (v : DWord) : Ctx :=
  match n with
  | 0x001 => { x with evmask := v &&& 0xFFE }
  | 0x100 => { x with epc := v }
  | 0x101 => { x with ecause := v &&& 0xFFFFF }
  | 0x102 => { x with evec := v }
  | 0x103 => { x with escratch := v }
  | _ => x

/-- CSRR (R347). -/
def execCsrr (o : POps) (s : State) : Host.Outcome State Fault Refusal :=
  s.ctxWord (csrPermitted (o.imm % 4096)) [o.d] (fun c x => s.ctxDone c (fun y => y.setReg o.d (s.csrRead c x (o.imm % 4096))))

/-- CSRW of a register that only holds its value (R347). -/
def execCsrw (o : POps) (s : State) : Host.Outcome State Fault Refusal :=
  s.ctxWord (csrPermitted (o.imm % 4096)) [o.a] (fun c x => s.ctxDone c (fun y => y.csrWrite (o.imm % 4096) (x.reg o.a)))

end Sys2Proof.Machine
end

