-- ==== Sys2Proof/Machine/Compose.lean ====
section
/-! DEFINITION. Composition, segments and starting teams (R59 to R71, R225, R336 to R339): templates and holes, the check of
a word, the emit queue and its drain into the script store, seal, free and release. -/

namespace Sys2Proof.Machine

/-! ### The check of a word and its faults (R59, R60, R214) -/

/-- COMPOSE_FAULT with its reason and block index (R78, R214). -/
def State.composeFault (s : State) (c reason index : Nat) : State := s.levelG c 0x20 { w3 := recWord3 (reason * 2 ^ 16 + index) 0 }

/-- The reason for which a lane word fails the check of R60. -/
def wordReason (w : DWord) : Option Nat :=
  match decodeLane w.toNat with | .ok _ => none | .error r => some r.code

/-- Word i of the image copy (R326). -/
def Ctx.imageWord (x : Ctx) (i : Nat) : DWord := Sp.getD x.words i 0

/-- The image index a base register and an immediate name (R336). -/
def composeIndex (v : DWord) (imm : Nat) : Nat := (v.toNat + imm % 2 ^ 20) % 2 ^ 20

/-- The open segment, with its table entry. -/
def Ctx.openEntry (x : Ctx) : Option (Nat × Segment) := x.openSeg.bind (fun g => (Sp.get? x.segs g).map (fun e => (g, e)))

/-- Words queued at offsets of the open segment, its length raised (R61, R337). -/
def Ctx.queue (x : Ctx) (seg : Nat) (ws : List EmitWord) : Ctx :=
  { x with
    emitQ := x.emitQ ++ ws,
    segs := Sp.modify x.segs seg (fun e => { e with len := ws.foldl (fun n w => max n (w.off + 1)) e.len }) }

/-- The provenance of a word (R68); its epoch is 0 until the seal. -/
def Ctx.prov (x : Ctx) (index : Nat) : BitVec 32 := BitVec.ofNat 32 (x.num * 2 ^ 29 + index % 2 ^ 20)

/-! ### Stalls (R63) -/

/-- The word at the head of a queue needs a chunk that the quota does not give. -/
def Ctx.starved (x : Ctx) : Bool :=
  match x.emitQ with
  | [] => false
  | w :: _ =>
    match Sp.get? x.segs w.seg with
    | none => false
    | some e => !e.chunks.contains (w.off / 64) && decide (x.quota ≤ x.chunks)

/-- A composing instruction that finds the queue full: it stalls and holds the unit, or, where no chunk can come back,
raises SCRIPT_FULL (R63). -/
def State.composeStall (s : State) (c : Nat) (x : Ctx) : State :=
  if x.starved && !x.segs.any (fun g => g.2.state == .retiring) then s.levelG c 0x21 {}
  else
    let s := s.setCtx c { x with wait := .stall, stalled := true }
    s.modCluster (c / 8) (fun k => { k with compHolder := some x.num })

/-- The unit is given back. -/
def State.composeFree (s : State) (c : Nat) (x : Ctx) : State :=
  s.modCluster (c / 8) (fun k => { k with compHolder := if k.compHolder == some x.num then none else k.compHolder })

/-- A composition word: permitted in generator contexts, and ready while no other context holds the unit (R63, R336). -/
def State.composeWord (s : State) (regs : List Nat) (k : Nat → Ctx → State) : Host.Outcome State Fault Refusal :=
  s.ctxWord Ctx.generator regs (fun c x =>
    match (s.cluster (c / 8)).compHolder with
    | some h => if h = x.num then k c x else s
    | none => k c x)

/-! ### Templates and fields (R59, R225, R336) -/

/-- The holes of a hole word: position, width, filled. -/
def holesOf (w : DWord) : List (Nat × Nat × Bool) :=
  (List.range (field w 60 4)).map (fun h => (field w (12 * h + 6) 6, field w (12 * h) 6, false))

/-- Whether a hole list breaks R336. -/
def holesBad (w : DWord) : Bool :=
  let hs := holesOf w
  decide (5 < field w 60 4)
    || hs.any (fun h => h.2.1 == 0 || decide (32 < h.2.1) || decide (64 < h.1 + h.2.1))
    || (List.range hs.length).any (fun i => (List.range i).any (fun j =>
        match hs[i]?, hs[j]? with | some a, some b => rangesMeet a.1 a.2.1 b.1 b.2.1 | _, _ => false))

/-- TMPL (R336): a template beyond the image is a prompter memory fault, a bad hole list COMPOSE_FAULT with reason 9. -/
def execTmpl (o : POps) (s : State) : Host.Outcome State Fault Refusal :=
  s.composeWord [o.a] (fun c x =>
    let i := composeIndex (x.reg o.a) o.imm
    if x.imageLen ≤ i then s.ctxMemFault c x i
    else if x.imageLen ≤ i + 1 then s.ctxMemFault c x (i + 1)
    else if holesBad (x.imageWord (i + 1)) then s.composeFault c 9 0
    else s.ctxDone c (fun y => { y with comp := x.imageWord i, holes := holesOf (x.imageWord (i + 1)) }))

/-- A field of a word replaced by the low bits of a value. -/
def setField (w : DWord) (pos width : Nat) (v : DWord) : DWord :=
  let m := BitVec.ofNat 64 ((2 ^ width - 1) * 2 ^ pos)
  (w &&& ~~~m) ||| ((v <<< pos) &&& m)

/-- FLD (R336): a hole of exactly this position and width is filled. -/
def execFld (o : POps) (s : State) : Host.Outcome State Fault Refusal :=
  s.composeWord [o.a] (fun c x =>
    let pos := o.imm % 64
    let width := o.imm / 256 % 128
    if width = 0 ∨ 64 < width ∨ 64 < pos + width then s.ctxIllegal c x 5
    else s.ctxDone c (fun y =>
      { y with comp := setField y.comp pos width (x.reg o.a), holes := y.holes.map (fun h => if h.1 = pos ∧ h.2.1 = width then (h.1, h.2.1, true) else h) }))

/-- The word that EMIT composes: the unfilled holes take the low bits of the registers from a on; and whether a value is
wider than its hole. -/
def Ctx.compose (x : Ctx) (a : Nat) : DWord × Bool :=
  let open_ := x.holes.filter (fun h => !h.2.2)
  (open_.zip (List.range open_.length)).foldl (fun (w : DWord × Bool) h =>
    let v := x.reg (a + h.2)
    (setField w.1 h.1.1 h.1.2.1 v, w.2 || decide (2 ^ h.1.2.1 ≤ v.toNat))) (x.comp, false)

/-- The registers that EMIT reads. -/
def Ctx.emitRegs (x : Ctx) (a : Nat) : List Nat := (List.range (x.holes.filter (fun h => !h.2.2)).length).map (fun i => a + i)

/-- EMIT and EMITX (R59 to R61, R214, R336): `at_` is a stated offset. -/
def State.emitWord (s : State) (a : Nat) (at_ : Option Nat) (c : Nat) (x : Ctx) : State :=
  let n := (x.emitRegs a).length
  if 0 < n ∧ 31 < a + n - 1 then s.ctxIllegal c x 6
  else
    match (x.emitRegs a).find? (fun r => s.ctxAwaits c x r) with
    | some r => s.setCtx c { x with wait := .reply, replyReg := some r }
    | none =>
      let w := x.compose a
      let off := at_.getD x.nextOff
      let capacity : Bool := match x.openEntry with | none => false | some (_, e) => decide (off < e.cap)
      match wordReason w.1, x.openSeg with
      | some r, _ => s.composeFault c r 0
      | none, og =>
        if w.2 then s.composeFault c 7 0
        else if !capacity then s.composeFault c 8 0
        else if 16 ≤ x.emitQ.length then s.composeStall c x
        else
          (s.composeFree c x).ctxDone c (fun y =>
            let g := og.getD 0
            let y := y.queue g [{ seg := g, off := off, word := w.1, prov := y.prov x.pc.toNat }]
            if at_.isSome then y else { y with nextOff := y.nextOff + 1 })

/-- EMIT. -/
def execEmit (o : POps) (s : State) : Host.Outcome State Fault Refusal :=
  s.composeWord [] (fun c x => s.emitWord o.a none c x)

/-- EMITX. -/
def execEmitx (o : POps) (s : State) : Host.Outcome State Fault Refusal :=
  s.composeWord [o.b] (fun c x => s.emitWord o.a (some (x.reg o.b).toNat) c x)

/-- The first word of a block that fails, with its reason: the check of the word, then the capacity (R60). -/
def Ctx.blockFault (x : Ctx) (i n : Nat) : Option (Nat × Nat) :=
  let room : Nat := match x.openEntry with | none => 0 | some (_, e) => e.cap - x.nextOff
  ((List.range n).filterMap (fun k =>
    match wordReason (x.imageWord (i + k)) with
    | some r => some (k, r)
    | none => if room ≤ k then some (k, 8) else none)).head?

/-- EMITB (R59 to R61, R336): all words are checked, then queued two at a time as room allows. Until its last word is queued it holds
the composition unit, which the spec says of a stalled instruction only (DESIGN CHOICE [124]). -/
def execEmitb (o : POps) (s : State) : Host.Outcome State Fault Refusal :=
  s.composeWord [o.a] (fun c x =>
    let i := composeIndex (x.reg o.a) o.imm
    let n := o.imm / 2 ^ 20 + 1
    if x.emitted = 0 ∧ x.imageLen < i + n then s.ctxMemFault c x (max i x.imageLen)
    else
      match (if x.emitted = 0 then x.blockFault i n else none), x.openSeg with
      | some (k, r), _ => s.composeFault c r k
      | none, none => s.composeFault c 8 0
      | none, some g =>
        let k := min (n - x.emitted) (min 2 (16 - x.emitQ.length))
        if k = 0 then s.composeStall c x
        else
          let ws := (List.range k).map (fun j =>
            ({ seg := g, off := x.nextOff + j, word := x.imageWord (i + x.emitted + j), prov := x.prov (i + x.emitted + j) } : EmitWord))
          let y := { x.queue g ws with nextOff := x.nextOff + k, emitted := x.emitted + k, wait := .run, stalled := false }
          if y.emitted = n then ((s.setCtx c { y with emitted := 0 }).composeFree c x).ctxDone c (fun y => y)
          else (s.setCtx c y).modCluster (c / 8) (fun q => { q with compHolder := some x.num }))

/-! ### The drain into the script store (R61 to R63) -/

/-- The word at the head of a queue enters the store: it takes a chunk of the quota when it needs one. -/
def Ctx.drain (x : Ctx) : Option Ctx :=
  match x.emitQ with
  | [] => none
  | w :: rest =>
    match Sp.get? x.segs w.seg with
    | none => some { x with emitQ := rest }
    | some e =>
      let held := e.chunks.contains (w.off / 64)
      if !held && x.quota ≤ x.chunks then none
      else
        some { x with
          emitQ := rest, store := Sp.set x.store (w.seg * 4096 + w.off) (w.word, w.prov),
          chunks := if held then x.chunks else x.chunks + 1,
          segs := Sp.set x.segs w.seg { e with chunks := insNat (w.off / 64) e.chunks } }

/-- One word of a cluster's queues, round-robin by context number; from reset context 1 comes first (DESIGN CHOICE [8]). -/
def State.drainOne (s : State) (ck : Nat) : State :=
  let t := (s.cluster ck).storeTurn
  let order := (List.range 6).map (fun i => (t + 1 + i) % 6)
  match order.filterMap (fun n => ((s.ctx? (ctxKey ck n)).bind Ctx.drain).map (fun y => (n, y))) with
  | [] => s
  | (n, y) :: _ => (s.setCtx (ctxKey ck n) y).modCluster ck (fun c => { c with storeTurn := n })

/-- SCRIPT_STORE_DRAIN (R61): two words of a cluster cycle. -/
def execScriptStoreDrain (cl : Nat) (s : State) : Host.Outcome State Fault Refusal :=
  .next (if s.running cl then (s.drainOne cl).drainOne cl else s)

/-- COMPOSE_STALL_TIMEOUT (R63): the context gives up the unit until a chunk of its kernel is released. -/
def execComposeStallTimeout (c : Nat) (s : State) : Host.Outcome State Fault Refusal :=
  .next (
    match s.ctx? c with
    | none => s
    | some x => if x.wait == .stall then (s.setCtx c { x with wait := .chunk }).composeFree c x else s)

/-! ### Segments (R64 to R67, R338) -/

/-- SEGNEW (R65, R338). -/
def execSegnew (o : POps) (s : State) : Host.Outcome State Fault Refusal :=
  s.ctxWord Ctx.generator [o.d] (fun c x =>
    if o.imm = 0 ∨ 4096 < o.imm then s.ctxIllegal c x 5
    else if x.openSeg.isSome then s.composeFault c 0 0
    else
      match (List.range 256).find? (fun n => (Sp.get? x.segs n).isNone) with
      | none => s.levelG c 0x21 {}
      | some n =>
        s.ctxDone c (fun y =>
          { y.setReg o.d (BitVec.ofNat 64 (n * 4096)) with segs := Sp.set y.segs n { state := .open_, cap := o.imm }, openSeg := some n, nextOff := 0 }))

/-- SEAL (R66, R338): the context waits until the segment has drained. -/
def execSeal (o : POps) (s : State) : Host.Outcome State Fault Refusal :=
  s.ctxWord Ctx.generator [o.d] (fun c x =>
    match x.openSeg with
    | none => s.composeFault c 8 0
    | some g => s.setCtx c { x with wait := .seal, replyReg := some o.d, segs := Sp.modify x.segs g (fun e => { e with sealing := true }) })

/-- Every live slot of a kernel's groups, by group key. -/
def State.kernelSlots (s : State) (c : Nat) : List (Nat × Bool × Slot) :=
  (s.groups.filter (fun p => (s.team? p.2.team).any (fun t => t.ctx == c))).flatMap (fun p =>
    (if p.2.slotA.live then [(p.1, false, p.2.slotA)] else []) ++ (if p.2.slotB.live then [(p.1, true, p.2.slotB)] else []))

/-- Groups parked on a segment go on. -/
def State.segWake (s : State) (c seg : Nat) : State :=
  (s.kernelSlots c).foldl (fun s p =>
    if p.2.2.wait == .segment seg then
      s.modGroup p.1 (fun x => (x.modSlot p.2.1 (fun v => { v with wait := .run })).unpark (s.sliceNow x))
    else s) s

/-- SEAL_COMPLETE (R66, R70): the epoch, the provenance of every word, the sealed state, the starts, the parked groups. What
the context did before happens before the fetch of any word of the segment (R125). -/
def execSealComplete (c : Nat) (s : State) : Host.Outcome State Fault Refusal :=
  .next (
    match s.ctx? c with
    | none => s
    | some x =>
      match x.openEntry with
      | none => s
      | some (g, e) =>
        if !e.sealing || x.emitQ.any (fun w => w.seg == g) || !s.running (c / 8) || !s.ctxQuiet c x then s
        else
          let k := Clock.tick x.clk x.uid
          let ep := if x.epoch = 511 then 1 else x.epoch + 1
          let stamp (p : Nat × (DWord × BitVec 32)) : Nat × (DWord × BitVec 32) :=
            if p.1 / 4096 = g then (p.1, p.2.1, p.2.2 ||| BitVec.ofNat 32 (ep * 2 ^ 20)) else p
          let y := { x with
            epoch := ep, store := x.store.map stamp, openSeg := none, replyReg := none, clk := k,
            segs := Sp.set x.segs g { e with state := .sealed, sealing := false, starts := [], clk := k } }
          let s := s.setCtx c ((y.setReg (x.replyReg.getD 0) (BitVec.ofNat 64 ep)).next)
          let s := e.starts.foldl (fun s t => s.startTeam t.1 t.2 k) s
          s.segWake c g)

/-- A segment is freed: its words and chunks are gone (R67). A context of the kernel that waits for a chunk retries, when one is
released, or when no segment is retiring any more that could release one: it raises SCRIPT_FULL then (R63). -/
def Ctx.freeSeg (x : Ctx) (g : Nat) : Ctx :=
  let n := ((Sp.get? x.segs g).map (fun e => e.chunks.length)).getD 0
  let segs := Sp.erase x.segs g
  let retry : Bool := n != 0 || !segs.any (fun e => e.2.state == .retiring)
  { x with
    segs := segs, chunks := x.chunks - n, store := x.store.filter (fun p => p.1 / 4096 != g),
    emitQ := x.emitQ.filter (fun w => w.seg != g), wait := if x.wait == .chunk && retry then .run else x.wait }

/-- SEGFREE of the open segment: groups parked on it, and teams that were to start in it, take SCRIPT_RANGE (R67, R69). A slot of
a group that an event has stopped already meets it at its next fetch. -/
def State.discardOpen (s : State) (c g : Nat) (e : Segment) : State :=
  let parked := (s.kernelSlots c).filter (fun p => p.2.2.wait == .segment g)
  let s := s.modCtx c (fun x => { x.freeSeg g with openSeg := none })
  let s := parked.foldl (fun s p =>
    if (s.group? p.1).any (fun x => x.run == .active) then s.takeEvent p.1 p.2.1 0x08 p.2.2.pc p.2.2.mask 0 0
    else s.modGroup p.1 (fun x => x.modSlot p.2.1 (fun v => { v with wait := .run }))) s
  e.starts.foldl (fun s t => s.startAt t.1 t.2 []) s

/-- SEGFREE (R67, R338). -/
def execSegfree (o : POps) (s : State) : Host.Outcome State Fault Refusal :=
  s.ctxWord Ctx.generator [o.a] (fun c x =>
    let v := (x.reg o.a).toNat
    let g := v / 4096
    if 2 ^ 20 ≤ v then s.ctxIllegal c x 5
    else
      match Sp.get? x.segs g with
      | none => s.ctxDone c (fun y => y)
      | some e =>
        match e.state with
        | .open_ => (s.ctxDone c (fun y => y)).discardOpen c g e
        | .sealed => s.ctxDone c (fun y => { y with segs := Sp.set y.segs g { e with state := .retiring } })
        | .retiring => s.ctxDone c (fun y => y))

/-- SEGMENT_RELEASE (R67): a retiring segment is freed when no slot of the kernel's groups stands in it. -/
def execSegmentRelease (c seg : Nat) (s : State) : Host.Outcome State Fault Refusal :=
  .next (
    match s.ctx? c with
    | none => s
    | some x =>
      match Sp.get? x.segs seg with
      | some e => if e.state == .retiring && !(s.kernelSlots c).any (fun p => segOf p.2.2.pc == seg) then s.setCtx c (x.freeSeg seg) else s
      | none => s)

/-! ### START (R70, R339) -/

/-- START: what the context did before happens before what the team does, so it is done first (R125, R130). -/
def execStart (o : POps) (s : State) : Host.Outcome State Fault Refusal :=
  s.ctxWord Ctx.generator [o.a, o.b] (fun c x =>
    let v := (x.reg o.b).toNat
    if 2 ^ 20 ≤ v then s.ctxIllegal c x 5
    else
      let a := BitVec.ofNat 20 v
      let runs : Bool := match Sp.get? x.segs (segOf a) with | none => false | some e => e.state != .retiring
      match s.ctxTeam c x (field (x.reg o.a) 0 8) with
      | some (t, tm) =>
        if tm.started || !runs then s.levelG c 0x22 {}
        else if !s.ctxQuiet c x then s
        else
          let k := Clock.tick x.clk x.uid
          (s.ctxDone c (fun y => { y with clk := k })).startAt t a k
      | none => s.levelG c 0x22 {})

end Sys2Proof.Machine
end

