-- ==== Sys2Proof/Machine/Service.lean ====
section
/-! DEFINITION. The prompter's mailboxes, events and group control, accumulator access, system calls and the system
context's registers (R72 to R77, R340 to R345, R349, R405 to R409, R423). -/

namespace Sys2Proof.Machine

/-! ### Mailboxes (R72, R73, R340) -/

/-- A mailbox word: the team must be one the context may name; for a PAIR team only on its lower cluster. -/
def State.ctxMail (s : State) (o : POps) (op : MbOp) : Host.Outcome State Fault Refusal :=
  let puts := op == .put || op == .write
  s.ctxWord anyCtx (if puts then [o.a, o.b] else [o.a, o.d]) (fun c x =>
    match s.ctxTeam c x (field (x.reg o.a) 0 8) with
    | none => s.ctxMemFault c x 0
    | some (t, tm) =>
      if tm.ckey != c / 8 then s.ctxIllegal c x 4
      else if puts && !s.ctxQuiet c x then s
      else
        let r : MbReq := { agent := .ctx c, order := 2 ^ 20, op := op, mb := o.imm % 32, value := if puts then x.reg o.b else 0, d := o.d,
                           clk := Clock.tick x.clk x.uid }
        (s.setTeam t { tm with requests := tm.requests ++ [r] }).setCtx c { x with wait := .mailbox })

/-- MBR. -/
def execPrMbr (o : POps) (s : State) : Host.Outcome State Fault Refusal := s.ctxMail o .read
/-- MBW. -/
def execPrMbw (o : POps) (s : State) : Host.Outcome State Fault Refusal := s.ctxMail o .write
/-- MBGET. -/
def execPrMbget (o : POps) (s : State) : Host.Outcome State Fault Refusal := s.ctxMail o .get
/-- MBPUT. -/
def execPrMbput (o : POps) (s : State) : Host.Outcome State Fault Refusal := s.ctxMail o .put

/-! ### Events (R76, R77, R341) -/

/-- WAITEV: the oldest record becomes the current event; a fault event puts the context in service of its group. -/
def execWaitev (o : POps) (nb : Bool) (s : State) : Host.Outcome State Fault Refusal :=
  s.ctxWord anyCtx [o.d] (fun c x =>
    match x.events with
    | [] => if nb then s.ctxDone c (fun y => y.setReg o.d (BitVec.allOnes 64)) else s.setCtx c { x with wait := .event }
    | (r, k, g) :: rest =>
      let fault := decide (1 ≤ r.cause) && decide (r.cause ≤ 0x0B)
      s.ctxDone c (fun y =>
        { y.setReg o.d (BitVec.ofNat 64 (field r.w0 48 8)) with
          events := rest ++ y.arrivals.take 1, arrivals := y.arrivals.drop 1, current := some r, inService := if fault then y.inService ++ [g] else y.inService, clk := Clock.join y.clk k }))

/-- Word n of a record. -/
def Rec.word (r : Rec) (n : Nat) : DWord :=
  match n with | 0 => r.w0 | 1 => r.w1 | 2 => r.w2 | 3 => r.w3 | _ => r.w4

/-- EVINFO. -/
def execEvinfo (o : POps) (s : State) : Host.Outcome State Fault Refusal :=
  s.ctxWord anyCtx [o.d] (fun c x =>
    let n := o.imm % 8
    if 4 < n then s.ctxIllegal c x 5
    else s.ctxDone c (fun y => y.setReg o.d (match x.current with | none => 0 | some r => r.word n)))

/-! ### Group control (R342, R343, R405) -/

/-- Whether a group is stopped for a context: by an event that was posted; for the system context, which clears both holds, by
any hold, also of an event that has not found room in the queue yet (R76, R405). -/
def Ctx.findsStopped (x : Ctx) (y : Group) : Bool :=
  (y.stop.isSome && y.posted && y.evHold) || (x.num == 7 && (y.evHold || y.trHold || y.dbgHold))

/-- The group that a designator names for a context, of those that it may control. -/
def State.controlled (s : State) (c : Nat) (x : Ctx) (v : DWord) : Option (Nat × Group) :=
  match (s.teamAt (c / 8) (field v 48 8)).bind (fun t => (s.groupOf t.1 (field v 43 5)).bind (fun g => (s.group? g).map (fun y => (t, g, y)))) with
  | none => none
  | some (t, g, y) => if y.run == .exited || (x.generator && t.2.ctx != c) || (x.num == 6 && x.findsStopped y && !y.assist) then none else some (g, y)

/-- What a designator names for a context: a stopped group that it may control, or a status. -/
def State.designated (s : State) (c : Nat) (x : Ctx) (v : DWord) : (Nat × Group) ⊕ Nat :=
  match s.controlled c x v with
  | none => .inr 2
  | some (g, y) => if x.findsStopped y then .inl (g, y) else .inr 1

/-- The groups that a GCTL acts on: a lead's stand-in as well, but for the assist context (R172, R186). -/
def State.gctlOn (s : State) (x : Ctx) (g : Nat) (y : Group) : List Nat :=
  let lead : Bool := match s.team? y.team with | none => false | some t => (match t.copy with | .lead _ => true | _ => false)
  if lead && x.num != 6 then g :: (match s.otherCopy y with | some p => [p.1] | none => []) else [g]

/-- The event of a group is disposed of: no context is in service of it, its drain no longer holds the engine (R172, R341). -/
def State.disposed (s : State) (g : Nat) : State :=
  match s.group? g with
  | none => s
  | some y =>
    let s := { s with ctxs := s.ctxs.map (fun (c : Nat × Ctx) => (c.1, { c.2 with inService := delNat g c.2.inService })) }
    let s := s.modCluster y.ckey (fun c => { c with mxHeld := c.mxHeld.filter (fun m => m.uid != y.uid) })
    match s.pairOf? y.team with
    | none => s
    | some p => if p.lead == y.team then s.modPair p.lead (fun q => { q with awaited := none }) else s

/-- A GCTL that disposes of the event, with what it does to each group; what the context did before is done first (R343). -/
def State.gctl (s : State) (o : POps) (regs : List Nat) (check : Ctx → Bool) (act : State → Ctx → Nat → Clock → State) :
    Host.Outcome State Fault Refusal :=
  s.ctxWord anyCtx (regs ++ [o.a, o.d]) (fun c x =>
    if !check x then s.ctxIllegal c x 5
    else
      match s.designated c x (x.reg o.a) with
      | .inr st => s.ctxDone c (fun y => y.setReg o.d (BitVec.ofNat 64 st))
      | .inl (g, y) =>
        if !s.ctxQuiet c x then s else
        let k := Clock.tick x.clk x.uid
        let gs := s.gctlOn x g y
        let s := gs.foldl (fun s g => s.disposed g) s
        let s := s.ctxDone c (fun y => { y.setReg o.d 0 with clk := k })
        gs.foldl (fun s g => act s x g k) s)

/-- GCTL RESUME: the group continues at its stop point. -/
def execGctlResume (o : POps) (s : State) : Host.Outcome State Fault Refusal :=
  s.gctl o [] (fun _ => true) (fun s x g k => s.returnEvent g (x.num == 7) k)

/-- The named slot at a script address, which dates from now (R24); R64 applies to it. -/
def State.redirect (s : State) (g : Nat) (b : Bool) (a : BitVec 20) : State :=
  match s.group? g with
  | none => s
  | some y =>
    let bad : Bool := match s.ctxOf y with | none => true | some c => c.badTransfer a
    let s := s.modTeam y.team (fun t => { t with requests := t.requests.filter (fun r => !(r.agent == Agent.group g && r.slot == b)) })
    s.setGroup g ((y.goto b a).modSlot b (fun v => { v with past := bad, age := s.sliceNow y }))

/-- GCTL REDIRECT: the named slot continues at a script address, the other is unchanged. -/
def execGctlRedirect (o : POps) (s : State) : Host.Outcome State Fault Refusal :=
  s.gctl o [o.b] (fun x => decide ((x.reg o.b).toNat < 2 ^ 20))
    (fun s x g k => (s.redirect g ((x.reg o.a).getLsbD 42) (BitVec.ofNat 20 (x.reg o.b).toNat)).returnEvent g (x.num == 7) k)

/-- GCTL KILL: the group counts as exited. -/
def execGctlKill (o : POps) (s : State) : Host.Outcome State Fault Refusal :=
  s.gctl o [] (fun _ => true) (fun s _ g _ => s.exitGroup g)

/-- GCTL FLAGS: flags ORed into a lane; the group stays halted. -/
def execGctlFlags (o : POps) (s : State) : Host.Outcome State Fault Refusal :=
  s.ctxWord anyCtx [o.a, o.b, o.d] (fun c x =>
    let v := x.reg o.b
    let lane := field v 8 6
    let narrow : Bool := (s.controlled c x (x.reg o.a)).any (fun p => decide (p.2.width ≤ lane))
    if v.toNat / 2 ^ 14 ≠ 0 ∨ field v 5 3 ≠ 0 ∨ narrow then s.ctxIllegal c x 5
    else
      match s.designated c x (x.reg o.a) with
      | .inr st => s.ctxDone c (fun y => y.setReg o.d (BitVec.ofNat 64 st))
      | .inl (g, y) =>
        let s := (s.gctlOn x g y).foldl (fun s g => s.modGroup g (fun z => z.setFlags lane (z.flags lane ||| BitVec.ofNat 32 (field v 0 5)))) s
        s.ctxDone c (fun y => y.setReg o.d 0))

/-! ### Accumulator access (R101, R344, R345) -/

/-- ACCRD and ACCWR enter the engine's queue, where those that are held back do not count; the context waits until the engine has
performed them (R345). -/
def State.accIssue (s : State) (o : POps) (regs : List Nat) (op : Ctx → Nat → Nat → Nat → MxOp) (d : Nat) : Host.Outcome State Fault Refusal :=
  s.ctxWord (fun x => !x.generator) regs (fun c x =>
    let v := x.reg o.a
    match s.ctxTeam c x (field v 0 8) with
    | none => s.ctxMemFault c x 0
    | some (t, tm) =>
      if tm.tiles ≤ field v 8 5 then s.ctxIllegal c x 5
      else if 16 ≤ (mxGoing (s.cluster (c / 8)).mxHeld (s.cluster (c / 8)).mxQ []).length then s
      else
        let id := s.nextId + 1
        let r : MxReq := { id := id, op := op x (field v 8 5) (field v 19 5) (field v 13 6), agent := .ctx c, uid := x.uid, team := t,
                           part := x.part, cluster := x.cluster, upper := x.cluster != tm.cluster, d := d }
        (({ s with nextId := id }).modCluster (c / 8) (fun k => { k with mxQ := k.mxQ ++ [r] })).setCtx c { x with wait := .engine })

/-- ACCRD. -/
def execAccrd (o : POps) (s : State) : Host.Outcome State Fault Refusal :=
  s.accIssue o [o.a, o.d] (fun _ t r c => .accrd t r c) o.d

/-- ACCWR. -/
def execAccwr (o : POps) (s : State) : Host.Outcome State Fault Refusal :=
  s.accIssue o [o.a, o.b] (fun x t r c => .accwr t r c (x.reg o.b)) 0

/-! ### System calls (R349, R409) -/

/-- Word 0 of a context's record. -/
def Ctx.recWord (x : Ctx) (cause : Nat) : DWord := BitVec.ofNat 64 (cause * 2 ^ 56 + x.num * 2 ^ 53 + x.pc.toNat)

/-- SYSC: record 0x26, and the context waits. -/
def execSysc (o : POps) (s : State) : Host.Outcome State Fault Refusal :=
  s.ctxWord Ctx.generator [10] (fun c x =>
    (s.setCtx c { x with wait := .sysc, instrs := x.instrs + 1 }).postSystem (c / 8)
      { w0 := x.recWord 0x26, w3 := recWord3 (o.imm % 2 ^ 16) 0, w4 := x.reg 10 })

/-- A context that waits in SYSC goes on at its next word. -/
def State.syscDone (s : State) (c : Nat) : State :=
  s.modCtx c (fun x => if x.wait == .sysc then { x with pc := x.pc + 1, wait := .run } else x)

/-- SYSRESUME (R347, R349): system context only. -/
def execSysresume (o : POps) (s : State) : Host.Outcome State Fault Refusal :=
  s.ctxWord (fun x => x.num == 7) [o.a] (fun c x =>
    let v := (x.reg o.a).toNat
    let n := v % 0x100
    if 5 < n ∨ 0x200 ≤ v then s.ctxIllegal c x 5
    else
      let k := ctxKey (c / 8) n
      let s := s.ctxDone c (fun y => y)
      match s.ctx? k with
      | none => s
      | some y =>
        if y.wait != .sysc then s
        else if v < 0x100 then s.syscDone k
        else s.endLaunch y.launch 0x07 (y.recWord 0x26))

/-- The code of the SYSC that a context waits in. -/
def Ctx.syscCode (x : Ctx) : Option Nat := if x.wait == .sysc then some (field (x.imageWord x.pc.toNat) 0 16) else none

/-- The firmware takes the record of a service from the system context's queue. -/
def State.syscTake (s : State) (c : Nat) (x : Ctx) : State :=
  s.modCtx (ctxKey (c / 8) 7) (fun y =>
    let mine (e : Rec × Clock × Nat) : Bool := e.1.w0 == x.recWord 0x26
    { y with events := (y.events.takeWhile (fun e => !mine e)) ++ (y.events.dropWhile (fun e => !mine e)).drop 1 })

/-- A service of the firmware for a context that waits with its code (R409). -/
def State.service (s : State) (c code : Nat) (k : Ctx → Option State) : State :=
  match s.ctx? c with
  | none => s
  | some x =>
    if x.syscCode != some code || !s.running (c / 8) then s
    else
      match k x with
      | none => s
      | some t => (t.syscTake c x).syscDone c

/-- The services of the codes that have none of their own (R349, R409): code 0 resumes the context, any other ends its launch with
GENERATOR_FAULT. -/
def State.syscPlain (s : State) (c : Nat) : State :=
  match s.ctx? c with
  | none => s
  | some x =>
    match x.syscCode with
    | none => s
    | some n =>
      if !s.running (c / 8) || (1 ≤ n && n ≤ 3) then s
      else if n = 0 then (s.syscTake c x).syscDone c
      else (s.syscTake c x).endLaunch x.launch 0x07 (x.recWord 0x26)

/-! ### Tags of the host's image cache (R361) -/

/-- The customisation string of the tags, "KELEUS-PYRT-CACHE". -/
def cacheString : List Nat := [75, 69, 76, 69, 85, 83, 45, 80, 89, 82, 84, 45, 67, 65, 67, 72, 69]

/-- The tag that the device computes for a cache entry, over its key and its image, under the cache key, which stays here;
its service has no interface in the spec (DESIGN CHOICE [47]). -/
def State.cacheTag (s : State) (key image : List Nat) : BitVec 256 := Config.kmac256 s.house.cacheKey (key ++ image) cacheString

/-- Whether a cache entry carries the tag that the device gives it. -/
def State.cacheCheck (s : State) (key image : List Nat) (tag : BitVec 256) : Bool := s.cacheTag key image == tag

/-- SYSC_LOG (R409): bytes go to the partition's log ring, at most 4,064. -/
def execSyscLog (c : Nat) (s : State) : Host.Outcome State Fault Refusal :=
  .next (s.service c 1 (fun x =>
    let a := (x.reg 10).toNat
    (s.readVirtual x.part a 8).bind (fun h =>
      (s.readVirtual x.part (a + 8) (min (bytesWord h) 4064)).map (fun bs => s.modPart x.part (fun q => { q with log := q.log ++ [bs] })))))

/-- SYSC_INFO (R409). -/
def execSyscInfo (c : Nat) (s : State) : Host.Outcome State Fault Refusal :=
  .next (s.service c 2 (fun x =>
    let q := s.part x.part
    let ws := [x.part, if q.v128 then 2 else 1, s.clusterCount x.part, (s.shareMembers x.part).length]
    s.writeVirtual x.part (x.reg 10).toNat (ws.flatMap (fun w => leBytes w 8))))

/-- An 8-byte write to a system address, by the fabric where it leads away (R398, R409). -/
def State.systemWrite (s : State) (addr : Nat) (v : DWord) : State :=
  match s.servedAt addr with
  | .dev a => { s.plain 0 a 8 with mem := s.mem.write a 8 v.toNat }
  | _ => { s with notes := s.notes ++ [(addr, v)] }

/-- SYSC_NOTIFY (R409): 64 bytes to the address of QNOTE. -/
def execSyscNotify (c : Nat) (s : State) : Host.Outcome State Fault Refusal :=
  .next (s.service c 3 (fun x =>
    (s.readVirtual x.part (x.reg 10).toNat 64).map (fun bs =>
      let note := (s.queue (((s.launch? x.launch).map Launch.queue).getD 0)).note
      (List.range 8).foldl (fun s i => s.systemWrite (note + 8 * i) (BitVec.ofNat 64 (bytesWord ((bs.drop (8 * i)).take 8)))) s)))

/-! ### Debug holds (R405, R406, R408) -/

/-- The group that a designator names for the system context. -/
def State.debugGroup (s : State) (c : Nat) (v : DWord) : Option Nat :=
  (s.teamAt (c / 8) (field v 48 8)).bind (fun t => s.groupOf t.1 (field v 43 5))

/-- DHALT: the debug hold takes effect at the group's next boundary. -/
def execDhalt (o : POps) (s : State) : Host.Outcome State Fault Refusal :=
  s.ctxWord (fun x => x.num == 7) [o.a] (fun c x =>
    let s' := s.ctxDone c (fun y => y)
    match s.debugGroup c (x.reg o.a) with
    | none => s'
    | some g => s'.modGroup g (fun y => if y.dbgHold then y else { y with dbgPend := true }))

/-- DRELEASE: the debug hold is cleared. -/
def execDrelease (o : POps) (s : State) : Host.Outcome State Fault Refusal :=
  s.ctxWord (fun x => x.num == 7) [o.a] (fun c x =>
    let s' := s.ctxDone c (fun y => y)
    match s.debugGroup c (x.reg o.a) with
    | none => s'
    | some g => s'.modGroup g (fun y => { y with dbgHold := false, dbgPend := false }.wake (s.sliceNow y)))

/-- DEBUG_HALT (R405): the hold takes effect as a stop before the next word, with record 0x34. -/
def execDebugHalt (g : Nat) (s : State) : Host.Outcome State Fault Refusal :=
  .next (
    match s.group? g with
    | none => s
    | some x =>
      if !x.dbgPend || x.run == .exited || !s.settled g x then s
      else
        let b := !x.slotA.live && x.slotB.live
        let r := s.laneRec x b 0x34 (x.slot b).pc (x.slot b).mask 0 0
        let s := s.setGroup g { x with dbgHold := true, dbgPend := false, run := .halted, onStage := false, parked := false, latches := [] }
        s.postSystem x.ckey r)

/-! ### TLB invalidation and the end of a launch (R408, R423) -/

/-- Whether a held translation overlaps what a tlbinv names. -/
def TlbEntry.dropped (e : TlbEntry) (part : Nat) (v : Nat) : Bool :=
  let bits := if v % 8 = 0 then 12 else if v % 8 = 1 then 16 else if v % 8 = 2 then 21 else 30
  let base := v / 2 ^ 12 % 2 ^ 44 * 2 ^ 12 / 2 ^ bits * 2 ^ bits
  e.part == part && (v.testBit 3 || rangesMeet (e.page * 2 ^ e.bits) (2 ^ e.bits) base (2 ^ bits))

/-- Whether a faulting address lies in the span of a tlbinv (R422). -/
def WalkReq.spanned (w : WalkReq) (part v : Nat) : Bool :=
  TlbEntry.dropped { part := w.part, page := w.va / 4096, bits := 12, frame := 0, w := false, nochk := false, far := false } part v

/-- The faults in the span of a tlbinv are resolved: what waits on them replays (R404, R422). -/
def State.resolveFaults (s : State) (part v : Nat) : State :=
  let gone := s.faulted.filter (fun w => w.spanned part v)
  let s := { s with faulted := s.faulted.filter (fun w => !w.spanned part v) }
  gone.foldl (fun s w =>
    match w.agent with
    | .group g =>
      if s.faultWaits w.agent w.path then s
      else s.modGroup g (fun y => { y.modSlot w.slot (fun v => { v with wait := .run }) with trHold := false }.wake (s.sliceNow y))
    | .ctx c => s.modCtx c (fun y => if y.wait == .walk then { y with wait := .run } else y)
    | _ => s) s

/-- The entries of a partition that overlap a span are dropped, in both levels (R423). -/
def State.dropSpan (s : State) (part v : Nat) : State :=
  let keep (l : List TlbEntry) : List TlbEntry := l.filter (fun e => !e.dropped part v)
  { s with
    clusters := s.clusters.map (fun (k : Nat × Cluster) => (k.1, { k.2 with tlb := keep k.2.tlb })),
    tlb2 := s.tlb2.map (fun (d : Nat × List TlbEntry) => (d.1, keep d.2)) }

/-- TLBINV (R4, R422, R423): the entries of the span are dropped and the faults in it are resolved. It waits until the context's
own stores are performed, those to the table among them; writes of the reserved fields are ignored, a reserved span is detail 5. -/
def execTlbinv (o : POps) (s : State) : Host.Outcome State Fault Refusal :=
  s.ctxWord (fun x => x.num == 7) [o.a] (fun c x =>
    let v := (x.reg o.a).toNat
    if 4 ≤ v % 8 then s.ctxIllegal c x 5
    else if !s.ctxQuiet c x then s
    else
      let s := (s.dropSpan x.part v).resolveFaults x.part v
      (s.modCluster (c / 8) (fun k => { k with tlbBusy := k.tlbBusy ++ [(x.reg o.a, s.nextId)] })).ctxDone c (fun y => y))

/-- TLBINV_COMPLETE (R423): once every access of the partition that was issued before has been performed, what a walk has brought
in from the old table since is dropped as well. -/
def execTlbinvComplete (cl : Nat) (s : State) : Host.Outcome State Fault Refusal :=
  .next (
    match (s.cluster cl).tlbBusy with
    | [] => s
    | t :: rest =>
      if s.flight.any (fun (m : MemOp) => m.part == cl / 256 && decide (m.id ≤ t.2) && !m.performed) then s
      else (s.dropSpan (cl / 256) t.1.toNat).modCluster cl (fun k => { k with tlbBusy := rest }))

/-- LKILL (R408): the launches of the partition with this identifier end with CONTEXT_LOST; faults of their engine requests are
settled, also of one that has ended before (R422). -/
def execLkill (o : POps) (s : State) : Host.Outcome State Fault Refusal :=
  s.ctxWord (fun x => x.num == 7) [o.a] (fun c x =>
    let s := s.ctxDone c (fun y => y)
    (s.launches.filter (fun (l : Nat × Launch) => l.2.part == x.part && l.2.id == (x.reg o.a).setWidth 32)).foldl
      (fun s l => ((s.endLaunch l.1 0x09 0).settleFaults l.1).reapAll) s)

end Sys2Proof.Machine
end

