-- ==== Sys2Proof/Machine/StandIn.lean ====
section
/-! DEFINITION. Lead and stand-in, the events of a pair: a compared operation confirmed or a mismatch found (R181, R183,
R185, R186), and a cue point confirmed (R182). -/

namespace Sys2Proof.Machine

/-! ### Mismatches (R183) -/

/-- A group stands at a CUEPT of its team (R182). -/
def Group.atTeamCue (x : Group) : Bool :=
  (match x.slotA.wait with | .teamCue _ => true | _ => false) || (match x.slotB.wait with | .teamCue _ => true | _ => false)

/-- A group is stopped by a lane event that both copies must raise: not ASSIST, which each serves alone, nor the lead's
MEMORY_MODEL (R183, R186). -/
def Group.raised (x : Group) : Bool := match x.stop with | some r => !x.assist && r.cause != 0x09 | none => false

/-- Whether one copy is past a point at which the other leaves its way (R183): it has a compared operation where the
other exits, stands at a cue point it has not passed, or has raised an event; or it has raised an event where the other
exits, stands at a cue point, or has raised its own at another ordinal. -/
def leavesWay (e : Option CmpEntry) (me other : Option Group) : Bool :=
  match e, me, other with
  | some _, _, none => true
  | some e, _, some y => (y.atTeamCue && y.cue.toNat == e.cue) || (y.raised && decide (e.events < y.events))
  | none, some x, none => x.raised
  | none, some x, some y =>
    (x.raised && y.atTeamCue && y.cue == x.cue && decide (y.events < x.events)) || (x.raised && y.raised && x.issued != y.issued)
  | none, none, _ => false

/-- Two paired entries agree (R180, R183): kind and signature, and as many events and the same cue count before them. -/
def CmpEntry.agrees (a b : CmpEntry) : Bool := a.kind == b.kind && a.sig == b.sig && a.events == b.events && a.cue == b.cue

/-- A mismatch: both copies stop, and they are restored when nothing of theirs is on its way (R184). -/
def State.mismatch (s : State) (p : PairOf) : State := (s.modPair p.lead PairOf.mismatched).rollBackPair p.mismatched

/-! ### Confirmation (R181, R185, R186) -/

/-- A performed operation joins the replay log, which holds 1,024 entries (R185). -/
def PairOf.logged (p : PairOf) (a : CmpEntry) : PairOf :=
  if p.log.length < 1024 then
    { p with log := p.log ++ [{ group := a.group, ordinal := a.ordinal, sig := a.sig, result := a.result, op := a.op }] }
  else { p with overflow := true }

/-- The requests of a confirmed KICK: the lead's go on, each with the stand-in's that finishes with it (R181). -/
def PairOf.confirmRequest (p : PairOf) (a b : CmpEntry) (r : Request) : Request :=
  let other := p.entries.any (fun e => e.lead && e.kind == 9 && decide (a.op < e.op) && decide (e.op ≤ r.id))
  if r.team == p.lead && r.waiting && decide (a.op ≤ r.id) && !other then
    { r with waiting := false, twin := some (b.op + (r.id - a.op)) }
  else r

/-- What a confirmed operation starts: the lead's access, once (R181, R186); each copy's RPUT in its own team; the lead's
requests; a MXCHK has nothing to start. -/
def State.startConfirmed (s : State) (p : PairOf) (a b : CmpEntry) : State :=
  if a.kind = 8 then
    { s with rputs := s.rputs.map (fun (r : Rput) => if r.id == a.op || r.id == b.op then { r with waiting := false } else r) }
  else if a.kind = 9 then
    { s with clusters := s.clusters.map (fun (c : Nat × Cluster) => (c.1, { c.2 with
        reqQ := c.2.reqQ.map (p.confirmRequest a b), work := c.2.work.map (p.confirmRequest a b) })) }
  else if a.kind = 10 then s
  else
    { s with flight := s.flight.map (fun (m : MemOp) => if m.id == a.op then { m with compared := false, twin := some b.op } else m) }

/-- Two entries that agree leave the buffer, and the operation is performed. -/
def State.confirm (s : State) (p : PairOf) (a b : CmpEntry) : State :=
  let s := s.startConfirmed p a b
  let s := s.modPair p.lead (fun q => { (q.logged a) with entries := q.entries.filter (fun (e : CmpEntry) => e != a && e != b) })
  s.exitTeam p.lead

/-- The oldest entry of a group in one copy. -/
def PairOf.oldest (p : PairOf) (i : Nat) (lead : Bool) : Option CmpEntry := p.entries.find? (fun e => e.group == i && e.lead == lead)

/-- COMPARE_CONFIRM (R181, R183): the oldest entries of a lead group and of its stand-in are compared; a pair that was
found to differ is restored when it may be. -/
def execCompareConfirm (team group : Nat) (s : State) : Host.Outcome State Fault Refusal :=
  .next (
    match s.pairOf? team with
    | none => s
    | some p =>
      if p.mismatch then s.rollBackPair p
      else if !p.exitsAgree then s.mismatch p
      else
        let x := (s.groupOf p.lead group).bind s.group?
        let y := (s.groupOf p.standIn group).bind s.group?
        match p.oldest group true, p.oldest group false with
        | some a, some b => if a.agrees b then s.confirm p a b else s.mismatch p
        | some a, none => if leavesWay (some a) x y then s.mismatch p else s
        | none, some b => if leavesWay (some b) y x then s.mismatch p else s
        | none, none => if leavesWay none x y || leavesWay none y x then s.mismatch p else s)

/-! ### Cue points of a pair (R182, R185) -/

/-- The cue point a team waits at. -/
def State.teamWaits (s : State) (t : Nat) : Option Nat :=
  (s.groupsOf t).findSome? (fun y => match y.2.slotA.wait, y.2.slotB.wait with
    | .teamCue n, _ => some n
    | _, .teamCue n => some n
    | _, _ => none)

/-- A copy that waits at a cue point goes on when every group that has not exited stands there and no checkpoint of it
awaits confirmation. -/
def State.teamCueAgain (s : State) (t : Nat) : State := match s.teamWaits t with | none => s | some n => s.teamCue t n

/-- CUE_CONFIRMED (R182): both copies have a checkpoint at the same cue point with everything before it confirmed; two
that name different cue points, or before which the copies raised different lane events, are a mismatch (R183). -/
def execCueConfirmed (team : Nat) (s : State) : Host.Outcome State Fault Refusal :=
  .next (
    match s.pairOf? team with
    | none => s
    | some p =>
      if p.mismatch then s.rollBackPair p
      else
        let s := (s.teamCueAgain p.lead).teamCueAgain p.standIn
        let p := (s.pairOf? team).getD p
        match p.pending.find? (fun k => k.key == p.lead), p.pending.find? (fun k => k.key == p.standIn) with
        | some k, some l =>
          if !k.agrees l then s.mismatch p
          else if p.settledAt k && p.settledAt l then
            ((s.modPair p.lead (fun q => q.confirmCue k l)).teamCueAgain p.lead).teamCueAgain p.standIn
          else s
        | _, _ => s)

end Sys2Proof.Machine
end

