-- ==== Sys2Proof/Machine/Launch.lean ====
section
/-! DEFINITION. Launch queues, placement and completion (R384 to R401): register writes and the queue kick, a descriptor
taken and checked, the event word, one placement step, the completion record, the close of `.ord` sums, the interval of
energy. -/

namespace Sys2Proof.Machine

/-! ### Writes from outside (R385, R411, R434) -/

/-- A host's queue kick (R129, R433): an operation of the host that brings everything it wrote before to every path. -/
def State.hostKick (s : State) : State :=
  let k := Clock.tick s.hostClk 0
  { s with hostClk := k }.crossAll 0 (Sp.getD k 0 0) (fun e => e.path == Path.coll && e.uid == 0)

/-- A register written by an agent; the write of a queue's tail that a host may make is its kick (R129, R385). -/
def State.outsideWrite (s : State) (ag : Agent) (off v : Nat) (clk : Clock) : State :=
  match ag with
  | .host p =>
    let tail : Bool := decide (0x10000 ≤ off ∧ off < 0x14000) && off % 0x40 == 0x10
    if tail && s.hostMay p off true && !(s.port p).frozen && decide (7 ≤ s.house.step) then
      let s := s.hostKick
      s.agentWrite ag false off v s.hostClk
    else s.agentWrite ag false off v clk
  | _ => s.agentWrite ag false off v clk

/-- QUEUE_KICK (R385): a host's write of QTAIL through its port, a system-scope release. -/
def execQueueKick (port q tail : Nat) (s : State) : Host.Outcome State Fault Refusal :=
  .next (if q < 256 then s.outsideWrite (.host port) (0x10000 + 0x40 * q + 0x10) (tail % 2 ^ 64) s.hostClk else s)

/-- REGISTER_WRITE (R434): an aligned 8-byte write of control space by an agent. -/
def execRegisterWrite (ag : Agent) (off : Nat) (val : DWord) (s : State) : Host.Outcome State Fault Refusal :=
  .next (if off % 8 = 0 then s.outsideWrite ag off val.toNat (s.agentClk ag) else s)

/-! ### The descriptor and the image header (R357, R387, R388) -/

/-- Bits of a number. -/
def bitsOf (w lo n : Nat) : Nat := w / 2 ^ lo % 2 ^ n

/-- Word i of a list of words, as a number. -/
def wordNo (l : List DWord) (i : Nat) : Nat := ((l[i]?).getD 0).toNat

/-- Words read at a device address of a partition; none where a byte has no translation. -/
def State.readWords (s : State) (part va n : Nat) : Option (List DWord) :=
  (s.readVirtual part va (8 * n)).map (fun bs => (List.range n).map (fun i => BitVec.ofNat 64 (bytesWord ((bs.drop (8 * i)).take 8))))

/-- Check 1 of R388. An argument block is misaligned that does not lie at a multiple of 8 (DESIGN CHOICE [105]). -/
def descriptorBad (d : List DWord) : Bool :=
  let w (i lo n : Nat) : Nat := bitsOf (wordNo d i) lo n
  w 0 56 1 == 0 || w 0 61 3 != 0 || w 0 0 3 != 0 || w 1 56 1 != 0 || decide (32 < w 2 0 6) || w 3 54 10 == 0
    || decide (512 < w 3 54 10) || w 3 16 8 != 0 || w 4 44 20 != 0 || w 7 20 12 != 0
    || w 1 0 3 != 0 || (w 0 59 1 == 1 && (w 6 56 8 != 0 || w 6 0 3 != 0)) || (w 0 60 1 == 1 && w 5 0 4 != 0)

/-- Check 2 of R388: a header word that holds a value R357 does not give. -/
def headerBad (h : List DWord) : Bool :=
  let w (i lo n : Nat) : Nat := bitsOf (wordNo h i) lo n
  w 0 32 32 != 0x4B58494D || w 0 16 16 != 1 || w 0 0 16 != 0
    || decide (w 1 24 21 < 16) || decide (2 ^ 20 < w 1 24 21) || w 1 45 19 != 0 || w 1 20 4 != 0
    || w 2 60 4 != 0 || w 2 0 8 != 0
    || w 2 31 8 == 0 || decide (240 < w 2 31 8) || w 2 31 3 != 0
    || !([0, 16, 32, 64].contains (w 2 8 7)) || decide (64 < w 2 15 7) || (w 2 8 7 != 0 && decide (w 2 8 7 < w 2 15 7))
    || w 3 20 44 != 0 || (List.range 8).any (fun i => w (4 + i) 40 24 != 0)

/-- The arrangement of R354 and R355: the width of the groups and their number in a team, which fusing halves. -/
def arrange (d h : List DWord) : Option (Nat × Nat) :=
  let own := bitsOf (wordNo h 2) 8 7
  let asked := bitsOf (wordNo d 2) 6 2
  let width := if asked = 0 then own else 8 * 2 ^ asked
  let n := bitsOf (wordNo h 2) 26 5 + 1
  let fuse := bitsOf (wordNo d 0) 57 1 == 1
  if width = 0 || (fuse && (own != 32 || n % 2 == 1)) then none
  else if own = 0 || own = width then some (width, n)
  else if fuse && width = 16 then some (32, n / 2)
  else none

/-- The launch that a descriptor and its image's header describe. -/
def launchOf (uid q part : Nat) (clk : Clock) (d h : List DWord) (a : Nat × Nat) : Launch :=
  let e := bitsOf (wordNo d 1) 57 7
  let e' := bitsOf (wordNo h 2) 15 7
  let entry := bitsOf (wordNo d 7) 0 20
  { uid := uid, queue := q, part := part, desc := d, hdr := h, id := BitVec.ofNat 32 (bitsOf (wordNo d 7) 32 32),
    width := a.1, groups := a.2, extent := if e ≠ 0 then e else if e' ≠ 0 then e' else a.1,
    pair := bitsOf (wordNo h 2) 25 1 == 1, regs := bitsOf (wordNo h 2) 31 8, scratch := bitsOf (wordNo h 2) 39 21,
    tiles := bitsOf (wordNo d 2) 0 6, stack := bitsOf (wordNo d 3) 0 16, quota := bitsOf (wordNo d 3) 54 10,
    slack := bitsOf (wordNo d 3) 48 6, allres := bitsOf (wordNo h 2) 24 1 == 1,
    entry := if entry = 0xFFFFF then bitsOf (wordNo h 3) 0 20 else entry,
    phase := if bitsOf (wordNo d 0) 59 1 = 1 then .waiting else .placing, clk := clk }

/-- The number of teams of a launch (R14, R387). -/
def Launch.teams (l : Launch) : Nat :=
  (bitsOf (wordNo l.desc 2) 40 24 + 1) * (bitsOf (wordNo l.desc 2) 24 16 + 1) * (bitsOf (wordNo l.desc 2) 8 16 + 1)

/-- The index of team q (R118). -/
def Launch.teamIndex (l : Launch) (q : Nat) : Nat × Nat × Nat :=
  let x := bitsOf (wordNo l.desc 2) 40 24 + 1
  let y := bitsOf (wordNo l.desc 2) 24 16 + 1
  (q % x, q / x % y, q / (x * y))

/-! ### Room (R19, R86, R393) -/

/-- The groups that hold a slot and registers of a cluster: those resident, and those that a rollback of a pair may bring
back (R184). -/
def State.occupants (s : State) (ck : Nat) : List (Nat × Group) :=
  let held := s.pairs.flatMap (fun p => (p.confirmed ++ p.pending).flatMap Ckpt.groups)
  ((s.groups ++ held.filter (fun p => !s.groups.any (fun q => q.1 == p.1))).filter (fun p => p.2.ckey == ck))

/-- Group slots of a slice that are free. -/
def slotsFree (os : List (Nat × Group)) (slice : Nat) : List Nat :=
  (List.range 32).filter (fun i => !os.any (fun p => p.2.slice == slice && p.2.gslot == i))

/-- Register words of a half of a slice that are free. -/
def wordsFree (os : List (Nat × Group)) (slice half : Nat) : Nat :=
  1536 - os.foldl (fun n p => if p.2.slice == slice && p.2.usesHalf half && !p.2.evicted then n + regWords p.2.width p.2.nregs else n) 0

/-- How many groups of a launch a slice can still take (R19). -/
def sliceTakes (os : List (Nat × Group)) (l : Launch) (slice : Nat) : Nat :=
  let f := (slotsFree os slice).length
  let need := regWords l.width l.regs
  let a := wordsFree os slice 0
  let b := wordsFree os slice 1
  if l.width = 16 then min f (a / need + b / need) else min f (min a b / need)

/-- Whether the slices of a cluster can take n groups on some assignment (R393). -/
def slicesTake (os : List (Nat × Group)) (l : Launch) (n : Nat) : Bool :=
  decide (n ≤ (List.range 6).foldl (fun k i => k + sliceTakes os l i) 0)

/-- The size of an allocation (R86). -/
def allocSize (scratch : Nat) : Nat := ((List.range 21).map (fun i => 2 ^ i)).find? (fun a => decide (max scratch 256 ≤ a)) |>.getD (2 ^ 20)

/-- The teams that are resident on a cluster. -/
def State.teamsOn (s : State) (ck : Nat) : List (Nat × Team) :=
  s.teams.filter (fun (t : Nat × Team) => t.2.ckey == ck || (t.2.pair && t.2.ckey + 1 == ck))

/-- The allocation of a team on a cluster. -/
def Team.allocAt (t : Team) (ck : Nat) : Alloc := if t.ckey = ck then t.alloc else t.allocHi

/-- The lowest place for an allocation on a cluster (R86). -/
def State.allocFree (s : State) (ck size : Nat) : Option Nat :=
  let held := (s.teamsOn ck).map (fun t => t.2.allocAt ck)
  ((List.range (2 ^ 20 / size)).map (fun i => i * size)).find? (fun b =>
    !held.any (fun a => decide (a.base < b + size) && decide (b < a.base + a.size)))

/-- The context of a launch on a cluster. -/
def State.ctxOn (s : State) (ck l : Nat) : Option Nat := ((s.kernelsOn ck).find? (fun c => c.2.launch == l)).map Prod.fst

/-- A cluster has room for n groups of a team of a launch (R393). -/
def State.roomOn (s : State) (l : Launch) (ck n : Nat) : Bool :=
  let ts := s.teamsOn ck
  let ks := s.kernelsOn ck
  slicesTake (s.occupants ck) l n && (s.allocFree ck (allocSize l.scratch)).isSome
    && decide (ts.foldl (fun k t => k + t.2.tiles) l.tiles ≤ 32)
    && ((s.ctxOn ck l.uid).isSome || (decide (ks.length < 6) && decide (ks.foldl (fun k c => k + c.2.quota) l.quota ≤ 512)))
    && decide ((s.liveTeams ck).length < s.limitOf ck)

/-- The groups of a PAIR team on the lower cluster, and on the upper (R16). -/
def Launch.lower (l : Launch) : Nat := (l.groups + 1) / 2
def Launch.upper (l : Launch) : Nat := l.groups - l.lower

/-- Whether an image can ever fit a cluster of its own (R86, R388). -/
def Launch.fits (l : Launch) : Bool := decide (l.scratch ≤ 2 ^ 20) && l.scratch % 16 == 0 && slicesTake [] l (if l.pair then l.lower else l.groups)

/-! ### Where teams go (R392) -/

/-- The clusters that a partition offers: not retired, and not about to be (R189). -/
def State.offered (s : State) (p : Nat) : List Nat :=
  (s.clustersOf p).filter (fun c => (s.part p).v128 || !s.house.retiring.contains c)

/-- The groups resident on a cluster. -/
def State.residents (s : State) (ck : Nat) : Nat := (s.groups.filter (fun p => p.2.ckey == ck)).length

/-- The team handles in use on a cluster, or on both of a pair (R58). -/
def State.handlesUsed (s : State) (ck : Nat) (pair : Bool) : List Nat :=
  ((s.teamsOn ck ++ (if pair then s.teamsOn (ck + 1) else [])).map (fun t => t.2.handle)).eraseDups

/-- A whole team of a launch has room at a cluster; of a PAIR team, at the pair whose lower cluster it is. A handle must be free
for it too (R58). -/
def State.roomAt (s : State) (l : Launch) (c : Nat) : Bool :=
  let ck := clusterKey l.part c
  decide ((s.handlesUsed ck l.pair).length < 192)
    && (if l.pair then s.roomOn l ck l.lower && s.roomOn l (ck + 1) l.upper else s.roomOn l ck l.groups)

/-- The cluster, or the lower cluster of the pair, that team q of a launch goes to (R392). -/
def State.placeOf (s : State) (l : Launch) (q : Nat) : Option Nat :=
  let p := s.part l.part
  let b := bitsOf (wordNo l.desc 5) 56 8
  if p.v128 then
    let c := if l.pair then 2 * ((b / 2 + q) % (p.count / 2)) else (b + q) % p.count
    if s.roomAt l c then some c else none
  else
    let cs := s.offered l.part
    let cs := if l.pair then cs.filter (fun c => c % 2 == 0 && cs.contains (c + 1)) else cs
    let load (c : Nat) : Nat :=
      s.residents (clusterKey l.part c) + (if l.pair then s.residents (clusterKey l.part c + 1) else 0)
    leastBy load (cs.filter (s.roomAt l))

/-- The cluster of the stand-in copy of a team whose lead is on cluster c (R392). -/
def State.standInPlace (s : State) (l : Launch) (c : Nat) : Option Nat :=
  let p := s.part l.part
  if p.v128 then
    let k := (c + 3) % p.count
    if s.roomAt l k then some k else none
  else
    leastBy (fun k => s.residents (clusterKey l.part k))
      ((s.offered l.part).filter (fun k => k / 2 != c / 2 && s.roomAt l k))

/-! ### Placing (R16, R21, R58, R71, R100) -/

/-- One of the things that are free, which one being left open (R16, R58). -/
def State.pick (s : State) (l : List Nat) : Nat × State :=
  ((l[Config.freeChoice s.free % l.length]?).getD 0, { s with free := s.free + 1 })

/-- A generator context of a launch on a cluster: the one it has, or a free one (R58). -/
def State.takeCtx (s : State) (l : Launch) (ck : Nat) (mirror : Bool) : Nat × State :=
  match s.ctxOn ck l.uid with
  | some c => (c, s)
  | none =>
    let (n, s) := s.pick ((List.range 6).filter (fun n => !(s.kernelsOn ck).any (fun c => c.2.num == n)))
    let (uid, s) := s.fresh
    let image := wordNo l.desc 0 % 2 ^ 56
    let regs : Sp DWord := [(1, BitVec.ofNat 64 image), (2, BitVec.ofNat 64 (wordNo l.desc 1 % 2 ^ 56)), (3, BitVec.ofNat 64 n),
      (4, BitVec.ofNat 64 (ck % 256)), (5, l.id.zeroExtend 64)].filter (fun (r : Nat × DWord) => r.2 != 0)
    (ctxKey ck n, s.setCtx (ctxKey ck n)
      { part := l.part, cluster := ck % 256, num := n, uid := uid, launch := l.uid, regs := regs,
        pc := BitVec.ofNat 20 (bitsOf (wordNo l.hdr 1) 0 20), image := BitVec.ofNat 64 image, quota := l.quota,
        mirror := mirror, active := true, clk := l.clk })

/-- The slice and half that the next group of a team may take on a cluster, as slice · 2 + half. -/
def placesFree (os : List (Nat × Group)) (l : Launch) : List Nat :=
  (List.range 12).filter (fun i =>
    let need := regWords l.width l.regs
    !(slotsFree os (i / 2)).isEmpty
      && (if l.width = 16 then decide (need ≤ wordsFree os (i / 2) (i % 2))
          else i % 2 == 0 && decide (need ≤ wordsFree os (i / 2) 0) && decide (need ≤ wordsFree os (i / 2) 1)))

/-- A group of a team placed on a cluster: in the wings, parked, every register zero (R16, R21, R69). -/
def State.placeGroup (s : State) (l : Launch) (t ck index : Nat) : State :=
  let os := s.occupants ck
  let (i, s) := s.pick (placesFree os l)
  let (gs, s) := s.pick (slotsFree os (i / 2))
  let (uid, s) := s.fresh
  { s with oldGroups := Sp.erase s.oldGroups (groupKey ck (i / 2) gs) }.setGroup (groupKey ck (i / 2) gs)
    { uid := uid, launch := l.uid, team := t, index := index, part := l.part, cluster := ck % 256, slice := i / 2, gslot := gs,
      half := i % 2, width := l.width, extent := l.extent, nregs := l.regs, clk := l.clk }

/-- A limit that was asked for while the cluster was pinned is the limit once the pin is released (R395). -/
def State.settleLimit (s : State) (ck : Nat) : State :=
  s.modCluster ck (fun c => { c with limit := s.limitOf ck, limitWant := if s.pinned ck then c.limitWant else none })

/-- An allocation handed over: every byte zero, every full bit empty, whatever was written there since it was freed (R86). -/
def State.handOver (s : State) (ck : Nat) (a : Alloc) : State :=
  { s with late := s.late.filter (fun e => !(e.space == ck + 1 && a.holds e.addr)) }.modCluster ck (fun c => c.freeAlloc a)

/-- Team q of a launch made resident whole at a cluster, or at a pair by its lower cluster; its key (R16, R86, R100). `led` says
that it is no stand-in. -/
def State.placeTeam (s : State) (l : Launch) (q c : Nat) (led : Bool) : Nat × State :=
  let ck := clusterKey l.part c
  let size := allocSize l.scratch
  let place (k : Nat) : Alloc := { base := (s.allocFree k size).getD 0, size := size, declared := l.scratch }
  let used := s.handlesUsed ck l.pair
  let s := s.settleLimit ck
  let s := if l.pair then s.settleLimit (ck + 1) else s
  let (xk, s) := s.takeCtx l ck false
  let s := if led then s.modCtx xk (fun x => { x with led := true }) else s
  let s := if l.pair then (s.takeCtx l (ck + 1) true).2 else s
  let s := s.handOver ck (place ck)
  let s := if l.pair then s.handOver (ck + 1) (place (ck + 1)) else s
  let (handle, s) := s.pick ((List.range 192).filter (fun h => !used.contains h))
  let (uid, s) := s.fresh
  let i := l.teamIndex q
  let t := teamKey ck handle
  let s := { s with oldTeams := Sp.erase s.oldTeams t }.setTeam t
    { uid := uid, launch := l.uid, part := l.part, cluster := c, handle := handle, pair := l.pair, ctx := xk, x := i.1, y := i.2.1,
      z := i.2.2, q := q, ngroups := l.groups, width := l.width, tiles := l.tiles, alloc := place ck,
      allocHi := if l.pair then place (ck + 1) else {} }
  (t, (List.range l.groups).foldl (fun s j => s.placeGroup l t (if l.pair && decide (l.lower ≤ j) then ck + 1 else ck) j) s)

/-- Team q of a launch placed with its stand-in, if it has one: both or neither (R392). -/
def State.placeBoth (s : State) (l : Launch) (q : Nat) : Option (List Nat × State) :=
  (s.placeOf l q).bind (fun c =>
    let (t, s) := s.placeTeam l q c true
    if l.slack = 0 then some ([t], s)
    else
      (s.standInPlace l c).map (fun k =>
        let (u, s) := s.placeTeam l q k false
        let s := (s.modTeam t (fun x => { x with copy := .lead u })).modTeam u (fun x => { x with copy := .standIn t })
        ([t, u], { s with pairs := s.pairs ++ [{ lead := t, standIn := u, slack := l.slack }] })))

/-- Whether all teams of a launch could be resident at once (R54); no partition holds more than 192 teams on a cluster. -/
def State.allResident (s : State) (l : Launch) : Bool :=
  decide (l.teams ≤ 192 * Config.physClusters)
    && ((List.range l.teams).foldl (fun (r : Option State) q => r.bind (fun s => (s.placeBoth l q).map Prod.snd)) (some s)).isSome

/-! ### The completion record (R389, R398) -/

/-- Word 0 of the completion record. -/
def Launch.recordWord (l : Launch) : Nat :=
  2 ^ 63 + (decide (0 < l.dead)).toNat * 2 ^ 62 + l.status * 2 ^ 48 + min l.dead 0xFFFF * 2 ^ 32 + l.id.toNat

/-- Every operation of a launch, as a clock; the record's write is an operation of the launch's own name after them (R125). -/
def Launch.ended (l : Launch) : Clock := Clock.join (Clock.join l.exitClk l.clk) [(l.uid, 2)]

/-- The completion record written: words 1 to 3, then word 0 as a release at system scope, then the notification; none
where the context area is not mapped. Who observes it sees everything that the launch did, a host too (R125, R146). -/
def State.writeRecord (s : State) (l : Launch) : Option State :=
  let m := 2 ^ 32 - 1
  let s := s.cross .coll l.uid 2 (fun e => Clock.has l.ended e.uid e.time)
  let body := leBytes l.energy 8 ++ leBytes (min l.rollbacks m * 2 ^ 32 + min l.exited m) 8 ++ leBytes l.faultWord.toNat 8
  (s.writeVirtual l.part (l.area + 8) body).bind (fun s =>
    (s.writeVirtual l.part l.area (leBytes l.recordWord 8)).map (fun s =>
      let s := match s.physOf l.part l.area true with
        | none => s
        | some a => s.publish 0 a 8 false {} [(.sys, l.ended)]
      if bitsOf (wordNo l.desc 0) 58 1 = 1 then s.systemWrite (s.queue l.queue).note (BitVec.ofNat 64 l.recordWord) else s))

/-- The armed requests of a launch that completes are discarded (R453). -/
def State.disarm (s : State) (l : Launch) : State :=
  { s with house := { s.house with armed := s.house.armed.filter (fun j => wordNo j.words 0 / 2 ^ 32 != l.id.toNat) } }

/-- A launch that a check refuses completes at once (R388, R398). -/
def State.refuseLaunch (s : State) (l : Launch) (status : Nat) : Option State :=
  (s.disarm l).writeRecord { l with status := status, exited := 0, energy := 0, rollbacks := 0, dead := 0, faultWord := 0 }

/-! ### Descriptors taken (R385, R386, R388, R390) -/

/-- Whether a partition has no two clusters that may hold the copies of a team (R392): in fixed shape fewer than six, in native shape
none in another pair than the first that it offers. -/
def State.copiesClose (s : State) (p : Nat) : Bool :=
  if (s.part p).v128 then decide ((s.part p).count < 6) else decide ((((s.offered p).map (· / 2)).eraseDups).length ≤ 1)

/-- Checks 3 to 5 of R388: the status of the first that fails. -/
def State.launchCheck (s : State) (l : Launch) : Option Nat :=
  let p := s.part l.part
  let shape := bitsOf (wordNo l.hdr 2) 22 2
  let heap := bitsOf (wordNo l.desc 3) 24 24
  if (shape != 0 && shape != (if p.v128 then 2 else 1)) || decide (l.width < l.extent) || !l.fits then some 0x02
  else if bitsOf (wordNo l.desc 0) 60 1 = 1 && heap % (l.groups * l.width) != 0 then some 0x01
  else if decide (32 < l.slack) || (l.slack != 0 && (l.pair || s.copiesClose l.part)) then some 0x04
  else none

/-- The writes that race detection remembers, as a clock. -/
def State.written (s : State) : Clock := (s.access.filter (fun a => a.write)).foldl (fun c a => Clock.join c [(a.uid, a.time)]) []

/-- The start of a launch: the values that it finds in memory happen before every operation of it, whoever wrote them and on
whatever path (R126). It is an operation of the launch's own name. -/
def State.launchStarts (s : State) (l : Launch) : Launch × State :=
  ({ l with clk := Clock.join (Clock.join l.clk s.written) [(l.uid, 1)] }, s.crossAll l.uid 1 (fun _ => true))

/-- A descriptor that is read, checked (R388 checks 1 to 5): a launch, or the launch it would be and its status. -/
def State.readLaunch (s : State) (q : Nat) (d : List DWord) : Option (Launch ⊕ (Launch × Nat)) :=
  let p := (s.queue q).part
  let uid := s.nextId + 1
  let clk := (s.queue q).covering
  let plain (h : List DWord) : Launch := launchOf uid q p clk d h (16, 1)
  if descriptorBad d then some (.inr (plain [], 0x01))
  else
    (s.readWords p (wordNo d 0 % 2 ^ 56) 16).map (fun h =>
      if headerBad h then .inr (plain h, 0x01)
      else
        match arrange d h with
        | none => .inr (plain h, 0x02)
        | some a =>
          let l := launchOf uid q p clk d h a
          match s.launchCheck l with
          | some st => .inr (l, st)
          | none => .inl l)

/-- A launch of a queue that has teams still to place holds the next one back, a killed one until it has completed (R386;
DEDUCED [109]). -/
def Launch.holdsNext (l : Launch) : Bool := l.phase == .waiting || l.phase == .placing || (l.killed && decide (l.next < l.teams))

/-- DESCRIPTOR_TAKE (R385, R386, R388): the dispatcher takes the next descriptor of an enabled queue of a partition that is on
(R410) when the launch before it is placed; a translation that is missing holds it back. -/
def execDescriptorTake (q : Nat) (s : State) : Host.Outcome State Fault Refusal :=
  .next (
    let k := s.queue q
    let busy := s.launches.any (fun l => l.2.queue == q && l.2.holdsNext)
    if !k.en || k.head == k.tail || busy || !(s.part k.part).on then s
    else
      match (s.readWords k.part (k.base + 64 * (k.head % k.ring)) 8).bind (fun d => s.readLaunch q d) with
      | none => s
      | some r =>
        let head := (k.head + 1) % 2 ^ 16
        let s' := { s with nextId := s.nextId + 1 }.setQueue q { k with head := head, kicks := k.kicksFrom head }
        match r with
        | .inl l => s'.setLaunch l.uid l
        | .inr (l, st) => (s'.refuseLaunch l st).getD s)

/-- Where a partition's address is served, by a fresh walk, when the partition may read there. -/
def State.readsAt (s : State) (part va : Nat) : Place :=
  match s.walk part va with
  | .fault _ _ _ => .none_
  | .page frame bits _ _ _ => if s.unitMay part (frame + va % 2 ^ bits) false then s.servedAt (frame + va % 2 ^ bits) else .none_

/-- EVENT_WORD_SET (R390): the launch at the head of a queue of a partition that is on reads its event word with an acquire at
system scope, and may be placed when bit 63 is set. A word on another device reads as a free value each time. -/
def execEventWordSet (q : Nat) (s : State) : Host.Outcome State Fault Refusal :=
  .next (
    match s.launches.find? (fun l => l.2.queue == q && l.2.phase == .waiting) with
    | none => s
    | some (u, l) =>
      let p := s.readsAt l.part (wordNo l.desc 6 % 2 ^ 56)
      let met := match p.bytes with | none => [] | some (sp, a) => s.meets sp a 8
      let t := { s with free := s.free + (p.free 8).toNat }
      if !(s.part l.part).on then s
      else if s.placeRead p 8 / 2 ^ 63 % 2 = 1 then
        t.setLaunch u { l with phase := .placing, clk := Clock.join l.clk (s.taken .sys {} met) }
      else t)

/-! ### The placement step (R69, R391) -/

/-- The image copies of contexts that have just come to a cluster (R58, R326); none where the image has no translation. -/
def State.imageWords (s : State) (part va : Nat) : Nat → Nat → Option (Sp DWord)
  | _, 0 => some []
  | i, n + 1 =>
    (s.readVirtual part (va + 8 * i) 8).bind (fun bs =>
      (State.imageWords s part va (i + 1) n).map (fun t =>
        let w := BitVec.ofNat 64 (bytesWord bs)
        if w = 0 then t else (i, w) :: t))

/-- Every context of a launch that has no image copy yet takes it. -/
def State.takeImages (s : State) (l : Launch) : Option State :=
  let n := bitsOf (wordNo l.hdr 1) 24 21
  let new := s.ctxs.filter (fun c => c.2.launch == l.uid && decide (c.2.num < 6) && c.2.active && c.2.imageLen == 0)
  if new.isEmpty then some s
  else (s.imageWords l.part (wordNo l.desc 0 % 2 ^ 56) 0 n).map (fun ws =>
    new.foldl (fun s c => s.setCtx c.1 { c.2 with words := ws, imageLen := n }) s)

/-- A placed team is started at the launch's entry, or TEAM_ARRIVED is posted to its generator (R69, R76). Word 0 of the record has
the cause code of R74 beside the team's handle, which tells it from a fault event; R75 says that the other fields read zero, and the
model takes the cause for none of these (DESIGN CHOICE [126]). -/
def State.arrive (s : State) (l : Launch) (t : Nat) : State :=
  if l.entry ≠ 0xFFFFF then s.startAt t (BitVec.ofNat 20 l.entry) l.clk
  else
    match s.team? t with
    | none => s
    | some tm =>
      let r : Rec := { w0 := BitVec.ofNat 64 (0x10 * 2 ^ 56 + tm.handle * 2 ^ 48) }
      match s.ctx? tm.ctx with
      | none => s
      | some c =>
        if c.events.length < 64 then s.enqueue tm.ctx r l.clk 0
        else s.setCtx tm.ctx { c with arrivals := c.arrivals ++ [(r, l.clk, 0)] }

/-- What a placement step does for the launch at the head of a queue: refuse it for R54, place its next team, or nothing. An ALLRES
launch is judged at the first step that comes to it, and refused then where its first team has no room, not passed over until it
has some (R54, R388, R391; DESIGN CHOICE [125]). -/
def State.placeNext (s : State) (l : Launch) : Option State :=
  if l.allres && l.next == 0 && !s.allResident l then
    (s.refuseLaunch l 0x03).map (fun s => { s with launches := Sp.erase s.launches l.uid })
  else
    let (l, s) := if l.next = 0 then s.launchStarts l else (l, s)
    (s.placeBoth l l.next).bind (fun r => (r.2.takeImages l).map (fun s =>
      let prio := (s.queue l.queue).prio
      let done := l.teams ≤ l.next + 1
      let s := s.setLaunch l.uid { l with next := l.next + 1, phase := if done then .placed else .placing }
      let s := { s with lastWin := Sp.set s.lastWin prio l.queue }
      let s := r.1.foldl (fun s t => s.arrive l t) s
      if done then
        (s.ctxs.filter (fun c => c.2.launch == l.uid && !c.2.mirror)).foldl (fun s c =>
          let s := s.reapCtx c.1
          if l.pair && (s.ctx? c.1).isNone then s.stopMirror (c.1 / 8 + 1) l.uid else s) s
      else s))

/-- Whether the dispatcher places teams for a partition: it is on, in no swap, and no cut of it runs or is held (R410,
R413, R424). -/
def State.serves (s : State) (p : Nat) : Bool :=
  (s.part p).on && !(s.part p).fatal && (s.share (s.shareKey p)).phase == .run && !((s.part p).cutState == 1 || (s.part p).cutState == 2)

/-- The place of a queue in the order of a step: its priority, then after the queue that last won at it (R391). -/
def State.stepRank (s : State) (q : Nat) : Nat :=
  let p := (s.queue q).prio
  p * 256 + (q + 255 - Sp.getD s.lastWin p 255) % 256

/-- PLACEMENT_STEP (R391): one team, of the first queue in order whose next team has room. -/
def execPlacementStep (s : State) : Host.Outcome State Fault Refusal :=
  .next (
    let ls := (s.launches.map Prod.snd).filter (fun l => l.phase == .placing && (s.queue l.queue).en && s.serves l.part)
    ((sortBy (fun (l : Launch) => s.stepRank l.queue) ls).findSome? (fun l => s.placeNext l)).getD s)

/-! ### Completion (R397, R398), `.ord` sums (R438), energy (R399, R400) -/

/-- Whether a team, or the other copy of it, stands on a frozen cluster, where nothing happens any more (R426). -/
def State.teamFrozen (s : State) (t : Team) : Bool :=
  let on (t : Team) : Bool := (s.cluster t.ckey).frozen || (t.pair && (s.cluster (t.ckey + 1)).frozen)
  on t || (match t.copy with | .sole => false | .lead p | .standIn p => (s.team? p).any on)

/-- Nothing of a launch is left to happen but its `.ord` sums and its record (R397); of one that was killed, what stands on a frozen
cluster is not waited for (R426). -/
def State.launchDone (s : State) (l : Launch) : Bool :=
  (l.killed || (l.phase == .placed && decide (l.teams ≤ l.exited)))
    && l.counters.all (fun c => c.2 == {}) && !s.teams.any (fun t => t.2.launch == l.uid && !(l.killed && s.teamFrozen t.2))
    && !s.rputs.any (fun r => r.launch == l.uid)

/-- The contributions of a launch to the locations of its home, added in the order of their keys, each addition rounded
once to nearest even (R438); none is performed on a poisoned line (R84). -/
def State.closeOrd (s : State) (u : Nat) : State :=
  let items := sortBy OrdItem.key (s.ordBuf.filter (fun i => i.launch == u))
  let s := items.foldl (fun s i =>
    if s.linePoisoned i.phys 4 then s
    else
      match (rmwResult (.red 9 .f32) (s.mem.read i.phys 4) i.value.toNat 0).1 with
      | none => s
      | some v => { s.plain 0 i.phys 4 with mem := s.mem.write i.phys 4 v }) s
  { s with ordBuf := s.ordBuf.filter (fun i => i.launch != u), ordSlots := delNat u s.ordSlots }

/-- ORD_CLOSE (R438): at a launch's completion, before its record. -/
def execOrdClose (l : Nat) (s : State) : Host.Outcome State Fault Refusal :=
  .next (match s.launch? l with | none => s | some x => if s.launchDone x then s.closeOrd l else s)

/-- LAUNCH_COMPLETE (R397, R398): the contexts stop, but for those that a frozen cluster preserves (R426); then the record is
written. -/
def execLaunchComplete (l : Nat) (s : State) : Host.Outcome State Fault Refusal :=
  .next (
    match s.launch? l with
    | none => s
    | some x =>
      if !s.launchDone x || s.ordBuf.any (fun i => i.launch == l) then s
      else
        let t := (s.ctxs.filter (fun c => c.2.launch == l && decide (c.2.num < 6) && !(s.cluster (c.1 / 8)).frozen)).foldl (fun s c => s.stopCtx c.1) s
        match (t.launch? l).bind (fun x => t.writeRecord x) with
        | none => s.modLaunch l (fun x => { x with status := if x.killed then x.status else 0x09 })
        | some t => { t.disarm x with launches := Sp.erase t.launches l, ensembles := t.ensembles.filter (fun e => e.launch != l) })

/-- ENERGY_INTERVAL (R399, R400): a cluster's energy of the last 100 µs is shared among its kernels. -/
def execEnergyInterval (cl : Nat) (s : State) : Host.Outcome State Fault Refusal :=
  .next (
    let ks := s.kernelsOn cl
    let sum := ks.foldl (fun n p => n + p.2.activity) 0
    let e := Config.freeEnergy s.free
    ks.foldl (fun s p => s.setCtx p.1 (p.2.attribute e sum ks.length)) { s with free := s.free + 1 })

end Sys2Proof.Machine
end

