-- ==== Sys2Proof/Machine/Swap.lean ====
section
/-! DEFINITION. Seams (chapter "Stops, swaps and translation"): walks and translation faults (R404, R421, R422), swaps of a
time-share group (R412, R413, R416), the quantum of shared clusters (R191), the curtain (R144, R424, R425). -/

namespace Sys2Proof.Machine

/-! ### Walks (R404, R421, R422) -/

/-- The agent field of a translation fault's detail. -/
def walkCode : Agent → Nat
  | .group _ => 0 | .ctx _ => 1 | .engine _ p => p | .host _ => 5

/-- What a walk ends in: the entry that fills the TLBs, or the detail of a translation fault (R422). -/
def State.walkEnds (s : State) (r : WalkReq) : TlbEntry ⊕ Nat :=
  let detail (level : Nat) (malformed invalid wprot : Bool) : Nat :=
    walkCode r.agent * 2 ^ 8 + level * 2 ^ 4 + malformed.toNat * 8 + invalid.toNat * 4 + wprot.toNat * 2 + r.write.toNat
  match s.walk r.part r.va with
  | .fault level malformed invalid => .inr (detail level malformed invalid false)
  | .page frame bits w nochk far =>
    if r.write && !w then .inr (detail (if bits = 30 then 2 else if bits = 21 then 1 else 0) false false true)
    else .inl { part := r.part, page := r.va / 2 ^ bits, bits := bits, frame := frame, w := w, nochk := nochk, far := far }

/-- The record of a translation fault: words 0, 1, 3 and 4 (R407). -/
def State.walkRecord (s : State) (r : WalkReq) (detail : Nat) : Rec :=
  { w0 := s.requesterWord 0x30 r.agent r.slot, w1 := r.lanes, w3 := recWord3 detail 0, w4 := BitVec.ofNat 64 r.va }

/-- A translation fault (R404, R422): a group halts before its word, and a record goes to the system context; what waits
on the fault waits until it is resolved. A group that is halted by one already does not post another. -/
def State.walkFault (s : State) (r : WalkReq) (detail : Nat) : State :=
  let t := { s with faulted := s.faulted ++ [r] }.postSystem (clusterKey r.part r.cluster) (s.walkRecord r detail)
  match r.agent with
  | .group g =>
    match s.group? g with
    | none => s
    | some x =>
      if x.trHold then s
      else t.setGroup g { x with run := .halted, trHold := true, onStage := false, parked := false, latches := [] }
  | _ => t

/-- Whether a walk's end may be acted on: a group stops only when everything older is done (R403). -/
def State.walkReady (s : State) (r : WalkReq) : Bool :=
  match s.walkEnds r, r.agent with
  | .inr _, .group g => (match s.group? g with | none => true | some x => s.settled g x)
  | _, _ => true

/-- A walk's entry fills the TLBs and serves every waiter for its page (R421). -/
def State.walkDone (s : State) (die : Nat) (r : WalkReq) (e : TlbEntry) : State :=
  let served (w : WalkReq) : Bool := e.covers w.part w.va && (!w.write || e.w)
  let q := Sp.getD s.walks die []
  let s := { s with walks := Sp.set s.walks die (q.filter (fun w => !served w)) }
  let s := s.fillTlb (clusterKey r.part r.cluster) e
  (q.filter served).foldl (fun s w =>
    match w.agent with
    | .ctx c => s.modCtx c (fun y => if y.wait == .walk then { y with wait := .run } else y)
    | _ => s) s

/-- WALK_COMPLETE (R421, R422): the oldest of a die's 32 walks that can end. -/
def execWalkComplete (die : Nat) (s : State) : Host.Outcome State Fault Refusal :=
  .next (
    let q := Sp.getD s.walks die []
    match (q.take 32).find? s.walkReady with
    | none => s
    | some r =>
      match s.walkEnds r with
      | .inl e => s.walkDone die r e
      | .inr d => { s with walks := Sp.set s.walks die (q.filter (fun w => w != r)) }.walkFault r d)

/-- PTROOT_WRITE (R411). -/
def execPtrootWrite (ag : Agent) (part : Nat) (val : DWord) (s : State) : Host.Outcome State Fault Refusal :=
  .next (s.agentWrite ag false (0x20000 + 0x100 * (part % 8)) val.toNat (s.agentClk ag))

/-! ### Swaps (R410 to R416) -/

/-- PSWAP_YIELD (R411, R412): PSWAP written with yield, its quantum kept. -/
def execPswapYield (ag : Agent) (part : Nat) (s : State) : Host.Outcome State Fault Refusal :=
  .next (s.agentWrite ag false (0x20000 + 0x100 * (part % 8) + 8) ((s.part (part % 8)).qnt * 2 ^ 32 + 1) (s.agentClk ag))

/-- SWAP_QUANTUM_EXPIRY (R412): the dispatcher's timer for a partition that is on, with a quantum. -/
def execSwapQuantumExpiry (part : Nat) (s : State) : Host.Outcome State Fault Refusal :=
  .next (if (s.part part).qnt ≠ 0 then s.swapTrigger part else s)

/-- The next partition of a time-share group that has work, after the one that is on (R412). -/
def State.nextWithWork (s : State) (k : Nat) : Option Nat :=
  let on := ((s.shareMembers k).find? (fun p => (s.part p).on)).getD k
  leastBy (fun p => (p + 7 - on) % 8) ((s.shareMembers k).filter (fun p => p != on && s.hasWork p))

/-- Clusters that the house controller has reset rejoin their partition; one that a violation made fatal runs again when none of it is
frozen (R426, R441), one that is fatal otherwise does not (R449). -/
def State.rejoins (s : State) (p : Nat) : State :=
  let s := { s with clusters := s.clusters.map (fun (c : Nat × Cluster) =>
    (c.1, if c.1 / 256 = p && c.2.rejoin then { c.2 with frozen := false, rejoin := false } else c.2)) }
  if s.clusters.any (fun c => c.1 / 256 == p && c.2.frozen) || !(s.part p).frozenFatal then s
  else s.modPart p (fun q => { q with fatal := false, frozenFatal := false })

/-- SWAP_FLIP (R413): the bank's partition becomes the one that is on. -/
def execSwapFlip (part : Nat) (s : State) : Host.Outcome State Fault Refusal :=
  .next (
    let k := s.shareKey part
    let s := s.startSwap k
    let x := s.share k
    if x.phase != .drain then s
    else
      match (s.shareMembers k).find? (fun p => (s.part p).on), x.bank.orElse (fun _ => s.nextWithWork k) with
      | some out, some inc =>
        let s := (s.modPart out (fun q => { q with on := false, yield := false })).modPart inc (fun q => { q with on := true })
        (s.modShare k (fun x => { x with phase := .exchange, bank := some out })).rejoins inc
      | _, _ => s.modShare k (fun x => { x with phase := .run }))

/-- The launches of a partition that hold state. -/
def State.launchesOf (s : State) (p : Nat) : List (Nat × Launch) := s.launches.filter (fun l => l.2.part == p && !l.2.killed)

/-- The held B and the props entries of a partition's launches saved to their save images, where the whole images go afterwards
(R413, R417); an area that has no translation ends its launch (R415). -/
def State.exchangeOut (s : State) (p : Nat) : State :=
  (s.launchesOf p).foldl (fun s l => (s.writeExchange l.1 l.2).getD (s.endLaunch l.1 0x09 0)) s

/-- SWAP_EXCHANGE_DONE (R413): what the understudy bank does not hold is saved, the incoming partition runs, and the swap engine is
busy in the background. -/
def execSwapExchangeDone (part : Nat) (s : State) : Host.Outcome State Fault Refusal :=
  .next (
    let k := s.shareKey part
    if (s.share k).phase == .exchange then
      let s := match (s.share k).bank with | none => s | some out => s.exchangeOut out
      s.modShare k (fun x => { x with phase := .run, busy := true })
    else s)

/-- A launch whose saved state is lost (R176, R416). -/
def State.contextLost (s : State) (u : Nat) (l : Launch) : State := (s.endLaunch u 0x09 0).report 0x0A l.part 0 l.id.toNat

/-- A launch saved (R416): in area 0; in area 1, recorded as SAVE_RETRY, where an error struck area 0; lost where both fail.
An area that has no translation ends it (R415). -/
def State.saveLaunch (s : State) (bad : List (Nat × Bool)) (u : Nat) (l : Launch) : State :=
  match bad.find? (fun b => b.1 == u) with
  | none => (s.saveIn u l 0).getD (s.endLaunch u 0x09 0)
  | some (_, true) => s.contextLost u l
  | some (_, false) =>
    let r : Rec := { w0 := BitVec.ofNat 64 (0x35 * 2 ^ 56), w3 := recWord3 l.id.toNat 0 }
    let s := (s.postSystem (clusterKey l.part (s.part l.part).firstCluster) r).report 0x0A l.part 0 l.id.toNat
    (s.saveIn u l 1).getD (s.endLaunch u 0x09 0)

/-- The launches of a partition saved: `bad` names those whose area 0 an error struck, and whether area 1 too. -/
def State.savePart (s : State) (bad : List (Nat × Bool)) (p : Nat) : State :=
  (s.launchesOf p).foldl (fun s (l : Nat × Launch) => s.saveLaunch bad l.1 l.2) s

/-- The launches of a partition restored (R416): one whose image an error has struck, `lost`, or whose image is not good where
the selector says it is, has lost its context. -/
def State.loadPart (s : State) (lost : List Nat) (p : Nat) : State :=
  ((s.launchesOf p).filter (fun (l : Nat × Launch) => lost.contains l.1 || !s.imageGood l.2)).foldl
    (fun s (l : Nat × Launch) => s.contextLost l.1 l.2) s

/-! ### The house controller's state -/

def State.modHouse (s : State) (f : House → House) : State := { s with house := f s.house }

/-! ### A cluster retired (R189, R192, R449) -/

/-- The working physical clusters (R189). -/
def House.working (h : House) : List Nat := (List.range Config.physClusters).filter (fun c => !h.retired.contains c)

/-- A logical cluster moved to another physical cluster: one that holds none, or one that holds only one (R191, R449). -/
def State.moveLogical (s : State) (p d : Nat) (working : List Nat) : State :=
  let q := s.part p
  let on (w : Nat) : Nat := ((List.range q.count).filter (fun e => e != d && q.physical e == w)).length
  let free := working.filter (fun w => on w == 0)
  let (w, s) := s.pick (if free.isEmpty then working.filter (fun w => on w == 1) else free)
  s.modPart p (fun q => { q with
    remap := Sp.set q.remap d w, sliced := if free.isEmpty then insNat d q.sliced else delNat d q.sliced })

/-- The fixed-shape partitions. -/
def State.fixedParts (s : State) : List Nat := (s.parts.filter (fun (p : Nat × Part) => p.2.v128)).map Prod.fst

/-- A cluster leaves the working set with report 0x07; the remap of each fixed-shape partition is rewritten, or, below 64 working
clusters, each is fatal (R449). -/
def State.retireNow (s : State) (cl : Nat) : State :=
  let s := s.modHouse (fun h => { h with retired := insNat cl h.retired, retiring := delNat cl h.retiring })
  let s := s.report 0x07 0xFF cl cl
  let ws := s.house.working
  if ws.length < 64 then s.fixedParts.foldl (fun s p => s.fatal p 6) s
  else
    s.fixedParts.foldl (fun s p =>
      ((List.range (s.part p).count).filter (fun d => (s.part p).physical d == cl)).foldl (fun s d => s.moveLogical p d ws) s) s

/-- The end of the save-and-restore swap of a retirement (R192, R449): every launch of the group's fixed-shape partitions is
saved, the remap rewritten, and every launch restored. -/
def State.moveDone (s : State) (k cl : Nat) (bad : List (Nat × Bool)) (lost : List Nat) : State :=
  let ps := (s.shareMembers k).filter (fun p => (s.part p).v128)
  let s := (ps.foldl (State.savePart · bad ·) s).retireNow cl
  (((ps.foldl (State.loadPart · lost ·) s).modShare k (fun x => { x with phase := .run })) |> ps.foldl State.rejoins).startSwap k

/-- SWAP_BACKGROUND_DONE (R412, R413, R416): the outgoing partition's launches are saved, the next partition with work is
loaded into the bank, and a trigger that waited starts. `bad` names the launches whose area 0 failed, and whether area 1
did; `lost` those whose image was not good when it was loaded. In a retirement's swap it is the end of the save and the
restore (R449). -/
def execSwapBackgroundDone (part : Nat) (bad : List (Nat × Bool)) (lost : List Nat) (s : State) : Host.Outcome State Fault Refusal :=
  .next (
    let k := s.shareKey part
    let x := s.share k
    match x.phase with
    | .move cl => s.moveDone k cl bad lost
    | _ =>
      if !x.busy then s
      else
        let s := match x.bank with | none => s | some out => s.savePart bad out
        let next := s.nextWithWork k
        let s := match next with | none => s | some inc => s.loadPart lost inc
        (s.modShare k (fun x => { x with busy := false, bank := next })).startSwap k)

/-- RETIRE_COMPLETE (R192, R449): in native shape when no team is resident; in fixed shape a save-and-restore swap of the group
begins, when its swap engine is free and no debug hold is in the way. -/
def execRetireComplete (cl : Nat) (s : State) : Host.Outcome State Fault Refusal :=
  .next (
    let ready (p : Nat × Part) : Bool :=
      if p.2.v128 then (s.share (s.shareKey p.1)).phase == .run && !(s.share (s.shareKey p.1)).busy && !s.debugHeld p.1
      else (s.teamsOn (clusterKey p.1 cl)).isEmpty
    if !s.house.retiring.contains cl || !(s.parts.filter (fun p => p.2.pairs.contains (cl / 2))).all ready then s
    else
      match s.fixedParts with
      | [] => s.retireNow cl
      | p :: _ => s.modShare (s.shareKey p) (fun x => { x with phase := .move cl }))

/-! ### Clusters that share a physical cluster (R191) -/

/-- TIMESLICE_QUANTUM (R191, R406): the next logical cluster of a fixed-shape partition takes the physical cluster. A debug hold on
the one that has it, or a halt that is to take effect first, holds the expiry back: it is due until the hold is released. -/
def execTimesliceQuantum (phys : Nat) (s : State) : Host.Outcome State Fault Refusal :=
  .next (
    match s.parts.find? (fun p => p.2.on && p.2.v128) with
    | none => s
    | some (p, q) =>
      let cs := (List.range q.count).filter (fun c => q.physical c == phys)
      match cs.find? (fun c => !q.sliced.contains c) with
      | none => s
      | some c =>
        if s.groups.any (fun y => y.2.ckey == clusterKey p c && (y.2.dbgHold || y.2.dbgPend)) then
          s.setPart p { q with sliceDue := insNat phys q.sliceDue }
        else
          let q := { q with sliceDue := delNat phys q.sliceDue }
          match leastBy (fun d => (d + 127 - c) % 128) (cs.filter (fun d => d != c)) with
          | none => s.setPart p q
          | some d => s.setPart p { q with sliced := insNat c (delNat d q.sliced) })

/-! ### The curtain (R144, R411, R424, R425) -/

/-- CUT_GO: CUTCTL written with go, its timeout kept. -/
def execCutGo (ag : Agent) (part : Nat) (s : State) : Host.Outcome State Fault Refusal :=
  .next (s.agentWrite ag false (0x20000 + 0x100 * (part % 8) + 0x10) (2 ^ 63 + (s.part (part % 8)).tmo) (s.agentClk ag))

/-- CUT_RELEASE: CUTCTL written with release, its timeout kept. -/
def execCutRelease (ag : Agent) (part : Nat) (s : State) : Host.Outcome State Fault Refusal :=
  .next (s.agentWrite ag false (0x20000 + 0x100 * (part % 8) + 0x10) (2 ^ 62 + (s.part (part % 8)).tmo) (s.agentClk ag))

/-- Whether everything that R144 names is performed for a partition: engine requests, RPUTs, atomics, stores, REDs and
sends; and no cue point of a pair awaits confirmation (R186). -/
def State.cutQuiet (s : State) (p : Nat) : Bool :=
  !s.clusters.any (fun c => c.1 / 256 == p && !(c.2.reqQ.isEmpty && c.2.work.isEmpty && c.2.mxQ.isEmpty))
    && !s.rputs.any (fun r => r.srcCluster / 256 == p)
    && !s.flight.any (fun (m : MemOp) => m.part == p && m.counter != 0 && !m.performed)
    && !s.pairs.any (fun q => q.lead / 192 / 256 == p && !(q.pending.isEmpty && q.entries.isEmpty))

/-- Every unit's operations so far happen before what any unit does next, on every path (R144). -/
def State.cutJoin (s : State) (p : Nat) : State :=
  let gs := s.groups.filter (fun y => y.2.part == p && decide (0 < y.2.issued))
  let cs := s.ctxs.filter (fun y => y.2.part == p && y.2.issuedCue)
  let k := (gs.map (fun y => y.2.clk) ++ cs.map (fun y => y.2.clk)).foldl Clock.join []
  let (uid, s) := s.fresh
  let s := s.crossAll uid 1 (fun e => Clock.has k e.uid e.time)
  let k := Clock.join k [(uid, 1)]
  let s := gs.foldl (fun s y => s.setGroup y.1 { y.2 with clk := k }) s
  cs.foldl (fun s y => s.setCtx y.1 { y.2 with clk := k }) s

/-- CUT_COMPLETE (R425): every unit stands at the target, none of them halted, and what it started is performed. -/
def execCutComplete (part : Nat) (s : State) : Host.Outcome State Fault Refusal :=
  .next (
    let s := s.cutSettle part
    let q := s.part part
    let there := (s.cutUnits part).all (fun u => u.stands && !u.blocked && u.cue == q.target.toNat)
    if q.cutState == 1 && !q.cutFirst && there && s.cutQuiet part then
      ((s.setPart part { q with cutState := 2 }).cutJoin part).postCut part
    else s)

/-- CUT_BLOCKED (R425): the time is up; every unit and held context resumes. -/
def execCutBlocked (part : Nat) (s : State) : Host.Outcome State Fault Refusal :=
  .next (
    let q := s.part part
    if q.cutState == 1 then ((s.setPart part { q with cutState := 3, cutFirst := false }).cutResume part).postCut part else s)

end Sys2Proof.Machine
end

