-- ==== Sys2Proof/Machine/Fabric.lean ====
section
/-! DEFINITION. The Garug fabric (chapter "Garug fabric and the host"): flits and replays (R428), lanes shed and retrained
(R431), ports that go down and devices that cannot be reached (R432, R435), requests that arrive (R433, R434, R437, R438). -/

namespace Sys2Proof.Machine

/-! ### Flits (R428) -/

/-- A replay on a port: counted, in the history, and reported at every 65,536th (R428, R440, R451). -/
def State.replay (s : State) (port : Nat) : State :=
  let n := (s.port port).replays + 1
  let s := s.modPort port (fun p => { p with replays := n })
  if n % 65536 = 0 then s.report 0x01 0xFF port n 1 else s.historyAdd 0x01 0xFF port n false

/-- FLIT_RECEIVE (R428): a good flit in sequence is taken; any other is refused, and the sender replays from it onward: the far end,
or this port itself where the flit is one of its own. -/
def execFlitReceive (port seq : Nat) (flit : FlitNews) (s : State) : Host.Outcome State Fault Refusal :=
  .next (
    let p := s.port port
    if p.state = 0 then s
    else if flit == .arrives true && seq == p.rxSeq then s.setPort port { p with rxSeq := p.rxSeq + 1 }
    else s.replay port)

/-! ### Lanes (R431) -/

/-- A port begins to retrain at a width: state 3, or state 0 when no lane is left. -/
def State.retrain (s : State) (port width : Nat) : State :=
  s.modPort port (fun p => if width = 0 then { p with state := 0, lanes := 0 } else { p with state := 3, newWidth := width })

/-! ### Streams and ports (R430, R432, R435) -/

/-- The writes of a stream that are dropped with it: requests that await no reply, and requests of the engines that write there
(R106, R435). -/
def State.writesOf (s : State) (t : Stream) : Nat :=
  let there (r : Request) : Bool := match s.engineByte r false 0 with | .at_ (.remote a) => fabricDevice a == t.dest | _ => false
  (t.unacked.filter (fun u => (s.flight.find? (fun (m : MemOp) => m.id == u.2)).any (fun m => m.d.isNone) || (s.request? u.2).any there)).length

/-- A device is unreachable (R435): its streams close without successors, with one report for each source. What was sent meets its
fate where it is performed: a read of it is poisoned, a write of it is dropped. -/
def State.loseDevice (s : State) (dev : Nat) : State :=
  let gone := s.streams.filter (fun t => t.dest == dev)
  let s := { s with unreachable := insNat dev s.unreachable, streams := s.streams.filter (fun t => t.dest != dev) }
  gone.foldl (fun s t => s.report 0x05 (t.source / 256) dev (s.writesOf t)) s

/-- A stream goes on as its successor on another port, which sends again what was not acknowledged (R432); where none reaches its
destination, that is unreachable. -/
def State.moveStream (s : State) (t : Stream) : State :=
  match leastBy (fun p => s.streamsOn p) (s.portsTo t.dest) with
  | some p => { s with streams := s.streams.map (fun x => if x.source == t.source && x.dest == t.dest then { x with port := p } else x) }
  | none => if s.unreachable.contains t.dest then s else s.loseDevice t.dest

/-- DEVICE_UNREACHABLE (R435): the fabric manager declares it, with the ports that reach other devices from now on; traffic that
passed through the device goes on on successor streams. -/
def execDeviceUnreachable (loss : DeviceLoss) (s : State) : Host.Outcome State Fault Refusal :=
  .next (
    let s := s.loseDevice loss.dev
    let s := { s with routes := loss.routes.foldl (fun (r : Sp (List Nat)) (k : Nat × List Nat) => Sp.set r k.1 k.2) s.routes }
    (s.streams.filter (fun (t : Stream) => !(s.portsTo t.dest).contains t.port)).foldl State.moveStream s)

/-- PORT_DOWN (R432): the streams of a port move; a device that no port reaches is unreachable. -/
def State.portFails (s : State) (port : Nat) : State :=
  let moved := s.streams.filter (fun t => t.port == port)
  let s := s.modPort port (fun p => { p with state := 0, lanes := 0 })
  moved.foldl State.moveStream (s.report 0x03 0xFF port moved.length)

def execPortDown (port : Nat) (s : State) : Host.Outcome State Fault Refusal :=
  .next (if (s.port port).state = 0 then s else s.portFails port)

/-- A port sheds to a width (R431): one report, and retraining; a port whose last lane fails is down. -/
def State.shedTo (s : State) (port width : Nat) : State :=
  let s := s.modPort port (fun p => { p with sheds := p.sheds + 1 })
  let s := s.report 0x02 0xFF port width
  if width = 0 then s.portFails port else s.retrain port width

/-- LANE_SHED (R431): a lane's error rate passes the threshold. -/
def execLaneShed (port : Nat) (s : State) : Host.Outcome State Fault Refusal :=
  .next (let p := s.port port; if p.state = 2 && p.lanes != 0 then s.shedTo port (p.lanes - 1) else s)

/-- PORT_RETRAINED (R431): the port is up again at its new width. -/
def execPortRetrained (port : Nat) (s : State) : Host.Outcome State Fault Refusal :=
  .next (s.modPort port (fun p => if p.state = 3 then { p with state := 2, lanes := p.newWidth } else p))

/-! ### Requests that arrive (R432 to R434, R437, R438) -/

/-- The name of a source in the table of what was performed, and of one of its launches at this home. -/
def reqKey (r : FabricReq) : Nat := 2 * r.source + r.isHost.toNat
def reqLaunch (r : FabricReq) (l : Nat) : Nat := 2 ^ 40 + reqKey r * 2 ^ 40 + l

/-- A reply to a request: good with its data, or an error response. -/
def State.answer (s : State) (r : FabricReq) (ok : Bool) (v : Nat) : State :=
  { s with answers := (r.port, ok, BitVec.ofNat 512 v) :: s.answers }

/-- An access of the host takes the clock it meets, or publishes its own (R125, R433). -/
def reqWho (r : FabricReq) : Standing := { host := r.isHost }

/-- The name of a requester in the memory model: the host, or a source of another device. -/
def reqUid (r : FabricReq) : Nat := if r.isHost then 0 else 2 ^ 40 + reqKey r

/-- What happens before a request: what does for the host, or the earlier requests of its stream (R430). -/
def State.reqClk (s : State) (r : FabricReq) : Clock := if r.isHost then s.hostClk else [(reqUid r, r.seq)]

/-- A write of the host is an operation of its own. -/
def State.reqTick (s : State) (r : FabricReq) : State := if r.isHost then { s with hostClk := Clock.tick s.hostClk 0 } else s

/-- A request as a reader, and as the writer of bytes, on the collective path (R433). -/
def State.reqReader (s : State) (r : FabricReq) : Reader := { path := .coll, clk := s.reqClk r }
def State.reqLate (s : State) (r : FabricReq) : Late :=
  { space := 0, addr := 0, old := 0, path := .coll, uid := reqUid r, time := Sp.getD (s.reqClk r) (reqUid r) 0 }

/-- A release write at system scope that arrives from another device brings to the lanes what its source wrote before, which is all
that can be known here of what the release orders at the sender (R127, R129, R433). -/
def State.reqBrings (s : State) (r : FabricReq) (rel : Bool) : State :=
  if rel && !r.isHost then s.cross .lane (reqUid r) r.seq (fun e => e.path == Path.coll && e.uid == reqUid r) else s

/-- What a request publishes when it writes (R124, R125). -/
def State.reqPublishes (s : State) (r : FabricReq) (rel : Bool) : List (Scope × Clock) := if rel then [(.sys, s.reqClk r)] else []

/-- The size of what an operation reads and writes. -/
def opBytes : FabOp → Nat
  | .read n _ | .write n _ _ => n
  | .atom _ t _ _ | .cas t _ _ _ | .bfi t _ _ _ => t.bytes
  | .ffcs _ | .plset _ _ _ => 8
  | .ord _ _ _ => 4
  | .close _ => 1

/-- What a request takes from the release sequences that it meets; only of the host does this machine hold a clock. -/
def State.reqAcquire (s : State) (r : FabricReq) (acq : Bool) (ms : List (Scope × Standing × Clock)) : State :=
  if acq && r.isHost then { s with hostClk := Clock.join s.hostClk (s.taken .sys (reqWho r) ms) } else s

/-- A read-modify-write of a request at this device's memory, of the newest value (R130). -/
def State.fabRmw (s : State) (r : FabricReq) (k : AccKind) (size b c : Nat) (rel : Bool) : State :=
  let x := rmwResult k (s.placeRead (.dev r.off) size) b c
  let s := (s.marksAll .coll (.dev r.off) size).reqTick r
  let s := match x.1 with
    | none => s
    | some v =>
      let s := (s.noteLate (s.reqLate r) (.dev r.off) size).reqBrings r rel
      { s with mem := s.mem.write r.off size v }.publish 0 r.off size true (reqWho r) (s.reqPublishes r rel)
  s.answer r true x.2

/-- A read of a request at this device's memory. -/
def State.fabRead (s : State) (r : FabricReq) (n : Nat) (acq : Bool) : State :=
  let rd := s.reqReader r
  let p := Place.dev r.off
  let t := (s.looked rd p n).answer r true (s.peek rd p n)
  t.reqAcquire r acq (s.met rd p n)

/-- A write of a request at this device's memory; one of a whole line clears its poison (R84). -/
def State.fabWrite (s : State) (r : FabricReq) (n : Nat) (d : BitVec 512) (rel : Bool) : State :=
  let s := s.reqTick r
  let s := (s.noteLate (s.reqLate r) (.dev r.off) n).reqBrings r rel
  let s := { s with
    mem := s.mem.write r.off n (d.toNat % 2 ^ (8 * n)), poisonLines := if n = 64 then delNat (r.off / 64) s.poisonLines else s.poisonLines }
  (s.publish 0 r.off n false (reqWho r) (s.reqPublishes r rel)).answer r true 0

/-- An operation that needs no good data where it goes: it writes only. -/
def opBlind : FabOp → Bool
  | .write _ _ _ | .ord _ _ _ => true
  | _ => false

/-- A request to this device's memory, up to a 64-byte line (R427): on the collective path, not race-checked (R433); poison answers
for what is poisoned (R84). -/
def State.fabMemory (s : State) (r : FabricReq) : State :=
  let n := opBytes r.op
  let fit := [1, 2, 4, 8, 16, 64].contains n && r.off % n == 0 && memoryExists r.off
  match r.op with
  | .close l => (s.closeOrd (reqLaunch r l)).answer r true 0
  | op =>
    if !fit || (!opBlind op && s.linePoisoned r.off n) then s.answer r false 0
    else
      match op with
      | .read _ acq => s.fabRead r n acq
      | .write _ d rel => s.fabWrite r n d rel
      | .atom o t d rel => s.fabRmw r (.atom o t) n (d.toNat % 2 ^ (8 * n)) 0 rel
      | .cas t c v rel => s.fabRmw r (.cas t) n (c.toNat % 2 ^ (8 * n)) (v.toNat % 2 ^ (8 * n)) rel
      | .bfi t d m rel => s.fabRmw r (.bfi t) n (d.toNat % 2 ^ (8 * n)) (m.toNat % 2 ^ (8 * n)) rel
      | .ffcs rel => s.fabRmw r .ffcs n 0 0 rel
      | .plset d lim rel => s.fabRmw r .plset n d.toNat lim.toNat rel
      | .ord key l d =>
        let item : OrdItem := { launch := reqLaunch r l, phys := r.off, key := key, value := d }
        { s with ordBuf := s.ordBuf ++ [item], ordSlots := insNat (reqLaunch r l) s.ordSlots }.answer r true 0
      | .close _ => s

/-- A request to control space (R434): aligned, of 8 bytes; a host's within the rights of its port and once bring-up serves hosts
(R443). Another device may read; the spec gives it no right to write here, and its write gets an error response (DESIGN CHOICE
[127]). -/
def State.fabControl (s : State) (r : FabricReq) : State :=
  if r.off % 8 ≠ 0 || s.house.step < 7 then s.answer r false 0
  else
    match r.op with
    | .read 8 _ =>
      if !r.isHost || s.hostMay r.port r.off false then s.answer r true (s.controlRead r.off)
      else (s.hostViolation r.port r.off).answer r false 0
    | .write 8 d _ =>
      if !r.isHost then s.answer r false 0
      else if s.hostMay r.port r.off true then
        let s := s.reqTick r
        (s.outsideWrite (.host r.port) r.off (d.toNat % 2 ^ 64) s.hostClk).answer r true 0
      else (s.hostViolation r.port r.off).answer r false 0
    | _ => s.answer r false 0

/-- A home's order buffer has no slot for a request (R438). -/
def State.noSlot (s : State) (r : FabricReq) : Bool :=
  match r.op with
  | .ord _ l _ => !s.ordSlots.contains (reqLaunch r l) && decide (16 ≤ s.ordSlots.length)
  | _ => false

/-- FABRIC_REQUEST (R430, R432 to R434): the next request of a stream is performed once; one that was performed already is
dropped; a frozen port's host gets an error response (R426). -/
def execFabricRequest (r : FabricReq) (s : State) : Host.Outcome State Fault Refusal :=
  .next (
    if (s.port r.port).state ≠ 2 || r.seq != Sp.getD s.performed (reqKey r) 0 + 1 || s.noSlot r then s
    else
      let s := { s with performed := Sp.set s.performed (reqKey r) r.seq }
      if r.isHost && (s.port r.port).frozen then s.answer r false 0
      else if r.control then s.fabControl r
      else s.fabMemory r)

end Sys2Proof.Machine
end

