-- ==== Sys2Proof/Machine/House.lean ====
section
/-! DEFINITION. The house controller's own work (chapter "Running sealed fleets"): errors where they are found (R176, R177,
R187), margins (R450), scrubbing and sparing (R446, R447), retirement (R448, R449), power (R444), fault injection (R453). -/

namespace Sys2Proof.Machine

/-- Thirty days and one day in the milliseconds of the history's clock (R451). -/
def days30 : Nat := 2592000000
def hours24 : Nat := 86400000

/-- The physical cluster of a cluster. -/
def State.physOfKey (s : State) (ck : Nat) : Nat := (s.part (ck / 256)).physical (ck % 256)

/-- Every cluster of every partition. -/
def State.allClusters (s : State) : List Nat :=
  s.parts.flatMap (fun (p : Nat × Part) => if p.2.pairs.isEmpty then [] else (s.clustersOf p.1).map (clusterKey p.1))

/-! ### Margins (R450): domains 2 c and 2 c + 1 are the core and the SRAM of physical cluster c, 288 + d the uncore of die d -/

def State.margin (s : State) (dom : Nat) : Margin := Sp.getD s.house.margins dom {}
def State.setMargin (s : State) (dom : Nat) (m : Margin) : State := s.modHouse (fun h => { h with margins := Sp.set h.margins dom m })

/-- A corrected error counts in its domain's window. -/
def State.marginCorrected (s : State) (dom : Nat) : State :=
  let m := s.margin dom
  s.setMargin dom { m with window := m.window + 1 }

/-- A domain below its nominal setpoint. -/
def State.trimmed (s : State) (dom : Nat) : Bool := decide ((s.margin dom).setpoint < (s.margin dom).nominal)

/-- Whether an error comes in the 5 µs of the domain's last restoration, which it then shares: the history's clock, in ms, does not tell
(R450; DESIGN CHOICE [75]). -/
def State.marginSoon (s : State) (dom : Nat) : Bool := (s.margin dom).restored == some s.house.time && Config.freeSoon s.free

/-- An uncorrectable error in a trimmed domain: restored to the last clean setpoint plus one step and locked for 24 hours;
in a locked one, one step more. -/
def State.marginUncorrectable (s : State) (dom : Nat) : State :=
  let m := s.margin dom
  if !s.trimmed dom then s
  else
    let v := if m.locked.isSome then m.setpoint + 5 else m.lastClean + 5
    (s.setMargin dom { m with setpoint := v, locked := some (s.house.time + hours24), restored := some s.house.time }).report 0x08 0xFF dom dom

/-- MARGIN_WINDOW (R450): the end of a domain's 60 s. -/
def execMarginWindow (dom : Nat) (s : State) : Host.Outcome State Fault Refusal :=
  .next (
    let m := s.margin dom
    let v :=
      if m.locked.isSome then m.setpoint
      else if m.window = 0 then (if m.floor + 5 ≤ m.setpoint then m.setpoint - 5 else m.setpoint)
      else if 8 ≤ m.window then m.setpoint + 5
      else m.setpoint
    s.setMargin dom { m with setpoint := v, lastClean := if m.window = 0 then m.setpoint else m.lastClean, window := 0 })

/-- MARGIN_LOCKOUT_EXPIRY (R450): the 24 hours of a lockout are over. -/
def execMarginLockoutExpiry (dom : Nat) (s : State) : Host.Outcome State Fault Refusal :=
  .next (
    let m := s.margin dom
    if m.locked.any (fun t => decide (t ≤ s.house.time)) then s.setMargin dom { m with locked := none } else s)

/-! ### Retirement (R189, R192, R448, R449) -/

/-- The retirement of a physical cluster begins: in native shape its resident-team limit is 0 (R449), once no ALLRES launch pins
it (R55, R395). -/
def State.startRetire (s : State) (c : Nat) : State :=
  if s.house.retired.contains c || s.house.retiring.contains c then s
  else
    let s := s.modHouse (fun h => { h with retiring := insNat c h.retiring })
    (s.parts.filter (fun (p : Nat × Part) => !p.2.v128 && p.2.pairs.contains (c / 2))).foldl
      (fun s (p : Nat × Part) =>
        let pin := s.pinned (clusterKey p.1 c)
        s.modCluster (clusterKey p.1 c) (fun k => if pin then { k with limitWant := some 0 } else { k with limit := 0, limitWant := none })) s

/-! ### Errors where they are found (R175 to R177, R187, R188, R448) -/

/-- An uncorrectable error in a cluster's state: the second in 30 days retires the cluster (R448). -/
def State.clusterError (s : State) (ck : Nat) : State :=
  let c := s.physOfKey ck
  let ts := s.house.time :: (Sp.getD s.house.clusterErrs c []).filter (fun t => decide (s.house.time < t + days30))
  let s := s.modHouse (fun h => { h with clusterErrs := Sp.set h.clusterErrs c ts })
  if 2 ≤ ts.length then s.startRetire c else s

/-- An accumulator element that is lost: NaN, and the tile's uncorrectable count (R177, R188). -/
def Tile.lose (t : Tile) (row col : Nat) : Tile := { t.put row col extNan with uncorr := min (t.uncorr + 1) 0xFFFF }

/-- An error to come in a block step of a tile, so many after the one that is next (R187): of one partial, by a difference that is not zero; a `hard` one is in
the row's checksum too, by another, and is there again when the step is computed again (DEDUCED [77]). -/
def partialFlaws (d : Int) (row col step : Nat) (hard : Bool) : List Flaw :=
  let d := if wrapOf 64 d = 0 then 1 else d
  { step := step, row := some row, col := some col, delta := d, again := hard }
    :: (if hard then [{ step := step, row := some row, col := none, delta := d - (if wrapOf 64 d = 1 then 2 else 1), again := true }] else [])

/-- An error in a partial of the matrix engine, by a free difference (R187). -/
def State.flawPartial (s : State) (t k row col step : Nat) (hard : Bool) : State :=
  { s with free := s.free + 1 }.modTeam t (fun tm =>
    tm.setTile k { tm.tile k with flaws := (tm.tile k).flaws ++ partialFlaws (Config.freeDelta s.free) (row % 32) (col % 64) step hard })

/-- A TLB entry with a parity error is dropped, to be fetched again (R176). -/
def State.dropTlbEntry (s : State) (ck va : Nat) : State :=
  s.modCluster ck (fun c => { c with tlb := c.tlb.filter (fun e => !e.covers (ck / 256) va) })

/-- What an uncorrectable error does, by the storage it is found in (R176, R177). A register's is consumed by the lane step
that reads it next. -/
def State.contain (s : State) (st : Storage) : State :=
  match st with
  | .laneReg g lane reg => s.modGroup g (fun x => if reg < x.nregs then { x with latent := insNat (reg * 64 + lane) x.latent } else x)
  | .latch g lane _ | .handOn g lane => s.consume g lane
  | .granule ck off => s.modCluster ck (fun c => { c with poison := insNat (off / 16) c.poison })
  | .line addr => { s with poisonLines := insNat (addr / 64) s.poisonLines }
  | .accElem t k row col =>
    if (s.pairOf? t).isSome then s.teamError t else s.modTeam t (fun tm => tm.setTile k ((tm.tile k).lose row col))
  | .mxPartial t k row col step => s.flawPartial t k row col step true
  | .tlbEntry ck va => s.dropTlbEntry ck va
  | .scriptWord c _ | .ctxState c =>
    match s.ctx? c with
    | none => s
    | some x => if x.num < 6 then s.ctxError c x else s.fatal x.part 4
  | .groupControl g | .reconStack g => match s.group? g with | none => s | some x => s.teamError x.team
  | .mailbox t _ => s.teamError t
  | .remap p => s.fatal p 1
  | .dispatcher p => s.fatal p 2
  | .partControl p => s.fatal p 3
  | .systemCtx c => s.fatal (c / 8 / 256) 4
  | .latent _ => s

/-- The cluster whose state a storage is part of, and whether it lies in the SRAM domain. -/
def State.clusterOfStorage (s : State) (st : Storage) : Option (Nat × Bool) :=
  match st with
  | .laneReg g _ _ | .latch g _ _ | .handOn g _ | .groupControl g | .reconStack g => (s.group? g).map (fun x => (x.ckey, false))
  | .granule ck _ | .tlbEntry ck _ => some (ck, true)
  | .accElem t _ _ _ | .mailbox t _ => (s.team? t).map (fun x => (x.ckey, true))
  | .mxPartial t _ _ _ _ => (s.team? t).map (fun x => (x.ckey, false))
  | .scriptWord c _ | .ctxState c | .systemCtx c => some (c / 8, true)
  | _ => none

/-- The margin domain that a storage lies in (R450): the core or the SRAM of its cluster, or the uncore of a die. Which die serves
a memory line or holds a partition's control state the spec does not say: a free value. -/
def State.marginDomain (s : State) (st : Storage) : Option Nat :=
  match s.clusterOfStorage st, st with
  | some (ck, sram), _ => some (2 * s.physOfKey ck + sram.toNat)
  | none, .line addr => some (288 + Config.uncoreDie 0 (addr / 64) % 2)
  | none, .remap p | none, .dispatcher p | none, .partControl p => some (288 + Config.uncoreDie 1 p % 2)
  | none, _ => none

/-- The unit that the history names for an error, and what kind it is: the physical cluster, the memory device of a line, or what a
latent error names. -/
def State.errorUnit (s : State) (st : Storage) : Nat × Nat :=
  match st with
  | .latent u => (u, 0)
  | .line addr => (Config.rowOf (addr / 64) / 2 ^ 32, 2)
  | _ => (((s.clusterOfStorage st).map (fun h => s.physOfKey h.1)).getD 0, 0)

/-- The history entry of an error: 0x11 corrected, 0x12 uncorrectable, 0x13 an injection without a detected error. -/
def State.errorEntry (s : State) (type detail : Nat) (unit : Nat × Nat) (injected : Bool) : State :=
  s.historyAdd type 0xFF unit.1 detail injected unit.2

/-- An error in a memory row counts for the row (R447): a corrected one by its time, an uncorrectable one at once. -/
def House.rowError (h : House) (k : Nat) (uncorr : Bool) : House :=
  if uncorr then { h with rowBad := insNat k h.rowBad }
  else { h with rowErrs := Sp.set h.rowErrs k (h.time :: (Sp.getD h.rowErrs k []).filter (fun t => decide (h.time < t + days30))) }

/-- What a corrected error leaves (R176, R447, R450, R451): its entry, and a count in its margin domain's window and its row. -/
def State.notedCorrected (s : State) (st : Storage) (injected : Bool) : State :=
  let s := s.errorEntry 0x11 0 (s.errorUnit st) injected
  let s := match st with | .line addr => s.modHouse (·.rowError (Config.rowOf (addr / 64)) false) | _ => s
  match s.marginDomain st with | none => s | some d => s.marginCorrected d

/-- What an uncorrectable error leaves beside its effect (R176, R447, R450, R451): its entry, which carries the cause MARGIN where its
domain is trimmed or it shares a restoration, and the margin controller's response. The cause is the number of the margin report
(DESIGN CHOICE [106]). -/
def State.notedUncorrectable (s : State) (dom : Option Nat) (unit : Nat × Nat) (row : Option Nat) (injected : Bool) : State :=
  let soon := dom.any s.marginSoon
  let s := s.errorEntry 0x12 (if soon || dom.any s.trimmed then 0x08 else 0) unit injected
  let s := match row with | none => s | some k => s.modHouse (·.rowError k true)
  let s : State := { s with free := s.free + 1 }
  if soon then s else match dom with | none => s | some d => s.marginUncorrectable d

/-- A recovered error (R176, R187): a partial that the checksums correct, an entry that is fetched again, a word that is corrected
where it stands. -/
def State.recovered (s : State) (st : Storage) : State :=
  let s := s.notedCorrected st false
  match st with
  | .mxPartial t k row col step => s.flawPartial t k row col step false
  | .tlbEntry ck va => s.dropTlbEntry ck va
  | _ => s

/-- CORRECTED_ERROR (R176, R187, R447, R450). -/
def execCorrectedError (st : Storage) (s : State) : Host.Outcome State Fault Refusal := .next (s.recovered st)

/-- UNCORRECTABLE_ERROR (R176, R177, R447, R448, R450); a parity error of a TLB entry is recovered whatever it is. -/
def execUncorrectableError (st : Storage) (s : State) : Host.Outcome State Fault Refusal :=
  .next (
    match st with
    | .tlbEntry _ _ => s.recovered st
    | _ =>
      let home := s.clusterOfStorage st
      let row := match st with | .line addr => some (Config.rowOf (addr / 64)) | _ => none
      let s := (s.contain st).notedUncorrectable (s.marginDomain st) (s.errorUnit st) row false
      match home with | none => s | some (ck, _) => s.clusterError ck)

/-! ### Fault injection (R375, R453) -/

/-- Word i of a request. -/
def Injection.word (j : Injection) (i : Nat) : Nat := ((j.words[i]?).getD 0).toNat

/-- A team is one that a request names. -/
def Injection.names (j : Injection) (s : State) (t : Team) : Bool :=
  (s.launch? t.launch).any (fun l => l.id.toNat == j.word 0 / 2 ^ 32) && t.q % 256 == bitsOf (j.word 0) 24 8
    && (match t.copy with | .standIn _ => bitsOf (j.word 0) 17 1 == 1 | _ => bitsOf (j.word 0) 17 1 == 0)

/-- The team a request applies to now (R453): with trigger 0 the one resident when it was armed, or the first placed since;
with trigger 1 that of the group whose cue count has become its number (R375). -/
def State.injectionTeam (s : State) (j : Injection) : Option Nat :=
  let named := s.teams.filter (fun t => j.names s t.2)
  if bitsOf (j.word 3) 60 2 = 0 then
    match j.team with
    | some t => if named.any (fun n => n.1 == t) then some t else none
    | none => (leastBy (fun (t : Nat × Team) => t.2.uid) named).map Prod.fst
  else j.due.bind (fun u => (s.groups.find? (fun x => x.2.uid == u)).map (fun x => x.2.team))

/-- The storage that a request names of a team; none where it does not exist. -/
def State.injectStorage (s : State) (j : Injection) (t : Nat) : Option Storage :=
  let lane := bitsOf (j.word 0) 6 6
  let index := j.word 1 % 2 ^ 60
  let g := (s.groupOf t (bitsOf (j.word 0) 12 5)).bind (fun g => (s.group? g).map (fun x => (g, x)))
  match s.team? t with
  | none => none
  | some tm =>
    match bitsOf (j.word 1) 60 4 with
    | 0 => g.bind (fun y => if y.2.nregs ≤ index || y.2.width ≤ lane then none else some (.laneReg y.1 lane index))
    | 1 =>
      let upper : Bool := g.any (fun y => tm.pair && y.2.cluster != tm.cluster)
      if tm.tiles ≤ bitsOf index 8 5 then none
      else some (.accElem t (tileKey upper (bitsOf index 8 5)) (bitsOf index 19 5) (bitsOf index 13 6))
    | _ =>
      let c := (g.map (fun y => y.2.cluster)).getD tm.cluster
      let a := tm.allocOn c
      if a.declared < index + 8 then none else some (.granule (clusterKey tm.part c) (a.base + index))

/-- Bits of a storage flipped with its check bits computed anew: no error is seen. -/
def State.flip (s : State) (st : Storage) (mask : Nat) : State :=
  match st with
  | .laneReg g lane reg => s.modGroup g (fun x => { x with
      regs := Sp.put 0 x.regs (reg * 64 + lane) (Sp.getD x.regs (reg * 64 + lane) 0 ^^^ BitVec.ofNat 32 mask) })
  | .accElem t k row col => s.modTeam t (fun tm => tm.setTile k ((tm.tile k).put row col ((tm.tile k).get row col ^^^ BitVec.ofNat 34 mask)))
  | .granule ck off => s.modCluster ck (fun k => { k with spad := k.spad.write off 8 (Nat.xor (k.spad.read off 8) mask) })
  | _ => s

/-- A request fires on its target, by its mode (R453): silent, a corrected error, or an uncorrectable one. -/
def State.inject (s : State) (mode mask : Nat) (st : Storage) : State :=
  if mode = 0 then (s.flip st mask).errorEntry 0x13 0 (s.errorUnit st) true
  else if mode = 1 then s.notedCorrected st true
  else (s.contain st).notedUncorrectable (s.marginDomain st) (s.errorUnit st) none true

/-- FAULT_INJECTION_FIRE (R176, R453): an armed request whose target is there fires once and is discarded. -/
def execFaultInjectionFire (idx : Nat) (s : State) : Host.Outcome State Fault Refusal :=
  .next (
    match s.house.armed[idx]? with
    | none => s
    | some j =>
      match (s.injectionTeam j).bind (s.injectStorage j) with
      | none => s
      | some st => (s.modHouse (fun h => { h with armed := h.armed.eraseIdx idx })).inject (bitsOf (j.word 3) 62 2) (j.word 2) st)

/-! ### Scrubbing and row sparing (R446, R447) -/

/-- The key of a row of a memory device. -/
def rowKey (dev row : Nat) : Nat := dev * 2 ^ 32 + row

/-- SCRUB_PASS (R446): a row read; what it cannot correct is poisoned, and a latent error enters the history (R177). Devices 0 to 47
are GDDR-7. -/
def execScrubPass (dev row addr : Nat) (corr uncorr : Bool) (s : State) : Host.Outcome State Fault Refusal :=
  .next (
    let k := rowKey dev row
    let dom := s.marginDomain (.line addr)
    let s := s.modHouse (fun h => { h with scrubbed := Sp.set h.scrubbed k h.time })
    let s := if corr then
        let s := (s.modHouse (·.rowError k false)).errorEntry 0x11 0 (dev, 2) false
        match dom with | none => s | some d => s.marginCorrected d
      else s
    if uncorr then { s with poisonLines := insNat (addr / 64) s.poisonLines }.notedUncorrectable dom (dev, 2) (some k) false else s)

/-- ROW_SPARE (R447): a GDDR-7 row at its fourth corrected error in 30 days or its first uncorrectable one is copied, while
the device has a remap entry left. -/
def execRowSpare (dev row : Nat) (s : State) : Host.Outcome State Fault Refusal :=
  .next (
    let k := rowKey dev row
    let h := s.house
    let n := ((Sp.getD h.rowErrs k []).filter (fun t => decide (h.time < t + days30))).length
    let due := decide (4 ≤ n) || h.rowBad.contains k
    if 48 ≤ dev || !due || h.copying.contains (dev, row) || h.spared.contains (dev, row) then s
    else if 1024 ≤ Sp.getD h.remaps dev 0 then s.report 0x06 0xFF dev (2 ^ 64 - 1)
    else s.modHouse (fun h => { h with copying := h.copying ++ [(dev, row)], remaps := Sp.set h.remaps dev (Sp.getD h.remaps dev 0 + 1) }))

/-- ROW_SPARE_SWITCH (R447): the remap entry is switched in one step; no access returns anything else for it. -/
def execRowSpareSwitch (dev row : Nat) (s : State) : Host.Outcome State Fault Refusal :=
  .next (
    if s.house.copying.contains (dev, row) then
      (s.modHouse (fun h => { h with copying := h.copying.filter (fun r => r != (dev, row)), spared := h.spared ++ [(dev, row)] })).report 0x06 0xFF dev row
    else s)

/-! ### Power and cooling (R394, R395, R444) -/

/-- Every slice ratio of a cluster one step up or down, within 1 to 8 eighths. -/
def ratioStep (r : BitVec 18) (up : Bool) : BitVec 18 :=
  BitVec.ofNat 18 ((List.range 6).foldl (fun n i =>
    let v := r.toNat / 2 ^ (3 * i) % 8
    n + (if up then min (v + 1) 7 else v - 1) * 2 ^ (3 * i)) 0)

/-- One step of power pressure or of its withdrawal on a cluster: the ratios, where the step is one of ratios; the limit by 8,
which is asked for only while the cluster is pinned (R395). -/
def Cluster.pressureStep (c : Cluster) (ratios pinned up : Bool) : Cluster :=
  let by8 (n : Nat) : Nat := if up then min (n + 8) 192 else n - 8
  let want := by8 (c.limitWant.getD c.limit)
  let c := if ratios then { c with ratio := ratioStep c.ratio up } else c
  if pinned then { c with limitWant := some want } else { c with limit := want, limitWant := none }

/-- The clusters whose limits the power manager moves: all but those that retire, whose limit stays 0 (R449). -/
def State.pressured (s : State) : List Nat :=
  s.allClusters.filter (fun ck => (s.part (ck / 256)).v128 || !s.house.retiring.contains (s.physOfKey ck))

/-- POWER_SAMPLE (R444): every 10 ms, the input power averaged over 10 ms and over 1 ms in W, the inlet and the hottest die
in degrees. -/
def execPowerSample (avg10 avg1 inlet die : Nat) (s : State) : Host.Outcome State Fault Refusal :=
  .next (
    let hot := decide (1900 < avg10) || decide (38 < inlet) || decide (100 < die)
    let clear := !hot && !decide (2000 < avg1)
    let s := s.modHouse (fun h => { h with
      time := h.time + 10,
      ratioClamp := decide (2000 < avg1) || (h.ratioClamp && !decide (avg10 < 1900)),
      clearSince := if clear then h.clearSince.orElse (fun _ => some h.time) else none })
    if hot then
      let pins := s.allClusters.filter s.pinned
      let s := s.modHouse (fun h => { h with steps := pins :: h.steps })
      s.pressured.foldl (fun s ck => s.modCluster ck (fun c => c.pressureStep (pins.contains ck) (pins.contains ck) false)) s
    else s)

/-- PRESSURE_WITHDRAW (R444): the newest step is taken back when every condition has been clear for 1 s, one per 100 ms: the ratios
where it lowered them, the limit at once where the cluster is not pinned now (R395). -/
def execPressureWithdraw (s : State) : Host.Outcome State Fault Refusal :=
  .next (
    match s.house.steps, s.house.clearSince with
    | pins :: rest, some t =>
      if t + 1000 ≤ s.house.time then
        let s := s.modHouse (fun h => { h with steps := rest, clearSince := some (t + 100) })
        let now := s.allClusters.filter s.pinned
        s.pressured.foldl (fun s ck => s.modCluster ck (fun c => c.pressureStep (pins.contains ck) (now.contains ck) true)) s
      else s
    | _, _ => s)

/-- The module without its rails: nothing but the house controller's own state is left, with its bring-up at a step. -/
def State.railsOff (s : State) (step : Nat) : State :=
  let h := s.house
  { State.reset with
    agenda := s.agenda, cur := s.cur, free := s.free, nextId := s.nextId, device := s.device,
    house := { h with step := step, active := {}, steps := [], clearSince := none, ratioClamp := false, armed := [],
                      tableau := none, retriggers := 0, measure := if step = 0 then [] else h.measure } }

/-- THERMAL_TRIP (R444): the tableau fires, every partition is fatal, and the module powers off its rails. -/
def execThermalTrip (inlet die : Nat) (s : State) : Host.Outcome State Fault Refusal :=
  .next (
    if 40 < inlet || 115 ≤ die then
      let s := s.tableauFire
      let s := (s.parts.map Prod.fst).foldl (fun s p => s.fatal p 5) s
      s.railsOff 2
    else s)

/-- POWER_LOSS: the house controller's flash, clock and history are what is left (R441, R451). -/
def execPowerLoss (s : State) : Host.Outcome State Fault Refusal := .next (s.railsOff 0)

end Sys2Proof.Machine
end

