-- ==== Sys2Proof/Machine/Fleet.lean ====
section
/-! DEFINITION. Bring-up (R443) and the commands of the house controller (R441, R442, R445, R451 to R456). -/

namespace Sys2Proof.Machine

/-! ### Measurements (R456) -/

/-- The bytes of a word, and of a measurement. -/
def natBytes (v : Nat) : Nat → List Nat
  | 0 => []
  | n + 1 => v % 256 :: natBytes (v / 256) n

/-- The bytes of a list of words. -/
def wordBytes (l : List DWord) : List Nat := l.flatMap (fun w => natBytes w.toNat 8)

/-- An extension: M i := SHA3-512(M i ‖ SHA3-512(item)). -/
def House.extend (h : House) (i : Nat) (item : List Nat) : House :=
  let old := Sp.getD h.measure i 0
  { h with measure := Sp.set h.measure i (Config.sha3 (natBytes old.toNat 64 ++ natBytes (Config.sha3 item).toNat 64)) }

/-! ### The partition layout (R410, R442, R443 step 5) -/

/-- The pairs that a partition entry names. -/
def pairsOf (w : List DWord) (p : Nat) : List Nat :=
  (List.range 128).filter (fun i => (wordNo w (2 + 12 * p + 1) + 2 ^ 64 * wordNo w (2 + 12 * p + 2)).testBit i)

/-- The enabled grant ranges of a partition entry. -/
def grantsOf (w : List DWord) (p : Nat) : List (Nat × Nat) :=
  (List.range 8).filterMap (fun k =>
    let v := wordNo w (2 + 12 * p + 3 + k)
    if v.testBit 63 then some (bitsOf v 30 26 * 2 ^ 30, bitsOf v 0 20 * 2 ^ 30) else none)

/-- The partition that an entry configures; a fixed-shape one needs 64 working clusters, and with fewer than 128 some
pairs of logical clusters share one (R191, R449). -/
def partOf (w : List DWord) (p : Nat) (working : List Nat) : Part :=
  let v128 := bitsOf (wordNo w (2 + 12 * p)) 0 2 == 2 && decide (64 ≤ working.length)
  let at_ (c : Nat) : Nat := (working[c % working.length]?).getD 0
  { on := bitsOf (wordNo w (2 + 12 * p)) 2 1 == 1, v128 := v128, pairs := pairsOf w p, grants := grantsOf w p,
    remap := if v128 then ((List.range 128).filter (fun c => at_ c != c)).map (fun c => (c, at_ c)) else [],
    sliced := if v128 then (List.range 128).filter (fun c => decide (working.length ≤ c)) else [] }

/-- The assist and the system context of a cluster, with the device firmware as their image (R56, R443). -/
def State.firmwareContexts (s : State) (ck : Nat) : State :=
  let image : Sp DWord := ((List.range s.house.devFw.length).zip s.house.devFw).filter (fun (w : Nat × DWord) => w.2 != 0)
  [6, 7].foldl (fun s n =>
    let (uid, s) := s.fresh
    s.setCtx (ctxKey ck n)
      { part := ck / 256, cluster := ck % 256, num := n, uid := uid, words := image, imageLen := s.house.devFw.length, active := true }) s

/-- The stored configuration becomes the active one: partitions, grants, port rights; the history is cleared if it asks, at its first
bring-up only (R451). -/
def State.applyLayout (s : State) : State :=
  let w := s.house.stored.words
  let n := bitsOf (wordNo w 1) 0 4
  let s := { s with parts := (List.range n).map (fun p => (p, partOf w p s.house.working)) }
  let s := s.allClusters.foldl (fun s ck => s.firmwareContexts ck) s
  s.modHouse (fun h =>
    let h := { h with active := { words := w }, cleared := true, history := if (wordNo w 1).testBit 62 && !h.cleared then [] else h.history }
    (h.extend 2 (wordBytes w ++ h.retired)).extend 3 [bitsOf (wordNo w 1) 63 1])

/-! ### Bring-up (R443, R454, R455) -/

/-- An image is accepted when its signature verifies and its security version is not below the fused minimum (R454). -/
def House.accepts (h : House) (words : List DWord) (sig svn : Nat) : Bool := Config.sigVerifies words sig && decide (h.fused ≤ svn)

/-- Boot from the pending bank if it verifies, else from the active one with the failure recorded (R455). -/
def House.boot (h : House) : House :=
  match h.pendingFw with
  | none => h
  | some (w, sig, svn) =>
    if h.accepts w sig svn then { h with fw := w, fwSig := sig, svn := svn, pendingFw := none } else { h with pendingFw := none, fwFailed := true }

/-- The same of the device firmware, at the step that verifies it (R443, R455). -/
def House.bootDev (h : House) : House :=
  match h.pendingDev with
  | none => h
  | some (w, sig, svn) =>
    if h.accepts w sig svn then { h with devFw := w, devSig := sig, devSvn := svn, pendingDev := none } else { h with pendingDev := none, fwFailed := true }

/-- The clusters that fail their self-test. -/
def House.failing (h : House) (n : Nat) : List Nat := h.working.filter (fun c => !Config.selfTestPasses n c)

/-- The pairs whose two clusters work. -/
def workingPairs (ws : List Nat) : Nat := ((List.range 72).filter (fun i => ws.contains (2 * i) && ws.contains (2 * i + 1))).length

/-- The Garug ports as they come out of training, with the routes that the fabric manager gives and the reduction windows (R436). -/
def State.joinFabric (s : State) (b : BringUp) : State :=
  let s := { s with
    device := b.device % 2 ^ 11, routes := b.routes.foldl (fun (m : Sp (List Nat)) r => Sp.set m r.1 r.2) [],
    windows := b.windows.foldl (fun (m : Sp DWord) w => Sp.put 0 m (w.1 % 16) (w.2 &&& 0x80FFFFFFFFE00FFF)) [] }
  b.ports.foldl (fun s p =>
    s.setPort p.1 { peer := p.2.2.1, pport := p.2.2.2, lanes := min p.2.1 4, state := if p.2.1 = 0 then 0 else 2 }) s

/-- One step of bring-up; none where it fails, which holds the module at that step. -/
def State.bringUp (s : State) (b : BringUp) : Option State :=
  let reach (s : State) (n : Nat) : State := s.modHouse (fun h => { h with step := n })
  match s.house.step with
  | 0 => if 48000 ≤ b.milliVolts && b.milliVolts ≤ 58000 && b.inlet ≤ 400 && b.flow then some (reach s 1) else none
  | 1 =>
    let h := s.house.boot
    if h.accepts h.fw h.fwSig h.svn then some (reach { s with house := h.extend 0 (wordBytes h.fw) } 2) else some { s with house := h }
  | 2 => if b.trained then some (reach s 3) else none
  | 3 =>
    let h := s.house.bootDev
    if h.accepts h.devFw h.devSig h.devSvn then some (reach { s with house := h.extend 1 (wordBytes h.devFw) } 4) else some { s with house := h }
  | 4 =>
    let bad := s.house.failing s.free
    let s := { s with free := s.free + 1 }
    let s := bad.foldl (fun s c => (s.modHouse (fun h => { h with retired := insNat c h.retired })).report 0x07 0xFF c c) s
    if workingPairs s.house.working < 2 then some s else some (reach s.applyLayout 5)
  | 5 => some (reach (s.joinFabric b) 6)
  | 6 => some (reach (s.modHouse (fun h => { h with fused := max h.fused (max h.svn h.devSvn) })) 7)
  | _ => none

/-- POWER_UP (R443): the next step of bring-up. -/
def execPowerUp (b : BringUp) (s : State) : Host.Outcome State Fault Refusal := .next ((s.bringUp b).getD s)

/-! ### Commands (R441) -/

/-- A completion code with the answer. -/
def State.completes (s : State) (code : Nat) (reply : List Nat) : State := s.modHouse (fun h => { h with code := code, reply := reply })

/-- A command: refused with 0x04 until bring-up has reached step 3, which is while the second step is not done (R441, R443). -/
def State.command (s : State) (k : State) : State := if s.house.step < 2 then s.completes 0x04 [] else k

/-- What makes the house controller refuse a PARTCFG, but for its signature and its version (R442). -/
def configBad (w : List DWord) : Bool :=
  let n := bitsOf (wordNo w 1) 0 4
  let ps := List.range n
  let f (p i lo k : Nat) : Nat := bitsOf (wordNo w (2 + 12 * p + i)) lo k
  let pairs (p : Nat) : List Nat := pairsOf w p
  let meet (p q : Nat) : Bool := (pairs p).any (fun i => (pairs q).contains i)
  wordNo w 0 / 2 ^ 32 != 0x4B504346 || bitsOf (wordNo w 0) 16 16 != 1 || bitsOf (wordNo w 1) 4 58 != 0 || n == 0 || decide (8 < n)
    || ps.any (fun p => f p 0 3 61 != 0 || f p 0 0 2 == 0 || f p 0 0 2 == 3 || f p 2 8 56 != 0 || f p 11 0 64 != 0
        || (List.range 8).any (fun k => f p (3 + k) 56 7 != 0 || f p (3 + k) 20 10 != 0))
    || (List.range 8).any (fun p => decide (n ≤ p) && (List.range 12).any (fun i => f p i 0 64 != 0))
    || (List.range 64).any (fun i => bitsOf (wordNo w (102 + 5 * i)) 10 54 != 0)
    || ps.any (fun p => ps.any (fun q => meet p q && pairs p != pairs q))
    || ps.any (fun p => f p 0 0 2 == 2 && (pairs p).length != 72)
    || ps.any (fun p => !(pairs p).isEmpty && (ps.filter (fun q => pairs q == pairs p && f q 0 2 1 == 1)).length != 1)

/-- PARTCFG (R442): stored, to take effect at the next bring-up. -/
def execPartcfg (words : List DWord) (sig : Nat) (s : State) : Host.Outcome State Fault Refusal :=
  .next (s.command (
    if configBad words || !s.house.accepts words sig (bitsOf (wordNo words 0) 0 16) then s.completes 0x02 []
    else (s.modHouse (fun h => { h with stored := { words := words }, cleared := false })).completes 0 []))

/-- RETIRE (R449). -/
def execRetire (cl : Nat) (s : State) : Host.Outcome State Fault Refusal :=
  .next (s.command ((s.startRetire cl).completes 0 []))

/-- SHED (R431): to a narrower width. -/
def execShed (port width : Nat) (s : State) : Host.Outcome State Fault Refusal :=
  .next (s.command (
    let p := s.port port
    if p.state = 2 && width != 0 && decide (width < p.lanes) then (s.shedTo port width).completes 0 [] else s.completes 0x02 []))

/-- RESTORE (R431, R441): every lane that passes training, with report 0x04; none is left to a port whose training brings none, which
is down (R432). Before the ports train (R443) there is nothing to widen. -/
def execRestore (port : Nat) (s : State) : Host.Outcome State Fault Refusal :=
  .next (s.command (
    if s.house.step < 6 then s.completes 0x02 []
    else
      let v := Config.trainedLanes s.free
      let n := ((List.range 4).filter (fun i => v.testBit i)).length
      let s : State := { s with free := s.free + 1 }
      let s := s.report 0x04 0xFF port n
      let s := if n ≠ 0 then s.retrain port n else if (s.port port).state = 0 then s else s.portFails port
      s.completes 0 []))

/-- THAW (R426). -/
def execThaw (port : Nat) (s : State) : Host.Outcome State Fault Refusal :=
  .next (s.command ((s.modPort port (fun p => { p with frozen := false })).completes 0 []))

/-- A frozen cluster reset: what it preserved of its launches, which have ended, is gone, with the teams that stood on it in part; it
holds nothing but its firmware's contexts (R426, R441). -/
def State.resetCluster (s : State) (ck : Nat) : State :=
  let ts := s.teamsOn ck
  let left : State := { s with
    groups := s.groups.filter (fun (g : Nat × Group) => g.2.ckey != ck), oldGroups := s.oldGroups.filter (fun (g : Nat × Group) => g.2.ckey != ck),
    teams := s.teams.filter (fun (t : Nat × Team) => !ts.any (fun u => u.1 == t.1)), ctxs := s.ctxs.filter (fun (c : Nat × Ctx) => c.1 / 8 != ck),
    pairs := s.pairs.filter (fun (p : PairOf) => !ts.any (fun u => u.1 == p.lead || u.1 == p.standIn)),
    access := s.access.filter (fun (a : Access) => a.space != ck + 1), published := s.published.filter (fun (a : Published) => a.space != ck + 1),
    late := s.late.filter (fun (e : Late) => e.space != ck + 1) }
  let s := ts.foldl (fun s t =>
    if t.2.ckey != ck then s.modCluster t.2.ckey (fun c => c.freeAlloc t.2.alloc)
    else if t.2.pair then s.modCluster (ck + 1) (fun c => c.freeAlloc t.2.allocHi) else s) left
  ((s.setCluster ck { frozen := true, rejoin := true }).firmwareContexts ck).reapAll

/-- RESETCL (R426, R441): a frozen cluster whose tableau has been read is reset, and rejoins at its partition's next swap. -/
def execResetcl (cl : Nat) (s : State) : Host.Outcome State Fault Refusal :=
  .next (s.command (
    let cs := (s.clusters.filter (fun (c : Nat × Cluster) => c.2.frozen && c.2.tableauRead && s.physOfKey c.1 == cl)).map Prod.fst
    if cs.isEmpty then s.completes 0x02 [] else (cs.foldl State.resetCluster s).completes 0 []))

/-- TABTRIG (R452). -/
def execTabtrig (s : State) : Host.Outcome State Fault Refusal := .next (s.command (s.tableauFire.completes 0 []))

/-- TABREAD (R452): the tableau with the count of further triggers; it is released, and the frozen clusters' have been read. -/
def execTabread (s : State) : Host.Outcome State Fault Refusal :=
  .next (s.command (
    match s.house.tableau with
    | none => s.completes 0 []
    | some t =>
      let n := s.house.retriggers
      let s := s.modHouse (fun h => { h with tableau := none, retriggers := 0 })
      let s := { s with clusters := s.clusters.map (fun (c : Nat × Cluster) => (c.1, if c.2.frozen then { c.2 with tableauRead := true } else c.2)) }
      s.completes 0 [t, n]))

/-- Whether a fault-injection request is refused (R453). -/
def injectionBad (w : List DWord) : Bool :=
  let f (i lo n : Nat) : Nat := bitsOf (wordNo w i) lo n
  f 0 18 6 != 0 || f 0 0 6 != 0 || decide (2 < f 1 60 4) || f 3 62 2 == 3 || decide (1 < f 3 60 2) || f 3 0 60 != 0 || f 4 32 32 != 0
    || (f 1 60 4 == 0 && f 2 32 32 != 0) || (f 1 60 4 == 1 && f 2 34 30 != 0) || (f 1 60 4 == 2 && f 1 0 3 != 0)

/-- FIARM (R453): armed when the configuration enables injection; with trigger 0 the lowest q that is resident is its target. -/
def execFiarm (words : List DWord) (s : State) : Host.Outcome State Fault Refusal :=
  .next (s.command (
    if !(wordNo s.house.active.words 1).testBit 63 || injectionBad words then s.completes 0x02 []
    else
      let j : Injection := { words := words }
      let t := if bitsOf (wordNo words 3) 60 2 = 0 then
          (leastBy (fun (t : Nat × Team) => t.2.q) (s.teams.filter (fun t => j.names s t.2))).map Prod.fst
        else none
      (s.modHouse (fun h => { h with armed := h.armed ++ [{ j with team := t }] })).completes 0 []))

/-- ERRREAD (R451): the entries from a place in the ring's numbering on: the words, the time and the mark of each (DESIGN CHOICE
[116]). -/
def execErrread (seq : Nat) (s : State) : Host.Outcome State Fault Refusal :=
  .next (s.command (s.completes 0 ((s.house.history.filter (fun e => decide (seq ≤ e.seq))).flatMap (fun e =>
    [e.w0.toNat, e.w1.toNat, e.w2.toNat, e.w3.toNat, e.time, e.injected.toNat]))))

/-- ATTEST (R456): the report over the module as it stands, signed. -/
def execAttest (nonce : List Nat) (s : State) : Host.Outcome State Fault Refusal :=
  .next (s.command (
    let h := s.house
    let locked := (h.margins.filter (fun m => m.2.locked.isSome)).length
    let body := [Config.partCode, s.device, h.svn] ++ nonce ++ (List.range 8).map (fun i => (Sp.getD h.measure i 0).toNat)
      ++ [h.working.length, h.retired.length] ++ (List.range 48).map (fun d => Sp.getD h.remaps d 0) ++ [locked]
      ++ [(Config.sha3 Config.identityKey).toNat]
    s.completes 0 (body ++ [Config.reportSignature body])))

/-- BASE_DISCOVERY (R441): the PLDM types that are spoken. -/
def execBaseDiscovery (s : State) : Host.Outcome State Fault Refusal := .next (s.command (s.completes 0 [0, 2, 5, 63]))

/-- SENSOR_READ (R445): sensors 0 to 6 are input voltage, current and power, inlet, outlet and the two dies; then PSTAT of
each physical cluster, then the setpoint of each margin domain. -/
def execSensorRead (num : Nat) (s : State) : Host.Outcome State Fault Refusal :=
  .next (s.command (
    if num < 7 then { s with free := s.free + 1 }.completes 0 [Config.sensorReading num s.free]
    else if num < 7 + 144 then s.completes 0 [s.pstat (num - 7)]
    else if num < 151 + 290 then s.completes 0 [(s.margin (num - 151)).setpoint]
    else s.completes 0x02 []))

/-- FIRMWARE_UPDATE (R455): an image of the house controller's firmware or of the device's written to the inactive bank, to be tried at
the next bring-up. -/
def execFirmwareUpdate (image : Firmware) (svn : Nat) (sig : Nat) (s : State) : Host.Outcome State Fault Refusal :=
  .next (s.command ((s.modHouse (fun h =>
    if image.device then { h with pendingDev := some (image.words, sig, svn) } else { h with pendingFw := some (image.words, sig, svn) })).completes 0 []))

end Sys2Proof.Machine
end

