-- ==== Sys2Proof/Machine/Floating.lean ====
section
/-! DEFINITION. Floating point and conversion (R256 to R268): one meaning per instruction over the one issue of
`State.aluIssue` and the exact operations of `Numbers`. -/

namespace Sys2Proof.Machine

/-- Two 32-bit sources and a 32-bit result. -/
def fpu2 (cls : Nat) (f : Nat → Nat → Nat × Fl) : Alu :=
  { d := .dst32, a := .src32, b := .src32, c := .seed32, cls := cls, f := fun _ a b _ => f a b }

/-- Three 32-bit sources; a linked one has seed zero (R257). -/
def fpu3 (f : Nat → Nat → Nat → Nat × Fl) : Alu :=
  { d := .dst32, a := .src32, b := .src32, c := .src32, cls := 4, f := fun _ a b c => f a b c }

/-- One 32-bit source and a 32-bit result. -/
def fpu1 (cls : Nat) (f : Nat → Nat × Fl) : Alu :=
  { d := .dst32, a := .src32, c := .seed32, cls := cls, f := fun _ a _ _ => f a }

/-- Two value–index pairs (R257). -/
def fpuPair (f : Nat → Nat → Nat × Fl) : Alu :=
  { d := .dst64, a := .src64, b := .src64, c := .seed64, f := fun _ a b _ => f a b }

/-- An operation on two images of a format. -/
def onValues (t : Ty) (f : FVal → FVal → Nat × Fl) (a b : Nat) : Nat × Fl := f (fpValue t a) (fpValue t b)

/-- An operation on each half of two registers (R264). -/
def onHalves2 (t : Ty) (f : FVal → FVal → Nat × Fl) (a b : Nat) : Nat × Fl :=
  onHalves (fun h => onValues t f (half a h) (half b h))

/-- FADD (R259). -/
def execFadd (o : Ops) (rnd : Rnd) (s : State) : Host.Outcome State Fault Refusal :=
  s.aluIssue (fpu2 4 (onValues .f32 (fpAdd .f32 rnd))) o

/-- FSUB (R259). -/
def execFsub (o : Ops) (rnd : Rnd) (s : State) : Host.Outcome State Fault Refusal :=
  s.aluIssue (fpu2 4 (onValues .f32 (fpSub .f32 rnd))) o

/-- FMUL (R259). -/
def execFmul (o : Ops) (rnd : Rnd) (s : State) : Host.Outcome State Fault Refusal :=
  s.aluIssue (fpu2 4 (onValues .f32 (fpMul .f32 rnd))) o

/-- FFMA (R259). -/
def execFfma (o : Ops) (rnd : Rnd) (s : State) : Host.Outcome State Fault Refusal :=
  s.aluIssue (fpu3 (fun a b c => fma .f32 rnd (fpValue .f32 a) (fpValue .f32 b) (fpValue .f32 c))) o

/-- FMIN (R151, R260). -/
def execFmin (o : Ops) (s : State) : Host.Outcome State Fault Refusal :=
  s.aluIssue (fpu2 1 (fpPick .f32 true)) o

/-- FMAX (R151, R260). -/
def execFmax (o : Ops) (s : State) : Host.Outcome State Fault Refusal :=
  s.aluIssue (fpu2 1 (fpPick .f32 false)) o

/-- FMAXX (R152, R260). -/
def execFmaxx (o : Ops) (ty : Ty) (s : State) : Host.Outcome State Fault Refusal :=
  s.aluIssue (fpuPair (fpPickPair ty false)) o

/-- FMINX (R152, R260). -/
def execFminx (o : Ops) (ty : Ty) (s : State) : Host.Outcome State Fault Refusal :=
  s.aluIssue (fpuPair (fpPickPair ty true)) o

/-- FCMP (R261). -/
def execFcmp (o : Ops) (ty : Ty) (cond : Cond) (v : Bool) (s : State) : Host.Outcome State Fault Refusal :=
  s.aluIssue
    { d := if v then .dst32 else .dstMask, a := .src32, b := .src32, c := .seed32, latch := v,
      f := fun _ a b _ => ((fpCompare ty cond a b).1.toNat, (fpCompare ty cond a b).2) } o

/-- FRND (R262). -/
def execFrnd (o : Ops) (rnd : Rnd) (x : Bool) (s : State) : Host.Outcome State Fault Refusal :=
  s.aluIssue (fpu1 4 (fpRound rnd x)) o

/-- FRCP (R263). -/
def execFrcp (o : Ops) (rnd : Rnd) (s : State) : Host.Outcome State Fault Refusal :=
  s.aluIssue (fpu1 8 (fpRcp rnd)) o

/-- FRSQ (R263). -/
def execFrsq (o : Ops) (rnd : Rnd) (s : State) : Host.Outcome State Fault Refusal :=
  s.aluIssue (fpu1 8 (fpRsq rnd)) o

/-- FSQRT (R263). -/
def execFsqrt (o : Ops) (rnd : Rnd) (s : State) : Host.Outcome State Fault Refusal :=
  s.aluIssue (fpu1 8 (fpSqrt rnd)) o

/-- FEXP2 (R263). -/
def execFexp2 (o : Ops) (rnd : Rnd) (s : State) : Host.Outcome State Fault Refusal :=
  s.aluIssue (fpu1 8 (fpExp2 rnd)) o

/-- FLOG2 (R263). -/
def execFlog2 (o : Ops) (rnd : Rnd) (s : State) : Host.Outcome State Fault Refusal :=
  s.aluIssue (fpu1 8 (fpLog2 rnd)) o

/-- FTANH (R263). -/
def execFtanh (o : Ops) (rnd : Rnd) (s : State) : Host.Outcome State Fault Refusal :=
  s.aluIssue (fpu1 8 (fpTanh rnd)) o

/-- FCVT (R266). -/
def execFcvt (o : Ops) (dt src : Ty) (rnd : Rnd) (s : State) : Host.Outcome State Fault Refusal :=
  s.aluIssue (fpu1 4 (fcvt dt src rnd)) o

/-- F2I (R267). -/
def execF2i (o : Ops) (dt src : Ty) (rnd : Rnd) (s : State) : Host.Outcome State Fault Refusal :=
  s.aluIssue
    { d := dstW dt.wide, a := .src32, c := seedW dt.wide, cls := 4, f := fun _ a _ _ => fpToInt dt src rnd a } o

/-- I2F (R268). -/
def execI2f (o : Ops) (dt src : Ty) (rnd : Rnd) (s : State) : Host.Outcome State Fault Refusal :=
  s.aluIssue
    { d := .dst32, a := srcW src.wide, c := .seed32, cls := 4, f := fun _ a _ _ => intToFp dt src rnd a } o

/-- HADD2 (R264). -/
def execHadd2 (o : Ops) (ty : Ty) (rnd : Rnd) (s : State) : Host.Outcome State Fault Refusal :=
  s.aluIssue (fpu2 4 (onHalves2 ty (fpAdd ty rnd))) o

/-- HMUL2 (R264). -/
def execHmul2 (o : Ops) (ty : Ty) (rnd : Rnd) (s : State) : Host.Outcome State Fault Refusal :=
  s.aluIssue (fpu2 4 (onHalves2 ty (fpMul ty rnd))) o

/-- HFMA2 (R264). -/
def execHfma2 (o : Ops) (ty : Ty) (rnd : Rnd) (s : State) : Host.Outcome State Fault Refusal :=
  s.aluIssue (fpu3 (fun a b c => onHalves (fun h =>
      fma ty rnd (fpValue ty (half a h)) (fpValue ty (half b h)) (fpValue ty (half c h))))) o

/-- HMAX2 (R151, R264). -/
def execHmax2 (o : Ops) (ty : Ty) (s : State) : Host.Outcome State Fault Refusal :=
  s.aluIssue (fpu2 1 (fun a b => onHalves (fun h => fpPick ty false (half a h) (half b h)))) o

/-- PACK2 (R265). -/
def execPack2 (o : Ops) (ty : Ty) (rnd : Rnd) (s : State) : Host.Outcome State Fault Refusal :=
  s.aluIssue (fpu2 4 (fpPack ty rnd)) o

/-- UNPK2 (R265). -/
def execUnpk2 (o : Ops) (ty : Ty) (s : State) : Host.Outcome State Fault Refusal :=
  s.aluIssue
    { d := .dst64, a := .src32, c := .seed64, cls := 4, f := fun _ a _ _ => fpUnpack ty a } o

end Sys2Proof.Machine
end

