-- ==== Sys2Proof/Machine/Pair.lean ====
section
/-! DEFINITION. Pair-form words (R199, R211 to R213): two halves that both read before either writes. -/

namespace Sys2Proof.Machine

/-- A half as the full-form word it stands for: OP d, d, a with k = 1; the half of MOV takes a alone (R213). -/
def halfOps (op : PairOp) (h : HalfOps) : Ops :=
  { d := h.d, a := if op == .mov then h.a else h.d, b := h.a, p := h.p, pn := h.pn, u := h.u, k := true }

/-- The type of a MIN or MAX half (R211). -/
def halfTy (mod : Nat) : Ty := if mod % 2 = 1 then .n32 else .i32

/-- The operation of a half with its modifier (R211); it writes no latch (R213). -/
def halfAlu (op : PairOp) (mod : Nat) : Alu :=
  let al : Alu :=
    match op with
    | .add => alu2 .i32 1 false (intAdd .i32 false)
    | .sub => alu2 .i32 1 false (intSub .i32 false)
    | .mul => alu2 .i32 4 false (intMul .i32)
    | .min => alu2 (halfTy mod) 1 false (intMin (halfTy mod))
    | .max => alu2 (halfTy mod) 1 false (intMax (halfTy mod))
    | .and => alu2 .i32 1 false intAnd
    | .or => alu2 .i32 1 false intOr
    | .xor => alu2 .i32 1 false intXor
    | .andn => alu2 .i32 1 false (intAndn .i32)
    | .shl => alu2 .i32 1 true (intShl .i32)
    | .shr => alu2 .i32 1 true (intShr .i32)
    | .sra => alu2 .i32 1 true (intSra .i32)
    | .rot => alu2 .i32 1 true (intRot .i32)
    | .mov => alu1 .i32 false (fun a => a)
    | .fadd => fpu2 4 (onValues .f32 (fpAdd .f32 (Rnd.ofCode mod)))
    | .fsub => fpu2 4 (onValues .f32 (fpSub .f32 (Rnd.ofCode mod)))
    | .fmul => fpu2 4 (onValues .f32 (fpMul .f32 (Rnd.ofCode mod)))
    | .fmin => fpu2 1 (fpPick .f32 true)
    | .fmax => fpu2 1 (fpPick .f32 false)
    | .hadd2 => fpu2 4 (onHalves2 .f16 (fpAdd .f16 (Rnd.ofCode mod)))
    | .hmul2 => fpu2 4 (onHalves2 .f16 (fpMul .f16 (Rnd.ofCode mod)))
    | .hmax2 => fpu2 1 (fun a b => onHalves (fun h => fpPick .f16 false (half a h) (half b h)))
  { al with latch := false }

/-- The results of one half written onto `y`, its sources read from `x` (R213). -/
def halfOnto (al : Alu) (o : Ops) (x y : Group) (ws : List Nat) : Group :=
  ws.foldl (fun y j => al.put o y j (al.at_ o x (if o.u then x.uniformLane else j) 0)) y

/-- ONE ISSUE of a pair word (R213). -/
def State.pairLane (s : State) (x1 x2 : PairOp) (h1 h2 : HalfOps) (g : Nat) (b : Bool) (x : Group) : State :=
  let al1 := halfAlu x1 h1.mod
  let al2 := halfAlu x2 h2.mod
  let o1 := halfOps x1 h1
  let o2 := halfOps x2 h2
  let w1 := x.writers b o1.p o1.pn
  let w2 := x.writers b o2.p o2.pn
  let gate := (s.gate g b x w1 o1.u (al1.named o1 false) (al1.dest o1)).both
    (s.gate g b x w2 o2.u (al2.named o2 false) (al2.dest o2))
  let reads (o : Ops) (ws : List Nat) : List Nat := if o.u && !ws.isEmpty then [x.uniformLane] else ws
  let dying := ((x.consumers (reads o1 w1) (al1.named o1 false)) ++ (x.consumers (reads o2 w2) (al2.named o2 false))).eraseDups
  s.gated g b x gate
    (match dying with
     | [] =>
       let y := halfOnto al2 o2 x (halfOnto al1 o1 x x w1) w2
       let t0 := s.issueCycle x
       (s.setGroup g (y.advance b)).noteIssue g b (al1.producers o1 t0 false ++ al2.producers o2 t0 false)
     | l => s.consumeAt g l)

/-- The issue of a pair word by the current agent. -/
def State.pairIssue (s : State) (x1 : PairOp) (h1 : HalfOps) (snd : PairHalf) : Host.Outcome State Fault Refusal :=
  s.withLane (fun g b x => s.pairLane x1 snd.op h1 snd.h g b x)

/-- A pair word whose first half is ADD (R213). -/
def execPairAdd (h : HalfOps) (snd : PairHalf) (s : State) : Host.Outcome State Fault Refusal :=
  s.pairIssue .add h snd

/-- A pair word whose first half is SUB (R213). -/
def execPairSub (h : HalfOps) (snd : PairHalf) (s : State) : Host.Outcome State Fault Refusal :=
  s.pairIssue .sub h snd

/-- A pair word whose first half is MUL (R213). -/
def execPairMul (h : HalfOps) (snd : PairHalf) (s : State) : Host.Outcome State Fault Refusal :=
  s.pairIssue .mul h snd

/-- A pair word whose first half is MIN (R213). -/
def execPairMin (h : HalfOps) (snd : PairHalf) (s : State) : Host.Outcome State Fault Refusal :=
  s.pairIssue .min h snd

/-- A pair word whose first half is MAX (R213). -/
def execPairMax (h : HalfOps) (snd : PairHalf) (s : State) : Host.Outcome State Fault Refusal :=
  s.pairIssue .max h snd

/-- A pair word whose first half is AND (R213). -/
def execPairAnd (h : HalfOps) (snd : PairHalf) (s : State) : Host.Outcome State Fault Refusal :=
  s.pairIssue .and h snd

/-- A pair word whose first half is OR (R213). -/
def execPairOr (h : HalfOps) (snd : PairHalf) (s : State) : Host.Outcome State Fault Refusal :=
  s.pairIssue .or h snd

/-- A pair word whose first half is XOR (R213). -/
def execPairXor (h : HalfOps) (snd : PairHalf) (s : State) : Host.Outcome State Fault Refusal :=
  s.pairIssue .xor h snd

/-- A pair word whose first half is ANDN (R213). -/
def execPairAndn (h : HalfOps) (snd : PairHalf) (s : State) : Host.Outcome State Fault Refusal :=
  s.pairIssue .andn h snd

/-- A pair word whose first half is SHL (R213). -/
def execPairShl (h : HalfOps) (snd : PairHalf) (s : State) : Host.Outcome State Fault Refusal :=
  s.pairIssue .shl h snd

/-- A pair word whose first half is SHR (R213). -/
def execPairShr (h : HalfOps) (snd : PairHalf) (s : State) : Host.Outcome State Fault Refusal :=
  s.pairIssue .shr h snd

/-- A pair word whose first half is SRA (R213). -/
def execPairSra (h : HalfOps) (snd : PairHalf) (s : State) : Host.Outcome State Fault Refusal :=
  s.pairIssue .sra h snd

/-- A pair word whose first half is ROT (R213). -/
def execPairRot (h : HalfOps) (snd : PairHalf) (s : State) : Host.Outcome State Fault Refusal :=
  s.pairIssue .rot h snd

/-- A pair word whose first half is MOV (R213). -/
def execPairMov (h : HalfOps) (snd : PairHalf) (s : State) : Host.Outcome State Fault Refusal :=
  s.pairIssue .mov h snd

/-- A pair word whose first half is FADD (R213). -/
def execPairFadd (h : HalfOps) (snd : PairHalf) (s : State) : Host.Outcome State Fault Refusal :=
  s.pairIssue .fadd h snd

/-- A pair word whose first half is FSUB (R213). -/
def execPairFsub (h : HalfOps) (snd : PairHalf) (s : State) : Host.Outcome State Fault Refusal :=
  s.pairIssue .fsub h snd

/-- A pair word whose first half is FMUL (R213). -/
def execPairFmul (h : HalfOps) (snd : PairHalf) (s : State) : Host.Outcome State Fault Refusal :=
  s.pairIssue .fmul h snd

/-- A pair word whose first half is FMIN (R213). -/
def execPairFmin (h : HalfOps) (snd : PairHalf) (s : State) : Host.Outcome State Fault Refusal :=
  s.pairIssue .fmin h snd

/-- A pair word whose first half is FMAX (R213). -/
def execPairFmax (h : HalfOps) (snd : PairHalf) (s : State) : Host.Outcome State Fault Refusal :=
  s.pairIssue .fmax h snd

/-- A pair word whose first half is HADD2 (R213). -/
def execPairHadd2 (h : HalfOps) (snd : PairHalf) (s : State) : Host.Outcome State Fault Refusal :=
  s.pairIssue .hadd2 h snd

/-- A pair word whose first half is HMUL2 (R213). -/
def execPairHmul2 (h : HalfOps) (snd : PairHalf) (s : State) : Host.Outcome State Fault Refusal :=
  s.pairIssue .hmul2 h snd

/-- A pair word whose first half is HMAX2 (R213). -/
def execPairHmax2 (h : HalfOps) (snd : PairHalf) (s : State) : Host.Outcome State Fault Refusal :=
  s.pairIssue .hmax2 h snd

end Sys2Proof.Machine
end

