-- ==== Sys2Proof/Machine/Dispatch.lean ====
section
/-! DEFINITION. The one dispatch: for each instruction its meaning. -/

namespace Sys2Proof.Machine

/-- The meaning of an instruction, for the current agent of the state. -/
def exec (i : Instr) (s : State) : Host.Outcome State Fault Refusal :=
  match i with
  | .add o ty sat => Sys2Proof.Machine.execAdd o ty sat s
  | .sub o ty sat => Sys2Proof.Machine.execSub o ty sat s
  | .mul o ty => Sys2Proof.Machine.execMul o ty s
  | .mulh o ty => Sys2Proof.Machine.execMulh o ty s
  | .mad o ty => Sys2Proof.Machine.execMad o ty s
  | .abs o ty sat => Sys2Proof.Machine.execAbs o ty sat s
  | .min o ty => Sys2Proof.Machine.execMin o ty s
  | .max o ty => Sys2Proof.Machine.execMax o ty s
  | .and o ty => Sys2Proof.Machine.execAnd o ty s
  | .or o ty => Sys2Proof.Machine.execOr o ty s
  | .xor o ty => Sys2Proof.Machine.execXor o ty s
  | .andn o ty => Sys2Proof.Machine.execAndn o ty s
  | .shl o ty => Sys2Proof.Machine.execShl o ty s
  | .shr o ty => Sys2Proof.Machine.execShr o ty s
  | .sra o ty => Sys2Proof.Machine.execSra o ty s
  | .rot o ty => Sys2Proof.Machine.execRot o ty s
  | .popc o ty => Sys2Proof.Machine.execPopc o ty s
  | .clz o ty => Sys2Proof.Machine.execClz o ty s
  | .ctz o ty => Sys2Proof.Machine.execCtz o ty s
  | .brev o ty => Sys2Proof.Machine.execBrev o ty s
  | .bfx o ty sgn => Sys2Proof.Machine.execBfx o ty sgn s
  | .bfi o ty => Sys2Proof.Machine.execBfi o ty s
  | .sel o ty => Sys2Proof.Machine.execSel o ty s
  | .cmp o ty cond v => Sys2Proof.Machine.execCmp o ty cond v s
  | .lea o ty => Sys2Proof.Machine.execLea o ty s
  | .mov o ty => Sys2Proof.Machine.execMov o ty s
  | .ldi o => Sys2Proof.Machine.execLdi o s
  | .ldih o => Sys2Proof.Machine.execLdih o s
  | .addI o => Sys2Proof.Machine.execAddI o s
  | .mulI o => Sys2Proof.Machine.execMulI o s
  | .andI o => Sys2Proof.Machine.execAndI o s
  | .orI o => Sys2Proof.Machine.execOrI o s
  | .xorI o => Sys2Proof.Machine.execXorI o s
  | .shlI o => Sys2Proof.Machine.execShlI o s
  | .shrI o => Sys2Proof.Machine.execShrI o s
  | .sraI o => Sys2Proof.Machine.execSraI o s
  | .minI o => Sys2Proof.Machine.execMinI o s
  | .maxI o => Sys2Proof.Machine.execMaxI o s
  | .bra o => Sys2Proof.Machine.execBra o s
  | .brx o => Sys2Proof.Machine.execBrx o s
  | .call o => Sys2Proof.Machine.execCall o s
  | .mand o => Sys2Proof.Machine.execMand o s
  | .mor o => Sys2Proof.Machine.execMor o s
  | .mxor o => Sys2Proof.Machine.execMxor o s
  | .mandn o => Sys2Proof.Machine.execMandn o s
  | .mpop o => Sys2Proof.Machine.execMpop o s
  | .mfirst o => Sys2Proof.Machine.execMfirst o s
  | .vtom o => Sys2Proof.Machine.execVtom o s
  | .vtomW o => Sys2Proof.Machine.execVtomW o s
  | .mtov o => Sys2Proof.Machine.execMtov o s
  | .mtovW o => Sys2Proof.Machine.execMtovW o s
  | .shfl o ty imm m => Sys2Proof.Machine.execShfl o ty imm m s
  | .vote o m => Sys2Proof.Machine.execVote o m s
  | .bcast o ty imm first => Sys2Proof.Machine.execBcast o ty imm first s
  | .lkbrk o m => Sys2Proof.Machine.execLkbrk o m s
  | .lktail o ty => Sys2Proof.Machine.execLktail o ty s
  | .join o => Sys2Proof.Machine.execJoin o s
  | .calli o => Sys2Proof.Machine.execCalli o s
  | .calliM o unit => Sys2Proof.Machine.execCalliM o unit s
  | .ret o => Sys2Proof.Machine.execRet o s
  | .exit o => Sys2Proof.Machine.execExit o s
  | .nop o => Sys2Proof.Machine.execNop o s
  | .yield o => Sys2Proof.Machine.execYield o s
  | .cuept o => Sys2Proof.Machine.execCuept o s
  | .trap o code => Sys2Proof.Machine.execTrap o code s
  | .bkpt o code => Sys2Proof.Machine.execBkpt o code s
  | .bind o code => Sys2Proof.Machine.execBind o code s
  | .srd o num => Sys2Proof.Machine.execSrd o num s
  | .swr o num => Sys2Proof.Machine.execSwr o num s
  | .fadd o rnd => Sys2Proof.Machine.execFadd o rnd s
  | .fsub o rnd => Sys2Proof.Machine.execFsub o rnd s
  | .fmul o rnd => Sys2Proof.Machine.execFmul o rnd s
  | .ffma o rnd => Sys2Proof.Machine.execFfma o rnd s
  | .fmin o => Sys2Proof.Machine.execFmin o s
  | .fmax o => Sys2Proof.Machine.execFmax o s
  | .fmaxx o ty => Sys2Proof.Machine.execFmaxx o ty s
  | .fminx o ty => Sys2Proof.Machine.execFminx o ty s
  | .fcmp o ty cond v => Sys2Proof.Machine.execFcmp o ty cond v s
  | .frnd o rnd x => Sys2Proof.Machine.execFrnd o rnd x s
  | .frcp o rnd => Sys2Proof.Machine.execFrcp o rnd s
  | .frsq o rnd => Sys2Proof.Machine.execFrsq o rnd s
  | .fsqrt o rnd => Sys2Proof.Machine.execFsqrt o rnd s
  | .fexp2 o rnd => Sys2Proof.Machine.execFexp2 o rnd s
  | .flog2 o rnd => Sys2Proof.Machine.execFlog2 o rnd s
  | .ftanh o rnd => Sys2Proof.Machine.execFtanh o rnd s
  | .fcvt o dt src rnd => Sys2Proof.Machine.execFcvt o dt src rnd s
  | .f2i o dt src rnd => Sys2Proof.Machine.execF2i o dt src rnd s
  | .i2f o dt src rnd => Sys2Proof.Machine.execI2f o dt src rnd s
  | .hadd2 o ty rnd => Sys2Proof.Machine.execHadd2 o ty rnd s
  | .hmul2 o ty rnd => Sys2Proof.Machine.execHmul2 o ty rnd s
  | .hfma2 o ty rnd => Sys2Proof.Machine.execHfma2 o ty rnd s
  | .hmax2 o ty => Sys2Proof.Machine.execHmax2 o ty s
  | .pack2 o ty rnd => Sys2Proof.Machine.execPack2 o ty rnd s
  | .unpk2 o ty => Sys2Proof.Machine.execUnpk2 o ty s
  | .pairAdd h snd => Sys2Proof.Machine.execPairAdd h snd s
  | .pairSub h snd => Sys2Proof.Machine.execPairSub h snd s
  | .pairMul h snd => Sys2Proof.Machine.execPairMul h snd s
  | .pairMin h snd => Sys2Proof.Machine.execPairMin h snd s
  | .pairMax h snd => Sys2Proof.Machine.execPairMax h snd s
  | .pairAnd h snd => Sys2Proof.Machine.execPairAnd h snd s
  | .pairOr h snd => Sys2Proof.Machine.execPairOr h snd s
  | .pairXor h snd => Sys2Proof.Machine.execPairXor h snd s
  | .pairAndn h snd => Sys2Proof.Machine.execPairAndn h snd s
  | .pairShl h snd => Sys2Proof.Machine.execPairShl h snd s
  | .pairShr h snd => Sys2Proof.Machine.execPairShr h snd s
  | .pairSra h snd => Sys2Proof.Machine.execPairSra h snd s
  | .pairRot h snd => Sys2Proof.Machine.execPairRot h snd s
  | .pairMov h snd => Sys2Proof.Machine.execPairMov h snd s
  | .pairFadd h snd => Sys2Proof.Machine.execPairFadd h snd s
  | .pairFsub h snd => Sys2Proof.Machine.execPairFsub h snd s
  | .pairFmul h snd => Sys2Proof.Machine.execPairFmul h snd s
  | .pairFmin h snd => Sys2Proof.Machine.execPairFmin h snd s
  | .pairFmax h snd => Sys2Proof.Machine.execPairFmax h snd s
  | .pairHadd2 h snd => Sys2Proof.Machine.execPairHadd2 h snd s
  | .pairHmul2 h snd => Sys2Proof.Machine.execPairHmul2 h snd s
  | .pairHmax2 h snd => Sys2Proof.Machine.execPairHmax2 h snd s
  | .ld o unit ty sc od => Sys2Proof.Machine.execLd o unit ty sc od s
  | .st o unit ty sc od => Sys2Proof.Machine.execSt o unit ty sc od s
  | .lds o unit ty sc od fem => Sys2Proof.Machine.execLds o unit ty sc od fem s
  | .sts o unit ty sc od fe => Sys2Proof.Machine.execSts o unit ty sc od fe s
  | .pref o unit => Sys2Proof.Machine.execPref o unit s
  | .atom o ty sc od sp => Sys2Proof.Machine.execAtom o ty sc od sp s
  | .acas o ty sc od sp => Sys2Proof.Machine.execAcas o ty sc od sp s
  | .abfi o ty sc od sp => Sys2Proof.Machine.execAbfi o ty sc od sp s
  | .affcs o sc od sp => Sys2Proof.Machine.execAffcs o sc od sp s
  | .aplset o sc od sp => Sys2Proof.Machine.execAplset o sc od sp s
  | .red o ty sc od sp ord => Sys2Proof.Machine.execRed o ty sc od sp ord s
  | .fence o sc od => Sys2Proof.Machine.execFence o sc od s
  | .pfence o => Sys2Proof.Machine.execPfence o s
  | .feset o unit => Sys2Proof.Machine.execFeset o unit s
  | .feclr o unit => Sys2Proof.Machine.execFeclr o unit s
  | .plook o => Sys2Proof.Machine.execPlook o s
  | .pins o => Sys2Proof.Machine.execPins o s
  | .pinv o => Sys2Proof.Machine.execPinv o s
  | .ejoin o => Sys2Proof.Machine.execEjoin o s
  | .eleave o => Sys2Proof.Machine.execEleave o s
  | .mbget o => Sys2Proof.Machine.execMbget o s
  | .mbput o => Sys2Proof.Machine.execMbput o s
  | .mbr o => Sys2Proof.Machine.execMbr o s
  | .mbw o => Sys2Proof.Machine.execMbw o s
  | .rput o => Sys2Proof.Machine.execRput o s
  | .waita o => Sys2Proof.Machine.execWaita o s
  | .binit o unit mode => Sys2Proof.Machine.execBinit o unit mode s
  | .arrive o unit => Sys2Proof.Machine.execArrive o unit s
  | .bwait o unit => Sys2Proof.Machine.execBwait o unit s
  | .kick o => Sys2Proof.Machine.execKick o s
  | .bclose o => Sys2Proof.Machine.execBclose o s
  | .waitb o => Sys2Proof.Machine.execWaitb o s
  | .rgrow o => Sys2Proof.Machine.execRgrow o s
  | .rshrink o => Sys2Proof.Machine.execRshrink o s
  | .dalloc o => Sys2Proof.Machine.execDalloc o s
  | .mxplane o src bside => Sys2Proof.Machine.execMxplane o src bside s
  | .mxldb o => Sys2Proof.Machine.execMxldb o s
  | .mxmul o tile hb => Sys2Proof.Machine.execMxmul o tile hb s
  | .mxbat o tile => Sys2Proof.Machine.execMxbat o tile s
  | .mxzero o tile => Sys2Proof.Machine.execMxzero o tile s
  | .mxdrain o tile ty x => Sys2Proof.Machine.execMxdrain o tile ty x s
  | .mxfill o tile ty x => Sys2Proof.Machine.execMxfill o tile ty x s
  | .mxchk o tile clr => Sys2Proof.Machine.execMxchk o tile clr s
  | .cvenc o dim => Sys2Proof.Machine.execCvenc o dim s
  | .cvdec o dim => Sys2Proof.Machine.execCvdec o dim s
  | .cvadd o dim sat => Sys2Proof.Machine.execCvadd o dim sat s
  | .cvcmp o dim cond v => Sys2Proof.Machine.execCvcmp o dim cond v s
  | .cvnext o dim => Sys2Proof.Machine.execCvnext o dim s
  | .cvsplit o dim n sp => Sys2Proof.Machine.execCvsplit o dim n sp s
  | .cvlvl o dim => Sys2Proof.Machine.execCvlvl o dim s
  | .prNop o => Sys2Proof.Machine.execPrNop o s
  | .prAdd o => Sys2Proof.Machine.execPrAdd o s
  | .prAddi o => Sys2Proof.Machine.execPrAddi o s
  | .prSub o => Sys2Proof.Machine.execPrSub o s
  | .prMul o => Sys2Proof.Machine.execPrMul o s
  | .prMulh o uns => Sys2Proof.Machine.execPrMulh o uns s
  | .div o uns => Sys2Proof.Machine.execDiv o uns s
  | .rem o uns => Sys2Proof.Machine.execRem o uns s
  | .prAnd o => Sys2Proof.Machine.execPrAnd o s
  | .prOr o => Sys2Proof.Machine.execPrOr o s
  | .prXor o => Sys2Proof.Machine.execPrXor o s
  | .prShl o => Sys2Proof.Machine.execPrShl o s
  | .prShr o => Sys2Proof.Machine.execPrShr o s
  | .prSra o => Sys2Proof.Machine.execPrSra o s
  | .slt o => Sys2Proof.Machine.execSlt o s
  | .sltn o => Sys2Proof.Machine.execSltn o s
  | .li o => Sys2Proof.Machine.execLi o s
  | .lih o => Sys2Proof.Machine.execLih o s
  | .prLd o m => Sys2Proof.Machine.execPrLd o m s
  | .prSt o m => Sys2Proof.Machine.execPrSt o m s
  | .prLds o m => Sys2Proof.Machine.execPrLds o m s
  | .prSts o m => Sys2Proof.Machine.execPrSts o m s
  | .prAtom o m => Sys2Proof.Machine.execPrAtom o m s
  | .prFence o sc od => Sys2Proof.Machine.execPrFence o sc od s
  | .b o => Sys2Proof.Machine.execB o s
  | .bc o cond => Sys2Proof.Machine.execBc o cond s
  | .prCall o => Sys2Proof.Machine.execPrCall o s
  | .jr o => Sys2Proof.Machine.execJr o s
  | .tmpl o => Sys2Proof.Machine.execTmpl o s
  | .fld o => Sys2Proof.Machine.execFld o s
  | .emit o => Sys2Proof.Machine.execEmit o s
  | .emitx o => Sys2Proof.Machine.execEmitx o s
  | .emitb o => Sys2Proof.Machine.execEmitb o s
  | .seal o => Sys2Proof.Machine.execSeal o s
  | .segnew o => Sys2Proof.Machine.execSegnew o s
  | .segfree o => Sys2Proof.Machine.execSegfree o s
  | .start o => Sys2Proof.Machine.execStart o s
  | .prMbr o => Sys2Proof.Machine.execPrMbr o s
  | .prMbw o => Sys2Proof.Machine.execPrMbw o s
  | .prMbget o => Sys2Proof.Machine.execPrMbget o s
  | .prMbput o => Sys2Proof.Machine.execPrMbput o s
  | .waitev o nb => Sys2Proof.Machine.execWaitev o nb s
  | .evinfo o => Sys2Proof.Machine.execEvinfo o s
  | .gctlResume o => Sys2Proof.Machine.execGctlResume o s
  | .gctlRedirect o => Sys2Proof.Machine.execGctlRedirect o s
  | .gctlKill o => Sys2Proof.Machine.execGctlKill o s
  | .gctlFlags o => Sys2Proof.Machine.execGctlFlags o s
  | .accrd o => Sys2Proof.Machine.execAccrd o s
  | .accwr o => Sys2Proof.Machine.execAccwr o s
  | .prCuept o => Sys2Proof.Machine.execPrCuept o s
  | .csrr o => Sys2Proof.Machine.execCsrr o s
  | .csrw o => Sys2Proof.Machine.execCsrw o s
  | .eret o => Sys2Proof.Machine.execEret o s
  | .sysc o => Sys2Proof.Machine.execSysc o s
  | .prYield o => Sys2Proof.Machine.execPrYield o s
  | .sysresume o => Sys2Proof.Machine.execSysresume o s
  | .syscLog c => Sys2Proof.Machine.execSyscLog c s
  | .syscInfo c => Sys2Proof.Machine.execSyscInfo c s
  | .syscNotify c => Sys2Proof.Machine.execSyscNotify c s
  | .dhalt o => Sys2Proof.Machine.execDhalt o s
  | .drelease o => Sys2Proof.Machine.execDrelease o s
  | .debugHalt g => Sys2Proof.Machine.execDebugHalt g s
  | .tlbinv o => Sys2Proof.Machine.execTlbinv o s
  | .tlbinvComplete cl => Sys2Proof.Machine.execTlbinvComplete cl s
  | .lkill o => Sys2Proof.Machine.execLkill o s
  | .queueKick port q tail => Sys2Proof.Machine.execQueueKick port q tail s
  | .registerWrite ag off val => Sys2Proof.Machine.execRegisterWrite ag off val s
  | .descriptorTake q => Sys2Proof.Machine.execDescriptorTake q s
  | .eventWordSet q => Sys2Proof.Machine.execEventWordSet q s
  | .placementStep => Sys2Proof.Machine.execPlacementStep s
  | .launchComplete l => Sys2Proof.Machine.execLaunchComplete l s
  | .ordClose l => Sys2Proof.Machine.execOrdClose l s
  | .sliceIssue cl sl => Sys2Proof.Machine.execSliceIssue cl sl s
  | .stageSwap cl sl => Sys2Proof.Machine.execStageSwap cl sl s
  | .stageEligible g => Sys2Proof.Machine.execStageEligible g s
  | .dependenceResolved g => Sys2Proof.Machine.execDependenceResolved g s
  | .linkedChainEnd team group => Sys2Proof.Machine.execLinkedChainEnd team group s
  | .memoryReply id => Sys2Proof.Machine.execMemoryReply id s
  | .homeAccess id lanes => Sys2Proof.Machine.execHomeAccess id lanes s
  | .storeAck id => Sys2Proof.Machine.execStoreAck id s
  | .rputArrival id => Sys2Proof.Machine.execRputArrival id s
  | .mailboxCycle team => Sys2Proof.Machine.execMailboxCycle team s
  | .requestEngineTake cl => Sys2Proof.Machine.execRequestEngineTake cl s
  | .copyDelivery id start n => Sys2Proof.Machine.execCopyDelivery id start n s
  | .gatherRequest id => Sys2Proof.Machine.execGatherRequest id s
  | .sendDelivery id start n => Sys2Proof.Machine.execSendDelivery id start n s
  | .matrixEngineStep cl => Sys2Proof.Machine.execMatrixEngineStep cl s
  | .scriptStoreDrain cl => Sys2Proof.Machine.execScriptStoreDrain cl s
  | .sealComplete c => Sys2Proof.Machine.execSealComplete c s
  | .composeStallTimeout c => Sys2Proof.Machine.execComposeStallTimeout c s
  | .segmentRelease c seg => Sys2Proof.Machine.execSegmentRelease c seg s
  | .eventPostDeferred g => Sys2Proof.Machine.execEventPostDeferred g s
  | .rgrowReadmit cl sl => Sys2Proof.Machine.execRgrowReadmit cl sl s
  | .uncorrectableError st => Sys2Proof.Machine.execUncorrectableError st s
  | .compareConfirm team group => Sys2Proof.Machine.execCompareConfirm team group s
  | .cueConfirmed team => Sys2Proof.Machine.execCueConfirmed team s
  | .walkComplete die => Sys2Proof.Machine.execWalkComplete die s
  | .ptrootWrite ag part val => Sys2Proof.Machine.execPtrootWrite ag part val s
  | .pswapYield ag part => Sys2Proof.Machine.execPswapYield ag part s
  | .swapQuantumExpiry part => Sys2Proof.Machine.execSwapQuantumExpiry part s
  | .swapFlip part => Sys2Proof.Machine.execSwapFlip part s
  | .swapExchangeDone part => Sys2Proof.Machine.execSwapExchangeDone part s
  | .swapBackgroundDone part bad lost => Sys2Proof.Machine.execSwapBackgroundDone part bad lost s
  | .timesliceQuantum phys => Sys2Proof.Machine.execTimesliceQuantum phys s
  | .cutGo ag part => Sys2Proof.Machine.execCutGo ag part s
  | .cutComplete part => Sys2Proof.Machine.execCutComplete part s
  | .cutBlocked part => Sys2Proof.Machine.execCutBlocked part s
  | .cutRelease ag part => Sys2Proof.Machine.execCutRelease ag part s
  | .energyInterval cl => Sys2Proof.Machine.execEnergyInterval cl s
  | .flitReceive port seq flit => Sys2Proof.Machine.execFlitReceive port seq flit s
  | .laneShed port => Sys2Proof.Machine.execLaneShed port s
  | .portRetrained port => Sys2Proof.Machine.execPortRetrained port s
  | .portDown port => Sys2Proof.Machine.execPortDown port s
  | .deviceUnreachable loss => Sys2Proof.Machine.execDeviceUnreachable loss s
  | .fabricRequest r => Sys2Proof.Machine.execFabricRequest r s
  | .powerUp b => Sys2Proof.Machine.execPowerUp b s
  | .powerSample avg10 avg1 inlet die => Sys2Proof.Machine.execPowerSample avg10 avg1 inlet die s
  | .thermalTrip inlet die => Sys2Proof.Machine.execThermalTrip inlet die s
  | .pressureWithdraw => Sys2Proof.Machine.execPressureWithdraw s
  | .scrubPass dev row addr corr uncorr => Sys2Proof.Machine.execScrubPass dev row addr corr uncorr s
  | .rowSpare dev row => Sys2Proof.Machine.execRowSpare dev row s
  | .rowSpareSwitch dev row => Sys2Proof.Machine.execRowSpareSwitch dev row s
  | .marginWindow dom => Sys2Proof.Machine.execMarginWindow dom s
  | .marginLockoutExpiry dom => Sys2Proof.Machine.execMarginLockoutExpiry dom s
  | .retireComplete cl => Sys2Proof.Machine.execRetireComplete cl s
  | .partcfg words sig => Sys2Proof.Machine.execPartcfg words sig s
  | .retire cl => Sys2Proof.Machine.execRetire cl s
  | .shed port width => Sys2Proof.Machine.execShed port width s
  | .restore port => Sys2Proof.Machine.execRestore port s
  | .thaw port => Sys2Proof.Machine.execThaw port s
  | .resetcl cl => Sys2Proof.Machine.execResetcl cl s
  | .tabtrig => Sys2Proof.Machine.execTabtrig s
  | .tabread => Sys2Proof.Machine.execTabread s
  | .fiarm words => Sys2Proof.Machine.execFiarm words s
  | .faultInjectionFire idx => Sys2Proof.Machine.execFaultInjectionFire idx s
  | .errread seq => Sys2Proof.Machine.execErrread seq s
  | .attest nonce => Sys2Proof.Machine.execAttest nonce s
  | .baseDiscovery => Sys2Proof.Machine.execBaseDiscovery s
  | .sensorRead num => Sys2Proof.Machine.execSensorRead num s
  | .firmwareUpdate image svn sig => Sys2Proof.Machine.execFirmwareUpdate image svn sig s
  | .correctedError st => Sys2Proof.Machine.execCorrectedError st s
  | .illegalInstruction detail => Sys2Proof.Machine.execIllegalInstruction detail s
  | .prompterMemoryFault index => Sys2Proof.Machine.execPrompterMemoryFault index s
  | .powerLoss => Sys2Proof.Machine.execPowerLoss s

end Sys2Proof.Machine
end

