-- ==== Sys2Proof/Machine/Turn.lean ====
section
/-! DEFINITION. Whose turn it is: the fetch of a slot's or a context's next word (R64, R218, R326, R328, R335), the choice
of a context (R57), one round of the turns that the machine's own units may take when no turn is laid down, and the
placing of one word for the host. -/

namespace Sys2Proof.Machine

/-! ### Fetch -/

/-- What a turn meets at its fetch: an instruction to run, a state in which the turn is over, a prompter word
that fails detail 1, 2 or 3 or lies beyond its image, or a lane word of no meaning. -/
inductive Fetch where
  | run (i : Instr)
  | over_ (s : State)
  | illegal (detail : Nat)
  | beyond (index : Nat)
  | bad
deriving DecidableEq, Repr

/-- The fetch of a slot (R64): an open segment parks the group; a free one, a transfer into a retiring one and a fall
through the end raise SCRIPT_RANGE. A slot that waits, or whose group may not issue, fetches nothing. -/
def State.fetchLane (s : State) (g : Nat) (b : Bool) : Fetch :=
  match s.group? g with
  | none => .over_ s
  | some x =>
    let v := x.slot b
    if !s.mayIssue g x || !v.live || v.wait != .run then .over_ s
    else
      match s.ctxOf x with
      | none => .over_ s
      | some c =>
        if v.past then .over_ (s.stopBefore g b x 0x08 v.mask 0 0)
        else
          match c.fetch v.pc with
          | .range => .over_ (s.stopBefore g b x 0x08 v.mask 0 0)
          | .parks seg => .over_ (s.park g b (.segment seg))
          | .word w _ => match decodeLane w.toNat with | .ok i => .run i | .error _ => .bad

/-- The fetch of a context from its image copy (R326): a word that fails detail 1, 2 or 3 runs as ILLEGAL_INSTRUCTION
(R328), an index at or beyond the end as PROMPTER_MEMORY_FAULT (R335). -/
def State.fetchCtx (s : State) (c : Nat) : Fetch :=
  match s.ctx? c with
  | none => .over_ s
  | some x =>
    if x.imageLen ≤ x.pc.toNat then .beyond x.pc.toNat
    else match decodePrompter (Sp.getD x.words x.pc.toNat 0).toNat with | .ok i => .run i | .error n => .illegal n

/-- What happens before the fetch of a word of a segment is in the group's past: its SEAL (R125). -/
def State.noteFetch (s : State) (g : Nat) (b : Bool) : State :=
  match s.group? g with
  | none => s
  | some x =>
    match (s.ctxOf x).bind (fun c => Sp.get? c.segs (segOf (x.slot b).pc)) with
    | none => s
    | some sg => s.acquire g sg.clk

/-- A generator context that issues is noted for the next choice (R57); one that tries a stalled word again is not. -/
def State.noteCtx (s : State) (c : Nat) : State :=
  match s.ctx? c with
  | none => s
  | some x => if x.generator && s.ctxMay c x && x.wait == .run then s.modCluster (c / 8) (fun k => { k with lastCtx := x.num }) else s

/-! ### One round of turns -/

/-- The context that issues in a cluster cycle (R57): the system context, else the assist context, else the next ready
generator after the one that issued last. From reset, when none has issued, context 1 is asked first, the choice going on from
number 0 (DESIGN CHOICE [8]). -/
def State.nextCtx (s : State) (ck : Nat) : Option Nat :=
  let ready (n : Nat) : Bool := match s.ctx? (ctxKey ck n) with | none => false | some x => s.ctxMay (ctxKey ck n) x && x.wait == .run
  if ready 7 then some (ctxKey ck 7)
  else if ready 6 then some (ctxKey ck 6)
  else (((List.range 6).map (fun i => ((s.cluster ck).lastCtx + 1 + i) % 6)).find? ready).map (ctxKey ck)

/-- Events of units as turns. -/
def events (l : List Own) : List Turn := l.map Turn.own

/-- An event that is due. -/
def due (b : Bool) (i : Own) : List Own := if b then [i] else []

/-- The clusters that hold something. -/
def State.liveClusters (s : State) : List Nat :=
  (s.groups.map (fun (p : Nat × Group) => p.2.ckey) ++ s.ctxs.map (fun (p : Nat × Ctx) => p.1 / 8) ++ s.clusters.map Prod.fst).foldl (fun l k => insNat k l) []

/-- The prompters' turns of a cycle, over every cluster: the contexts that issue, the system contexts first, then the assist contexts,
then the generators (R343, also across a PAIR); then those that try a stalled word again or end a yield. -/
def State.prompterTurns (s : State) : List Turn :=
  let next := s.liveClusters.filterMap s.nextCtx
  let of_ (p : Nat → Bool) : List Turn := (next.filter (fun c => p (c % 8))).map Turn.prompter
  of_ (· == 7) ++ of_ (· == 6) ++ of_ (fun n => decide (n < 6))
    ++ (s.ctxs.filter (fun (p : Nat × Ctx) => p.2.wait == .stall || p.2.wait == .yield)).map (fun (p : Nat × Ctx) => Turn.prompter p.1)

/-- The turns of a cluster's units. -/
def State.clusterTurns (s : State) (ck : Nat) : List Turn :=
  let c := s.cluster ck
  let slices := (List.range 6).filter (fun sl => !(s.sliceGroups (ck * 6 + sl)).isEmpty)
  events (slices.flatMap (fun sl =>
        due (!(s.growers (ck * 6 + sl)).isEmpty) (.rgrowReadmit ck sl)
          ++ due ((s.nextReady (ck * 6 + sl)).isSome || (s.sliceGroups (ck * 6 + sl)).any (fun p => p.2.yielding)) (.stageSwap ck sl)
          ++ [.sliceIssue ck sl])
      ++ due (!c.reqQ.isEmpty) (.requestEngineTake ck)
      ++ due (!c.mxQ.isEmpty) (.matrixEngineStep ck)
      ++ due (s.ctxs.any (fun p => p.1 / 8 == ck && !p.2.emitQ.isEmpty)) (.scriptStoreDrain ck)
      ++ due (!c.tlbBusy.isEmpty) (.tlbinvComplete ck))

/-- The turns of a group. -/
def State.groupEvents (s : State) (g : Nat) (x : Group) : List Own :=
  due x.dbgPend (.debugHalt g)
    ++ due ((x.stop.isSome && !x.posted) || s.awaitsRace x) (.eventPostDeferred g)
    ++ due (s.resolved g x false || s.resolved g x true) (.dependenceResolved g)
    ++ due (x.onStage && x.eligAt != 0) (.stageEligible g)

/-- The turns of a team. -/
def State.teamEvents (s : State) (t : Nat) (x : Team) : List Own :=
  due (!x.requests.isEmpty) (.mailboxCycle t)
    ++ ((x.chains.filter (fun c => !c.2.isEmpty)).map (fun c => Own.linkedChainEnd t c.1))
    ++ (match s.pairOf? t with
        | some p => if p.lead = t then (List.range x.ngroups).map (fun i => Own.compareConfirm t i) ++ [.cueConfirmed t] else []
        | none => [])

/-- The first run of bytes of a request that are not delivered. -/
def Request.nextRun (r : Request) : Nat × Nat :=
  let left := (List.range r.total).dropWhile r.has
  (left.headD 0, (left.takeWhile (fun i => !r.has i)).length)

/-- The turn of a request that an engine works on. -/
def Request.turn (r : Request) : Own :=
  if r.kind = 1 then .gatherRequest r.id
  else if r.kind = 2 then .sendDelivery r.id r.nextRun.1 r.nextRun.2
  else .copyDelivery r.id r.nextRun.1 r.nextRun.2

/-- The turn of an access in flight. -/
def MemOp.turn (m : MemOp) : Own :=
  if !m.performed then .homeAccess m.id (BitVec.allOnes 64) else if m.d.isSome then .memoryReply m.id else .storeAck m.id

/-- The turns of a context beside its words. -/
def Ctx.events_ (c : Nat) (x : Ctx) : List Own :=
  due (x.wait == .seal) (.sealComplete c)
    ++ ((x.segs.filter (fun g => g.2.state == .retiring)).map (fun g => Own.segmentRelease c g.1))
    ++ due (x.syscCode == some 1) (.syscLog c) ++ due (x.syscCode == some 2) (.syscInfo c) ++ due (x.syscCode == some 3) (.syscNotify c)
    ++ due (x.syscCode.any (fun n => n == 0 || decide (3 < n))) (.syscPlain c)

/-- The turns of the dispatcher. -/
def State.dispatchEvents (s : State) : List Own :=
  (s.queues.filter (fun q => q.2.en && q.2.head != q.2.tail)).map (fun q => Own.descriptorTake q.1)
    ++ ((s.launches.filter (fun l => l.2.phase == .waiting)).map (fun l => Own.eventWordSet l.2.queue))
    ++ due (s.launches.any (fun l => l.2.phase == .placing)) .placementStep
    ++ (s.launches.filter (fun l => s.launchDone l.2)).flatMap (fun l => [Own.ordClose l.1, .launchComplete l.1])

/-- The turns of swaps and cuts. -/
def State.partEvents (s : State) : List Own :=
  s.shares.flatMap (fun k =>
      let moves : Bool := match k.2.phase with | .move _ => true | _ => false
      due (k.2.phase == .drain || k.2.pending) (.swapFlip k.1) ++ due (k.2.phase == .exchange) (.swapExchangeDone k.1)
        ++ due ((k.2.phase == .run && k.2.busy) || moves) (.swapBackgroundDone k.1 [] []))
    ++ (s.parts.filter (fun p => p.2.cutState == 1)).map (fun p => Own.cutComplete p.1)
    ++ s.parts.flatMap (fun p => p.2.sliceDue.map Own.timesliceQuantum)

/-- One round of what the units may do of themselves, in the model's order (DESIGN CHOICE [2]). Timers, errors, the links,
the platform and the house controller's commands take no part: they come on the agenda. -/
def State.round (s : State) : List Turn :=
  s.prompterTurns ++ s.liveClusters.flatMap s.clusterTurns
    ++ events (
      s.groups.flatMap (fun p => s.groupEvents p.1 p.2) ++ s.teams.flatMap (fun p => s.teamEvents p.1 p.2)
        ++ s.flight.map MemOp.turn ++ s.rputs.map (fun r => Own.rputArrival r.id)
        ++ (s.clusters.flatMap (fun c => c.2.work)).map Request.turn
        ++ (s.walks.filter (fun w => !w.2.isEmpty)).map (fun w => Own.walkComplete w.1)
        ++ s.ctxs.flatMap (fun p => Ctx.events_ p.1 p.2)
        ++ s.dispatchEvents ++ s.partEvents ++ s.house.retiring.map Own.retireComplete
        ++ ((List.range s.house.armed.length).reverse.map Own.faultInjectionFire))

/-- An event of a unit's own: it runs as the instruction of its name. -/
def Own.run (e : Own) (s : State) : Host.Outcome State Fault Refusal :=
  match e with
  | .rgrowReadmit cl sl => execRgrowReadmit cl sl s
  | .stageSwap cl sl => execStageSwap cl sl s
  | .sliceIssue cl sl => execSliceIssue cl sl s
  | .requestEngineTake cl => execRequestEngineTake cl s
  | .matrixEngineStep cl => execMatrixEngineStep cl s
  | .scriptStoreDrain cl => execScriptStoreDrain cl s
  | .tlbinvComplete cl => execTlbinvComplete cl s
  | .debugHalt g => execDebugHalt g s
  | .eventPostDeferred g => execEventPostDeferred g s
  | .dependenceResolved g => execDependenceResolved g s
  | .stageEligible g => execStageEligible g s
  | .mailboxCycle team => execMailboxCycle team s
  | .linkedChainEnd team group => execLinkedChainEnd team group s
  | .compareConfirm team group => execCompareConfirm team group s
  | .cueConfirmed team => execCueConfirmed team s
  | .gatherRequest id => execGatherRequest id s
  | .sendDelivery id start n => execSendDelivery id start n s
  | .copyDelivery id start n => execCopyDelivery id start n s
  | .homeAccess id lanes => execHomeAccess id lanes s
  | .memoryReply id => execMemoryReply id s
  | .storeAck id => execStoreAck id s
  | .rputArrival id => execRputArrival id s
  | .walkComplete die => execWalkComplete die s
  | .sealComplete c => execSealComplete c s
  | .segmentRelease c seg => execSegmentRelease c seg s
  | .syscLog c => execSyscLog c s
  | .syscInfo c => execSyscInfo c s
  | .syscNotify c => execSyscNotify c s
  | .syscPlain c => .next (s.syscPlain c)
  | .descriptorTake q => execDescriptorTake q s
  | .eventWordSet q => execEventWordSet q s
  | .placementStep => execPlacementStep s
  | .ordClose l => execOrdClose l s
  | .launchComplete l => execLaunchComplete l s
  | .swapFlip part => execSwapFlip part s
  | .swapExchangeDone part => execSwapExchangeDone part s
  | .swapBackgroundDone part bad lost => execSwapBackgroundDone part bad lost s
  | .cutComplete part => execCutComplete part s
  | .retireComplete cl => execRetireComplete cl s
  | .timesliceQuantum phys => execTimesliceQuantum phys s
  | .faultInjectionFire idx => execFaultInjectionFire idx s

/-! ### One word placed for the host -/

/-- Whether a prompter word is one that a generator context is not permitted (R328 detail 4). -/
def wordPrivileged (i : Instr) : Bool :=
  match i with
  | .accrd _ | .accwr _ | .eret _ | .sysresume _ | .dhalt _ | .drelease _ | .tlbinv _ | .lkill _ => true
  | .csrr o | .csrw o => decide (0x100 ≤ o.imm)
  | _ => false

/-- The one launch, team, group and context of a word that is placed: partition 0 with its first pair, on, and a team of
one group of 16 lanes with 240 registers and 32 tiles. -/
def State.placeOne (s : State) (c : Ctx) (num : Nat) (turn : Turn) : State :=
  let l : Launch := { uid := 0, queue := 0, part := 0, desc := [], id := 0, phase := .placed, regs := 240, tiles := 32 }
  let t : Team := { uid := 1, launch := 0, part := 0, cluster := 0, handle := 0, pair := false, ctx := num, x := 0, y := 0, z := 0,
                    q := 0, ngroups := 1, width := 16, tiles := 32, started := true }
  let x : Group := { uid := 2, launch := 0, team := 0, index := 0, part := 0, cluster := 0, slice := 0, gslot := 0, half := 0,
                     width := 16, extent := 16, nregs := 240, slotA := { mask := 0xFFFF }, started := true, onStage := true, parked := false }
  { ((((s.modPart 0 (fun p => { p with on := true, pairs := [0] })).setLaunch 0 l).setTeam 0 t).setGroup 0 x).setCtx num c with
    agenda := turn :: s.agenda }

/-- A context with nothing but a number. -/
def bareCtx (num : Nat) : Ctx := { part := 0, cluster := 0, num := num, uid := 3, active := true, imageLen := 1 }

/-- A lane word at address 0 of a sealed segment, under the group's slot A. -/
def State.placeLane (s : State) (w : DWord) : State :=
  s.placeOne { bareCtx 0 with segs := [(0, { state := .sealed, cap := 2, len := 2 })], store := [(0, (w, 0)), (1, (0, 0))] } 0 (.lane 0 false)

/-- A prompter word at index 0 of the image of context 0, or of the system context where it must be. -/
def State.placePrompter (s : State) (w : DWord) : State :=
  let sys : Bool := match decodePrompter w.toNat with | .ok i => wordPrivileged i | .error _ => false
  let n := if sys then 7 else 0
  s.placeOne { bareCtx n with words := Sp.put 0 [] 0 w } n (.prompter n)

end Sys2Proof.Machine
end

