-- ==== Sys2Proof/Machine/Step.lean ====
section
/-! DEFINITION. One step of the machine: the next turn of the agenda, or a new round of turns when it is empty. -/

namespace Sys2Proof.Machine

/-- One turn: an event of the hardware or the outside world, or the next word of a slot or of a context. -/
def runTurn (s : State) (t : Turn) : Host.Outcome State Fault Refusal :=
  match t with
  | .event i => exec i { s with cur := .env }
  | .own e => e.run { s with cur := .env }
  | .lane g b =>
    match s.fetchLane g b with
    | .run i => exec i { (s.noteFetch g b) with cur := .lane g b }
    | .over_ t => .next t
    | _ => .fault .badWord
  | .prompter c =>
    match s.fetchCtx c with
    | .run i => exec i { (s.noteCtx c) with cur := .prompter c }
    | .illegal n => execIllegalInstruction n { (s.noteCtx c) with cur := .prompter c }
    | .beyond i => execPrompterMemoryFault i { (s.noteCtx c) with cur := .prompter c }
    | .over_ t => .next t
    | .bad => .fault .badWord

/-- One step. -/
def step (s : State) : Host.Outcome State Fault Refusal :=
  match s.agenda with
  | [] => .next { s with agenda := s.round }
  | t :: rest => runTurn { s with agenda := rest } t

/-- A state with one word placed where the next step fetches it: a lane word of at most 64 bits, or a prompter word whose
bits 64 and up hold 1 (the numbering of `decodeTableWord`). -/
def State.withFetchWord (s : State) (nbits w : Nat) : State :=
  if nbits ≤ 64 then s.placeLane (BitVec.ofNat 64 (w % 2 ^ nbits)) else s.placePrompter (BitVec.ofNat 64 w)

end Sys2Proof.Machine
end

