-- ==== Sys2Proof/Certificates/Slice0/Vocabulary.lean ====
section
/-! DEFINITION. The words the statements are written in: when a slot may issue, what a result writes, what a step leaves
alone, what each lane word that computes in registers computes, and how a link value runs along the lanes. -/

namespace Sys2Proof.Claims

open Sys2Proof.Machine

/-! ### The issue of a lane word -/

/-- Nothing keeps slot b of the resident group x from issuing a word that names these fields: it is its turn, the group
runs and no hold is set on it (R23, R405), the slot is live and waits for nothing, no named register lies outside the
allocation where a lane writes (R116), no latch that a lane reads is lost (R204), no named register awaits a reply (R275),
and no register that a lane reads holds an error that was injected into it (R453). -/
structure MayIssue (s : State) (g : Nat) (b : Bool) (x : Group) (ws reads : List Nat) (srcs dst : List Named) : Prop where
  turn : s.cur = .lane g b
  group : s.group? g = some x
  runs : s.mayIssue g x = true
  live : (x.slot b).mask ≠ 0
  ready : (x.slot b).wait = .run
  inside : ws = [] ∨ ∀ f ∈ srcs ++ dst, Named.outside x f = false
  latched : ∀ j ∈ reads, ∀ f ∈ srcs, Named.lost x j f = false
  answered : ∀ f ∈ srcs ++ dst, ∀ r ∈ Named.regs f, s.awaited g x r = false
  clean : ∀ j ∈ reads, ∀ f ∈ srcs, ∀ r ∈ Named.regs f, r * 64 + j ∉ x.latent

/-- The lanes whose registers a word reads: the uniform lane with u = 1, else the writing lanes (R49). -/
def readLanes (x : Group) (uni : Bool) (ws : List Nat) : List Nat :=
  if uni then (if ws.isEmpty then [] else [x.uniformLane]) else ws

/-! ### What a result writes, and what it leaves -/

/-- The writing lanes `ws` of y hold the results `r` in the destination field (k, d) where `on` is set, in latch `ld` where
the word writes one, and their flags in fpflags; every other register, mask bit, latch and flag is that of x. Lanes are
below 64. -/
structure Wrote (x y : Group) (on : Bool) (k : FieldKind) (d : Nat) (latch : Option Nat) (ws : List Nat) (r : Nat → Nat × Fl) :
    Prop where
  regs : ∀ n j, j < 64 → y.reg n j =
    if on = true ∧ d ≤ n ∧ n < d + fieldRegs k ∧ j ∈ ws then BitVec.ofNat 32 ((r j).1 / 2 ^ (32 * (n - d))) else x.reg n j
  masks : ∀ m j, (y.maskReg m).getLsbD j =
    if on = true ∧ k = .dstMask ∧ m = d ∧ d ≠ 0 ∧ j ∈ ws then (r j).1 % 2 == 1 else (x.maskReg m).getLsbD j
  latches : ∀ l j, j < 64 → y.latch? l j = if latch = some l ∧ j ∈ ws then some (BitVec.ofNat 64 (r j).1) else x.latch? l j
  flags : ∀ j, y.flags j = if j ∈ ws then x.flags j ||| BitVec.ofNat 32 (r j).2.toNat else x.flags j

/-- y is x one issue later, its slot b at the next word: what else of the group may differ is its registers, masks,
latches, flags and the marks that the stage keeps of it. -/
structure IssuedAs (x y : Group) (b : Bool) : Prop where
  rest : y = { x with regs := y.regs, masks := y.masks, latches := y.latches, fpflags := y.fpflags, latent := y.latent,
                      slotA := y.slotA, slotB := y.slotB, issued := x.issued + 1, prods := y.prods, stepsEnd := y.stepsEnd,
                      parked := y.parked, readyAge := y.readyAge }
  pc : (y.slot b).pc = (x.slot b).pc + 1
  mask : (y.slot b).mask = (x.slot b).mask
  wait : (y.slot b).wait = .run
  calls : (y.slot b).calls = (x.slot b).calls
  other : y.slot (!b) = x.slot (!b)

/-- From s to t nothing but group g and the activity counts of contexts differs. -/
structure OnlyGroup (s t : State) (g : Nat) : Prop where
  state : t = { s with groups := t.groups, ctxs := t.ctxs }
  groups : ∀ k, k ≠ g → t.group? k = s.group? k
  ctxs : ∀ c, (t.ctx? c).map (fun y => { y with laneSteps := 0 }) = (s.ctx? c).map (fun y => { y with laneSteps := 0 })

/-- Every byte of device memory and of every scratchpad reads as before. -/
def SameBytes (s t : State) : Prop :=
  (∀ a, t.mem.byte a = s.mem.byte a) ∧ ∀ k a, (t.cluster k).spad.byte a = (s.cluster k).spad.byte a

/-- The step of a lane word: it completes, and group g is y after it, one issue later than x and at the next word, nothing
else of the machine changed. -/
structure LaneStep (i : Instr) (s t : State) (g : Nat) (b : Bool) (x y : Group) : Prop where
  completes : exec i s = .next t
  group : t.group? g = some y
  issued : IssuedAs x y b
  only : OnlyGroup s t g
  bytes : SameBytes s t

/-- The step of a control word: it completes, and group g is y after it, one issue later than x; of the group nothing but its
slots, its stack and its tags differs, and nothing else of the machine changed. -/
structure ControlStep (i : Instr) (s t : State) (g : Nat) (x y : Group) : Prop where
  completes : exec i s = .next t
  group : t.group? g = some y
  rest : y = { x with slotA := y.slotA, slotB := y.slotB, stack := y.stack, nextTag := y.nextTag, outerOf := y.outerOf,
                      issued := x.issued + 1, prods := y.prods, stepsEnd := y.stepsEnd, parked := y.parked, readyAge := y.readyAge }
  only : OnlyGroup s t g
  bytes : SameBytes s t

/-- A transfer of slot b to an address leads into a free or retiring segment that is not the slot's own (R64). -/
def barred (s : State) (x : Group) (b : Bool) (a : BitVec 20) : Bool :=
  match s.ctxOf x with | none => false | some c => segOf (x.slot b).pc != segOf a && c.badTransfer a

/-- The slot v after a transfer of slot b to an address: everything else as in w; its age dates from now (R24), and what the model
notes of a wait is gone with it. -/
def Arrives (s : State) (x : Group) (b : Bool) (v w : Slot) (a : BitVec 20) : Prop :=
  v = { w with pc := a, past := barred s x b a, wait := .run, waitAt := v.waitAt, wants := v.wants, age := v.age }

/-- The slot v at the word after that of w. -/
def GoesOn (v w : Slot) : Prop := v = { w with pc := w.pc + 1, past := w.past || offOf w.pc == 4095, wait := .run, waitAt := v.waitAt, wants := v.wants, age := v.age }

/-- The stack and the tags are those of x. -/
def SameStack (x y : Group) : Prop := y.stack = x.stack ∧ y.nextTag = x.nextTag ∧ y.outerOf = x.outerOf

/-- The stack area of a group in its launch's context area (R415). -/
def stackPlace (s : State) (x : Group) (l : Launch) : Nat := l.area + 0x1000 + s.slotIndex x * (16 * l.stack)

/-- What is spilled of the top entry of the stack can come back: nothing is, or its 16 bytes are mapped (R48, R415). -/
def StackBack (s : State) (x : Group) : Prop :=
  x.stack.length ≤ 4 ∨ ∀ l, s.launch? x.launch = some l → (s.readVirtual x.part (stackPlace s x l + 16 * (x.stack.length - 5)) 16).isSome = true

/-- The group y stands halted by a lane event with this record, its slots where those of x stand; of what it holds only the
latches are lost (R20, R74, R75). -/
structure Halted (x y : Group) (r : Rec) : Prop where
  run : y.run = .halted
  hold : y.evHold = true
  record : y.stop = some r
  slots : y.slotA = x.slotA ∧ y.slotB = x.slotB ∧ y.stack = x.stack
  kept : y.regs = x.regs ∧ y.masks = x.masks ∧ y.fpflags = x.fpflags
  latches : y.latches = []
  count : y.events = x.events + 1

/-- Nothing keeps an event of group g with this cause from its generator's queue: nothing of the group is in flight, its team
has no second copy, the context has the cause's evmask bit set and room for a record (R76, R77, R186, R403). -/
structure Postable (s : State) (g : Nat) (x : Group) (tm : Team) (c : Ctx) (cause : Nat) : Prop where
  team : s.team? x.team = some tm
  ctx : s.ctx? tm.ctx = some c
  sole : tm.copy = .sole
  settled : s.settled g x = true
  handled : c.evmask.getLsbD cause = true
  room : c.events.length < 64

/-- The registers, masks, latches and flags of y are those of x. -/
def SameRegisters (x y : Group) : Prop := y.regs = x.regs ∧ y.masks = x.masks ∧ y.latches = x.latches ∧ y.fpflags = x.fpflags

/-- Nothing keeps a word from taking field (k, a) of lane `src j` for each writing lane j: a lane that is dead or beyond the extent
is not read (R52, R177, R204, R236). -/
structure TakesFrom (s : State) (g : Nat) (x : Group) (ws : List Nat) (k : FieldKind) (a : Nat) (src : Nat → Nat) : Prop where
  inside : ws = [] ∨ Named.outside x (k, a) = false
  latched : ∀ j ∈ ws, src j < x.extent → laneBit x.deadMask (src j) = false → Named.lost x (src j) (k, a) = false
  answered : ∀ r ∈ Named.regs (k, a), s.awaited g x r = false
  clean : ∀ j ∈ ws, src j < x.extent → laneBit x.deadMask (src j) = false → ∀ r ∈ Named.regs (k, a), r * 64 + src j ∉ x.latent

/-- What a lane receives from another: all ones from a dead lane, zero from beyond the extent, else the register as it stands
(R52, R236). -/
def taken (x : Group) (k : FieldKind) (a src : Nat) : Nat :=
  if laneBit x.deadMask src then 2 ^ (32 * fieldRegs k) - 1 else if x.extent ≤ src then 0 else x.read k a src 0

/-- A destination field of a word that may have none. -/
def destOf (on : Bool) (k : FieldKind) (d : Nat) : List Named := if on then [(k, d)] else []

/-- The pair words, by their first half. -/
def pairOf : Instr → Option (PairOp × HalfOps × PairHalf)
  | .pairAdd h q => some (.add, h, q) | .pairSub h q => some (.sub, h, q) | .pairMul h q => some (.mul, h, q)
  | .pairMin h q => some (.min, h, q) | .pairMax h q => some (.max, h, q) | .pairAnd h q => some (.and, h, q)
  | .pairOr h q => some (.or, h, q) | .pairXor h q => some (.xor, h, q) | .pairAndn h q => some (.andn, h, q)
  | .pairShl h q => some (.shl, h, q) | .pairShr h q => some (.shr, h, q) | .pairSra h q => some (.sra, h, q)
  | .pairRot h q => some (.rot, h, q) | .pairMov h q => some (.mov, h, q) | .pairFadd h q => some (.fadd, h, q)
  | .pairFsub h q => some (.fsub, h, q) | .pairFmul h q => some (.fmul, h, q) | .pairFmin h q => some (.fmin, h, q)
  | .pairFmax h q => some (.fmax, h, q) | .pairHadd2 h q => some (.hadd2, h, q) | .pairHmul2 h q => some (.hmul2, h, q)
  | .pairHmax2 h q => some (.hmax2, h, q)
  | _ => none

/-! ### The lane words that compute in registers -/

/-- The operation of each lane word that computes in registers, with the fields of its word: for SRD and LKTAIL where no
linked chain holds them back (R240, R254). -/
def aluOf (s : State) (x : Group) : Instr → Option (Alu × Ops)
  | .add o ty sat => some (alu2 ty 1 false (intAdd ty sat), o)
  | .sub o ty sat => some (alu2 ty 1 false (intSub ty sat), o)
  | .mul o ty => some (alu2 ty 4 false (intMul ty), o)
  | .mulh o ty => some (alu2 ty 4 false (intMulh ty), o)
  | .mad o ty => some (alu3 ty 4 false (intMad ty), o)
  | .abs o ty sat => some (alu1 ty false (intAbs ty sat), o)
  | .min o ty => some (alu2 ty 1 false (intMin ty), o)
  | .max o ty => some (alu2 ty 1 false (intMax ty), o)
  | .and o ty => some (alu2 ty 1 false intAnd, o)
  | .or o ty => some (alu2 ty 1 false intOr, o)
  | .xor o ty => some (alu2 ty 1 false intXor, o)
  | .andn o ty => some (alu2 ty 1 false (intAndn ty), o)
  | .shl o ty => some (alu2 ty 1 true (intShl ty), o)
  | .shr o ty => some (alu2 ty 1 true (intShr ty), o)
  | .sra o ty => some (alu2 ty 1 true (intSra ty), o)
  | .rot o ty => some (alu2 ty 1 true (intRot ty), o)
  | .popc o ty => some (alu1 ty true (popCount (tyBits ty)), o)
  | .clz o ty => some (alu1 ty true (leadingZeros (tyBits ty)), o)
  | .ctz o ty => some (alu1 ty true (trailingZeros (tyBits ty)), o)
  | .brev o ty => some (alu1 ty false (bitReverse (tyBits ty)), o)
  | .bfx o ty sgn => some (alu2 ty 1 true (intBfx ty sgn), o)
  | .bfi o ty => some (alu3 ty 1 true (intBfi ty), o)
  | .sel o ty => some ({ d := dstW ty.wide, a := srcW ty.wide, b := srcW ty.wide, c := .mask,
                         f := fun _ a b c => (if c = 1 then a else b, {}) }, o)
  | .cmp o ty cond v => some ({ d := if v then .dst32 else .dstMask, a := srcW ty.wide, b := srcW ty.wide, c := .seed32, latch := v,
                                f := fun _ a b _ => ((compareInt cond (tyVal ty a) (tyVal ty b)).toNat, {}) }, o)
  | .lea o ty => some ({ d := dstW ty.wide, a := srcW ty.wide, b := .src32, c := .imm, f := fun _ a b c => (intLea ty a b c, {}) }, o)
  | .mov o ty => some (alu1 ty false (fun a => a), o)
  | .ldi o => some ({ d := .dst32, f := fun _ _ _ _ => (o.imm, {}) }, immOps o)
  | .addI o => some (aluI 1 (fun a => intAdd .i32 false a o.imm), immOps o)
  | .mulI o => some (aluI 4 (fun a => intMul .i32 a o.imm), immOps o)
  | .andI o => some (aluI 1 (fun a => intAnd a o.imm), immOps o)
  | .orI o => some (aluI 1 (fun a => intOr a o.imm), immOps o)
  | .xorI o => some (aluI 1 (fun a => intXor a o.imm), immOps o)
  | .shlI o => some (aluI 1 (fun a => intShl .i32 a o.imm), immOps o)
  | .shrI o => some (aluI 1 (fun a => intShr .i32 a o.imm), immOps o)
  | .sraI o => some (aluI 1 (fun a => intSra .i32 a o.imm), immOps o)
  | .minI o => some (aluI 1 (fun a => intMin .i32 a o.imm), immOps o)
  | .maxI o => some (aluI 1 (fun a => intMax .i32 a o.imm), immOps o)
  | .mand o => some (aluMask2 (fun a b => a && b), o)
  | .mor o => some (aluMask2 (fun a b => a || b), o)
  | .mxor o => some (aluMask2 (fun a b => a != b), o)
  | .mandn o => some (aluMask2 (fun a b => a && !b), o)
  | .mpop o => some (aluWhole .dst32 (popCount x.width (x.maskReg o.a).toNat), o)
  | .mfirst o => some (aluWhole .dst32 (maskFirst x.width (x.maskReg o.a)), o)
  | .vtom o => some ({ d := .dstMask, a := .src32, c := .seed32, latch := false, f := fun _ a _ _ => ((a != 0).toNat, {}) }, o)
  | .mtov o => some ({ d := .dst32, a := .mask, f := fun _ a _ _ => (a, {}) }, o)
  | .mtovW o => some (aluWhole .dst64 (x.maskReg o.a).toNat, o)
  | .lktail o ty =>
    if s.tailPending x then none
    else some (aluWhole (dstW ty.wide) (if ty.wide then (s.tailOf x).toNat else (s.tailOf x).toNat % 2 ^ 32), o)
  | .srd o num =>
    if s.chainPending x then none
    else some ({ d := srdDst num, latch := false, f := fun j _ _ _ => (s.special x num j, {}) }, o)
  | .fadd o rnd => some (fpu2 4 (onValues .f32 (fpAdd .f32 rnd)), o)
  | .fsub o rnd => some (fpu2 4 (onValues .f32 (fpSub .f32 rnd)), o)
  | .fmul o rnd => some (fpu2 4 (onValues .f32 (fpMul .f32 rnd)), o)
  | .ffma o rnd => some (fpu3 (fun a b c => fma .f32 rnd (fpValue .f32 a) (fpValue .f32 b) (fpValue .f32 c)), o)
  | .fmin o => some (fpu2 1 (fpPick .f32 true), o)
  | .fmax o => some (fpu2 1 (fpPick .f32 false), o)
  | .fmaxx o ty => some (fpuPair (fpPickPair ty false), o)
  | .fminx o ty => some (fpuPair (fpPickPair ty true), o)
  | .fcmp o ty cond v => some ({ d := if v then .dst32 else .dstMask, a := .src32, b := .src32, c := .seed32, latch := v,
                                 f := fun _ a b _ => ((fpCompare ty cond a b).1.toNat, (fpCompare ty cond a b).2) }, o)
  | .frnd o rnd ex => some (fpu1 4 (fpRound rnd ex), o)
  | .frcp o rnd => some (fpu1 8 (fpRcp rnd), o)
  | .frsq o rnd => some (fpu1 8 (fpRsq rnd), o)
  | .fsqrt o rnd => some (fpu1 8 (fpSqrt rnd), o)
  | .fexp2 o rnd => some (fpu1 8 (fpExp2 rnd), o)
  | .flog2 o rnd => some (fpu1 8 (fpLog2 rnd), o)
  | .ftanh o rnd => some (fpu1 8 (fpTanh rnd), o)
  | .fcvt o dt src rnd => some (fpu1 4 (fcvt dt src rnd), o)
  | .f2i o dt src rnd => some ({ d := dstW dt.wide, a := .src32, c := seedW dt.wide, cls := 4, f := fun _ a _ _ => fpToInt dt src rnd a }, o)
  | .i2f o dt src rnd => some ({ d := .dst32, a := srcW src.wide, c := .seed32, cls := 4, f := fun _ a _ _ => intToFp dt src rnd a }, o)
  | .hadd2 o ty rnd => some (fpu2 4 (onHalves2 ty (fpAdd ty rnd)), o)
  | .hmul2 o ty rnd => some (fpu2 4 (onHalves2 ty (fpMul ty rnd)), o)
  | .hfma2 o ty rnd =>
    some (fpu3 (fun a b c => onHalves (fun h => fma ty rnd (fpValue ty (half a h)) (fpValue ty (half b h)) (fpValue ty (half c h)))), o)
  | .hmax2 o ty => some (fpu2 1 (fun a b => onHalves (fun h => fpPick ty false (half a h) (half b h))), o)
  | .pack2 o ty rnd => some (fpu2 4 (fpPack ty rnd), o)
  | .unpk2 o ty => some ({ d := .dst64, a := .src32, c := .seed64, cls := 4, f := fun _ a _ _ => fpUnpack ty a }, o)
  | .cvenc o dim => some ({ d := .dst64, a := .src128, c := .seed64, cls := 4, f := fun _ a _ _ => (curveEncode dim a, {}) }, o)
  | .cvdec o dim => some ({ d := .dst128, a := .src64, c := .seed64, cls := 4, f := fun _ a _ _ => (curveDecode dim a, {}) }, o)
  | .cvadd o dim sat => some ({ d := .dst128, a := .src64, b := .src128, c := .seed64, cls := 4, f := fun _ a b _ => (curveAdd dim sat a b, {}) }, o)
  | .cvcmp o dim cond v =>
    some ({ d := if v then .dst32 else .dstMask, a := .src64, b := .src64, c := if cond = .c6 ∨ cond = .c7 then .src64 else .seed32, latch := v,
            f := fun _ a b c => ((curveCompare dim cond a b c).toNat, {}) }, o)
  | .cvnext o dim => some ({ d := .dst128, a := .src64, b := .src64, c := .src64, cls := 4, f := fun _ a b c => (curveNextResult dim a b c, {}) }, o)
  | .cvlvl o dim => some ({ d := .dst32, a := .src64, b := .src64, c := .seed32, cls := 4, f := fun _ a b _ => (curveLevel dim a b, {}) }, o)
  | _ => none

/-! ### Numbers (R148 to R159, R173, R174) -/

/-- The sign of a value. -/
def signOf : FVal → Bool | .fin neg _ _ => neg | .inf neg => neg | _ => false

/-- A finite value as a number. -/
def finite : FVal → ℚ | .fin neg m e => (if neg then -1 else 1) * (m : ℚ) * 2 ^ e | _ => 0

/-- A value that is no NaN, in the order of the numbers, infinities at its ends. -/
def ordered : FVal → WithBot (WithTop ℚ)
  | .inf true => ⊥
  | .inf false => ((⊤ : WithTop ℚ) : WithBot (WithTop ℚ))
  | v => ((finite v : WithTop ℚ) : WithBot (WithTop ℚ))

/-- u is below v in the order of R151, where −0 is below +0. -/
def Below (u v : FVal) : Prop := ordered u < ordered v ∨ (ordered u = ordered v ∧ signOf u = true ∧ signOf v = false)

/-- The value is the finite one of this sign and magnitude. -/
def IsFinite (v : FVal) (neg : Bool) (x : ℚ) : Prop := ∃ m e, v = .fin neg m e ∧ (m : ℚ) * 2 ^ e = x

/-- The multiple n · 2^q is what a mode makes of a magnitude (R149). The magnitude is given by how a number compares with it. -/
def Picks (mode : Rnd) (neg : Bool) (c : ℚ → Ordering) (n : Nat) (q : Int) : Prop :=
  let down : Prop := c (n * 2 ^ q) ≠ .gt ∧ c ((n + 1) * 2 ^ q) = .gt
  let up : Prop := c (n * 2 ^ q) ≠ .lt ∧ (n = 0 ∨ c ((n - 1) * 2 ^ q) = .lt)
  match mode with
  | .rz => down
  | .rp => if neg then down else up
  | .rm => if neg then up else down
  | .rn => c ((n + 1 / 2) * 2 ^ q) ≠ .lt ∧ (n = 0 ∨ c ((n - 1 / 2) * 2 ^ q) ≠ .gt)
      ∧ (c ((n + 1 / 2) * 2 ^ q) = .eq ∨ c ((n - 1 / 2) * 2 ^ q) = .eq → n % 2 = 0)

/-- A magnitude has p significant bits down to the one of weight 2^q. -/
def Leads (c : ℚ → Ordering) (p : Nat) (q : Int) : Prop := c (2 ^ (q + p)) = .gt ∧ c (2 ^ (q + p - 1)) ≠ .gt

/-- The mode in which a format rounds: E4M3 and E5M2 to nearest, whatever a word names (R155). -/
def modeFor (t : Ty) (mode : Rnd) : Rnd := if isBig t then mode else .rn

/-- A non-zero magnitude rounded once into a binary format, with its flags (R149, R150, R155): to p bits, fewer where the format has no
smaller weight; past the largest finite value, to the infinity or that value as the mode says, in E4M3 to ±448. -/
def RoundedBinary (t : Ty) (mode : Rnd) (neg : Bool) (c : ℚ → Ordering) (r : Nat × Fl) : Prop :=
  let f := tyFmt t
  let sign := if neg then 2 ^ (f.bits - 1) else 0
  ∃ (n : Nat) (q : Int), Picks (modeFor t mode) neg c n q ∧ f.qmin ≤ q ∧ (Leads c f.p q ∨ (q = f.qmin ∧ c (2 ^ (q + f.p)) = .gt))
    ∧ (let past : Bool := if t = .e4m3 then decide ((448 : ℚ) < n * 2 ^ q)
         else decide ((2 : ℚ) ^ (f.qmin + f.p - 2 + ((2 ^ (f.bits - f.p) - 1 : Nat) : Int)) ≤ n * 2 ^ q)
       if past then
         r.2 = { of := true, nx := true }
         ∧ r.1 = sign + (if t = .e4m3 then 0x7E
             else if modeFor t mode = .rn ∨ (modeFor t mode = .rp ∧ neg = false) ∨ (modeFor t mode = .rm ∧ neg = true) then f.infBits else f.infBits - 1)
       else
         r.1 < 2 ^ f.bits ∧ IsFinite (fpValue t r.1) neg (n * 2 ^ q)
         ∧ r.2.iv = false ∧ r.2.dz = false ∧ r.2.of = false ∧ r.2.nx = decide (c (n * 2 ^ q) ≠ .eq)
         ∧ ∀ n' q', Leads c f.p q' → Picks (modeFor t mode) neg c n' q' →
             r.2.uf = (r.2.nx && decide ((n' : ℚ) * 2 ^ q' < 2 ^ (f.qmin + f.p - 1))))

/-- The magnitude of a body of KT8 or KT8W. -/
def bodyValue (es b : Nat) : ℚ := ((taperedBody es b).1 : ℚ) * 2 ^ (taperedBody es b).2

/-- A non-zero magnitude converted into KT8 or KT8W (R159). -/
def RoundedBody (es : Nat) (neg : Bool) (c : ℚ → Ordering) (r : Nat × Fl) : Prop :=
  let sign := if neg then 128 else 0
  if c (bodyValue es 127) ≠ .gt then r = (sign + 127, if c (bodyValue es 127) = .eq then {} else { of := true, nx := true })
  else ∃ b, b ≤ 127
    ∧ (b = 127 ∨ c ((bodyValue es b + bodyValue es (b + 1)) / 2) ≠ .lt) ∧ (b = 0 ∨ c ((bodyValue es (b - 1) + bodyValue es b) / 2) ≠ .gt)
    ∧ ((b ≠ 127 ∧ c ((bodyValue es b + bodyValue es (b + 1)) / 2) = .eq) ∨ (b ≠ 0 ∧ c ((bodyValue es (b - 1) + bodyValue es b) / 2) = .eq) → b % 2 = 0)
    ∧ r = if b = 0 then (0, { uf := true, nx := true }) else (sign + b, { nx := decide (c (bodyValue es b) ≠ .eq) })

/-- A non-zero magnitude rounded once into any format (R161). -/
def Rounded (t : Ty) (mode : Rnd) (neg : Bool) (c : ℚ → Ordering) (r : Nat × Fl) : Prop :=
  if tyTapered t then RoundedBody (taperedEs t) neg c r else RoundedBinary t mode neg c r

/-- A number rounded once into a format. -/
def RoundedTo (t : Ty) (mode : Rnd) (x : ℚ) (r : Nat × Fl) : Prop := Rounded t mode (decide (x < 0)) (fun y => cmp y |x|) r

/-- The sum of two numbers with their signs, rounded once; a zero sum of opposite signs is +0, in mode rm −0 (R259). -/
def SumOf (t : Ty) (mode : Rnd) (s₁ : Bool) (x₁ : ℚ) (s₂ : Bool) (x₂ : ℚ) (r : Nat × Fl) : Prop :=
  if x₁ + x₂ = 0 then r = ((tyFmt t).signBit (if s₁ = s₂ then s₁ else decide (mode = .rm)), {}) else RoundedTo t mode (x₁ + x₂) r

/-- The bits of a field of a pack (R174). -/
def fieldBits (d : Nat) : Nat := if d = 1 then 64 else if d ≤ 4 then 32 else 16

/-- Axis a of a curve word: its bit i is bit i · d + a of the word (R173). -/
def axisOf (d w a : Nat) : Nat := ((List.range (64 / d)).map (fun i => (w.testBit (i * d + a)).toNat * 2 ^ i)).sum

/-- A well-formed word from z on that lies in a box (R318). -/
def InRange (d lo hi z w : Nat) : Prop :=
  w < 2 ^ (d * (64 / d)) ∧ z % 2 ^ (d * (64 / d)) ≤ w ∧ ∀ a, a < d → axisOf d lo a ≤ axisOf d w a ∧ axisOf d w a ≤ axisOf d hi a

/-- A word with an unused bit set (R173). -/
def unusedSet (d w : Nat) : Bool := decide (w / 2 ^ (d * (64 / d)) ≠ 0)

/-! ### Accesses -/

/-- The plan of ARRIVE: one update, by its lowest writing lane, for all of them (R294). -/
def arrivePlan (o : Ops) (unit : Nat) (b : Bool) (x : Group) : MemPlan :=
  { srcs := [addrNamed true o.a, (.src32, o.b)], dst := destOf o.k .dst32 o.d, spad := true,
    kind := .arrive (lanesMask (x.writers b o.p o.pn)), sc := .ens, od := .rel, atomic := true, whole := true,
    d := if o.k then some o.d else none,
    lanes := oncePart x o b (fun l => lanePartOf l (x.address true o.a (memOffset o.c unit) l) 16 true (x.read .src32 o.b l 0) 0) }

/-- What each lane word that accesses memory by a plan asks of each writing lane: its address, size, data and rights, and what
of the group it names. The full/empty loads, RED with `.ord`, BINIT and BWAIT have more to them, and their own statements. -/
def planOf (b : Bool) (x : Group) : Instr → Option MemPlan
  | .ld o u ty sc od => some (loadPlan false o u ty sc od b x)
  | .st o u ty sc od => some (storePlan false o u ty sc od b x)
  | .lds o u ty sc od .plain => some (loadPlan true o u ty sc od b x)
  | .sts o u ty sc od fe =>
    some (if fe then { storePlan true o u ty .ens od b x with kind := .stsFe ty.bytes } else storePlan true o u ty sc od b x)
  | .atom o ty sc od sp => some (rmwPlan sp o ty.bytes (.atom o.c ty) sc od (srcW ty.wide) .unused (dstW ty.wide) b x)
  | .acas o ty sc od sp => some (rmwPlan sp o ty.bytes (.cas ty) sc od (srcW ty.wide) (srcW ty.wide) (dstW ty.wide) b x)
  | .abfi o ty sc od sp => some (rmwPlan sp o ty.bytes (.bfi ty) sc od (srcW ty.wide) (srcW ty.wide) (dstW ty.wide) b x)
  | .affcs o sc od sp => some (rmwPlan sp o 8 .ffcs sc od .unused .unused .dst32 b x)
  | .aplset o sc od sp => some (rmwPlan sp o 8 .plset sc od .src64 .src32 .dst128 b x)
  | .red o ty sc od sp false => some (rmwPlan sp o ty.bytes (.red o.c ty) sc od (srcW ty.wide) .unused .unused b x)
  | .feset o u => some (fePlan true o u b x)
  | .feclr o u => some (fePlan false o u b x)
  | .arrive o u => some (arrivePlan o u b x)
  | _ => none

/-- Every lane's part passes its checks and lies at the place given for it: in the scratchpad by R88; in device memory by the
form of R81, a translation, and the grant of R426; another device is reached by a port, or is unreachable already (R435). -/
structure Reaches (s : State) (x : Group) (p : MemPlan) (place : Nat → Place) : Prop where
  spad : p.spad = true → ∀ a ∈ p.lanes, s.spadCheck x a.addr a.size (Nat.min p.align a.size) p.whole = .inl (place a.lane)
  dev : p.spad = false → ∀ a ∈ p.lanes, deviceCheck a.addr a.size = none ∧
    ∃ phys chk, s.translate x.ckey a.addr a.write = .hit phys chk ∧ s.unitMay x.part phys a.write = true
      ∧ s.servedAt phys = place a.lane
      ∧ ((s.part x.part).v128 = true → (∃ ty, p.kind = .red 9 ty) → p.ord = false → s.windowed phys = false)
  ports : ∀ a ∈ p.lanes, ∀ phys, place a.lane = .remote phys →
    s.unreachable.contains (fabricDevice phys) = true ∨ s.portsTo (fabricDevice phys) ≠ []

/-- No earlier access or fence of its group holds the access back, and it is compared with no second copy (R180, R277, R285). -/
structure Unordered (s : State) (g : Nat) (x : Group) (p : MemPlan) : Prop where
  held : s.memHeld g x = false
  sole : s.pairOf? x.team = none

/-- The lanes of an access as they leave the group. -/
def MemPlan.sent (p : MemPlan) (place : Nat → Place) : List (Nat × Nat × Place × Nat × QWord × QWord) :=
  p.lanes.map (fun a => (a.lane, a.addr, place a.lane, a.size, a.data, a.data2))

/-- From s to t an access of group g by slot b leaves, as the plan says: the group is one issue later; the access stands last in
flight, with its parts, not yet performed; no byte has changed. -/
structure AccessSent (i : Instr) (s t : State) (g : Nat) (b : Bool) (x y : Group) (p : MemPlan) (place : Nat → Place) (op : MemOp) :
    Prop where
  completes : exec i s = .next t
  group : t.group? g = some y
  issued : IssuedAs { x with clk := y.clk, rels := if op.judged ∧ p.kind.releases p.sc p.od then x.rels + 1 else x.rels } y b
  registers : SameRegisters x y
  flight : t.flight = s.flight ++ [op]
  parts : op.lanes.map (fun a => (a.lane, a.addr, a.place, a.size, a.data, a.data2)) = MemPlan.sent p place
  waits : op.performed = false ∧ ∀ a ∈ op.lanes, a.done = false
  kind : op.kind = p.kind ∧ op.d = p.d ∧ op.scope = p.sc ∧ op.order = p.od ∧ op.atomic = p.atomic
  source : op.agent = .group g ∧ op.uid = x.uid ∧ op.slot = b
  others : ∀ k, k ≠ g → t.group? k = s.group? k
  bytes : SameBytes s t

/-- Slot b of group g waits at its word, with nothing else of the machine's memory, registers or other groups changed (R22). -/
structure WaitsAt (i : Instr) (s t : State) (g : Nat) (b : Bool) (x y : Group) (w : Wait) : Prop where
  completes : exec i s = .next t
  group : t.group? g = some y
  wait : (y.slot b).wait = w
  place : (y.slot b).pc = (x.slot b).pc ∧ (y.slot b).mask = (x.slot b).mask
  other : y.slot (!b) = x.slot (!b)
  registers : SameRegisters x y
  issued : y.issued = x.issued
  others : ∀ k, k ≠ g → t.group? k = s.group? k
  bytes : SameBytes s t

/-- The plan of BINIT: its lowest writing lane alone (R274, R293). -/
def binitPlan (o : Ops) (unit : Nat) (mode : Bool) (b : Bool) (x : Group) : MemPlan :=
  { srcs := [addrNamed true o.a, (.src32, o.b)], spad := true, kind := .binit mode, sc := .ens, od := .rlx, atomic := true,
    whole := true,
    lanes := oncePart x o b (fun l => lanePartOf l (x.address true o.a (memOffset o.c unit) l) 16 true (x.read .src32 o.b l 0) 0) }

/-- The plan of CALLI.m: every lane of the slot loads its target (R246). -/
def calliMPlan (o : Ops) (unit : Nat) (b : Bool) (x : Group) : MemPlan :=
  { srcs := [(.src64, o.a)], spad := false, kind := .target, d := some 241,
    lanes := (x.writers b 0 false).map (fun j => lanePartOf j (x.address false o.a (memOffset o.c unit) j) 4 false 0 0) }

/-- The step of a word that acts once and on its group alone: the group goes on, one issue later, with what `x'` says of it. -/
structure OnceStep (i : Instr) (s t : State) (g : Nat) (b : Bool) (x' y : Group) : Prop where
  completes : exec i s = .next t
  group : t.group? g = some y
  issued : IssuedAs x' y b
  others : ∀ k, k ≠ g → t.group? k = s.group? k

/-- An access in flight that may take its place, for all of its lanes, without a race (R121, R136); its group stands at no event, and
no team waits for an access to leave. -/
structure TakesPlace (s : State) (id : Nat) (m : MemOp) (lanes : DWord) : Prop where
  op : s.op? id = some m
  ready : s.homeReady m = true
  fresh : ∀ a ∈ m.lanes, a.done = false
  parts : m.lanes ≠ []
  all : m.judged = true → ∀ a ∈ m.lanes, laneBit lanes a.lane = true
  norace : m.judged = false → ∀ g x, s.opGroup m = some (g, x) → s.raced x m.accs = []
  clean : ∀ a ∈ m.lanes, s.placePoisoned a.place a.size = false
  sole : m.twin = none
  here : ∀ p ∈ s.teams, p.2.exited = false
  goes : ∀ g x, s.opGroup m = some (g, x) → x.stop = none ∧ x.run ≠ .exited
  stay : ∀ p ∈ s.teams, p.2.ensemble.isSome = true → s.emptied p.1 = false

/-! ### The matrix path -/

/-- The fields of a matrix word, and what it takes from each lane; the record and the base from the lowest alone (R302, R308 to R315). -/
def mxPlanOf (b : Bool) (x : Group) : Instr → Option (Ops × MxPlan)
  | .mxplane o src bside =>
    some (o, { op := .plane src bside, srcs := [(.src32, o.b), (.src64, o.c)], once := [(.src64, o.a)], rec_ := fun l => x.read .src64 o.a l 0,
               row := fun j => { lane := j, addr := x.read .src32 o.b j 0, second := x.read .src64 o.c j 0 } })
  | .mxldb o =>
    some (o, { op := .ldb, srcs := [], once := [(.src64, o.a), (.src32, o.c)], rec_ := fun l => x.read .src64 o.a l 0,
               base := fun l => x.read .src32 o.c l 0 })
  | .mxmul o tile hb =>
    some (o, { op := .mul tile hb, srcs := [(.src32, o.b)], once := (.src64, o.a) :: (if hb then [] else [(.src32, o.c)]),
               rec_ := fun l => x.read .src64 o.a l 0, base := fun l => if hb then 0 else x.read .src32 o.c l 0,
               row := fun j => { lane := j, addr := x.read .src32 o.b j 0 } })
  | .mxbat o tile =>
    some (o, { op := .bat tile, srcs := [(.src32, o.b)], once := [(.src64, o.a), (.src32, o.c)], rec_ := fun l => x.read .src64 o.a l 0,
               base := fun l => x.read .src32 o.c l 0, row := fun j => { lane := j, addr := x.read .src32 o.b j 0 } })
  | .mxzero o tile => some (o, { op := .zero tile, srcs := [] })
  | .mxdrain o tile ty img => some (o, mxMovePlan (.drain tile ty img) o b x)
  | .mxfill o tile ty img => some (o, mxMovePlan (.fill tile ty img) o b x)
  | .mxchk o tile clr => some (o, { op := .chk tile clr, srcs := [], dst := [(.dst32, o.d)], d := o.d })
  | _ => none

/-- The size of the elements that a matrix instruction moves, if it moves any. -/
def mxMoves : MxOp → Option Nat
  | .drain _ ty img => some (mxElemSize ty img)
  | .fill _ ty img => some (mxElemSize ty img)
  | _ => none

/-- The instruction r is the next one that the engine of a cluster performs, nothing is held back, and no team has exited or has
waited to exit until the engine is done. -/
structure EngineTurn (s : State) (ck : Nat) (r : MxReq) (rest : List MxReq) (tm : Team) : Prop where
  runs : s.enginesRun ck = true
  queue : (s.cluster ck).mxQ = r :: rest
  held : (s.cluster ck).mxHeld = []
  once : ∀ q ∈ rest, q.id ≠ r.id
  team : s.team? r.team = some tm
  here : r.ckey = ck
  stay : ∀ p ∈ s.teams, p.2.exited = false ∧ (p.2.ensemble.isSome = true → s.emptied p.1 = false)

/-- No group of the slice of the instruction's group holds a B in the slice's buffer but that group itself, and that group's is not in
its spill slot (R309). -/
def HasBuffer (s : State) (r : MxReq) : Prop :=
  ∀ p ∈ s.groups, s.mxSlice r = some p.2.skey → if p.2.uid = r.uid then p.2.heldSpilled = false else p.2.heldB = none ∨ p.2.heldSpilled = true

/-- The bytes at n offsets of an allocation from `off` on, as one number. -/
def bytesAt (s : State) (ck : Nat) (a : Alloc) (off n : Nat) : Nat :=
  (List.range n).foldr (fun i v => ((s.cluster ck).spad.byte (a.place (off + i))).toNat + 256 * v) 0

/-! ### The prompter -/

/-- Nothing keeps context c, which is x, from executing a word that is permitted in it and names these registers (R57, R329). -/
structure MayExecute (s : State) (c : Nat) (x : Ctx) (regs : List Nat) : Prop where
  turn : s.cur = .prompter c
  ctx : s.ctx? c = some x
  may : s.ctxMay c x = true
  answered : ∀ r ∈ regs, s.ctxAwaits c x r = false

/-- The step of a prompter word that acts on its context alone: it completes, and the context is y. -/
structure CtxStep (i : Instr) (s t : State) (c : Nat) (y : Ctx) : Prop where
  completes : exec i s = .next t
  ctx : t.ctx? c = some y
  others : ∀ k, k ≠ c → t.ctx? k = s.ctx? k
  rest : t = { s with ctxs := t.ctxs }

/-- The context x at its next word, one instruction later. -/
def Ctx.after (x : Ctx) : Ctx := { x with pc := x.pc + 1, wait := .run, stalled := false, instrs := x.instrs + 1 }

/-- The context x with a register written; g0 discards the write (R326). -/
def Ctx.put (x : Ctx) (d : Nat) (v : DWord) : Ctx := if d = 0 then x else { x with regs := Sp.put 0 x.regs d v }

/-- The value of a prompter register: g0 reads zero (R326). -/
def Ctx.val (x : Ctx) (n : Nat) : DWord := if n = 0 then 0 else Sp.getD x.regs n 0

/-- The registers, the destination and the result of each prompter word that computes in registers (R330). -/
def prAluOf (x : Ctx) : Instr → Option (List Nat × Nat × DWord)
  | .prAdd o => some ([o.a, o.b], o.d, Ctx.val x o.a + Ctx.val x o.b)
  | .prSub o => some ([o.a, o.b], o.d, Ctx.val x o.a - Ctx.val x o.b)
  | .prMul o => some ([o.a, o.b], o.d, Ctx.val x o.a * Ctx.val x o.b)
  | .prAddi o => some ([o.a], o.d, Ctx.val x o.a + (BitVec.ofNat 32 o.imm).signExtend 64)
  | .prMulh o true => some ([o.a, o.b], o.d, BitVec.ofNat 64 ((Ctx.val x o.a).toNat * (Ctx.val x o.b).toNat / 2 ^ 64))
  | .prMulh o false => some ([o.a, o.b], o.d, BitVec.ofInt 64 ((Ctx.val x o.a).toInt * (Ctx.val x o.b).toInt / 2 ^ 64))
  | .div o true => some ([o.a, o.b], o.d, if Ctx.val x o.b = 0 then BitVec.allOnes 64 else Ctx.val x o.a / Ctx.val x o.b)
  | .div o false =>
    some ([o.a, o.b], o.d, if Ctx.val x o.b = 0 then BitVec.allOnes 64 else BitVec.ofInt 64 ((Ctx.val x o.a).toInt.tdiv (Ctx.val x o.b).toInt))
  | .rem o true => some ([o.a, o.b], o.d, if Ctx.val x o.b = 0 then Ctx.val x o.a else Ctx.val x o.a % Ctx.val x o.b)
  | .rem o false =>
    some ([o.a, o.b], o.d, if Ctx.val x o.b = 0 then Ctx.val x o.a else BitVec.ofInt 64 ((Ctx.val x o.a).toInt.tmod (Ctx.val x o.b).toInt))
  | .prAnd o => some ([o.a, o.b], o.d, Ctx.val x o.a &&& Ctx.val x o.b)
  | .prOr o => some ([o.a, o.b], o.d, Ctx.val x o.a ||| Ctx.val x o.b)
  | .prXor o => some ([o.a, o.b], o.d, Ctx.val x o.a ^^^ Ctx.val x o.b)
  | .prShl o => some ([o.a, o.b], o.d, Ctx.val x o.a <<< ((Ctx.val x o.b).toNat % 64))
  | .prShr o => some ([o.a, o.b], o.d, Ctx.val x o.a >>> ((Ctx.val x o.b).toNat % 64))
  | .prSra o => some ([o.a, o.b], o.d, (Ctx.val x o.a).sshiftRight ((Ctx.val x o.b).toNat % 64))
  | .slt o => some ([o.a, o.b], o.d, if (Ctx.val x o.a).toInt < (Ctx.val x o.b).toInt then 1 else 0)
  | .sltn o => some ([o.a, o.b], o.d, if (Ctx.val x o.a).toNat < (Ctx.val x o.b).toNat then 1 else 0)
  | .li o => some ([], o.d, (BitVec.ofNat 32 o.imm).signExtend 64)
  | .lih o => some ([], o.d, (Ctx.val x o.d &&& 0xFFFFFFFF) ||| (BitVec.ofNat 64 o.imm <<< 32))
  | _ => none

/-- A launch has ended with a status (R78). -/
def Ended (t : State) (l status : Nat) : Prop := ∃ k, t.launch? l = some k ∧ k.killed = true ∧ k.status = status

/-- An access of context c leaves, as told: the context goes on at its next word; the access stands last in flight, not yet
performed; no byte has changed. -/
structure CtxAccess (i : Instr) (s t : State) (c : Nat) (x y : Ctx) (op : MemOp) (kind : AccKind) (place : Place) (size : Nat)
    (v : DWord) (d : Option Nat) (m : PMem) : Prop where
  completes : exec i s = .next t
  ctx : t.ctx? c = some y
  after : y = { Ctx.after x with clk := y.clk }
  flight : t.flight = s.flight ++ [op]
  part : op.lanes.map (fun a => (a.place, a.size, a.data, a.done)) = [(place, size, BitVec.ofNat 128 (v.toNat % 2 ^ (8 * size)), false)]
  kind_ : op.kind = kind ∧ op.d = d ∧ op.scope = m.scope ∧ op.order = m.order ∧ op.agent = .ctx c ∧ op.uid = x.uid
  waits : op.performed = false
  others : ∀ k, k ≠ c → t.ctx? k = s.ctx? k
  groups : t.groups = s.groups
  bytes : SameBytes s t

/-- The step of a composition word that is done: it completes, the context is y, and the composition unit is free (R63). -/
structure ComposeStep (i : Instr) (s t : State) (c : Nat) (y : Ctx) : Prop where
  completes : exec i s = .next t
  ctx : t.ctx? c = some y
  others : ∀ k, k ≠ c → t.ctx? k = s.ctx? k
  unit : ∀ k, t.cluster k = if k = c / 8 then { s.cluster k with compHolder := none } else s.cluster k
  rest : t = { s with ctxs := t.ctxs, clusters := t.clusters }

/-- The context x with words queued at offsets of its open segment g, whose length covers them (R61, R337). -/
def Ctx.queued (x : Ctx) (g : Nat) (ws : List EmitWord) : Ctx :=
  { x with emitQ := x.emitQ ++ ws, segs := Sp.modify x.segs g (fun e => { e with len := ws.foldl (fun n w => max n (w.off + 1)) e.len }) }

/-- No slot of a group of context c's kernel stands in a segment, or waits for it, unless it is listed: what SEGMENT_RELEASE
asks (R67). -/
def NoneStandsIn (s : State) (c seg : Nat) : Prop :=
  ∀ p ∈ s.groups, ∀ tm, s.team? p.2.team = some tm → tm.ctx = c → ∀ b, (p.2.slot b).mask ≠ 0 → segOf (p.2.slot b).pc ≠ seg

/-- Every group of team k stands at its start: slot A at an address with every lane below its extent that is not dead, slot B
free, in the wings (R44, R70). -/
def StartedAt (s t : State) (k : Nat) (a : BitVec 20) : Prop :=
  ∀ g x, s.group? g = some x → x.team = k → ∃ y, t.group? g = some y ∧ y.started = true ∧ y.parked = false ∧ SameRegisters x y
    ∧ y.slotA = { pc := a, mask := lanesBelow x.extent &&& ~~~x.deadMask, age := s.sliceNow x } ∧ y.slotB = {}

/-- The designator v names for context c, which is x, the group g of team k, which is y and stands halted by an event that is
posted, for the system context also by one that is not yet; the context may control it, and the team has no second copy (R342). -/
structure Controlled (s : State) (c : Nat) (x : Ctx) (v : DWord) (g : Nat) (y : Group) (k : Nat) (tm : Team) : Prop where
  team : s.teamAt (c / 8) (v.toNat / 2 ^ 48 % 256) = some (k, tm)
  names : s.groupOf k (v.toNat / 2 ^ 43 % 32) = some g
  group : s.group? g = some y
  ofTeam : s.team? y.team = some tm
  stopped : y.evHold = true ∧ y.run = .halted ∧ ((y.stop ≠ none ∧ y.posted = true) ∨ x.num = 7)
  generator : x.num < 6 → tm.ctx = c
  assist : x.num = 6 → y.assist = true
  sole : tm.copy = .sole ∧ s.pairOf? y.team = none

/-- The group y after its event is disposed of: the hold is clear, by the system context the other holds as well, and with no hold
left the group is ready in the wings (R23, R77, R405). -/
structure Released (x : Ctx) (y z : Group) : Prop where
  event : z.evHold = false ∧ z.stop = none ∧ z.posted = false ∧ z.assist = false
  debug : z.dbgHold = (y.dbgHold && x.num != 7)
  held : z.trHold = (y.trHold && x.num != 7)
  goes : z.trHold = false → z.dbgHold = false → z.run = .active ∧ z.onStage = false ∧ z.parked = false
  registers : SameRegisters y z

/-- The n bytes at address va of a partition lie, writable, in device memory from k on, whatever those n bytes hold: they are no
part of the tables that lead to them. -/
def MapsTo (s : State) (part va n k : Nat) : Prop :=
  ∀ j m, j < n → (∀ b, (b < k ∨ k + n ≤ b) → m.byte b = s.mem.byte b) → ({ s with mem := m } : State).physOf part (va + j) true = some (k + j)

/-- Word 0 of the completion record of a launch with a status and a count of dead lanes (R389). -/
def doneWord (id : Word) (status dead : Nat) : Nat :=
  (2 ^ 63 + (if 0 < dead then 2 ^ 62 else 0) + status * 2 ^ 48 + min dead 0xFFFF * 2 ^ 32 + id.toNat) % 2 ^ 64

/-- The right of a host port to write at a control-space offset, its port not frozen, and hosts served (R426, R434, R442, R443). -/
structure HostWrites (s : State) (port off : Nat) : Prop where
  served : 7 ≤ s.house.step
  may : s.hostMay port off true = true
  free : (s.port port).frozen = false

/-- The instruction of a turn that a unit takes of itself: the one of its name. The service of SYSC's other codes has none. -/
def runsAs (e : Own) (i : Instr) : Prop :=
  match e with
  | .rgrowReadmit cl sl => i = .rgrowReadmit cl sl | .stageSwap cl sl => i = .stageSwap cl sl | .sliceIssue cl sl => i = .sliceIssue cl sl
  | .requestEngineTake cl => i = .requestEngineTake cl | .matrixEngineStep cl => i = .matrixEngineStep cl
  | .scriptStoreDrain cl => i = .scriptStoreDrain cl | .tlbinvComplete cl => i = .tlbinvComplete cl | .debugHalt g => i = .debugHalt g
  | .eventPostDeferred g => i = .eventPostDeferred g | .dependenceResolved g => i = .dependenceResolved g | .stageEligible g => i = .stageEligible g
  | .mailboxCycle team => i = .mailboxCycle team | .linkedChainEnd team group => i = .linkedChainEnd team group
  | .compareConfirm team group => i = .compareConfirm team group | .cueConfirmed team => i = .cueConfirmed team
  | .gatherRequest id => i = .gatherRequest id | .sendDelivery id start n => i = .sendDelivery id start n
  | .copyDelivery id start n => i = .copyDelivery id start n | .homeAccess id lanes => i = .homeAccess id lanes
  | .memoryReply id => i = .memoryReply id | .storeAck id => i = .storeAck id | .rputArrival id => i = .rputArrival id
  | .walkComplete die => i = .walkComplete die | .sealComplete c => i = .sealComplete c | .segmentRelease c seg => i = .segmentRelease c seg
  | .syscPlain _ => False | .syscLog c => i = .syscLog c | .syscInfo c => i = .syscInfo c | .syscNotify c => i = .syscNotify c | .descriptorTake q => i = .descriptorTake q
  | .eventWordSet q => i = .eventWordSet q | .placementStep => i = .placementStep | .ordClose l => i = .ordClose l
  | .launchComplete l => i = .launchComplete l | .swapFlip part => i = .swapFlip part | .swapExchangeDone part => i = .swapExchangeDone part
  | .swapBackgroundDone part bad lost => i = .swapBackgroundDone part bad lost | .cutComplete part => i = .cutComplete part
  | .timesliceQuantum phys => i = .timesliceQuantum phys
  | .retireComplete cl => i = .retireComplete cl | .faultInjectionFire idx => i = .faultInjectionFire idx

/-- The carry and the restart flag of a linked chain before lane j: at first what the hand-on queue gave; a writing lane leaves
its result as the carry and the flag cleared; another lane leaves the carry, and the flag set if the break mask names it (R35). -/
def linkAt (al : Alu) (o : Ops) (x : Group) (ws : List Nat) (carry : DWord) (restart : Bool) : Nat → DWord × Bool
  | 0 => (carry, restart)
  | j + 1 =>
    let l := linkAt al o x ws carry restart j
    if j ∈ ws then
      (linkValue (al.at_ o x j
        (if l.2 || laneBit x.lbm j then BitVec.ofNat 64 (if al.c.isSeed then x.read al.c o.c j 0 else 0) else l.1)).1, false)
    else (l.1, l.2 || laneBit x.lbm j)

/-- The link value of lane j: its seed, or zero where the entry has none, when the flag is set or the break mask names the
lane; else the carry (R35). -/
def linkValueAt (al : Alu) (o : Ops) (x : Group) (ws : List Nat) (carry : DWord) (restart : Bool) (j : Nat) : DWord :=
  let l := linkAt al o x ws carry restart j
  if l.2 || laneBit x.lbm j then BitVec.ofNat 64 (if al.c.isSeed then x.read al.c o.c j 0 else 0) else l.1

end Sys2Proof.Claims
end

