-- ==== Sys2Proof/Safety.lean ====
section
/-! DEFINITION. What counts as a safe run. -/

namespace Sys2Proof.Safety

open Sys2Proof.Machine

/-- A step is safe when the machine goes on: it answers a next state, no fault and no refusal. -/
def SafeStep (s : State) : Prop := ∃ t, step s = Host.Outcome.next t

/-- A run of n steps is safe when each step of it is. -/
def SafeRun : Nat → State → Prop
  | 0, _ => True
  | n + 1, s => ∃ t, step s = Host.Outcome.next t ∧ SafeRun n t

end Sys2Proof.Safety
end

