-- ==== Sys2Proof/WellFormed.lean ====
section
/-! DEFINITION. Which instructions are well formed: every field within the width its word gives it, and the composition
check (R60, R214) or the checks of R328 passed; for an event, the numbers it names within the device (R9, R14, R19). -/

namespace Sys2Proof

/-- The fields of a full-form word fit (R197). -/
def Ops.fit (o : Ops) : Bool :=
  decide (o.d < 256) && decide (o.a < 256) && decide (o.b < 256) && decide (o.c < 256) && decide (o.p < 16) && decide (o.ld < 4)

/-- The fields of an I-form word fit (R198). -/
def IOps.fit (o : IOps) : Bool :=
  decide (o.d < 256) && decide (o.a < 256) && decide (o.p < 16) && decide (o.imm < 2 ^ 32)

/-- The fields of a pair half fit (R199). -/
def HalfOps.fit (h : HalfOps) : Bool :=
  decide (h.d < 256) && decide (h.a < 256) && decide (h.p < 8) && decide (h.mod < 8)

/-- The fields of a prompter word fit (R216). -/
def POps.fit (o : POps) : Bool :=
  decide (o.d < 32) && decide (o.a < 32) && decide (o.b < 32) && decide (o.imm < 2 ^ 32)

/-- The modifiers that are numbers lie in their fields: offset units (R208), codes and slots of 14 bits (R248, R252),
special registers (R253), tiles (R307), dimensions and run counts (R317, R324); a CSRW names no register that is a row of
its own, and those rows name theirs (R347, R408). -/
def Instr.modsFit : Instr → Bool
  | .calliM _ unit | .ld _ unit _ _ _ | .st _ unit _ _ _ | .lds _ unit _ _ _ _ | .sts _ unit _ _ _ _ | .pref _ unit
  | .feset _ unit | .feclr _ unit | .binit _ unit _ | .arrive _ unit | .bwait _ unit => decide (unit < 4)
  | .trap _ code | .bkpt _ code | .bind _ code => decide (code < 2 ^ 14)
  | .srd _ num | .swr _ num => decide (num < 256)
  | .mxmul _ tile _ | .mxbat _ tile | .mxzero _ tile | .mxdrain _ tile _ _ | .mxfill _ tile _ _ | .mxchk _ tile _ =>
    decide (tile < 32)
  | .cvenc _ dim | .cvdec _ dim | .cvadd _ dim _ | .cvcmp _ dim _ _ | .cvnext _ dim | .cvlvl _ dim =>
    decide (1 ≤ dim) && decide (dim ≤ 8)
  | .cvsplit _ dim n _ => decide (1 ≤ dim) && decide (dim ≤ 8) && decide (1 ≤ n) && decide (n ≤ 64)
  | .prLd _ m | .prSt _ m | .prLds _ m | .prSts _ m | .prAtom _ m => decide (m.ty.code < 8)
  | .csrw o => o.imm != 0x104 && o.imm != 0x110 && o.imm != 0x111 && o.imm != 0x112 && o.imm != 0x115
  | .sysresume o => o.imm == 0x104
  | .dhalt o => o.imm == 0x110
  | .drelease o => o.imm == 0x111
  | .tlbinv o => o.imm == 0x112
  | .lkill o => o.imm == 0x115
  | _ => true

/-- The numbers an event names exist: clusters (R9), slices (R19), queues (R384), partitions (R410), ports (R427),
mailboxes and groups (R14), the details of R328. -/
def Instr.eventFits : Instr → Bool
  | .sliceIssue _ sl | .stageSwap _ sl | .rgrowReadmit _ sl => decide (sl < 6)
  | .queueKick port q tail => decide (port < 64) && decide (q < 256) && decide (tail < 2 ^ 16)
  | .descriptorTake q | .eventWordSet q => decide (q < 256)
  | .syscLog c | .syscInfo c | .syscNotify c => decide (c % 8 < 6)
  | .linkedChainEnd _ group | .compareConfirm _ group => decide (group < 32)
  | .segmentRelease _ seg => decide (seg < 256)
  | .walkComplete die => decide (die < 2)
  | .ptrootWrite _ part _ | .pswapYield _ part | .swapQuantumExpiry part | .swapFlip part | .swapExchangeDone part
  | .swapBackgroundDone part _ _ | .cutGo _ part | .cutComplete part | .cutBlocked part | .cutRelease _ part =>
    decide (part < 8)
  | .timesliceQuantum phys | .retireComplete phys | .retire phys | .resetcl phys => decide (phys < 144)
  | .flitReceive port _ _ | .laneShed port | .portRetrained port | .portDown port | .restore port | .thaw port =>
    decide (port < 64)
  | .shed port width => decide (port < 64) && decide (width ≤ 4)
  | .deviceUnreachable loss => decide (loss.dev < 2 ^ 11)
  | .fabricRequest r => decide (r.port < 64)
  | .scrubPass dev _ _ _ _ => decide (dev < 64)
  | .rowSpare dev _ | .rowSpareSwitch dev _ => decide (dev < 48)
  | .partcfg words _ => words.length == 418
  | .fiarm words => words.length == 5
  | .attest nonce => nonce.length == 32
  | .illegalInstruction detail => decide (1 ≤ detail) && decide (detail ≤ 3)
  | .prompterMemoryFault index => decide (index < 2 ^ 20)
  | _ => true

/-- The instruction is well formed. -/
def Instr.wf (i : Instr) : Bool :=
  match i.full with
  | some f =>
    f.o.fit && i.modsFit
      && (match laneRow f.op with | some r => (r.shape f.o.c f.fn).check f.o == none | none => false)
  | none =>
    match i.immW with
    | some f => f.o.fit && (match immRow f.op with | some r => r.check f.o == none | none => false)
    | none =>
      match i.pairW with
      | some (x, f, g) => f.fit && g.h.fit && pairCheck x g.op f g.h 0 == none
      | none =>
        match i.promW with
        | some f =>
          f.o.fit && i.modsFit && (match promRow f.op f.fn with | some r => r.check f == none | none => false)
        | none => i.eventFits

end Sys2Proof
end

