-- ==== Sys2Proof/Certificates/Slice0/Obligations.lean ====
section
/-! DEFINITION. The statements for the provers. -/

open Sys2Proof Sys2Proof.Machine Sys2Proof.Claims

/-! ### Lane words that compute in registers -/

/-- Rules R34, R49, R150, R203, R228 to R241, R253 and R256 to R268: a lane word that computes in registers, unlinked, completes in one step. Each
writing lane receives the result of its entry on its own sources, with u = 1 on those of the uniform lane, all read before
any is written; the slot goes to the next word; and nothing else of the machine changes. -/
def Obligations.LaneResult : Prop :=
  ∀ (s : State) (g : Nat) (b : Bool) (x : Group) (i : Instr) (al : Alu) (o : Ops),
    aluOf s x i = some (al, o) → al.linked o = false →
    MayIssue s g b x (x.writers b o.p o.pn) (readLanes x o.u (x.writers b o.p o.pn)) (al.named o false) (al.dest o) →
    ∃ t y, exec i s = .next t ∧ t.group? g = some y
      ∧ Wrote x y o.k al.d o.d (if al.latch then some o.ld else none) (x.writers b o.p o.pn)
          (fun j => al.at_ o x (if o.u then x.uniformLane else j) 0)
      ∧ IssuedAs x y b ∧ OnlyGroup s t g ∧ SameBytes s t

/-- Rules R31 to R35, R38, R39 and R41: a linked word whose incoming hand-on entry is filled, and whose outgoing queue has
room, completes in one step. Along the lanes in order, the link value of a writing lane is the carry, or its seed where the
restart flag is set; its result is the next carry. The outcome of the chain stays in flight; nothing but the group and the
queues of its team changes. -/
def Obligations.LinkedResult : Prop :=
  ∀ (s : State) (g : Nat) (b : Bool) (x : Group) (i : Instr) (al : Alu) (o : Ops) (tm : Team) (carry : DWord) (restart : Bool),
    aluOf s x i = some (al, o) → al.linked o = true → s.team? x.team = some tm →
    tm.handIn x.index (s.issueCycle x) = .take carry restart → tm.handFull x.index = false →
    MayIssue s g b x (x.writers b o.p o.pn) (readLanes x o.u (x.writers b o.p o.pn)) (al.named o true) (al.dest o) →
    ∃ t y, exec i s = .next t ∧ t.group? g = some y
      ∧ Wrote x y o.k al.d o.d (if al.latch then some o.ld else none) (x.writers b o.p o.pn)
          (fun j => al.at_ o x j (linkValueAt al o x (x.writers b o.p o.pn) carry restart j))
      ∧ IssuedAs x y b
      ∧ (∀ k, k ≠ x.team → t.team? k = s.team? k)
      ∧ t.team? x.team = some (tm.linkIssue x.index (s.issueCycle x + x.width * al.cls)
          (linkAt al o x (x.writers b o.p o.pn) carry restart x.width).1
          (((linkAt al o x (x.writers b o.p o.pn) carry restart x.width).2)))
      ∧ OnlyGroup { s with teams := t.teams } t g ∧ SameBytes s t

/-! ### The values of the integer operations -/

/-- Rules R147, R227 and R228: the two-source integer operations on w-bit words, w the width of the type, as the arithmetic
of the words: sums, differences and products wrap, `.sat` clamps to the type's range, MULH is the high half of the exact
product, the shifts take their count modulo w.
Rules R229 and R230: the other integer operations on w-bit words. A field that a descriptor names is that of R229: empty
for a length of 0 or a position of w or more; BFX reads it bit by bit, sign-extended from its top bit with `.s`, and BFI
replaces it. -/
def Obligations.IntegerValues : Prop :=
  (∀ (t : Ty) (a b : BitVec (tyBits t)) (c : BitVec 32), isInt t = true →
     intAdd t false a.toNat b.toNat = (a + b).toNat ∧ intSub t false a.toNat b.toNat = (a - b).toNat
     ∧ intMul t a.toNat b.toNat = (a * b).toNat
     ∧ intAnd a.toNat b.toNat = (a &&& b).toNat ∧ intOr a.toNat b.toNat = (a ||| b).toNat
     ∧ intXor a.toNat b.toNat = (a ^^^ b).toNat ∧ intAndn t a.toNat b.toNat = (a &&& ~~~b).toNat
     ∧ intShl t a.toNat c.toNat = (a <<< (c.toNat % tyBits t)).toNat
     ∧ intShr t a.toNat c.toNat = (a >>> (c.toNat % tyBits t)).toNat
     ∧ intSra t a.toNat c.toNat = (a.sshiftRight (c.toNat % tyBits t)).toNat
     ∧ intRot t a.toNat c.toNat = (a.rotateLeft (c.toNat % tyBits t)).toNat
     ∧ (if t.signed then
         intAdd t true a.toNat b.toNat = (BitVec.ofInt (tyBits t) (max (-2 ^ (tyBits t - 1)) (min (2 ^ (tyBits t - 1) - 1) (a.toInt + b.toInt)))).toNat
         ∧ intSub t true a.toNat b.toNat = (BitVec.ofInt (tyBits t) (max (-2 ^ (tyBits t - 1)) (min (2 ^ (tyBits t - 1) - 1) (a.toInt - b.toInt)))).toNat
         ∧ intMulh t a.toNat b.toNat = (BitVec.ofInt (tyBits t) (a.toInt * b.toInt / 2 ^ tyBits t)).toNat
         ∧ intMin t a.toNat b.toNat = (if a.toInt ≤ b.toInt then a else b).toNat
         ∧ intMax t a.toNat b.toNat = (if a.toInt ≤ b.toInt then b else a).toNat
       else
         intAdd t true a.toNat b.toNat = min (2 ^ tyBits t - 1) (a.toNat + b.toNat)
         ∧ intSub t true a.toNat b.toNat = a.toNat - b.toNat
         ∧ intMulh t a.toNat b.toNat = a.toNat * b.toNat / 2 ^ tyBits t
         ∧ intMin t a.toNat b.toNat = min a.toNat b.toNat
         ∧ intMax t a.toNat b.toNat = max a.toNat b.toNat))
  ∧ (∀ (t : Ty) (a b c : BitVec (tyBits t)) (k : BitVec 32) (i : Nat), isInt t = true → i < tyBits t →
       intMad t a.toNat b.toNat c.toNat = (a * b + c).toNat
       ∧ (t.signed = true → intAbs t false a.toNat = (if a.toInt < 0 then -a else a).toNat
           ∧ intAbs t true a.toNat = (BitVec.ofInt (tyBits t) (min (2 ^ (tyBits t - 1) - 1) a.toInt.natAbs)).toNat)
       ∧ popCount (tyBits t) a.toNat = ((List.range (tyBits t)).map (fun j => (a.getLsbD j).toNat)).sum
       ∧ (bitReverse (tyBits t) a.toNat).testBit i = a.getLsbD (tyBits t - 1 - i)
       ∧ (if a = 0 then leadingZeros (tyBits t) a.toNat = tyBits t ∧ trailingZeros (tyBits t) a.toNat = tyBits t
          else leadingZeros (tyBits t) a.toNat = tyBits t - 1 - a.toNat.log2
            ∧ a.getLsbD (trailingZeros (tyBits t) a.toNat) = true ∧ ∀ j, j < trailingZeros (tyBits t) a.toNat → a.getLsbD j = false)
       ∧ (let pos := k.toNat % 256
          let len := min (pos + k.toNat / 256 % 256) (tyBits t) - pos
          (intBfx t false a.toNat k.toNat).testBit i = (decide (i < len) && a.getLsbD (pos + i))
          ∧ (intBfx t true a.toNat k.toNat).testBit i = (decide (len ≠ 0) && a.getLsbD (pos + min i (len - 1)))
          ∧ (intBfi t a.toNat k.toNat c.toNat).testBit i =
              (if pos ≤ i ∧ i < pos + len then a.getLsbD (i - pos) else c.getLsbD i))
       ∧ (∀ s, s < 32 → intLea t a.toNat k.toNat s =
           (a + ((if t = .i64 then k.signExtend (tyBits t) else k.setWidth (tyBits t)) <<< s)).toNat)
       ∧ (∀ cond, compareInt cond (tyVal t a.toNat) (tyVal t b.toNat) =
           match cond with
           | .eq => decide (a = b)
           | .ne => decide (a ≠ b)
           | .lt => if t.signed then a.slt b else a.ult b
           | .le => if t.signed then a.sle b else a.ule b
           | .gt => if t.signed then b.slt a else b.ult a
           | .ge => if t.signed then b.sle a else b.ule a
           | .c6 => false
           | .c7 => false))

/-! ### The values of the floating and curve words -/

/-- Rules R148, R154 and R156: what an image stands for. Its fields are a sign, an exponent and a fraction; the top exponent is for infinities
and NaNs, in E4M3 its last fraction for the one NaN, and a zero exponent for zero and the subnormal values. A body of KT8 or
KT8W is read by its run; body 0 is zero, with the sign set NV.
Rules R149, R150, R155, R159 and R161: a non-zero value is rounded once into each format, in the mode that is named where the format takes
one, with its flags; a zero keeps its sign, but in KT8 and KT8W is the one zero.
Rules R148, R259 and R264: FADD, FSUB, FMUL, FFMA and their halves. A NaN gives the canonical NaN, and so do ∞ − ∞ and 0 × ∞, with iv; an
infinite operand else an infinity; finite ones their exact result, rounded once.
Rules R151 to R153, R260 and R261: FMIN, FMAX, FMAXX, FMINX and FCMP in the order of the values, where −0 is below +0 but for FCMP,
which takes them as equal; a NaN loses to what is none.
Rules R147, R257, R262, R264, R265, R267 and R268: FRND, F2I and I2F round once, to an integer or of one, and clamp to the range of the type;
PACK2, UNPK2 and HMAX2 act on each half.
Rule R263: FRCP, FRSQ and FSQRT give their function at a, rounded once. FEXP2, FLOG2 and FTANH give it where it is exact; what they give
of small and of great arguments rounds as the rule says (of the others log 12 says how the model computes them). The special
cases raise what the table says. -/
def Obligations.FloatingValues : Prop :=
  ((∀ (t : Ty) (s : Bool) (ex fr : Nat), isFloat t = true → tyTapered t = false →
     let p := match t with | .f32 => 24 | .f16 => 11 | .bf16 => 8 | .e4m3 => 4 | _ => 3
     let e := match t with | .f32 => 8 | .f16 => 5 | .bf16 => 8 | .e4m3 => 4 | _ => 5
     let bias : Int := match t with | .f32 => 127 | .f16 => 15 | .bf16 => 127 | .e4m3 => 7 | _ => 15
     ex < 2 ^ e → fr < 2 ^ (p - 1) →
     let v := fpValue t (s.toNat * 2 ^ (e + p - 1) + ex * 2 ^ (p - 1) + fr)
     if t = .e4m3 ∧ ex = 15 ∧ fr = 7 then v = .nan false
     else if t ≠ .e4m3 ∧ ex = 2 ^ e - 1 then v = if fr = 0 then .inf s else .nan (isBig t && !fr.testBit (p - 2))
     else IsFinite v s (if ex = 0 then (fr : ℚ) * 2 ^ (2 - bias - p) else ((fr : ℚ) + 2 ^ (p - 1)) * 2 ^ ((ex : Int) + 1 - bias - p)))
   ∧ (∀ t w, tyTapered t = false → fpValue t w = fpValue t (w % 2 ^ (tyFmt t).bits))
   ∧ (∀ t w, tyTapered t = true → fpValue t w = fpValue t (w % 256))
   ∧ ∀ (t : Ty) (s : Bool) (body n : Nat), tyTapered t = true → body < 128 → 1 ≤ n → n ≤ 7 →
       (body = 0 → if s then fpValue t 128 = .nv else IsFinite (fpValue t 0) false 0)
       ∧ (body ≠ 0 → (∀ i, i < n → body.testBit (6 - i) = body.testBit 6) → (n = 7 ∨ body.testBit (6 - n) ≠ body.testBit 6) →
           let es := if t = .kt8 then 1 else 2
           let w := 6 - n
           let k : Int := if body.testBit 6 then n - 1 else -n
           let f := w - es
           let e := body % 2 ^ w / 2 ^ f * 2 ^ (es - min w es)
           IsFinite (fpValue t (s.toNat * 128 + body)) s (2 ^ (2 ^ es * k + e) * (1 + (body % 2 ^ f : Nat) / 2 ^ f))))
  ∧ ((∀ (t : Ty) (mode : Rnd) (neg : Bool) (m : Nat) (e : Int), isFloat t = true → m ≠ 0 →
       Rounded t mode neg (fun y => cmp y ((m : ℚ) * 2 ^ e)) (roundTo t mode neg m e))
     ∧ (∀ (t : Ty) (mode : Rnd) (neg : Bool) (e : Int), isFloat t = true →
       roundTo t mode neg 0 e = (if tyTapered t || !neg then 0 else 2 ^ ((tyFmt t).bits - 1), {}))
     ∧ ∀ (f : FVal) (t src : Ty) (mode : Rnd) (w : Nat), isFloat t = true → isFloat src = true → f = fpValue src w →
         (t ≠ src → fcvt t src mode w = convertTo t mode f)
         ∧ (t = src → fcvt t src mode w =
             match f with
             | .nan sig => if isBig src then (tyCanonNan src, { iv := sig }) else (w % 256, {})
             | _ => (w % 2 ^ (if isBig src then (tyFmt src).bits else 8), {}))
         ∧ convertTo t mode f =
             match f with
             | .nan sig => (tyCanonNan t, { iv := sig || tyTapered t })
             | .nv => (tyCanonNan t, { iv := true })
             | .inf neg => if t = .e4m3 ∨ tyTapered t then (tyCanonNan t, { iv := true }) else ((if neg then 2 ^ ((tyFmt t).bits - 1) else 0) + (tyFmt t).infBits, {})
             | .fin neg m e => roundTo t mode neg m e)
  ∧ (∀ (t : Ty) (mode : Rnd) (a b c : FVal), isBig t = true → a ≠ .nv → b ≠ .nv → c ≠ .nv →
       let nan (iv : Bool) : Nat × Fl := (tyCanonNan t, { iv := iv })
       let inf (s : Bool) : Nat × Fl := ((if s then 2 ^ ((tyFmt t).bits - 1) else 0) + (tyFmt t).infBits, {})
       let isInf (v : FVal) : Bool := match v with | .inf _ => true | _ => false
       let isZero (v : FVal) : Bool := match v with | .fin _ m _ => decide (m = 0) | _ => false
       let sp : Bool := signOf a != signOf b
       let none_ : Bool := !a.isNan && !b.isNan
       (a.isNan || b.isNan → fpAdd t mode a b = nan (a.isSig || b.isSig) ∧ fpSub t mode a b = nan (a.isSig || b.isSig)
         ∧ fpMul t mode a b = nan (a.isSig || b.isSig))
       ∧ (none_ → isInf a || isInf b →
           fpAdd t mode a b = (if isInf a && isInf b && sp then nan true else inf (if isInf a then signOf a else signOf b))
           ∧ fpSub t mode a b = (if isInf a && isInf b && !sp then nan true else inf (if isInf a then signOf a else !(signOf b)))
           ∧ fpMul t mode a b = (if isZero a || isZero b then nan true else inf sp))
       ∧ (none_ → !(isInf a) && !(isInf b) →
           SumOf t mode (signOf a) (finite a) (signOf b) (finite b) (fpAdd t mode a b)
           ∧ SumOf t mode (signOf a) (finite a) (!(signOf b)) (-(finite b)) (fpSub t mode a b)
           ∧ (if isZero a || isZero b then fpMul t mode a b = (if sp then 2 ^ ((tyFmt t).bits - 1) else 0, {})
              else RoundedTo t mode (finite a * finite b) (fpMul t mode a b)))
       ∧ (if (isInf a && isZero b) || (isZero a && isInf b) then fma t mode a b c = nan true
          else if a.isNan || b.isNan || c.isNan then fma t mode a b c = nan (a.isSig || b.isSig || c.isSig)
          else if isInf a || isInf b then fma t mode a b c = (if isInf c && signOf c != sp then nan true else inf sp)
          else if isInf c then fma t mode a b c = inf (signOf c)
          else SumOf t mode sp (finite a * finite b) (signOf c) (finite c) (fma t mode a b c))
       ∧ ∀ (x y z : Nat), t ≠ .f32 →
           let r := onHalves2 t (fpAdd t mode) x y
           let q := onHalves2 t (fpMul t mode) x y
           let lo (w : Nat) : FVal := fpValue t (w % 2 ^ 16)
           let hi (w : Nat) : FVal := fpValue t (w / 2 ^ 16 % 2 ^ 16)
           let w := onHalves (fun h => fma t mode (fpValue t (half x h)) (fpValue t (half y h)) (fpValue t (half z h)))
           r.1 = (fpAdd t mode (lo x) (lo y)).1 + 2 ^ 16 * (fpAdd t mode (hi x) (hi y)).1 ∧ r.2 = ((fpAdd t mode (lo x) (lo y)).2).or (fpAdd t mode (hi x) (hi y)).2
           ∧ q.1 = (fpMul t mode (lo x) (lo y)).1 + 2 ^ 16 * (fpMul t mode (hi x) (hi y)).1 ∧ q.2 = ((fpMul t mode (lo x) (lo y)).2).or (fpMul t mode (hi x) (hi y)).2
           ∧ w.1 = (fma t mode (lo x) (lo y) (lo z)).1 + 2 ^ 16 * (fma t mode (hi x) (hi y) (hi z)).1
           ∧ w.2 = ((fma t mode (lo x) (lo y) (lo z)).2).or (fma t mode (hi x) (hi y) (hi z)).2)
  ∧ (∀ (t : Ty) (least : Bool) (a b : Nat), isBig t = true →
       let cut (w : Nat) : Nat := w % 2 ^ (tyFmt t).bits
       let va := fpValue t a
       let vb := fpValue t b
       let r := fpPick t least a b
       r.2 = { iv := va.isSig || vb.isSig }
       ∧ (va.isNan ∧ vb.isNan → r.1 = tyCanonNan t) ∧ (va.isNan ∧ ¬ vb.isNan → r.1 = cut b) ∧ (¬ va.isNan ∧ vb.isNan → r.1 = cut a)
       ∧ (¬ va.isNan ∧ ¬ vb.isNan → (r.1 = cut a ∨ r.1 = cut b)
           ∧ (if least then ¬ Below va (fpValue t r.1) ∧ ¬ Below vb (fpValue t r.1) else ¬ Below (fpValue t r.1) va ∧ ¬ Below (fpValue t r.1) vb))
       ∧ (∀ i k, i < 2 ^ 32 → k < 2 ^ 32 → a < 2 ^ 32 → b < 2 ^ 32 →
           let q := fpPickPair t least (a + i * 2 ^ 32) (b + k * 2 ^ 32)
           q.2 = { iv := va.isSig || vb.isSig }
           ∧ ((va.isNan ∧ vb.isNan → q.1 = tyCanonNan t + min i k * 2 ^ 32)
             ∧ (va.isNan ∧ ¬ vb.isNan → q.1 = cut b + k * 2 ^ 32) ∧ (¬ va.isNan ∧ vb.isNan → q.1 = cut a + i * 2 ^ 32)
             ∧ (¬ va.isNan ∧ ¬ vb.isNan →
                 (cut a = cut b → q.1 = cut a + min i k * 2 ^ 32)
                 ∧ ((if least then Below va vb else Below vb va) → q.1 = cut a + i * 2 ^ 32)
                 ∧ ((if least then Below vb va else Below va vb) → q.1 = cut b + k * 2 ^ 32))))
       ∧ ∀ (cond : Cond),
           let un : Bool := va.isNan || vb.isNan
           let eq : Bool := !un && decide (ordered va = ordered vb)
           let lt : Bool := !un && decide (ordered va < ordered vb)
           fpCompare t cond a b = match cond with
             | .eq => (eq, { iv := va.isSig || vb.isSig }) | .ne => (!eq, { iv := va.isSig || vb.isSig })
             | .lt => (lt, { iv := un }) | .le => (lt || eq, { iv := un }) | .gt => (!un && !eq && !lt, { iv := un }) | .ge => (!un && !lt, { iv := un })
             | .c6 => (un, { iv := va.isSig || vb.isSig }) | .c7 => (!un, { iv := va.isSig || vb.isSig }))
  ∧ ((∀ (mode : Rnd) (ex : Bool) (w : Nat), match fpValue .f32 w with
       | .fin neg m e => ∃ n, Picks mode neg (fun y => cmp y ((m : ℚ) * 2 ^ e)) n 0 ∧ (fpRound mode ex w).1 < 2 ^ 32
           ∧ IsFinite (fpValue .f32 (fpRound mode ex w).1) neg n ∧ (fpRound mode ex w).2 = { nx := ex && decide ((n : ℚ) ≠ m * 2 ^ e) }
       | .inf neg => fpRound mode ex w = (if neg then 0xFF800000 else 0x7F800000, {})
       | v => fpRound mode ex w = (0x7FC00000, { iv := v.isSig }))
     ∧ (∀ (it ft : Ty) (mode : Rnd) (w : Nat), isAnyInt it = true → isFloat ft = true →
         let image (v : Int) : Nat := (v % 2 ^ (if it.wide then 64 else 32)).toNat
         let hi : Int := if it.signed then 2 ^ (8 * it.bytes - 1) - 1 else 2 ^ (8 * it.bytes) - 1
         let lo : Int := if it.signed then -(2 ^ (8 * it.bytes - 1)) else 0
         match fpValue ft w with
         | .fin neg m e => ∃ n : Nat, Picks mode neg (fun y => cmp y ((m : ℚ) * 2 ^ e)) n 0
             ∧ (let y : Int := if neg then -n else n
                fpToInt it ft mode w = if hi < y then (image hi, { of := true, nx := true }) else if y < lo then (image lo, { of := true, nx := true })
                  else (image y, { nx := decide ((n : ℚ) ≠ m * 2 ^ e) }))
         | .inf neg => fpToInt it ft mode w = (image (if neg then lo else hi), { iv := true })
         | _ => fpToInt it ft mode w = (0, { iv := true }))
     ∧ (∀ (ft it : Ty) (mode : Rnd) (w : Nat) (v : Int), isFloat ft = true → isAnyInt it = true →
         (if it.signed then -(2 ^ (8 * it.bytes - 1)) ≤ v ∧ v < 2 ^ (8 * it.bytes - 1) else 0 ≤ v ∧ v < 2 ^ (8 * it.bytes)) →
         (2 : Int) ^ (8 * it.bytes) ∣ w - v →
         if v = 0 then intToFp ft it mode w = (0, {}) else RoundedTo ft mode v (intToFp ft it mode w))
     ∧ (∀ (t : Ty) (mode : Rnd) (a b : Nat), t = .f16 ∨ t = .bf16 →
         let lo := convertTo t mode (fpValue .f32 a)
         let hi := convertTo t mode (fpValue .f32 b)
         fpPack t mode a b = (lo.1 + 2 ^ 16 * hi.1, lo.2.or hi.2))
     ∧ (∀ (t : Ty) (a h : Nat), t = .f16 ∨ t = .bf16 → h < 2 →
         let v := fpValue t (a / 2 ^ (16 * h) % 2 ^ 16)
         let r := (fpUnpack t a).1 / 2 ^ (32 * h) % 2 ^ 32
         (v.isNan → r = 0x7FC00000) ∧ (∀ s, v = .inf s → r = if s then 0xFF800000 else 0x7F800000)
         ∧ (∀ s m e, v = .fin s m e → IsFinite (fpValue .f32 r) s (m * 2 ^ e))
         ∧ (fpUnpack t a).2 = { iv := (fpValue t (a % 2 ^ 16)).isSig || (fpValue t (a / 2 ^ 16 % 2 ^ 16)).isSig })
     ∧ ∀ (t : Ty) (a b h : Nat), t = .f16 ∨ t = .bf16 → h < 2 →
         let r := onHalves (fun h => fpPick t false (half a h) (half b h))
         r.1 / 2 ^ (16 * h) % 2 ^ 16 = (fpPick t false (a / 2 ^ (16 * h) % 2 ^ 16) (b / 2 ^ (16 * h) % 2 ^ 16)).1 ∧ r.1 < 2 ^ 32
         ∧ (r.2.iv = true ↔ ∃ h < 2, ∃ w ∈ [a, b], (fpValue t (w / 2 ^ (16 * h) % 2 ^ 16)).isSig = true))
  ∧ (∀ (mode : Rnd) (w : Nat),
       let zero (s : Bool) : Nat := if s then 0x80000000 else 0
       let inf (s : Bool) : Nat := if s then 0xFF800000 else 0x7F800000
       match fpValue .f32 w with
       | .fin s 0 _ =>
         fpRcp mode w = (inf s, { dz := true }) ∧ fpRsq mode w = (inf s, { dz := true }) ∧ fpSqrt mode w = (zero s, {})
         ∧ fpExp2 mode w = (0x3F800000, {}) ∧ fpLog2 mode w = (0xFF800000, { dz := true }) ∧ fpTanh mode w = (zero s, {})
       | .fin s m e =>
         let a : ℚ := m * 2 ^ e
         Rounded .f32 mode s (fun y => cmp (y * a) 1) (fpRcp mode w)
         ∧ (if s then fpRsq mode w = (0x7FC00000, { iv := true }) ∧ fpSqrt mode w = (0x7FC00000, { iv := true }) ∧ fpLog2 mode w = (0x7FC00000, { iv := true })
            else Rounded .f32 mode false (fun y => if y ≤ 0 then .lt else cmp (y * y * a) 1) (fpRsq mode w)
              ∧ Rounded .f32 mode false (fun y => if y ≤ 0 then .lt else cmp (y * y) a) (fpSqrt mode w)
              ∧ ∀ n : Int, a = 2 ^ n → (n = 0 → fpLog2 mode w = (0, {}))
                  ∧ (n ≠ 0 → IsFinite (fpValue .f32 (fpLog2 mode w).1) (decide (n < 0)) |(n : ℚ)| ∧ (fpLog2 mode w).2 = {}))
         ∧ (∀ n : Int, (if s then -a else a) = n → -149 ≤ n → n ≤ 127 →
             IsFinite (fpValue .f32 (fpExp2 mode w).1) false (2 ^ n) ∧ (fpExp2 mode w).2 = {})
         ∧ ((s = false ∧ 128 ≤ a) → fpExp2 mode w = (if mode = .rn ∨ mode = .rp then 0x7F800000 else 0x7F7FFFFF, { of := true, nx := true }))
         ∧ (s = true ∧ 151 < a → fpExp2 mode w = (if mode = .rp then 1 else 0, { uf := true, nx := true }))
         ∧ (a < 2 ^ (-13 : Int) → mode = .rn → (fpTanh mode w).1 = w % 2 ^ 32 ∧ (fpTanh mode w).2.nx = true)
         ∧ (16 < a → (fpTanh mode w).2 = { nx := true } ∧ (fpTanh mode w).1
             = (if s then 0x80000000 else 0) + (if mode = .rn ∨ mode = (if s then .rm else .rp) then 0x3F800000 else 0x3F7FFFFF))
       | .inf s =>
         fpRcp mode w = (zero s, {}) ∧ fpRsq mode w = (if s then (0x7FC00000, { iv := true }) else (0, {}))
         ∧ fpSqrt mode w = (if s then (0x7FC00000, { iv := true }) else (inf false, {})) ∧ fpExp2 mode w = (if s then 0 else inf false, {})
         ∧ fpLog2 mode w = (if s then (0x7FC00000, { iv := true }) else (inf false, {})) ∧ fpTanh mode w = (if s then 0xBF800000 else 0x3F800000, {})
       | v => ∀ r ∈ [fpRcp mode w, fpRsq mode w, fpSqrt mode w, fpExp2 mode w, fpLog2 mode w, fpTanh mode w], r = (0x7FC00000, { iv := v.isSig }))

/-- Rules R173, R174, R318 to R321 and R323: CVENC and CVDEC move each bit of an axis between its field and its place in the word; CVADD adds to
each axis, wrapping or clamped, and says which left the range; CVCMP compares words, or a point with a box; CVLVL is the number
of leading bits in which all axes agree.
Rules R318, R322 and R324: CVNEXT gives the least well-formed word from z on that lies in the box, or says that there is none. CVSPLIT lists
the maximal runs of such words in order, all if there are at most n, else the first n − 1 and the start of the next; its
trailer and its destination count them. -/
def Obligations.CurveValues : Prop :=
  (∀ (d : Nat) (sat : Bool) (a b c : Nat) (p : QWord), 1 ≤ d → d ≤ 8 → a < 2 ^ 64 → b < 2 ^ 64 → c < 2 ^ 64 →
     let k := 64 / d
     let n := fieldBits d
     (∀ i x, i < k → x < d → (curveEncode d p.toNat).testBit (i * d + x) = p.getLsbD (n * x + i)) ∧ curveEncode d p.toNat < 2 ^ (d * k)
     ∧ (∀ i x, i < n → x < d → (curveDecode d a).testBit (n * x + i) = (decide (i < k) && a.testBit (i * d + x))) ∧ curveDecode d a < 2 ^ (n * d)
     ∧ (let r := curveAdd d sat a p.toNat
        (∀ x, x < d →
           let v : Int := axisOf d a x + (p.extractLsb' (n * x) n).toInt
           (axisOf d r x : Int) = (if sat then max 0 (min v (2 ^ k - 1)) else v % 2 ^ k) ∧ r.testBit (64 + x) = decide (v < 0 ∨ 2 ^ k ≤ v))
        ∧ r % 2 ^ 64 < 2 ^ (d * k) ∧ (∀ i, 64 + d ≤ i → r.testBit i = (decide (i = 72) && (unusedSet d a || decide (p.toNat / 2 ^ (n * d) ≠ 0)))))
     ∧ (let x := a % 2 ^ (d * k)
        let y := b % 2 ^ (d * k)
        ∀ cond, curveCompare d cond a b c = match cond with
          | .eq => decide (x = y) | .ne => decide (x ≠ y) | .lt => decide (x < y) | .le => decide (x ≤ y) | .gt => decide (y < x) | .ge => decide (y ≤ x)
          | .c6 => (List.range d).all (fun z => decide (axisOf d b z ≤ axisOf d a z) && decide (axisOf d a z ≤ axisOf d c z))
          | .c7 => !(List.range d).all (fun z => decide (axisOf d b z ≤ axisOf d a z) && decide (axisOf d a z ≤ axisOf d c z)))
     ∧ (let l := curveLevel d a b
        l ≤ k ∧ (∀ x, x < d → axisOf d a x / 2 ^ (k - l) = axisOf d b x / 2 ^ (k - l))
        ∧ (l < k → ∃ x, x < d ∧ axisOf d a x / 2 ^ (k - l - 1) ≠ axisOf d b x / 2 ^ (k - l - 1))))
  ∧ (∀ (d lo hi z : Nat), 1 ≤ d → d ≤ 8 → lo < 2 ^ 64 → hi < 2 ^ 64 → z < 2 ^ 64 →
       let bad := (unusedSet d lo || unusedSet d hi || unusedSet d z).toNat
       (∀ w, InRange d lo hi z w → (∀ v, InRange d lo hi z v → w ≤ v) → curveNextResult d z lo hi = w + 2 ^ 72 * bad)
       ∧ ((∀ w, ¬ InRange d lo hi z w) → curveNextResult d z lo hi = 2 ^ 64 + 2 ^ 72 * bad)
       ∧ ∀ n, 2 ≤ n → n ≤ 64 →
           ∃ (runs : List (Nat × Nat)) (more : Bool) (resume : Nat),
             curveSplit d n lo hi z = (runs.map (fun r => r.1 + 2 ^ 64 * r.2) ++ [runs.length + more.toNat * 2 ^ 32 + bad * 2 ^ 33 + resume * 2 ^ 64],
               runs.length + more.toNat * 2 ^ 31)
             ∧ (∀ r ∈ runs, r.1 ≤ r.2 ∧ (∀ w, r.1 ≤ w → w ≤ r.2 → InRange d lo hi z w) ∧ ¬ InRange d lo hi z (r.2 + 1)
                 ∧ (r.1 = 0 ∨ ¬ InRange d lo hi z (r.1 - 1)))
             ∧ runs.Pairwise (fun r q => r.2 < q.1)
             ∧ (∀ w, InRange d lo hi z w → (∃ r ∈ runs, r.1 ≤ w ∧ w ≤ r.2) ∨ (more = true ∧ resume ≤ w))
             ∧ (if more then runs.length = n - 1 ∧ InRange d lo hi z resume ∧ (resume = 0 ∨ ¬ InRange d lo hi z (resume - 1)) ∧ ∀ r ∈ runs, r.2 < resume
                else runs.length ≤ n ∧ resume = 0))

/-- Rule R231: LDIH writes imm32 to v(d+1) of each writing lane and leaves v(d) alone; L0 receives the whole pair, with u = 1
that of the uniform lane.
Rules R199, R211 and R213: a pair word completes in one step. Each half is its full-form word with k = 1; both halves
read their registers before either writes; no latch is written. -/
def Obligations.ImmediatesAndPairs : Prop :=
  (∀ (s : State) (g : Nat) (b : Bool) (x : Group) (o : IOps),
     MayIssue s g b x (x.writers b o.p o.pn) (readLanes x o.u (x.writers b o.p o.pn)) [(.src32, o.d)] [(.dst64, o.d)] →
     ∃ t y, LaneStep (.ldih o) s t g b x y
       ∧ (∀ n j, j < 64 → y.reg n j = if n = o.d + 1 ∧ j ∈ x.writers b o.p o.pn then BitVec.ofNat 32 o.imm else x.reg n j)
       ∧ (∀ l j, j < 64 → y.latch? l j = if l = 0 ∧ j ∈ x.writers b o.p o.pn
           then some (BitVec.ofNat 64 ((x.reg o.d (if o.u then x.uniformLane else j)).toNat + 2 ^ 32 * o.imm)) else x.latch? l j)
       ∧ y.masks = x.masks ∧ y.fpflags = x.fpflags)
  ∧ (∀ (s : State) (g : Nat) (b : Bool) (x : Group) (i : Instr) (op : PairOp) (h : HalfOps) (q : PairHalf),
       pairOf i = some (op, h, q) →
       (let o := halfOps op h
        MayIssue s g b x (x.writers b o.p o.pn) (readLanes x o.u (x.writers b o.p o.pn)) ((halfAlu op h.mod).named o false) ((halfAlu op h.mod).dest o)) →
       (let o := halfOps q.op q.h
        MayIssue s g b x (x.writers b o.p o.pn) (readLanes x o.u (x.writers b o.p o.pn)) ((halfAlu q.op q.h.mod).named o false) ((halfAlu q.op q.h.mod).dest o)) →
       ∃ t y z, LaneStep i s t g b x y
         ∧ Wrote x z true .dst32 h.d none (x.writers b h.p h.pn)
             (fun j => (halfAlu op h.mod).at_ (halfOps op h) x (if h.u then x.uniformLane else j) 0)
         ∧ Wrote z y true .dst32 q.h.d none (x.writers b q.h.p q.h.pn)
             (fun j => (halfAlu q.op q.h.mod).at_ (halfOps q.op q.h) x (if q.h.u then x.uniformLane else j) 0))

/-- Rules R52 and R235 to R238: SHFL, VOTE and BCAST complete in one step. A writing lane of SHFL takes a from the lane that
the mode and the number name, its own a where that lies outside the group; VOTE gives every writing lane the one outcome over
the writing lanes; BCAST gives every writing lane the a of one lane, zero for an immediate of W or more (where two sentences of
R238 meet, the model's choice of log entry 119). A dead source lane gives all ones and sets dead.read.
Rules R234, R239 and R253: VTOM.w writes a mask register whole from the pair of the lowest writing lane (a write to m0 is
discarded); LKBRK sets the break mask by its mode; SWR writes lbm from the lowest writing lane, clears dead.read where any
writing lane holds a 1 in bit 0 (of lanes that differ, the model's choice of log entry 120), or writes bits 4:0 of fpflags in each writing lane. -/
def Obligations.CrossLaneResult : Prop :=
  (∀ (s : State) (g : Nat) (b : Bool) (x : Group) (o : Ops),
     (∀ (ty : Ty) (imm : Bool) (m : ShflMode),
       let ws := x.writers b o.p o.pn
       let src (j : Nat) : Option Nat := shflSource m x.width j (if imm then o.c else x.read .src32 o.b j 0)
       MayIssue s g b x ws ws (if imm then [] else [(.src32, o.b)]) (destOf o.k (dstW ty.wide) o.d) →
       TakesFrom s g x ws (srcW ty.wide) o.a (fun j => (src j).getD j) →
       ∃ t y, LaneStep (.shfl o ty imm m) s t g b
           { x with deadRead := x.deadRead || ws.any (fun j => (src j).any (fun l => laneBit x.deadMask l)) } y
         ∧ Wrote x y o.k (dstW ty.wide) o.d (some o.ld) ws
             (fun j => (match src j with | some l => taken x (srcW ty.wide) o.a l | none => x.read (srcW ty.wide) o.a j 0, {})))
     ∧ (∀ m : VoteMode,
       let ws := x.writers b o.p o.pn
       let v (j : Nat) : Nat := x.read .src32 o.a j 0
       let r : Nat :=
         match m with
         | .any => (ws.any (fun j => v j != 0)).toNat
         | .all => (ws.all (fun j => v j != 0)).toNat
         | .eq => (ws.all (fun j => v j == v (ws.headD 0))).toNat
         | .ballot => (lanesMask (ws.filter (fun j => v j != 0))).toNat
       MayIssue s g b x ws ws [(.src32, o.a)] (destOf o.k (dstW (m == .ballot)) o.d) →
       ∃ t y, LaneStep (.vote o m) s t g b x y ∧ Wrote x y o.k (dstW (m == .ballot)) o.d (some o.ld) ws (fun _ => (r, {})))
     ∧ (∀ (ty : Ty) (imm first : Bool),
       let ws := x.writers b o.p o.pn
       let l := ws.headD 0
       let src := if imm then o.c else if first then l else x.read .src32 o.b l 0
       MayIssue s g b x ws (ws.take 1) (if imm || first then [] else [(.src32, o.b)]) (destOf o.k (dstW ty.wide) o.d) →
       TakesFrom s g x ws (srcW ty.wide) o.a (fun _ => src) → (imm = true ∨ ws = [] ∨ src < x.width) →
       (∀ j, x.width ≤ j → x.extent ≤ j ∧ laneBit x.deadMask j = false) →
       ∃ t y, LaneStep (.bcast o ty imm first) s t g b
           { x with deadRead := x.deadRead || (!ws.isEmpty && laneBit x.deadMask src) } y
         ∧ Wrote x y o.k (dstW ty.wide) o.d (some o.ld) ws
             (fun _ => (if src < x.width then taken x (srcW ty.wide) o.a src else 0, {}))))
  ∧ (∀ (s : State) (g : Nat) (b : Bool) (x : Group) (o : Ops),
       (MayIssue s g b x ((x.writers b o.p o.pn).take 1) ((x.writers b o.p o.pn).take 1) [(.src64, o.a)] [] →
         ∃ t y, LaneStep (.vtomW o) s t g b x y ∧ y.regs = x.regs ∧ y.latches = x.latches ∧ y.fpflags = x.fpflags
           ∧ ∀ m, y.maskReg m = if m = o.d ∧ m ≠ 0 ∧ x.writers b o.p o.pn ≠ []
               then BitVec.ofNat 64 (x.read .src64 o.a ((x.writers b o.p o.pn).headD 0) 0) else x.maskReg m)
       ∧ (∀ m : BrkMode, MayIssue s g b x [] [] [] [] →
         ∃ t y, SameRegisters x y
           ∧ LaneStep (.lkbrk o m) s t g b
               { x with lbm := match m with | .set => x.maskReg o.a | .or => x.lbm ||| x.maskReg o.a | .andn => x.lbm &&& ~~~(x.maskReg o.a) | .clr => 0 } y)
       ∧ (MayIssue s g b x ((x.writers b o.p o.pn).take 1) ((x.writers b o.p o.pn).take 1) [(.src64, o.a)] [] → s.chainPending x = false →
         ∃ t y, SameRegisters x y ∧ LaneStep (.swr o 6) s t g b
           { x with lbm := if x.writers b o.p o.pn = [] then x.lbm else BitVec.ofNat 64 (x.read .src64 o.a ((x.writers b o.p o.pn).headD 0) 0) } y)
       ∧ (MayIssue s g b x (x.writers b o.p o.pn) (x.writers b o.p o.pn) [(.src32, o.a)] [] → s.chainPending x = false →
         (∃ t y, SameRegisters x y ∧ LaneStep (.swr o 7) s t g b
           { x with deadRead := x.deadRead && !((x.writers b o.p o.pn).any (fun j => x.read .src32 o.a j 0 % 2 == 1)) } y)
         ∧ ∃ t y, LaneStep (.swr o 13) s t g b x y ∧ y.regs = x.regs ∧ y.masks = x.masks ∧ y.latches = x.latches
             ∧ ∀ j, y.flags j = if j ∈ x.writers b o.p o.pn then BitVec.ofNat 32 (x.read .src32 o.a j 0) &&& 0x1F else x.flags j))

/-! ### Control words -/

/-- Rules R64, R210, R242, R245, R247 and R250: BRA takes the slot to its target; CALL pushes the record of the next word with
the rebind state, which it empties; RET pops the top record and goes to its address, where a record without a split, or
whose base is the slot's tag, is done; NOP goes on; YIELD leaves the stage, and loses the latches, where a wings group of
the slice is ready, at once or when its lane steps in flight are finished (R23). Masks, tags and everything else stay.
Rules R244 and R246: CALLI reads a target in each lane of its slot. One target is a call: the record takes the rebind
state. Several split the slot, every part with the record {next word, split, the slot's tag}: with the other slot free and
two targets, the lower one stays and the higher one goes to the other slot, both with one new tag.
Rule R246: CALLI.m loads the target of each lane of its slot, and the slot stays at its word until they arrive; the reply,
with one target below 2^20 in the lanes that are still in the slot, is a call to it. -/
def Obligations.PlainTransfers : Prop :=
  (∀ (s : State) (g : Nat) (b : Bool) (x : Group), MayIssue s g b x [] [] [] [] →
     (∀ o : IOps, ∃ t y, ControlStep (.bra o) s t g x y ∧ SameStack x y ∧ y.slot (!b) = x.slot (!b)
       ∧ Arrives s x b (y.slot b) (x.slot b) (branchTarget (x.slot b).pc o.imm))
     ∧ (∀ o : IOps, x.items + 1 ≤ s.stackLimit x →
       ∃ t y, ControlStep (.call o) s t g x y ∧ SameStack x y ∧ y.slot (!b) = x.slot (!b)
       ∧ Arrives s x b (y.slot b)
           { x.slot b with
             rebind := none
             calls := { ret := (x.slot b).pc + 1, split := ((x.slot b).rebind.getD (false, 0)).1,
                        base := ((x.slot b).rebind.getD (false, 0)).2 } :: (x.slot b).calls }
           (branchTarget (x.slot b).pc o.imm))
     ∧ (∀ (o : Ops) (r : CallRec) (rest : List CallRec), (x.slot b).calls = r :: rest → r.split = false ∨ (x.slot b).tag = r.base →
       ∃ t y, ControlStep (.ret o) s t g x y ∧ SameStack x y ∧ y.slot (!b) = x.slot (!b)
       ∧ Arrives s x b (y.slot b) { x.slot b with calls := rest } r.ret)
     ∧ (∀ o : Ops, ∃ t y, SameRegisters x y ∧ LaneStep (.nop o) s t g b x y)
     ∧ ∀ o : Ops, ∃ t y, LaneStep (.yield o) s t g b
         (if x.onStage && s.wingsReady x.skey then
           (if x.stepsDone (s.issueCycle x) then { x with onStage := false, yielding := false, latches := [] } else { x with yielding := true })
          else x) y
         ∧ SameRegisters (if x.onStage && s.wingsReady x.skey && x.stepsDone (s.issueCycle x) then { x with latches := [] } else x) y)
  ∧ (∀ (s : State) (g : Nat) (b : Bool) (x : Group) (o : Ops),
       let v := x.slot b
       let ws := x.writers b 0 false
       let tgt (j : Nat) : Nat := x.read .src32 o.a j 0
       MayIssue s g b x ws ws [(.src32, o.a)] [] → ws ≠ [] → (∀ j ∈ ws, tgt j < 2 ^ 20) →
       (∀ n, (∀ j ∈ ws, tgt j = n) → x.items + 1 ≤ s.stackLimit x →
         ∃ t y, ControlStep (.calli o) s t g x y ∧ SameStack x y ∧ y.slot (!b) = x.slot (!b)
           ∧ Arrives s x b (y.slot b)
               { v with rebind := none, calls := { ret := v.pc + 1, split := (v.rebind.getD (false, 0)).1, base := (v.rebind.getD (false, 0)).2 } :: v.calls }
               (BitVec.ofNat 20 n))
       ∧ (∀ n m, n < m → (∀ j ∈ ws, tgt j = n ∨ tgt j = m) → (∃ j ∈ ws, tgt j = n) → (∃ j ∈ ws, tgt j = m) → (x.slot (!b)).live = false →
         x.items + (v.calls.length + 2) ≤ s.stackLimit x →
         ∀ (tag : Nat) (z : Group), (x.modSlot b (fun w => { w with calls := { ret := v.pc + 1, split := true, base := v.tag } :: v.calls, rebind := none })).newTag
             = some (tag, z) →
         ∃ t y, ControlStep (.calli o) s t g x y ∧ y.stack = x.stack ∧ y.nextTag = z.nextTag
           ∧ Arrives s x b (y.slot b)
               { v with mask := lanesMask (ws.filter (fun j => tgt j == n)), tag := tag, outer := v.tag, rebind := none,
                        calls := { ret := v.pc + 1, split := true, base := v.tag } :: v.calls }
               (BitVec.ofNat 20 n)
           ∧ Arrives s x b (y.slot (!b))
               { pc := BitVec.ofNat 20 m, mask := lanesMask (ws.filter (fun j => tgt j == m)), tag := tag, outer := v.tag,
                 calls := { ret := v.pc + 1, split := true, base := v.tag } :: v.calls }
               (BitVec.ofNat 20 m)))
  ∧ ((∀ (s : State) (g : Nat) (b : Bool) (x : Group) (o : Ops) (unit : Nat) (place : Nat → Place),
       let p := calliMPlan o unit b x
       MayIssue s g b x p.writers p.writers p.srcs [] → p.lanes ≠ [] → Unordered s g x p → Reaches s x p place →
       (∀ m ∈ s.flight, m.kind = .target → m.uid ≠ x.uid) →
       ∃ t y op, exec (.calliM o unit) s = .next t ∧ t.group? g = some y ∧ (y.slot b).pc = (x.slot b).pc ∧ (y.slot b).wait = .reply
         ∧ SameRegisters x y ∧ SameBytes s t ∧ t.flight = s.flight ++ [op] ∧ op.kind = .target
         ∧ op.lanes.map (fun a => (a.lane, a.addr, a.place)) = p.lanes.map (fun a => (a.lane, a.addr, place a.lane)))
     ∧ ∀ (s : State) (id d g n : Nat) (x : Group) (op : MemOp), s.op? id = some op → op.kind = .target → op.d = some d →
       op.performed = true → s.opGroup op = some (g, x) → op.agent = .group g → x.stop = none → x.run ≠ .exited →
       (∃ a ∈ op.lanes, laneBit (x.slot op.slot).mask a.lane = true) →
       (∀ a ∈ op.lanes, a.poisoned = false ∧ a.lane < 64 ∧ a.result.toNat = n) → n < 2 ^ 20 →
       x.items + 1 ≤ s.stackLimit x →
       ∃ t y, exec (.memoryReply id) s = .next t ∧ t.group? g = some y ∧ t.op? id = none ∧ SameBytes s t ∧ SameRegisters x y
         ∧ (y.slot op.slot).pc = BitVec.ofNat 20 n ∧ (y.slot op.slot).wait = .run ∧ (y.slot op.slot).rebind = none
         ∧ (y.slot op.slot).calls = { ret := (x.slot op.slot).pc + 1, split := ((x.slot op.slot).rebind.getD (false, 0)).1,
                                      base := ((x.slot op.slot).rebind.getD (false, 0)).2 } :: (x.slot op.slot).calls
         ∧ y.slot (!op.slot) = x.slot (!op.slot))

/-- Rules R45, R48 and R242: BRX goes on where no lane takes it and to its target where all do. Where some do, both parts take
a new tag: the lanes that do not take it stay in the slot; the others go to the other slot where it is free, both with the tag
before as the outer one, else onto the stack with that outer tag, the slot's own outer tag unchanged; the part that leaves has
a copy of the call stack. Past four entries the oldest entry goes to the group's stack area in its 16 bytes, and no other byte
changes.
Rules R46 and R243, row by row: JOIN goes on where the slot's tag is 0; merges with the other slot of the same tag that
waits at this word; waits for one that is elsewhere; lets the deferred part of the top entry of the tag run, and keeps the
arrived one at this JOIN; pops an entry whose deferred part has run, or holds no lane any more (R51), and goes on with both masks (what was spilled of
the stack comes back from a stack area that is mapped); else goes on. -/
def Obligations.Divergence : Prop :=
  (∀ (s : State) (g : Nat) (b : Bool) (x : Group) (o : IOps), MayIssue s g b x [] [] [] [] →
     let v := x.slot b
     let taken := v.mask &&& x.maskReg o.a
     let left := v.mask &&& ~~~(x.maskReg o.a)
     let target := branchTarget v.pc o.imm
     (taken = 0 → ∃ t y, SameRegisters x y ∧ LaneStep (.brx o) s t g b x y)
     ∧ (taken ≠ 0 → left = 0 → ∃ t y, ControlStep (.brx o) s t g x y ∧ SameStack x y ∧ y.slot (!b) = x.slot (!b)
         ∧ Arrives s x b (y.slot b) v target)
     ∧ (taken ≠ 0 → left ≠ 0 → ∀ (tag : Nat) (z : Group), x.newTag = some (tag, z) →
         ((x.slot (!b)).live = false → x.items + v.calls.length ≤ s.stackLimit x →
           ∃ t y, ControlStep (.brx o) s t g x y ∧ y.stack = x.stack ∧ y.nextTag = z.nextTag
             ∧ GoesOn (y.slot b) { v with mask := left, tag := tag, outer := v.tag }
             ∧ Arrives s x b (y.slot (!b)) { pc := target, mask := taken, tag := tag, outer := v.tag, calls := v.calls } target)
         ∧ ((x.slot (!b)).live = true → x.items + (1 + v.calls.length) ≤ s.stackLimit x → x.stack.length < 4 →
           ∃ t y, ControlStep (.brx o) s t g x y ∧ y.nextTag = z.nextTag ∧ y.slot (!b) = x.slot (!b)
             ∧ y.stack = { tag := tag, outer := v.tag, defPc := target, defMask := taken, defCalls := v.calls } :: x.stack
             ∧ GoesOn (y.slot b) { v with mask := left, tag := tag })
         ∧ ∀ (l : Launch) (k : Nat), (x.slot (!b)).live = true → x.items + (1 + v.calls.length) ≤ s.stackLimit x → 4 ≤ x.stack.length →
           s.launch? x.launch = some l → MapsTo s x.part (stackPlace s x l + 16 * (x.stack.length - 4)) 16 k →
           ∃ t y, exec (.brx o) s = .next t ∧ t.group? g = some y ∧ y.nextTag = z.nextTag ∧ y.slot (!b) = x.slot (!b)
             ∧ y.stack = { tag := tag, outer := v.tag, defPc := target, defMask := taken, defCalls := v.calls } :: x.stack
             ∧ GoesOn (y.slot b) { v with mask := left, tag := tag } ∧ SameRegisters x y
             ∧ (∀ a, (a < k ∨ k + 16 ≤ a) → t.mem.byte a = s.mem.byte a) ∧ t.clusters = s.clusters))
  ∧ (∀ (s : State) (g : Nat) (b : Bool) (x : Group) (o : Ops), MayIssue s g b x [] [] [] [] →
       let v := x.slot b
       let w := x.slot (!b)
       (v.tag = 0 → ∃ t y, SameRegisters x y ∧ LaneStep (.join o) s t g b x y)
       ∧ (v.tag ≠ 0 → w.live = true → w.tag = v.tag → w.wait = .atJoin → w.pc = v.pc →
           ∃ t y, ControlStep (.join o) s t g x y ∧ SameStack x y ∧ (y.slot (!b)).live = false
             ∧ GoesOn (y.slot b) { v with mask := v.mask ||| w.mask, tag := v.outer, outer := Sp.getD x.outerOf v.outer 0 })
       ∧ (v.tag ≠ 0 → w.live = true → w.tag = v.tag → w.wait = .run →
           ∃ t y, ControlStep (.join o) s t g x y ∧ SameStack x y ∧ y.slot (!b) = w
             ∧ y.slot b = { v with wait := .atJoin, age := (y.slot b).age })
       ∧ (v.tag ≠ 0 → ¬(w.live = true ∧ w.tag = v.tag) → ∀ (e : StackEntry) (rest : List StackEntry), x.stack = e :: rest → e.tag = v.tag →
           (e.defRun = false → e.defMask ≠ 0 → ∃ t y, ControlStep (.join o) s t g x y ∧ y.slot (!b) = w
             ∧ Arrives s x b (y.slot b) { v with mask := e.defMask, calls := e.defCalls } e.defPc
             ∧ y.stack = { e with defRun := true, defCalls := [], arrPc := v.pc, arrMask := v.mask, arrCalls := v.calls, arrBase := none } :: rest)
           ∧ (e.defRun = true ∨ e.defMask = 0 → StackBack s x → ∃ t y, ControlStep (.join o) s t g x y ∧ y.slot (!b) = w ∧ y.stack = rest
             ∧ GoesOn (y.slot b) { v with mask := v.mask ||| e.arrMask, tag := e.outer, outer := Sp.getD x.outerOf e.outer 0 }))
       ∧ (v.tag ≠ 0 → ¬(w.live = true ∧ w.tag = v.tag) → (∀ e, x.stack.head? = some e → e.tag ≠ v.tag) →
           ∃ t y, SameRegisters x y ∧ LaneStep (.join o) s t g b x y))

/-- Rules R41, R125, R249 and R251: EXIT takes its lanes from the slot and from every deferred and arrived mask; while lanes are
left the slot goes on, and where nothing of the group is left the group leaves its slice at once, its registers as they stood
until the slot is taken. CUEPT, once everything earlier is done in every lane and with the other slot free, sets the cue count to
its number and goes on; an injected fault that names that count falls due (R453). -/
def Obligations.ExitsAndCues : Prop :=
  ∀ (s : State) (g : Nat) (b : Bool) (x : Group) (o : Ops),
    (MayIssue s g b x [] [] [] [] →
      let m := lanesMask (x.writers b o.p o.pn)
      ((x.slot b).mask &&& ~~~m ≠ 0 →
        ∃ t y, ControlStep (.exit o) s t g x y ∧ GoesOn (y.slot b) { x.slot b with mask := (x.slot b).mask &&& ~~~m }
          ∧ y.slot (!b) = x.slot (!b) ∧ y.nextTag = x.nextTag
          ∧ y.stack = x.stack.map (fun e => { e with defMask := e.defMask &&& ~~~m, arrMask := e.arrMask &&& ~~~m }))
      ∧ ((x.slot b).mask &&& ~~~m = 0 → x.stack = [] → (x.slot (!b)).live = false →
        ∃ t y, exec (.exit o) s = .next t ∧ (∀ a, t.mem.byte a = s.mem.byte a) ∧ t.group? g = none
          ∧ Sp.get? t.oldGroups g = some y ∧ y.run = .exited ∧ SameRegisters x y))
    ∧ (let l := (lowestLane (x.slot b).mask).getD 0
      let n := x.read .src32 o.a l 0
      MayIssue s g b x [l] [l] [(.src32, o.a)] [] → s.allDone g x = true → x.stepsDone (s.issueCycle x) = true → (x.slot (!b)).live = false →
      x.cue.toNat < n → s.pairOf? x.team = none → (s.part x.part).cutState ≠ 1 →
      ∃ t y, SameRegisters x y ∧ exec (.cuept o) s = .next t ∧ t.group? g = some y
        ∧ IssuedAs { x with cue := BitVec.ofNat 32 n, cutStop := false } y b ∧ OnlyGroup (s.armCue x n) t g ∧ SameBytes s t)

/-! ### Lane events: taking one, and the return from it -/

/-- Rules R74 to R76 and R403: taking a lane event halts the whole group with its event hold, its slots where they resume, and
posts the record to its generator's queue, in order, at once where nothing is in the way; a context that waits for an event
goes on. Nothing else changes.
Rule R75: the five words of a fault record: cause, team handle, group index, slot, slice, group slot and script address; the
lanes; the lane word; the detail over the word's provenance; the address.
Rules R74, R76, R77 and R403: an event whose cause has no evmask bit becomes a level-G fault, and its launch ends; ASSIST goes
to context 6 whatever evmask holds; a stop whose older instructions are not done, or that finds the queue full, keeps its
record and posts nothing yet. -/
def Obligations.LaneEventEntry : Prop :=
  (∀ (s : State) (g : Nat) (b : Bool) (x : Group) (tm : Team) (c : Ctx) (cause : Nat) (saddr : BitVec 20) (lanes : DWord) (detail addr : Nat),
     s.group? g = some x → Postable s g x tm c cause → cause < 256 → cause ≠ 0x0B → x.index < 32 → x.gslot < 32 → s.recSlice x < 16 →
     let t := s.takeEvent g b cause saddr lanes detail addr
     let r := s.laneRec x b cause saddr lanes detail addr
     (∃ y, t.group? g = some y ∧ Halted x y r ∧ y.posted = true)
     ∧ t.ctx? tm.ctx = some { c with events := c.events ++ [(r, x.clk, g)], wait := if c.wait == .event then .run else c.wait }
     ∧ (∀ k, k ≠ g → t.group? k = s.group? k) ∧ (∀ k, k ≠ tm.ctx → t.ctx? k = s.ctx? k)
     ∧ t = { s with groups := t.groups, ctxs := t.ctxs })
  ∧ (∀ (s : State) (x : Group) (b : Bool) (cause : Nat) (saddr : BitVec 20) (lanes : DWord) (detail addr : Nat),
       cause < 256 → x.index < 32 → x.gslot < 32 → s.recSlice x < 16 →
       let r := s.laneRec x b cause saddr lanes detail addr
       r.cause = cause ∧ field r.w0 48 8 = x.team % 192 ∧ field r.w0 43 5 = x.index ∧ field r.w0 42 1 = b.toNat ∧ field r.w0 38 4 = s.recSlice x
       ∧ field r.w0 33 5 = x.gslot ∧ field r.w0 20 13 = 0 ∧ field r.w0 0 20 = saddr.toNat
       ∧ r.w1 = lanes ∧ r.w2 = (s.wordAt x saddr).1 ∧ field r.w3 32 32 = detail % 2 ^ 32 ∧ field r.w3 0 32 = (s.wordAt x saddr).2.toNat
       ∧ r.w4 = BitVec.ofNat 64 addr)
  ∧ (∀ (s : State) (g : Nat) (b : Bool) (x : Group) (tm : Team) (c : Ctx) (cause : Nat) (saddr : BitVec 20) (lanes : DWord) (detail addr : Nat),
       s.group? g = some x → s.team? x.team = some tm → s.ctx? tm.ctx = some c → tm.copy = .sole → cause < 256 → x.index < 32 → x.gslot < 32 →
       s.recSlice x < 16 →
       let t := s.takeEvent g b cause saddr lanes detail addr
       let r := s.laneRec x b cause saddr lanes detail addr
       (s.settled g x = true → c.evmask.getLsbD cause = false → cause ≠ 0x0B → c.inService = [] →
         ∀ l, s.launch? c.launch = some l → l.killed = false → ∃ k, t.launch? c.launch = some k ∧ k.killed = true ∧ k.status = 0x08)
       ∧ (s.settled g x = true → cause = 0x0B → ∀ a, s.ctx? (ctxKey x.ckey 6) = some a →
         t.ctx? (ctxKey x.ckey 6) = some { a with events := a.events ++ [(r, x.clk, g)], wait := if a.wait == .event then .run else a.wait })
       ∧ (s.settled g x = false ∨ (c.evmask.getLsbD cause = true ∧ 64 ≤ c.events.length ∧ cause ≠ 0x0B) →
         ∃ y, t.group? g = some y ∧ Halted x y r ∧ y.posted = false ∧ t.ctxs = s.ctxs))

/-- Rules R77, R350 and R405: the return from a lane event disposes of it: the event hold is clear, and where the system context
resumes the debug hold and the hold of a translation fault too; a group with no hold left is ready in the wings from now on.
Its slots stand where they stood, one that a translation fault held tries its word again, and it has acquired what the
resumer did before. -/
def Obligations.LaneEventReturn : Prop :=
  ∀ (s : State) (g : Nat) (x : Group) (both : Bool) (k : Clock), s.group? g = some x →
    let t := s.returnEvent g both k
    ∃ y, t.group? g = some y ∧ y.evHold = false ∧ y.dbgHold = (x.dbgHold && !both) ∧ y.trHold = (x.trHold && !both) ∧ y.stop = none
      ∧ y.clk = Clock.join x.clk k ∧ y.stack = x.stack ∧ SameRegisters x y
      ∧ (∀ b, y.slot b = if both = true ∧ (x.slot b).wait = .walk then { x.slot b with wait := .run } else x.slot b)
      ∧ (y.run = .active ↔ x.run = .active ∨ (x.run = .halted ∧ y.dbgHold = false ∧ y.trHold = false))
      ∧ (x.run = .halted → y.run = .active → y.onStage = false ∧ y.readyAge = s.sliceNow x)
      ∧ (∀ n, n ≠ g → t.group? n = s.group? n)
      ∧ t = { s with groups := t.groups, faulted := if both then s.faulted.filter (fun w => w.agent != Agent.group g) else s.faulted }

/-- Rules R74, R248, R252 and R403: TRAP and BKPT with a writing lane stop after the word, with cause 0x02 or 0x03, the writing
lanes and the code as detail; BIND pops the top call record into the rebind state and stops at its own word with cause
0x0A, every lane of the slot and the address of the call; with no writing lane TRAP and BKPT go on. -/
def Obligations.TrapsAndBinds : Prop :=
  ∀ (s : State) (g : Nat) (b : Bool) (x : Group) (tm : Team) (c : Ctx) (o : Ops) (code : Nat), MayIssue s g b x [] [] [] [] →
    let ws := x.writers b o.p o.pn
    (ws = [] → (∃ t y, SameRegisters x y ∧ LaneStep (.trap o code) s t g b x y) ∧ ∃ t y, SameRegisters x y ∧ LaneStep (.bkpt o code) s t g b x y)
    ∧ (ws ≠ [] → Postable s g x tm c 0x02 → x.index < 32 → x.gslot < 32 → s.recSlice x < 16 →
      ∃ t y r, exec (.trap o code) s = .next t ∧ t.group? g = some y ∧ y.run = .halted ∧ y.evHold = true ∧ y.stop = some r
        ∧ r = s.laneRec x b 0x02 (x.slot b).pc (lanesMask ws) code 0 ∧ (y.slot b).pc = (x.slot b).pc + 1 ∧ y.slot (!b) = x.slot (!b)
        ∧ y.regs = x.regs ∧ y.masks = x.masks ∧ y.fpflags = x.fpflags ∧ SameBytes s t)
    ∧ (ws ≠ [] → Postable s g x tm c 0x03 → x.index < 32 → x.gslot < 32 → s.recSlice x < 16 →
      ∃ t y r, exec (.bkpt o code) s = .next t ∧ t.group? g = some y ∧ y.run = .halted ∧ y.evHold = true ∧ y.stop = some r
        ∧ r = s.laneRec x b 0x03 (x.slot b).pc (lanesMask ws) code 0 ∧ (y.slot b).pc = (x.slot b).pc + 1 ∧ y.slot (!b) = x.slot (!b)
        ∧ y.regs = x.regs ∧ y.masks = x.masks ∧ y.fpflags = x.fpflags ∧ SameBytes s t)
    ∧ (Postable s g x tm c 0x0A → x.index < 32 → x.gslot < 32 → s.recSlice x < 16 →
      ∃ t y r, exec (.bind o code) s = .next t ∧ t.group? g = some y ∧ y.run = .halted ∧ y.evHold = true ∧ y.stop = some r
        ∧ (match (x.slot b).calls with
          | [] => r = s.laneRec x b 0x0A (x.slot b).pc (x.slot b).mask 0 0 ∧ y.slot b = x.slot b
          | k :: rest => r = s.laneRec x b 0x0A (x.slot b).pc (x.slot b).mask 0 (k.ret - 1).toNat
              ∧ y.slot b = { x.slot b with calls := rest, rebind := some (k.split, k.base) })
        ∧ y.slot (!b) = x.slot (!b) ∧ y.regs = x.regs ∧ y.masks = x.masks ∧ y.fpflags = x.fpflags ∧ SameBytes s t)

/-! ### Memory -/

/-- Rules R81, R88, R208, R273 to R284, R287 and R294: a load, store, atomic, RED, FESET, FECLR or ARRIVE whose lanes pass their
checks completes at its issue: each writing lane's part, with the address that the lane computes, goes to the place the
translation or the scratchpad gives, and the group goes on before it is performed; one that no lane makes goes on.
Rules R324 and R325: CVSPLIT of a range that every writing lane may write leaves for its place: each lane's runs
and trailer, a granule each from the lane's address on, with what its destination receives once they are performed. The
first and last calls of Exhibit 19 write the runs listed there. -/
def Obligations.Accesses : Prop :=
  (∀ (s : State) (g : Nat) (b : Bool) (x : Group) (o : Ops) (unit : Nat) (ty : Ty) (sc : Scope) (od : Order) (sp : Bool) (place : Nat → Place),
     let goes (i : Instr) (p : MemPlan) : Prop :=
       MayIssue s g b x p.writers p.writers p.srcs p.dst → p.pre = none → Unordered s g x p →
       (p.lanes ≠ [] → Reaches s x p place → ∃ t y op, exec i s = .next t ∧ AccessSent i s t g b x y p place op ∧ t.teams = s.teams)
       ∧ (p.lanes = [] → ∃ t y, exec i s = .next t ∧ SameRegisters x y ∧ LaneStep i s t g b x y)
     goes (.ld o unit ty sc od) (loadPlan false o unit ty sc od b x)
     ∧ goes (.lds o unit ty sc od .plain) (loadPlan true o unit ty sc od b x)
     ∧ goes (.st o unit ty sc od) (storePlan false o unit ty sc od b x)
     ∧ goes (.sts o unit ty sc od false) (storePlan true o unit ty sc od b x)
     ∧ goes (.sts o unit ty sc od true) { storePlan true o unit ty .ens od b x with kind := .stsFe ty.bytes }
     ∧ goes (.atom o ty sc od sp) (rmwPlan sp o ty.bytes (.atom o.c ty) sc od (srcW ty.wide) .unused (dstW ty.wide) b x)
     ∧ goes (.acas o ty sc od sp) (rmwPlan sp o ty.bytes (.cas ty) sc od (srcW ty.wide) (srcW ty.wide) (dstW ty.wide) b x)
     ∧ goes (.abfi o ty sc od sp) (rmwPlan sp o ty.bytes (.bfi ty) sc od (srcW ty.wide) (srcW ty.wide) (dstW ty.wide) b x)
     ∧ goes (.affcs o sc od sp) (rmwPlan sp o 8 .ffcs sc od .unused .unused .dst32 b x)
     ∧ goes (.aplset o sc od sp) (rmwPlan sp o 8 .plset sc od .src64 .src32 .dst128 b x)
     ∧ goes (.red o ty sc od sp false) (rmwPlan sp o ty.bytes (.red o.c ty) sc od (srcW ty.wide) .unused .unused b x)
     ∧ goes (.feset o unit) (fePlan true o unit b x)
     ∧ goes (.feclr o unit) (fePlan false o unit b x)
     ∧ goes (.arrive o unit) (arrivePlan o unit b x))
  ∧ ((∀ (s : State) (g : Nat) (b : Bool) (x : Group) (o : Ops) (dim n : Nat) (ck off : Nat → Nat),
       let ws := x.writers b o.p o.pn
       let out (j : Nat) : List Nat × Nat := curveSplit dim n (x.read .src128 o.b j 0 % 2 ^ 64) (x.read .src128 o.b j 0 / 2 ^ 64) (x.read .src64 o.c j 0)
       MayIssue s g b x ws ws [(.src32, o.a), (.src128, o.b), (.src64, o.c)] [(.dst32, o.d)] → ws ≠ [] → s.memHeld g x = false →
       s.pairOf? x.team = none →
       (∀ j ∈ ws, s.spadCheck x (x.address true o.a 0 j) (16 * (n + 1)) (Nat.min 16 (16 * (n + 1))) false = .inl (.spad (ck j) (off j))) →
       ∃ t y op, exec (.cvsplit o dim n true) s = .next t ∧ t.group? g = some y ∧ IssuedAs { x with clk := y.clk } y b ∧ SameRegisters x y
         ∧ SameBytes s t ∧ (∀ k, k ≠ g → t.group? k = s.group? k) ∧ t.flight = s.flight ++ [op] ∧ op.kind = .store 16 ∧ op.d = some o.d
         ∧ op.performed = false
         ∧ op.lanes.map (fun a => (a.lane, a.place, a.size, a.data, a.result))
             = ws.flatMap (fun j => ((out j).1.zip (List.range (out j).1.length)).map (fun q =>
                 (j, Place.spad (ck j) (off j + 16 * q.2), 16, BitVec.ofNat 128 q.1, BitVec.ofNat 128 (out j).2))))
     ∧ (∀ (s : State) (g : Nat) (b : Bool) (x : Group) (o : Ops) (dim n : Nat) (at_ : Nat → Nat → Nat),
       let ws := x.writers b o.p o.pn
       let out (j : Nat) : List Nat × Nat := curveSplit dim n (x.read .src128 o.b j 0 % 2 ^ 64) (x.read .src128 o.b j 0 / 2 ^ 64) (x.read .src64 o.c j 0)
       MayIssue s g b x ws ws [(.src64, o.a), (.src128, o.b), (.src64, o.c)] [(.dst32, o.d)] → ws ≠ [] → s.memHeld g x = false →
       s.pairOf? x.team = none →
       (∀ j ∈ ws, ∀ k, k ≤ n → deviceCheck (x.address false o.a 0 j + 16 * k) 16 = none
         ∧ ∃ chk, s.translate x.ckey (x.address false o.a 0 j + 16 * k) true = .hit (at_ j k) chk ∧ s.unitMay x.part (at_ j k) true = true
           ∧ s.servedAt (at_ j k) = .dev (at_ j k)) →
       (∀ j ∈ ws, (out j).1.length ≤ n + 1) →
       ∃ t y op, exec (.cvsplit o dim n false) s = .next t ∧ t.group? g = some y ∧ IssuedAs { x with clk := y.clk } y b ∧ SameRegisters x y
         ∧ SameBytes s t ∧ (∀ k, k ≠ g → t.group? k = s.group? k) ∧ t.flight = s.flight ++ [op] ∧ op.kind = .store 16 ∧ op.d = some o.d
         ∧ op.performed = false
         ∧ op.lanes.map (fun a => (a.lane, a.place, a.size, a.data, a.result))
             = ws.flatMap (fun j => ((out j).1.zip (List.range (out j).1.length)).map (fun q =>
                 (j, Place.dev (at_ j q.2), 16, BitVec.ofNat 128 q.1, BitVec.ofNat 128 (out j).2))))
     ∧ curveSplit 2 4 13 54 0 = ([13 + 2 ^ 64 * 13, 15 + 2 ^ 64 * 15, 24 + 2 ^ 64 * 28, 3 + 2 ^ 32 + 2 ^ 64 * 30], 2 ^ 31 + 3)
     ∧ curveSplit 2 4 13 54 48 = ([48 + 2 ^ 64 * 52, 54 + 2 ^ 64 * 54, 2], 2))

/-- Rules R121, R276 and R280: an access that takes its place is performed in lane order. A store writes each lane's data,
little-endian, at its place, and no other byte; a load whose lanes see every write to their bytes (R127) gives each lane the
bytes at its place, narrow types extended, and changes none.
Rules R136 and R403: an access whose verdict is a race is not performed: no byte of device memory changes, the access is
gone, and the group's event is taken before its word, with the lanes that race.
Rules R81, R88 and R273: an access that any lane's check fails stops the group before the word with the first failing check
in the order of R88: the event has its cause, names every lane that fails a check of that cause, and gives the address of the
lowest lane it names; the detail is that of the lowest lane that fails the first. -/
def Obligations.HomePerforms : Prop :=
  (∀ (s : State) (id : Nat) (op : MemOp) (lanes : DWord), TakesPlace s id op lanes →
     (∀ n, op.kind = .store n → (∀ a ∈ op.lanes, ∃ p, a.place = .dev p) →
       ∃ t, exec (.homeAccess id lanes) s = .next t
         ∧ t.mem = op.lanes.foldl (fun m a => match a.place with | .dev p => m.write p n (a.data.toNat % 2 ^ (8 * n)) | _ => m) s.mem
         ∧ (∀ k, (t.cluster k).spad = (s.cluster k).spad))
     ∧ (∀ n ck, op.kind = .store n → (∀ a ∈ op.lanes, ∃ off, a.place = .spad ck off) →
       ∃ t, exec (.homeAccess id lanes) s = .next t ∧ t.mem = s.mem
         ∧ (∀ k, (t.cluster k).spad = if k = ck
             then op.lanes.foldl (fun m a => match a.place with | .spad _ off => m.write off n (a.data.toNat % 2 ^ (8 * n)) | _ => m) (s.cluster ck).spad
             else (s.cluster k).spad))
     ∧ (∀ ty d, op.kind = .load ty → op.d = some d → (∀ a ∈ op.lanes, ∃ p, a.place = .dev p) →
       (∀ a ∈ op.lanes, s.sees op.reader a.place a.size = true) →
       ∃ t done, exec (.homeAccess id lanes) s = .next t ∧ t.op? id = some done ∧ done.performed = true ∧ SameBytes s t
         ∧ done.lanes.map (fun a => (a.lane, a.result))
             = op.lanes.map (fun a => (a.lane, BitVec.ofNat 128 (loadImage ty (match a.place with | .dev p => s.mem.read p a.size | _ => 0)))))
     ∧ (∀ ty d a, op.kind = .load ty → op.d = some d → op.lanes = [a] →
       ∃ t done, exec (.homeAccess id lanes) s = .next t ∧ t.op? id = some done ∧ done.performed = true ∧ SameBytes s t
         ∧ done.lanes.map (fun a => (a.lane, a.result)) = [(a.lane, BitVec.ofNat 128 (loadImage ty (s.peek op.reader a.place a.size)))]))
  ∧ (∀ (s : State) (id : Nat) (op : MemOp) (lanes : DWord) (g : Nat) (x : Group) (r : Nat × Access) (rs : List (Nat × Access)),
       s.op? id = some op → s.homeReady op = true → op.judged = false → s.opGroup op = some (g, x) → s.raced x op.accs = r :: rs →
       ∃ t, exec (.homeAccess id lanes) s = .next t ∧ (∀ a, t.mem.byte a = s.mem.byte a) ∧ t.op? id = none
         ∧ ∀ y, t.group? g = some y → y.evHold = true ∧ y.run = .halted ∧ (y.slot op.slot).pc = op.pc
           ∧ ∃ k, y.stop = some k ∧ k.w1 = lanesMask ((r :: rs).map Prod.fst))
  ∧ (∀ (s : State) (g : Nat) (b : Bool) (x : Group) (i : Instr) (p : MemPlan) (before after : List LaneAcc) (a : LaneAcc) (c : Check),
       planOf b x i = some p → MayIssue s g b x p.writers p.writers p.srcs p.dst → p.pre = none → Unordered s g x p →
       let chk (q : LaneAcc) : Option Check :=
         if p.spad then
           (match s.spadCheck x q.addr q.size (Nat.min p.align q.size) p.whole with | .inr e => some e | .inl _ => none)
         else deviceCheck q.addr q.size
       p.lanes = before ++ a :: after → chk a = some c →
       (∀ q ∈ before, ∀ e, chk q = some e → c.rank < e.rank) → (∀ q ∈ after, ∀ e, chk q = some e → c.rank ≤ e.rank) →
       ∀ (low : LaneAcc) (rest : List LaneAcc), p.lanes.filter (fun q => (chk q).any (fun e => e.cause == c.cause)) = low :: rest →
         exec i s = .next (s.stopBefore g b x c.cause (lanesMask ((low :: rest).map LaneAcc.lane)) c.detail low.addr))

/-- Rules R280, R282, R283 and R284: what a read-modify-write of each kind leaves at its place, and gives back, from the old
value and its operands.
Rules R121, R130, R136 and R281: a read-modify-write of one lane takes its place as one event: the old value is that of the
bytes as the newest write of any path left them, the place holds the new value where there is one, the lane gets the result, and no
other byte changes. -/
def Obligations.AtomicOperations : Prop :=
  (∀ (ty : Ty) (old v w : Nat), old < 2 ^ atomBits ty → v < 2 ^ atomBits ty → w < 2 ^ atomBits ty →
     rmwResult (.atom 0 ty) old v 0 = (some ((old + v) % 2 ^ atomBits ty), old)
     ∧ rmwResult (.atom 1 ty) old v 0 =
         (some (if (if ty.signed then signedOf (atomBits ty) old ≤ signedOf (atomBits ty) v else (old : Int) ≤ v) then old else v), old)
     ∧ rmwResult (.atom 2 ty) old v 0 =
         (some (if (if ty.signed then signedOf (atomBits ty) old ≤ signedOf (atomBits ty) v else (old : Int) ≤ v) then v else old), old)
     ∧ rmwResult (.atom 3 ty) old v 0 = (some (old &&& v), old) ∧ rmwResult (.atom 4 ty) old v 0 = (some (old ||| v), old)
     ∧ rmwResult (.atom 5 ty) old v 0 = (some (old ^^^ v), old) ∧ rmwResult (.atom 6 ty) old v 0 = (some v, old)
     ∧ rmwResult (.atom 7 ty) old v 0 = (some (if v ≤ old then 0 else old + 1), old)
     ∧ rmwResult (.atom 8 ty) old v 0 = (some (if old = 0 ∨ v < old then v else old - 1), old)
     ∧ rmwResult (.cas ty) old v w = (if old = v then some w else none, old)
     ∧ (∃ r, rmwResult (.bfi ty) old v w = (some r, old) ∧ ∀ k, k < atomBits ty → r.testBit k = if w.testBit k then v.testBit k else old.testBit k)
     ∧ ((∀ k, k < 64 → old.testBit k = true) → rmwResult .ffcs old v w = (none, 64))
     ∧ (∀ k, k < 64 → old.testBit k = false → (∀ n, n < k → old.testBit n = true) → rmwResult .ffcs old v w = (some (old + 2 ^ k), k))
     ∧ rmwResult .plset old v w = (if popCount 64 (old ||| v) ≤ w then (some (old ||| v), old + 2 ^ 64) else (none, old)))
  ∧ (∀ (s : State) (id : Nat) (op : MemOp) (lanes : DWord) (a : LaneAcc) (p d : Nat), TakesPlace s id op lanes → op.lanes = [a] →
       a.place = .dev p → op.ord = false → op.d = some d →
       (match op.kind with | .atom _ _ => True | .cas _ => True | .bfi _ => True | .ffcs => True | .plset => True | _ => False) →
       let r := rmwResult op.kind (s.mem.read p a.size) a.data.toNat a.data2.toNat
       ∃ t done, exec (.homeAccess id lanes) s = .next t ∧ t.op? id = some done ∧ done.performed = true
         ∧ t.mem = (match r.1 with | some v => s.mem.write p a.size v | none => s.mem)
         ∧ done.lanes.map (fun a => (a.lane, a.result)) = [(a.lane, BitVec.ofNat 128 r.2)]
         ∧ ∀ k, (t.cluster k).spad = (s.cluster k).spad)

/-- Rules R275 and R397: the reply of a performed load or atomic writes each lane's result to its registers and nothing else of
the registers, and the access is gone; an access with no reply that was performed away is gone with its acknowledgement. -/
def Obligations.Replies : Prop :=
  (∀ (s : State) (id d g : Nat) (x : Group) (op : MemOp), s.op? id = some op → op.d = some d → op.performed = true →
    s.opGroup op = some (g, x) → op.agent = .group g → x.stop = none → x.run ≠ .exited → (∀ a ∈ op.lanes, a.poisoned = false ∧ a.lane < 64) →
    (op.lanes.map LaneAcc.lane).Nodup → (match op.kind with | .target => False | .arrive _ => False | _ => True) →
    ∃ t y, exec (.memoryReply id) s = .next t ∧ t.group? g = some y ∧ t.op? id = none ∧ SameBytes s t
      ∧ (∀ n j, j < 64 → (∀ a ∈ op.lanes, a.lane ≠ j ∨ n < d ∨ d + op.dstRegs ≤ n) → y.reg n j = x.reg n j)
      ∧ (∀ a ∈ op.lanes, ∀ k, k < op.dstRegs → y.reg (d + k) a.lane = BitVec.ofNat 32 (a.result.toNat / 2 ^ (32 * k)))
      ∧ y.masks = x.masks ∧ y.latches = x.latches ∧ y.slotA = x.slotA ∧ y.slotB = x.slotB ∧ y.run = x.run
      ∧ ∀ k, k ≠ g → t.group? k = s.group? k)
  ∧ ∀ (s : State) (id : Nat) (op : MemOp), s.op? id = some op → op.performed = true → op.d = none →
    ∃ t, exec (.storeAck id) s = .next t ∧ t.op? id = none ∧ SameBytes s t ∧ t.groups = s.groups ∧ t.teams = s.teams
      ∧ ∀ n, n ≠ id → t.op? n = s.op? n

/-- Rules R125, R127, R128, R279, R285 and R286: FENCE waits where later memory words are held; else the group goes on at once.
With rel it keeps the clock that later atomic writes publish, and those are performed after what was issued before; at team
scope or wider no earlier access of the group is the X of a race any more. With acq it holds later memory words until earlier
atomic reads, and for sc every earlier access, are done. PFENCE waits while later words are held and while its first path holds
what happens before it; then that is seen on the second path. PREF always completes, and changes no byte.
Rules R91, R92, R129 and R278: LDS.fe and LDS.fec, with every granule they name full, read their bytes in one event, those an
engine wrote among them, which LDS.fec ends by clearing the full bits; the reply is in flight. With one that is not full, or one
that an older waiter goes first for, they wait at the word. -/
def Obligations.Synchronisation : Prop :=
  (∀ (s : State) (g : Nat) (b : Bool) (x : Group) (o : Ops),
     let ws := x.writers b o.p o.pn
     (∀ sc od, MayIssue s g b x [] [] [] [] →
       let reads := s.flight.any (fun m => m.agent == Agent.group g && m.uid == x.uid && m.atomic && m.d.isSome)
       let open_ := reads || (od == .sc && s.undone g x)
       (ws = [] ∨ s.memHeld g x = false →
         ∃ t y, OnceStep (.fence o sc od) s t g b
             { x with clk := y.clk, relFence := y.relFence, rels := y.rels, relAt := y.relAt, fence := y.fence, scClk := y.scClk } y
           ∧ SameRegisters x y ∧ SameBytes s t ∧ t.flight = s.flight
           ∧ (ws ≠ [] → orderReleases od = true → (sc, y.clk) ∈ y.relFence ∧ y.relAt = s.nextId
               ∧ (scopeWide sc = true → ∀ a ∈ t.access, a.uid ≠ x.uid))
           ∧ y.fence = if ws ≠ [] ∧ orderAcquires od = true then (if open_ then some (sc, od) else none) else x.fence)
       ∧ (ws ≠ [] → s.memHeld g x = true → ∃ t y, WaitsAt (.fence o sc od) s t g b x y .memOrder))
     ∧ (MayIssue s g b x [] [] [] [] →
       let src := o.c % 8
       let dst := o.c / 8 % 8
       (ws = [] ∨ src = dst ∨ (s.memHeld g x = false ∧ (src ≠ 0 ∨ s.undoneBefore g x = false) ∧ s.pathBusy g x src = false) →
         ∃ t y, OnceStep (.pfence o) s t g b { x with clk := y.clk } y ∧ SameRegisters x y ∧ SameBytes s t
           ∧ (ws ≠ [] → src ≠ dst → (∀ e ∈ s.late, ∀ c ∈ e.crossed, c.2.1 = x.uid → c.2.2 ≤ Sp.getD x.clk x.uid 0) →
             ∀ e ∈ t.late, e.path = pathOf src → (e.req ≠ 0 ∧ e.uid = x.uid) ∨ e.before x.clk = true →
               e.hides { path := pathOf dst, clk := y.clk } = false))
       ∧ (ws ≠ [] → src ≠ dst → s.memHeld g x = true ∨ (src = 0 ∧ s.undoneBefore g x = true) →
         ∃ t y, WaitsAt (.pfence o) s t g b x y .memOrder)
       ∧ (ws ≠ [] → src ≠ dst → s.memHeld g x = false → src ≠ 0 → s.pathBusy g x src = true →
         ∃ t y, WaitsAt (.pfence o) s t g b x y (.path (pathOf src))))
     ∧ (∀ unit, MayIssue s g b x ws ws [(.src64, o.a)] [] →
       ∃ t y, OnceStep (.pref o unit) s t g b x y ∧ SameRegisters x y ∧ SameBytes s t))
  ∧ (∀ (s : State) (g : Nat) (b : Bool) (x : Group) (o : Ops) (unit : Nat) (ty : Ty) (clear : Bool) (ck off : Nat) (l : Nat),
       let i : Instr := .lds o unit ty .ens .plain (if clear then .fec else .fe)
       let p := { loadPlan true o unit ty .ens .plain b x with kind := .ldsFe ty clear }
       MayIssue s g b x p.writers p.writers p.srcs p.dst → x.writers b o.p o.pn = [l] → s.memHeld g x = false →
       s.placeSpad x p = .ok (p.lanes.map (fun a => { a with place := .spad ck off })) → off / 16 < 65536 → off % ty.bytes = 0 →
       s.undoneAt g x (p.lanes.map (fun a => { a with place := .spad ck off })) = false →
       (∀ e ∈ s.late, e.space = ck + 1 → e.addr / 16 = off / 16 → e.hides x.reader = true →
         e.path.engine = true ∧ ∀ c ∈ e.crossed, c.1 = .lane → c.2.1 ≠ x.uid) →
       let keys := [ck * 65536 + off / 16]
       let older := s.olderWaiter (s.waitPlace (x.slot b) keys) keys
       (s.isFull (ck * 65536 + off / 16) = false ∨ older = true → ∃ t y, WaitsAt i s t g b x y .fullEmpty)
       ∧ (s.isFull (ck * 65536 + off / 16) = true → older = false → (∀ a ∈ s.access, a.uid = x.uid) → (s.cluster ck).poisoned off ty.bytes = false →
         ∃ t y op a, OnceStep i s t g b { x with clk := y.clk } y ∧ SameRegisters x y ∧ SameBytes s t
           ∧ t.flight = s.flight ++ [op] ∧ op.lanes = [a] ∧ op.performed = true ∧ op.d = some o.d
           ∧ a.lane = l ∧ a.result = BitVec.ofNat 128 (loadImage ty ((s.cluster ck).spad.read off ty.bytes))
           ∧ ∀ k, t.isFull k = (s.isFull k && !(clear && k == ck * 65536 + off / 16))))

/-- Rules R110 to R112 and R293: what a barrier word holds, and the test after each update: a phase completes when nothing is
pending and enough have arrived; the arrivals above the expected count stay, and the phase flips. A dead lane lowers the
expected count, or counts as arrived where one is left.
Rules R111, R112, R293 to R295: BINIT goes to its word; performed, the word holds the mode, the expected count and nothing else,
and its team lists it, once. A performed ARRIVE adds its lanes, or 1 in group mode, and its pending change, and gives
back the phase it counts towards. BWAIT goes on where the phase differs from the one observed, else it waits at the word. -/
def Obligations.Barriers : Prop :=
  ((∀ (w : BarWord) (old : Nat), w.expected < 2 ^ 32 → w.arrived < 2 ^ 32 → -2 ^ 31 ≤ w.pending → w.pending < 2 ^ 31 →
     BarWord.ofNat (w.toNat old) = w ∧ ∀ k, 67 ≤ k → k < 96 → (w.toNat old).testBit k = old.testBit k)
   ∧ (∀ w : BarWord,
     (w.expected ≤ w.arrived → w.pending = 0 → w.test = ({ w with arrived := w.arrived - w.expected, phase := !w.phase }, true))
     ∧ (w.arrived < w.expected ∨ w.pending ≠ 0 → w.test = (w, false))
     ∧ (1 < w.expected → w.lower = { w with expected := w.expected - 1 })
     ∧ (w.expected ≤ 1 → w.lower = { w with arrived := w.arrived + 1 }))
   ∧ ∀ (s : State) (ck off : Nat) (clk : Clock) (f : BarWord → BarWord),
     let r := (f (BarWord.ofNat ((s.cluster ck).spad.read off 16))).test
     let t := s.barUpdate ck off clk f
     (t.cluster ck).spad = (s.cluster ck).spad.write off 16 (r.1.toNat ((s.cluster ck).spad.read off 16))
     ∧ (∀ k, k ≠ ck → t.cluster k = s.cluster k) ∧ t = { s with clusters := t.clusters, late := t.late })
  ∧ ((∀ (s : State) (g : Nat) (b : Bool) (x : Group) (o : Ops) (unit l ck off : Nat) (mode : Bool) (tm : Team),
       let p := binitPlan o unit mode b x
       MayIssue s g b x [l] [l] p.srcs [] → x.writers b o.p o.pn = [l] → 0 < x.read .src32 o.b l 0 → x.read .src32 o.b l 0 < 2 ^ 31 →
       Unordered s g x p → Reaches s x p (fun _ => .spad ck off) → s.team? x.team = some tm →
       (mode = true ∨ s.barsFull tm (.spad ck off) = false) →
       ∃ t y op, AccessSent (.binit o unit mode) s t g b x y p (fun _ => .spad ck off) op ∧ t.teams = s.teams)
     ∧ (∀ (s : State) (id : Nat) (op : MemOp) (lanes : DWord) (a : LaneAcc) (ck off : Nat), TakesPlace s id op lanes → op.lanes = [a] →
       a.place = .spad ck off →
       (∀ mode, op.kind = .binit mode → 0 < a.data.toNat → a.data.toNat < 2 ^ 31 →
         ∃ t, exec (.homeAccess id lanes) s = .next t
           ∧ BarWord.ofNat ((t.cluster ck).spad.read off 16) =
               { pending := 0, rejected := false, mode := mode, phase := false, arrived := 0, expected := a.data.toNat }
           ∧ ∀ tm, s.team? op.team = some tm → t.team? op.team = some (tm.listBar mode (ck * 2 ^ 20 + off)))
       ∧ (∀ m, op.kind = .arrive m →
         let w := BarWord.ofNat ((s.cluster ck).spad.read off 16)
         let u : BarWord :=
           { w with arrived := (w.arrived + (if w.mode then 1 else (lanesOf m).length)) % 2 ^ 32,
                    pending := signedOf 32 (wrapOf 32 (w.pending + signedOf 32 a.data.toNat)) }
         ∃ t, exec (.homeAccess id lanes) s = .next t ∧ BarWord.ofNat ((t.cluster ck).spad.read off 16) = u.test.1 ∧ t.mem = s.mem
           ∧ (∀ d, op.d = some d → ∃ done, t.op? id = some done ∧ done.lanes.map LaneAcc.result = [BitVec.ofNat 128 w.phase.toNat])))
     ∧ ∀ (s : State) (g : Nat) (b : Bool) (x : Group) (o : Ops) (unit l ck off : Nat),
       MayIssue s g b x [l] [l] [addrNamed true o.a, (.src32, o.b)] [] → x.writers b o.p o.pn = [l] → s.memHeld g x = false →
       s.undoneAt g x [{ lanePartOf l (x.address true o.a (memOffset o.c unit) l) 16 false 0 0 with place := .spad ck off }] = false → (∀ a ∈ s.access, a.uid = x.uid) →
       s.spadCheck x (x.address true o.a (memOffset o.c unit) l) 16 16 true = .inl (.spad ck off) →
       let w := BarWord.ofNat ((s.cluster ck).spad.read off 16)
       (w.phase.toNat ≠ x.read .src32 o.b l 0 % 2 →
         ∃ t y, OnceStep (.bwait o unit) s t g b { x with clk := y.clk } y ∧ SameRegisters x y ∧ SameBytes s t)
       ∧ (w.phase.toNat = x.read .src32 o.b l 0 % 2 → ∃ t y, WaitsAt (.bwait o unit) s t g b x y .barrier))

/-- Rules R284, R436 and R438: each contribution of a `.ord` RED carries its key, of team, group, lane and its count
at that place, and is counted for the launch; it waits in the order buffer, and the end of the launch adds the contributions to each place in the
order of their keys. -/
def Obligations.OrderedReductions : Prop :=
  (∀ (s : State) (g : Nat) (b : Bool) (x : Group) (o : Ops) (ty : Ty) (sc : Scope) (od : Order) (sp : Bool) (tm : Team) (ln : Launch)
      (place : Nat → Place),
    let p := rmwPlan sp o ty.bytes (.red o.c ty) sc od (srcW ty.wide) .unused .unused b x
    MayIssue s g b x p.writers p.writers p.srcs p.dst → p.lanes ≠ [] → Unordered s g x p →
    Reaches s x { p with ord := true } place → s.team? x.team = some tm → s.launch? x.launch = some ln →
    ln.ordCount + p.lanes.length ≤ 1048576 →
    ∃ t y op, exec (.red o ty sc od sp true) s = .next t ∧ t.group? g = some y ∧ (y.slot b).pc = (x.slot b).pc + 1 ∧ SameRegisters x y
      ∧ SameBytes s t ∧ t.flight = s.flight ++ [op] ∧ op.ord = true
      ∧ op.lanes.map (fun a => (a.lane, a.place, a.data, a.data2))
          = p.lanes.map (fun a => (a.lane, place a.lane, a.data, BitVec.ofNat 128 (x.ordKey tm.q a.lane (s.ordPlace x a.addr))))
      ∧ (∃ l', t.launch? x.launch = some l' ∧ l'.ordCount = ln.ordCount + p.lanes.length))
  ∧ (∀ (s : State) (id : Nat) (op : MemOp) (lanes : DWord) (a : LaneAcc) (p : Nat), TakesPlace s id op lanes → op.lanes = [a] →
    a.place = .dev p → op.ord = true → (∃ c ty, op.kind = .red c ty) →
    ∃ t, exec (.homeAccess id lanes) s = .next t ∧ SameBytes s t
      ∧ t.ordBuf = s.ordBuf ++ [{ launch := op.launch, phys := p, key := a.data2.toNat, value := BitVec.ofNat 32 a.data.toNat }])

/-! ### Props tables, ensembles, mailboxes, remote put -/

/-- Rules R93 to R96 and R288: PLOOK, PINS and PINV leave as atomic accesses of order ar to the table of their cluster: of each writing
lane its key or slot, its payload and way, and the group's context. Performed, they do each lane's operation in lane order on the
cluster's table, and give each lane its result; no byte of memory changes.
Rules R93 to R95: an insertion with a way named takes exactly that slot of the key's set; with no way named it takes the lowest
invalid way, and with the set full it gives 0xFFFF and changes nothing; a key that is not held gives 0xFFFF with no payload; a key that is held keeps its slot and takes the new payload, which a look-up then gives;
a removal erases an entry of its own context alone, and gives its payload. -/
def Obligations.PropsTables : Prop :=
  ((∀ (s : State) (g : Nat) (b : Bool) (x : Group) (o : Ops),
     let ws := x.writers b o.p o.pn
     let ctx := ((s.kernelCtx x).getD 0) % 8
     let sent (i : Instr) (n : Nat) (key more : Nat → Nat) : Prop :=
       ∃ t y op, exec i s = .next t ∧ t.group? g = some y ∧ IssuedAs { x with clk := y.clk, rels := x.rels + 1 } y b ∧ SameRegisters x y ∧ SameBytes s t
         ∧ (∀ k, k ≠ g → t.group? k = s.group? k) ∧ t.flight = s.flight ++ [op] ∧ op.kind = .props n ∧ op.d = some o.d ∧ op.agent = .group g
         ∧ op.uid = x.uid ∧ op.scope = .pair ∧ op.order = .ar ∧ op.performed = false
         ∧ op.lanes.map (fun a => (a.lane, a.data, a.data2)) = ws.map (fun j => (j, BitVec.ofNat 128 (key j), BitVec.ofNat 128 (more j + ctx * 2 ^ 40)))
     ws ≠ [] → s.memHeld g x = false → s.pairOf? x.team = none →
     (MayIssue s g b x ws ws [(.src64, o.a)] [(.dst64, o.d)] → sent (.plook o) 0 (fun j => x.read .src64 o.a j 0) (fun _ => 0))
     ∧ (MayIssue s g b x ws ws [(.src64, o.a), (.src32, o.b), (.src32, o.c)] [(.dst64, o.d)] → (∀ j ∈ ws, x.read .src32 o.c j 0 ≤ 8) →
         sent (.pins o) 1 (fun j => x.read .src64 o.a j 0) (fun j => x.read .src32 o.b j 0 + x.read .src32 o.c j 0 * 2 ^ 32))
     ∧ (MayIssue s g b x ws ws [(.src32, o.a)] [(.dst64, o.d)] → (∀ j ∈ ws, x.read .src32 o.a j 0 ≤ 4095) →
         sent (.pinv o) 2 (fun j => x.read .src32 o.a j 0) (fun _ => 0)))
   ∧ ∀ (s : State) (id n d : Nat) (op : MemOp) (lanes : DWord), TakesPlace s id op lanes → op.kind = .props n → op.d = some d →
     let ck := clusterKey op.part op.cluster
     let one (t : Sp Prop_) (a : LaneAcc) : Sp Prop_ × Nat :=
       match n with
       | 0 => (t, plook t (a.data2.toNat / 2 ^ 40) (BitVec.ofNat 64 a.data.toNat))
       | 1 => pins t (a.data2.toNat / 2 ^ 40) (BitVec.ofNat 64 a.data.toNat) (BitVec.ofNat 32 a.data2.toNat) (a.data2.toNat / 2 ^ 32 % 16)
       | _ => pinv t (a.data2.toNat / 2 ^ 40) a.data.toNat
     let run := op.lanes.foldl (fun (st : Sp Prop_ × List (Nat × QWord)) a =>
       ((one st.1 a).1, st.2 ++ [(a.lane, BitVec.ofNat 128 (one st.1 a).2)])) ((s.cluster ck).props, [])
     ∃ t done, exec (.homeAccess id lanes) s = .next t ∧ t.op? id = some done ∧ done.performed = true ∧ SameBytes s t
       ∧ (∀ k, (t.cluster k).props = if k = ck then run.1 else (s.cluster k).props)
       ∧ done.lanes.map (fun a => (a.lane, a.result)) = run.2)
  ∧ (∀ (t : Sp Prop_) (ctx way : Nat) (k : DWord) (v : Word),
       (propsFind t ctx k = none → way < 8 → let r := pins t ctx k v way
         r.2 = propsSet ctx k.toNat * 8 + way ∧ Sp.get? r.1 r.2 = some { ctx := ctx, key := k, payload := v } ∧ ∀ i, i ≠ r.2 → Sp.get? r.1 i = Sp.get? t i)
       ∧ (propsFind t ctx k = none → (∀ w, w < 8 → Sp.get? t (propsSet ctx k.toNat * 8 + w) ≠ none) → pins t ctx k v 8 = (t, 0xFFFF))
       ∧ (propsFind t ctx k = none → ∀ w, w < 8 → Sp.get? t (propsSet ctx k.toNat * 8 + w) = none →
           (∀ u, u < w → Sp.get? t (propsSet ctx k.toNat * 8 + u) ≠ none) → let r := pins t ctx k v 8
           r.2 = propsSet ctx k.toNat * 8 + w ∧ Sp.get? r.1 r.2 = some { ctx := ctx, key := k, payload := v } ∧ ∀ i, i ≠ r.2 → Sp.get? r.1 i = Sp.get? t i)
       ∧ (propsFind t ctx k = none → plook t ctx k = 0xFFFF)
       ∧ (∀ i, propsFind t ctx k = some i → pins t ctx k v way = (Sp.set t i { ctx := ctx, key := k, payload := v }, i)
           ∧ plook (pins t ctx k v way).1 ctx k = i + v.toNat * 2 ^ 32 ∧ i / 8 = propsSet ctx k.toNat)
       ∧ (∀ i e, Sp.get? t i = some e → pinv t ctx i = if e.ctx = ctx then (Sp.erase t i, 1 + e.payload.toNat * 2 ^ 32) else (t, 0))
       ∧ (∀ i, Sp.get? t i = none → pinv t ctx i = (t, 0)))

/-- Rules R97 to R99 and R289: EJOIN gives every writing lane its status: 3 for a member already, 1 where another team holds the slot,
2 where a team on the cluster is a member (of the two, the slot's: the model's choice of log entry 100), and 0 where the team becomes
the member: then the slot maps its team, and later EJOINs of it are refused with 3. ELEAVE withdraws the team, waiting while accesses
through its slot are on their way. -/
def Obligations.EnsembleInstructions : Prop :=
  ∀ (s : State) (g : Nat) (b : Bool) (x : Group) (o : Ops) (tm : Team) (l : Nat),
    let ws := x.writers b o.p o.pn
    let e := x.read .src32 o.a l 0
    let m := x.read .src32 o.b l 0
    let st := s.joinStatus x tm e m
    ws.head? = some l → s.team? x.team = some tm →
    (MayIssue s g b x [l] [l] [(.src32, o.a), (.src32, o.b)] [(.dst32, o.d)] → e ≤ 255 → m ≤ 7 → s.pairOf? x.team = none →
      ∃ t y, OnceStep (.ejoin o) s t g b { x with clk := y.clk } y ∧ SameBytes s t
        ∧ (∀ n j, j < 64 → y.reg n j = if n = o.d ∧ j ∈ ws then BitVec.ofNat 32 st else x.reg n j)
        ∧ t.team? x.team = some (if st = 0 then { tm with ensemble := some (e, m), left := none } else tm)
        ∧ (st = 0 → ∃ en ∈ t.ensembles, en.launch = x.launch ∧ en.e = e ∧ Sp.get? en.members m = some x.team ∧ m ∉ en.revoked)
        ∧ (st ≠ 0 → t.ensembles = s.ensembles)
        ∧ (st = 0 → ∀ u e' m', t.team? x.team = some u → t.joinStatus x u e' m' = 3))
    ∧ (let shares (k : Nat) : Prop :=
        ∃ u, s.team? k = some u ∧ (u.ckey = tm.ckey ∨ (u.pair = true ∧ u.ckey + 1 = tm.ckey) ∨ (tm.pair = true ∧ tm.ckey + 1 = u.ckey))
      (tm.ensemble ≠ none → st = 3)
      ∧ (tm.ensemble = none → (∀ y ∈ s.ensembles, y.launch ≠ x.launch ∨ y.e ≠ e) → st = 0)
      ∧ ∀ y, tm.ensemble = none → s.ensembles.find? (fun y => y.launch == x.launch && y.e == e) = some y →
          (Sp.get? y.members m ≠ none → st = 1)
          ∧ (Sp.get? y.members m = none → (∃ p ∈ y.members, shares p.2) → st = 2)
          ∧ (Sp.get? y.members m = none → (∀ p ∈ y.members, ¬ shares p.2) → st = 0))
    ∧ (MayIssue s g b x [] [] [] [] →
      (tm.ensemble = none ∨ s.allocBusy tm x.team = false →
        ∃ t y, OnceStep (.eleave o) s t g b x y ∧ SameRegisters x y ∧ SameBytes s t
          ∧ ∃ u, t.team? x.team = some u ∧ u.ensemble = none)
      ∧ (tm.ensemble ≠ none → s.allocBusy tm x.team = true → ∃ t y, WaitsAt (.eleave o) s t g b x y .leave))

/-- Rules R72, R73 and R290: a mailbox word puts its request to the arbitration of its team, its value that of the lowest writing
lane, and waits at the word; it waits first where memory words are held.
Rules R72 and R73: one cycle of a team's mailboxes with one request on a mailbox of an active group: MBGET proceeds on a full
one, which it empties, MBPUT on an empty one, which it fills; MBR and MBW proceed always; a read gives its lanes the value.
A write takes part once the group's earlier accesses are performed (R125). A request that cannot proceed stays, and its slot is blocked at its word. -/
def Obligations.Mailboxes : Prop :=
  (∀ (s : State) (g : Nat) (b : Bool) (x : Group) (o : Ops) (tm : Team) (l : Nat) (i : Instr) (op : MbOp),
     [(Instr.mbget o, MbOp.get), (Instr.mbput o, MbOp.put), (Instr.mbr o, MbOp.read), (Instr.mbw o, MbOp.write)].contains (i, op) = true →
     let ws := x.writers b o.p o.pn
     let puts := op == .put || op == .write
     ws.head? = some l → s.team? x.team = some tm → (∀ r ∈ tm.requests, r.agent ≠ .group g) →
     MayIssue s g b x [l] [l] (if puts then [(.src64, o.a)] else []) (if puts then [] else [(.dst64, o.d)]) →
     (s.memHeld g x = false →
       ∃ t y r, WaitsAt i s t g b x y .mailbox ∧ t.team? x.team = some { tm with requests := tm.requests ++ [r] }
         ∧ r.agent = .group g ∧ r.slot = b ∧ r.op = op ∧ r.mb = o.c ∧ r.order = s.mailOrder x ∧ r.clk = Clock.tick x.clk x.uid
         ∧ r.value = (if puts then BitVec.ofNat 64 (x.read .src64 o.a l 0) else 0)
         ∧ (∀ j, j < 64 → (laneBit r.lanes j = true ↔ j ∈ ws)))
     ∧ (s.memHeld g x = true → ∃ t y, WaitsAt i s t g b x y .memOrder))
  ∧ (∀ (s : State) (tk g : Nat) (x : Group) (tm : Team) (r : MbReq), s.team? tk = some tm → tm.requests = [r] → r.agent = .group g →
       s.group? g = some x → s.mailActive r = true → r.mb < 16 →
       let m := Sp.getD tm.mailboxes r.mb {}
       let goes := match r.op with | .get => m.full | .put => !m.full | .read => true | .write => true
       (goes = true → ∃ t y u, exec (.mailboxCycle tk) s = .next t ∧ t.group? g = some y ∧ t.team? tk = some u
         ∧ (y.slot r.slot).pc = (x.slot r.slot).pc + 1 ∧ (y.slot r.slot).wait = .run ∧ u.requests = []
         ∧ (let v := Sp.getD u.mailboxes r.mb {}
            match r.op with
            | .get => v.full = false ∧ v.value = m.value
            | .read => v = m
            | _ => v.full = true ∧ v.value = r.value)
         ∧ (∀ n j, j < 64 → y.reg n j =
             if (r.op = .get ∨ r.op = .read) ∧ laneBit r.lanes j = true ∧ (n = r.d ∨ n = r.d + 1)
             then BitVec.ofNat 32 (m.value.toNat / 2 ^ (32 * (n - r.d))) else x.reg n j)
         ∧ SameBytes s t)
       ∧ (goes = false → ∃ t y u, exec (.mailboxCycle tk) s = .next t ∧ t.group? g = some y ∧ t.team? tk = some u
         ∧ (y.slot r.slot).pc = (x.slot r.slot).pc ∧ (y.slot r.slot).wait = .mailBlocked ∧ y.slot (!r.slot) = x.slot (!r.slot) ∧ SameRegisters x y
         ∧ u.requests = [r] ∧ Sp.getD u.mailboxes r.mb {} = m ∧ SameBytes s t))

/-- Rules R113 to R115, R291 and R292: RPUT sends each writing lane's value to the same lane of the group it names and goes on;
at its arrival, once the sender's earlier accesses are performed, the values are written first, in live lanes of a group with 240
registers, then the counter rises. WAITA takes
its number from the counter, or waits until it stands there. -/
def Obligations.RemotePut : Prop :=
  (∀ (s : State) (g : Nat) (b : Bool) (x : Group) (o : Ops) (tm : Team) (l : Nat),
    let ws := x.writers b o.p o.pn
    let index := x.read .src32 o.b l 0
    MayIssue s g b x ws ws [(.src32, o.a)] [] → MayIssue s g b x [l] [l] [(.src32, o.b)] [] → ws.head? = some l →
    s.rputTeam x (o.c / 16) = .inl tm → index < tm.ngroups → s.memHeld g x = false → s.pairOf? x.team = none →
    ∃ t y r, exec (.rput o) s = .next t ∧ t.group? g = some y ∧ (y.slot b).pc = (x.slot b).pc + 1 ∧ SameRegisters x y ∧ SameBytes s t
      ∧ t.rputs = s.rputs ++ [r] ∧ r.sender = x.uid ∧ r.reg = 224 + o.c % 16 ∧ r.waiting = false
      ∧ r.target = (s.groupOf (teamKey tm.ckey tm.handle) index).bind (fun q => (s.group? q).map Group.uid)
      ∧ r.values = ws.map (fun j => (j, BitVec.ofNat 32 (x.read .src32 o.a j 0))))
  ∧ (∀ (s : State) (id g : Nat) (x : Group) (r : Rput) (rest : List Rput), s.rputs = r :: rest → r.id = id → r.waiting = false →
    s.groups.find? (fun p => some p.2.uid == r.target) = some (g, x) → (r.values.map Prod.fst).Nodup → (∀ p ∈ r.values, p.1 < 64) →
    (∀ q ∈ rest, q.id ≠ id) → (∀ m ∈ s.flight, m.uid = r.sender → m.id < id → m.performed = true) →
    (∀ p ∈ s.teams, p.2.exited = false) → (∀ p ∈ s.teams, p.2.ensemble.isSome = true → s.emptied p.1 = false) →
    ∃ t y, exec (.rputArrival id) s = .next t ∧ t.group? g = some y ∧ t.rputs = rest ∧ SameBytes s t
      ∧ y.arrivals = x.arrivals + BitVec.ofNat 32 r.values.length
      ∧ (∀ n j, j < 64 → y.reg n j = match r.values.find? (fun p => p.1 == j) with
          | some p => if n = r.reg ∧ x.nregs ≥ 240 ∧ laneBit x.deadMask j = false ∧ j < x.extent then p.2 else x.reg n j
          | none => x.reg n j)
      ∧ y.slotA = x.slotA ∧ y.slotB = x.slotB ∧ ∀ k, k ≠ g → t.group? k = s.group? k)
  ∧ ∀ (s : State) (g : Nat) (b : Bool) (x : Group) (o : Ops) (l : Nat),
    let ws := x.writers b o.p o.pn
    let n := x.read .src32 o.a l 0
    MayIssue s g b x [l] [l] [(.src32, o.a)] [] → ws.head? = some l → 0 < n → n ≤ 65535 →
    (n ≤ x.arrivals.toNat → ∃ t y, OnceStep (.waita o) s t g b { x with arrivals := x.arrivals - BitVec.ofNat 32 n, arrClk := y.arrClk, clk := y.clk } y
      ∧ SameRegisters x y ∧ SameBytes s t)
    ∧ (x.arrivals.toNat < n → ∃ t y, WaitsAt (.waita o) s t g b x y .arrivals)

/-! ### Requests, batches, engines -/

/-- Rules R107, R109, R296 and R297: KICK reads its requests' words from the scratchpad into the engine's queue, and they join
the open batch; BCLOSE closes the open batch where it holds one, unless that would make a sixteenth outstanding one; WAITB closes it
too, once, and goes on where no more than its number are outstanding, else it waits.
Rules R103 to R106, R108, R111 and R407: the request engine takes the oldest request: a good one starts; a bad one, by the
conditions of R103 and those that R105 and R106 add, is rejected: it leaves the queue and moves no byte, is counted, a record of cause
0x31 names its team and its address, and a well-formed barrier word has its whole total counted down and its rejected bit set.
Rules R90, R106, R108 and R111: one byte of a copy or a send, between places of device memory, is written as its source
holds it (its path sees every write to it, R127), and no other byte of device memory changes; it is delivered once. The last one ends the request, which leaves its
group's batches.
Rule R105: over keys in rising order the search of a gather finds the first one not below its start; the request, with its
list and its results in the scratchpad, writes each hit as key and index in a granule of its own, then the trailer, and is
finished. -/
def Obligations.EngineRequests : Prop :=
  (∀ (s : State) (g : Nat) (b : Bool) (x : Group) (o : Ops) (l : Nat),
     let ws := x.writers b o.p o.pn
     ws.head? = some l →
     (∀ ck off, MayIssue s g b x [l] [l] [(.src32, o.a)] [] → s.memHeld g x = false → s.undoneBefore g x = false → s.pairOf? x.team = none →
       s.spadCheck x (x.read .src32 o.a l 0) (32 * o.c) 32 false = .inl (.spad ck off) → (∀ a ∈ s.access, a.uid = x.uid) →
       (∀ i, i < 2 * o.c → s.sees x.reader (.spad ck (off + 16 * i)) 16 = true) →
       ∃ t y rs, exec (.kick o) s = .next t ∧ t.group? g = some y ∧ SameRegisters x y ∧ SameBytes s t
         ∧ IssuedAs { x with clk := y.clk, openBatch := { open_ := x.openBatch.open_ ++ rs.map Request.id, any := true } } y b
         ∧ (t.cluster x.ckey).reqQ = (s.cluster x.ckey).reqQ ++ rs
         ∧ rs.map Request.words = (List.range o.c).map (fun i => (List.range 4).map (fun k => BitVec.ofNat 64 ((s.cluster ck).spad.read (off + 32 * i + 8 * k) 8)))
         ∧ (∀ r ∈ rs, r.group = x.uid ∧ r.team = x.team ∧ r.launch = x.launch ∧ r.waiting = false ∧ r.delivered = []))
     ∧ (MayIssue s g b x [] [] [] [] →
       (x.openBatch.any = false → ∃ t y, OnceStep (.bclose o) s t g b x y ∧ SameRegisters x y ∧ SameBytes s t)
       ∧ (x.openBatch.any = true → x.openBatch.open_ = [] ∨ x.outstanding < 15 →
         ∃ t y, OnceStep (.bclose o) s t g b { x with openBatch := {}, batches := y.batches } y ∧ SameRegisters x y ∧ SameBytes s t
           ∧ y.batches = (x.batches.filter (fun k => !k.open_.isEmpty)) ++ [x.openBatch])
       ∧ (x.openBatch.any = true → x.openBatch.open_ ≠ [] → 15 ≤ x.outstanding → ∃ t y, WaitsAt (.bclose o) s t g b x y .batch))
     ∧ (MayIssue s g b x [] [] [] [] → (x.slot b).wants = [] → (x.openBatch.any = true → x.openBatch.open_ = [] ∨ x.outstanding < 15) →
       (x.closeBatch.outstanding ≤ o.c →
         ∃ t y, OnceStep (.waitb o) s t g b { x with openBatch := y.openBatch, batches := y.batches, clk := y.clk } y ∧ SameRegisters x y
           ∧ SameBytes s t ∧ y.openBatch.any = false ∧ y.batches = x.closeBatch.batches)
       ∧ (o.c < x.closeBatch.outstanding → ∃ t y, WaitsAt (.waitb o) s t g b x y .batch ∧ y.openBatch.any = false
           ∧ y.batches = x.closeBatch.batches ∧ (y.slot b).wants = [o.c]))
     ∧ (MayIssue s g b x [] [] [] [] → (x.slot b).wants = [o.c] →
       (x.outstanding ≤ o.c → ∃ t y, OnceStep (.waitb o) s t g b { x with clk := y.clk } y ∧ SameRegisters x y ∧ SameBytes s t)
       ∧ (o.c < x.outstanding → ∃ t y, WaitsAt (.waitb o) s t g b x y .batch ∧ y.openBatch = x.openBatch ∧ y.batches = x.batches)))
  ∧ ((∀ (s : State) (ck : Nat) (r : Request) (rest : List Request), (s.cluster ck).reqQ = r :: rest → s.enginesRun ck = true → r.ckey = ck →
       r.waiting = false → r.standIn = false →
       (r.rejected = false → ∃ t, exec (.requestEngineTake ck) s = .next t ∧ (t.cluster ck).reqQ = rest
         ∧ (t.cluster ck).work = (s.cluster ck).work ++ [r] ∧ SameBytes s t ∧ t.groups = s.groups ∧ t.teams = s.teams)
       ∧ (r.rejected = true → r.twin = none → (∀ tm, s.team? r.team = some tm → tm.exited = false) →
         (∀ q ∈ rest, q.id ≠ r.id) → (∀ q ∈ (s.cluster ck).work, q.id ≠ r.id) →
         ∃ t, exec (.requestEngineTake ck) s = .next t ∧ (t.cluster ck).reqQ = rest ∧ (t.cluster ck).work = (s.cluster ck).work
           ∧ (t.cluster ck).copyCount = Nat.min ((s.cluster ck).copyCount + 1) (2 ^ 32 - 1) ∧ (t.cluster ck).copyTeam = r.team % 192
           ∧ (t.cluster ck).copyAddr = r.at_ ∧ t.mem = s.mem
           ∧ (∀ x, s.ctx? (ctxKey ck 7) = some x → ∃ k : Rec, k.cause = 0x31 ∧ field k.w0 48 8 = r.team % 192 ∧ k.w4 = BitVec.ofNat 64 r.at_
               ∧ t.ctx? (ctxKey ck 7) = some { x with events := x.events ++ [(k, [], 0)], wait := if x.wait == .event then .run else x.wait })
           ∧ (r.nobar = true ∨ r.barGood = false → SameBytes s t)
           ∧ ∀ k off, r.nobar = false → r.barGood = true → s.engineSpad r r.bar 0 = .spad k off →
               let w := BarWord.ofNat ((s.cluster k).spad.read off 16)
               BarWord.ofNat ((t.cluster k).spad.read off 16)
                 = ({ w with pending := signedOf 32 (wrapOf 32 (w.pending - r.total)), rejected := true } : BarWord).test.1))
     ∧ ∀ r : Request,
       let bits (i lo n : Nat) : Nat := ((r.words[i]?).getD 0).toNat / 2 ^ lo % 2 ^ n
       let kind := bits 3 52 4
       (bits 3 51 1 = 0 ∨ 2 < kind ∨ bits 3 56 8 ≠ 0 ∨ (bits 3 50 1 = 0 ∧ (bits 2 60 4 ≠ 0 ∨ bits 2 40 4 ≠ 0)) → r.rejected = true)
       ∧ (kind ≠ 1 → bits 2 0 24 = 0 ∨ (if bits 3 48 1 = 1 then bits 0 24 40 ≠ 0 else bits 0 56 8 ≠ 0)
           ∨ (if bits 3 49 1 = 1 then bits 1 24 40 ≠ 0 else bits 1 56 8 ≠ 0) ∨ (kind = 2 ∧ bits 3 49 1 = 1) → r.rejected = true)
       ∧ (kind = 1 → bits 0 56 8 ≠ 0 ∨ bits 0 0 3 ≠ 0 ∨ bits 1 48 16 ≠ 0 ∨ bits 1 24 4 ≠ 0 ∨ bits 1 0 4 ≠ 0 ∨ bits 3 47 3 ≠ 0 ∨ bits 3 0 40 ≠ 0
           ∨ 64 < bits 3 40 7 → r.rejected = true)
       ∧ (bits 3 51 1 = 1 → kind ≤ 2 → bits 3 56 8 = 0 → (bits 3 50 1 = 1 ∨ (bits 2 60 4 = 0 ∧ bits 2 40 4 = 0)) →
           (if kind = 1 then bits 0 56 8 = 0 ∧ bits 0 0 3 = 0 ∧ bits 1 48 16 = 0 ∧ bits 1 24 4 = 0 ∧ bits 1 0 4 = 0 ∧ bits 3 47 3 = 0
               ∧ bits 3 0 40 = 0 ∧ bits 3 40 7 ≤ 64
             else bits 2 0 24 ≠ 0 ∧ (if bits 3 48 1 = 1 then bits 0 24 40 = 0 else bits 0 56 8 = 0)
               ∧ (if bits 3 49 1 = 1 then bits 1 24 40 = 0 else bits 1 56 8 = 0) ∧ ¬(kind = 2 ∧ bits 3 49 1 = 1)) →
           r.rejected = false))
  ∧ (∀ (s : State) (id i a c : Nat) (r : Request) (e : Instr), s.request? id = some r → r.id = id → r.standIn = false → s.enginesRun r.ckey = true →
       ((e = .copyDelivery id i 1 ∧ r.kind = 0) ∨ (e = .sendDelivery id i 1 ∧ r.kind = 2)) → r.nobar = true → i < r.total → r.has i = false →
       s.engineByte r true i = .at_ (.dev a) → s.engineByte r false i = .at_ (.dev c) → s.linePoisoned a 1 = false → s.sees r.reader (.dev a) 1 = true → r.twin = none →
       (∀ tm, s.team? r.team = some tm → tm.exited = false) →
       ∃ t, exec e s = .next t ∧ t.mem = s.mem.write c 1 (s.mem.read a 1) ∧ (∀ k, (t.cluster k).spad = (s.cluster k).spad)
         ∧ (r.count + 1 ≠ r.total → ∀ q, q ∈ (s.cluster r.ckey).work → q.id = id →
             ∃ u ∈ (t.cluster r.ckey).work, u.id = id ∧ u.delivered = r.delivered ++ [(i, 1)])
         ∧ (r.count + 1 = r.total → (∀ q ∈ (t.cluster r.ckey).work, q.id ≠ id)
             ∧ ∀ g x, s.group? g = some x → x.uid = r.group → ∃ y, t.group? g = some y ∧ id ∉ y.openBatch.open_ ∧ ∀ k ∈ y.batches, id ∉ k.open_))
  ∧ ((∀ (s : State) (r : Request) (start n : Nat) (key : Nat → Nat), n < 2 ^ 24 → (∀ i, i < n → s.readKey r i = .value (key i)) →
       (∀ i j, i ≤ j → j < n → key i ≤ key j) →
       ∀ read, ∃ k ks, s.gatherFind r start 25 0 n read = (.at_ k, ks) ∧ k ≤ n ∧ (∀ i, i < k → key i < start) ∧ ∀ i, k ≤ i → i < n → start ≤ key i)
     ∧ ∀ (s : State) (id ck base : Nat) (r : Request), s.request? id = some r → r.standIn = false → r.kind = 1 → s.enginesRun r.ckey = true →
       r.nobar = true → r.twin = none → (∀ tm, s.team? r.team = some tm → tm.exited = false) →
       let g := (List.range (r.bits 3 40 7)).foldl (fun g k => s.gatherRange r g k) {}
       g.stop = none → (∀ i ∈ g.read, ∀ a, s.engineDev r (r.keyAt i) false ≠ .at_ (.remote a)) → (∀ h ∈ g.hits, h.1 < 2 ^ 64 ∧ h.2 < 2 ^ 64) → g.resume < 2 ^ 64 → g.hits.length < 2 ^ 32 →
       (∀ i, i ≤ g.hits.length → s.engineSpad r (r.bits 1 0 24) (16 * i) = .spad ck (base + 16 * i)) →
       ∃ t, exec (.gatherRequest id) s = .next t ∧ t.mem = s.mem
         ∧ (∀ i h, g.hits[i]? = some h → (t.cluster ck).spad.read (base + 16 * i) 16 = h.1 + h.2 * 2 ^ 64)
         ∧ (t.cluster ck).spad.read (base + 16 * g.hits.length) 16
             = g.hits.length + g.more.toNat * 2 ^ 32 + g.poisoned.toNat * 2 ^ 33 + g.resume * 2 ^ 64
         ∧ (∀ a, a < base ∨ base + 16 * (g.hits.length + 1) ≤ a → (t.cluster ck).spad.byte a = (s.cluster ck).spad.byte a))

/-- Rules R19, R116, R298 and R418: RGROW to no more than the allocation goes on, and to more grows it at once where the words are
free; RSHRINK, once no reply to them is awaited, gives back the registers from its number up, whose contents are lost. A
re-admission restores the oldest evicted waiter of a slice from its spill slot, which is mapped, and grants it, where its request
fits.
Rules R117 and R417: a register that is saved takes the first of the packings that reproduces all of its lanes, is restored from
it as it was, and takes the bytes that the table gives it, up to a multiple of 4.
Rules R118 and R299: DALLOC gives each writing lane an address in its own part of the team's slice of the heap, the next
after what it has used, in steps of 16 bytes, or 0 where the part is used up, the request is 0 or beyond 2^24, or the launch
has no heap: the base of the lane's part and what it has used; the parts of two lanes of a team do not meet. -/
def Obligations.RegistersAndHeap : Prop :=
  ((∀ (s : State) (g : Nat) (b : Bool) (x : Group) (o : Ops), MayIssue s g b x [] [] [] [] →
     (x.writers b o.p o.pn = [] ∨ o.c ≤ x.nregs → ∃ t y, SameRegisters x y ∧ LaneStep (.rgrow o) s t g b x y)
     ∧ (x.writers b o.p o.pn ≠ [] → x.nregs < o.c → s.mayGrow x o.c = true →
         ∃ t y, SameRegisters x y ∧ LaneStep (.rgrow o) s t g b { x with nregs := o.c } y)
     ∧ (x.writers b o.p o.pn = [] ∨ x.nregs ≤ o.c → ∃ t y, SameRegisters x y ∧ LaneStep (.rshrink o) s t g b x y)
     ∧ (x.writers b o.p o.pn ≠ [] → o.c < x.nregs → (∀ r, r < 240 → o.c ≤ r → s.awaited g x r = false) →
         (∀ m ∈ (s.cluster x.ckey).mxQ, m.agent = .group g → m.uid = x.uid → m.d < o.c ∨ ∀ t c, m.op ≠ .chk t c) →
         (∀ tm, s.team? x.team = some tm → ∀ r ∈ tm.requests, r.agent = .group g → (r.op = .get ∨ r.op = .read) → r.d + 2 ≤ o.c) →
         s.growers x.skey = [] →
         ∃ t y, LaneStep (.rshrink o) s t g b { x with nregs := o.c } y ∧ y.masks = x.masks ∧ y.latches = x.latches
           ∧ ∀ n j, j < 64 → y.reg n j = if n < o.c then x.reg n j else 0))
   ∧ ∀ (s : State) (cl sl g n : Nat) (b : Bool) (x : Group), s.group? g = some x → x.skey = cl * 6 + sl → x.evicted = true →
     s.growers x.skey = [{ g := g, slotB := b, x := x, n := n, at_ := (x.slot b).waitAt }] → s.mayGrow x n = true →
     (∀ l, s.launch? x.launch = some l → (s.readVirtual x.part (l.area + s.spillOffset x l) x.spillSlot.length).isSome = true) →
     ∃ t y, exec (.rgrowReadmit cl sl) s = .next t ∧ t.group? g = some y ∧ y.nregs = n ∧ y.evicted = false ∧ SameBytes s t
       ∧ (y.slot b).pc = (x.slot b).pc + 1 ∧ (y.slot b).wait = .run ∧ y.slot (!b) = x.slot (!b)
       ∧ SameRegisters x y ∧ ∀ k, k ≠ g → t.group? k = s.group? k)
  ∧ (∀ (vals : List Nat), vals ≠ [] → (∀ v ∈ vals, v < 2 ^ 32) →
       let word (bs : List Byte) (n i : Nat) : Nat := bytesWord ((bs.drop i).take n)
       let back (tag : Nat) (bs : List Byte) (j : Nat) : Nat :=
         match tag with
         | 0 => 0 | 1 => word bs 4 0 | 2 => (word bs 4 0 + j * word bs 4 4) % 2 ^ 32
         | 3 => ((BitVec.ofNat 8 (word bs 1 j)).signExtend 32).toNat | 4 => word bs 1 j
         | 5 => ((BitVec.ofNat 16 (word bs 2 (2 * j))).signExtend 32).toNat | 6 => word bs 2 (2 * j) | _ => word bs 4 (4 * j)
       let r := packRegister vals
       let size := match r.1 with | 0 => 0 | 1 => 4 | 2 => 8 | 3 => vals.length | 4 => vals.length | 5 => 2 * vals.length | 6 => 2 * vals.length | _ => 4 * vals.length
       r.1 ≤ 7 ∧ r.2.length = (size + 3) / 4 * 4
       ∧ (∀ j v, vals[j]? = some v → back r.1 r.2 j = v)
       ∧ ∀ k bs, k < r.1 → ∃ j v, vals[j]? = some v ∧ back k bs j ≠ v)
  ∧ ((∀ (s : State) (g : Nat) (b : Bool) (x : Group) (o : Ops) (ln : Launch) (tm : Team),
       let ws := x.writers b o.p o.pn
       MayIssue s g b x ws ws [(.src32, o.a)] [(.dst64, o.d)] → s.launch? x.launch = some ln → s.team? x.team = some tm →
       ∃ t y, LaneStep (.dalloc o) s t g b { x with heapUsed := y.heapUsed } y
         ∧ (∀ n j, j < 64 → y.reg n j = if j ∈ ws ∧ o.d ≤ n ∧ n < o.d + 2
             then BitVec.ofNat 32 ((heapServe ln tm x j (x.read .src32 o.a j 0)).1 / 2 ^ (32 * (n - o.d))) else x.reg n j)
         ∧ (∀ j, j ∈ ws → Sp.get? y.heapUsed j = some (heapServe ln tm x j (x.read .src32 o.a j 0)).2)
         ∧ y.masks = x.masks ∧ y.latches = x.latches)
     ∧ ∀ (ln : Launch) (tm : Team) (x : Group) (lane bytes h sl : Nat), ln.heap = some (h, sl) → x.index < tm.ngroups → lane < x.width →
       let part := sl / (tm.ngroups * x.width)
       let used := Sp.getD x.heapUsed lane 0
       let r := heapServe ln tm x lane bytes
       (bytes = 0 ∨ 2 ^ 24 < bytes ∨ part < used + (bytes + 15) / 16 * 16 → r = (0, used))
       ∧ (0 < bytes → bytes ≤ 2 ^ 24 → used + (bytes + 15) / 16 * 16 ≤ part →
           r.1 = h + tm.q * sl + x.index * (sl / tm.ngroups) + lane * part + used
           ∧ r.2 = used + (bytes + 15) / 16 * 16 ∧ r.2 ≤ part
           ∧ h + tm.q * sl + x.index * (sl / tm.ngroups) + lane * part ≤ r.1
           ∧ r.1 + bytes ≤ h + tm.q * sl + x.index * (sl / tm.ngroups) + (lane + 1) * part
           ∧ r.1 + bytes ≤ h + (tm.q + 1) * sl))

/-! ### The matrix path -/

/-- Rules R172, R277, R302, R303, R305, R308 to R315: a matrix word whose checks pass enters its cluster's queue with its record and its
base, read in its lowest writing lane, and a row for each writing lane; MXDRAIN, MXFILL and MXCHK wait there for the engine, the
others go on, MXLDB with the form of what it holds. A check that fails stops the group before the word, with its detail. -/
def Obligations.MatrixIssue : Prop :=
  ∀ (s : State) (g : Nat) (b : Bool) (x : Group) (i : Instr) (o : Ops) (p : MxPlan) (l : Nat) (rows : List MxRow),
    mxPlanOf b x i = some (o, p) →
    let ws := x.writers b o.p o.pn
    let tiles := ((s.team? x.team).map Team.tiles).getD 0
    MayIssue s g b x ws ws p.srcs p.dst → ws.head? = some l → MayIssue s g b x [l] [l] p.once [] → s.pairOf? x.team = none →
    (∀ d ls, mxCheck x tiles p.op (p.rec_ l) (ws.map p.row) ws = some (d, ls) →
      exec i s = .next (s.stopBefore g b x 0x01 (lanesMask ls) d 0))
    ∧ (mxCheck x tiles p.op (p.rec_ l) (ws.map p.row) ws = none →
      (∀ size c ls addr, mxMoves p.op = some size → s.mxPlace x (p.base l) size (ws.map p.row) ws = .inr (c, ls, addr) →
        exec i s = .next (s.stopBefore g b x c.cause (lanesMask ls) c.detail addr))
      ∧ ((match mxMoves p.op with
          | none => rows = ws.map p.row
          | some size => s.mxPlace x (p.base l) size (ws.map p.row) ws = .inl rows ∧ s.undone g x = false) →
        s.memHeld g x = false → (s.cluster x.ckey).mxQ.length < 16 →
        ∃ t y r, exec i s = .next t ∧ t.group? g = some y ∧ SameRegisters x y ∧ SameBytes s t
          ∧ (t.cluster x.ckey).mxQ = (s.cluster x.ckey).mxQ ++ [r] ∧ r.op = p.op ∧ r.rows = rows ∧ r.rec_ = p.rec_ l ∧ r.base = p.base l
          ∧ r.agent = .group g ∧ r.uid = x.uid ∧ r.slot = b ∧ r.d = p.d
          ∧ (p.op.joins = true → (y.slot b).wait = .engine ∧ (y.slot b).pc = (x.slot b).pc)
          ∧ (p.op.joins = false → IssuedAs { x with heldFor := if p.op = .ldb then some (mxForm (p.rec_ l)) else x.heldFor } y b)))

/-- Rules R162 to R170 and R187: the two bytes of a scale entry give back the scale they were made of; a significand is the value of its
planes, two's complement where the form is signed; the partial of two blocks is their exact sum of products; a block with no
scale makes the element NaN, and nothing changes an element that meets no block. An error in one partial of a block step is
found by the checksums of its row and its column and taken away.
Rules R164 and R165: an update of an accumulator element adds a number to it exactly and rounds the sum once, to nearest, to 24 bits; below
the least exponent it becomes zero, past the greatest an infinity.
Rules R163 and R168: the significands and the scale that MXPLANE makes of a block. Into INT and NAT each is clamped, and the scale is the
user's. Into BLK the scale is the exponent of the greatest element, no less than −254; each element is rounded to nearest, ties to
even, at the weight that this gives, and clamped; what is no number, or an exponent past 254, leaves zeros and no scale.
Rules R89, R166, R168 and R308: the engine performs MXPLANE of a row: the significands of each block stand in the planes of the row at its
destination, its scale in its entry of the table where the record has one, and no other byte changes. -/
def Obligations.MatrixNumbers : Prop :=
  ((∀ t : Int, -254 ≤ t → t ≤ 254 → scaleValue (scalePair (some t)) false = some t)
   ∧ scaleValue (scalePair none) false = none ∧ (∀ w, scaleValue w true = none)
   ∧ (∀ planes k bits e, 0 < planes →
       mxSig 1 planes k bits e = (List.range planes).foldl (fun (v : Int) i => v + (bits.testBit (i * k + e)).toNat * 2 ^ i) 0
       ∧ mxSig 0 planes k bits e = mxSig 1 planes k bits e - (bits.testBit ((planes - 1) * k + e)).toNat * 2 ^ planes)
   ∧ (∀ (p q : List Int) (e f : Option Int), p.length = q.length →
       mxPartial { sig := p, ex := e } { sig := q, ex := f } = ((p.zip q).map (fun a => a.1 * a.2)).sum)
   ∧ (∀ old : BitVec 34, mxAccumulate old [] = old)
   ∧ (∀ (old : BitVec 34) (a b : MxBlk), a.ex = none ∨ b.ex = none → mxAccumulate old [(a, b)] = extNan)
   ∧ (∀ (n r c : Nat) (d : Int) (again : Bool), r < 32 → c < 64 → d ≠ 0 → -2 ^ 63 ≤ d → d < 2 ^ 63 →
       let e := stepEnd [{ step := n, row := some r, col := some c, delta := d, again := again }]
       e.corr = 1 ∧ e.uncorr = 0 ∧ e.rows = [] ∧ e.cols = [] ∧ ∀ i j, e.off i j = 0))
  ∧ (∀ (old : BitVec 34) (neg : Bool) (m : Nat) (e : Int) (x : ℚ),
       x = finite (extValue old) + (if neg then -1 else 1) * m * 2 ^ e →
       (∀ n, extValue old = .inf n → extAdd old neg m e = extImage n 1023 0)
       ∧ ((extValue old).isNan = true → extAdd old neg m e = extNan)
       ∧ ((∃ n k z, extValue old = .fin n k z) →
           (x = 0 → extAdd old neg m e = 0)
           ∧ (x ≠ 0 → ∃ (n : Nat) (q : Int), Leads (fun y => cmp y |x|) 24 q ∧ Picks .rn (decide (x < 0)) (fun y => cmp y |x|) n q
               ∧ (if (n : ℚ) * 2 ^ q < 2 ^ (-510 : Int) then extAdd old neg m e = extImage (decide (x < 0)) 0 0
                  else if (2 : ℚ) ^ (512 : Int) ≤ n * 2 ^ q then extAdd old neg m e = extImage (decide (x < 0)) 1023 0
                  else IsFinite (extValue (extAdd old neg m e)) (decide (x < 0)) (n * 2 ^ q)))))
  ∧ ((∀ (kind planes : Nat) (u : Int) (ws : List Int) (poisoned : Bool), kind < 2 → 1 ≤ planes →
       let lo : Int := if kind = 1 then 0 else -(2 ^ (planes - 1))
       let hi : Int := if kind = 1 then 2 ^ planes - 1 else 2 ^ (planes - 1) - 1
       mxConvert kind planes u (ws.map (fun v => .fin (decide (v < 0)) v.natAbs 0)) poisoned = (ws.map (fun v => max lo (min hi v)), some u))
     ∧ (∀ (planes : Nat) (u : Int) (xs : List FVal) (poisoned : Bool), (poisoned = true ∨ ∃ v ∈ xs, ∀ s m e, v ≠ .fin s m e) →
         mxConvert 2 planes u xs poisoned = (xs.map (fun _ => 0), none))
     ∧ ∀ (planes : Nat) (u : Int) (xs : List FVal), 2 ≤ planes → -254 ≤ u → u ≤ 254 → (∀ v ∈ xs, ∃ s m e, v = .fin s m e) →
         let r := mxConvert 2 planes u xs false
         let y (v : FVal) : ℚ := finite v * 2 ^ u
         ((∃ v ∈ xs, (2 : ℚ) ^ (255 : Int) ≤ |y v|) → r = (xs.map (fun _ => 0), none))
         ∧ ((∀ v ∈ xs, |y v| < (2 : ℚ) ^ (255 : Int)) → ∃ t : Int, r.2 = some t ∧ -254 ≤ t ∧ t ≤ 254
             ∧ (∀ v ∈ xs, |y v| < 2 ^ (t + 1)) ∧ (t = -254 ∨ (∃ v ∈ xs, (2 : ℚ) ^ t ≤ |y v|) ∨ (t = u ∧ ∀ v ∈ xs, y v = 0))
             ∧ r.1.length = xs.length
             ∧ ∀ (i : Nat) (v : FVal) (g : Int), xs[i]? = some v → r.1[i]? = some g →
                 let w : ℚ := 2 ^ (t - (planes - 2))
                 g ≤ 2 ^ (planes - 1) - 1 ∧ -(2 ^ (planes - 1)) ≤ g
                 ∧ ∀ h : Int, -(2 ^ (planes - 1)) ≤ h → h ≤ 2 ^ (planes - 1) - 1 → abs (y v - g * w) ≤ abs (y v - h * w) ∧ (h ≠ g → abs (y v - g * w) = abs (y v - h * w) → g % 2 = 0)))
  ∧ (∀ (s : State) (ck : Nat) (src : Ty) (bside : Bool) (r : MxReq) (rest : List MxReq) (tm : Team) (w : MxRow) (c c₀ : Nat) (a a₀ : Alloc),
       EngineTurn s ck r rest tm → r.op = .plane src bside → r.rows = [w] → mxRecordCheck r.rec_ = none →
       let m := mxTarget r.rec_ bside
       let k := mxK r.rec_
       let nb := mxNB r.rec_
       let n := mxBlock r.rec_
       let dst := w.second % 2 ^ 32
       let entry := m.soff + 2 * (mxIndex (w.second / 2 ^ 32) * nb)
       let row := s.mxRead r w.addr 0 (k * src.bytes)
       let blk (i : Nat) : List Int × Option Int := mxConvert m.kind m.planes (mxUser (w.second / 2 ^ 32))
         ((List.range n).map (fun j => mxElement src (row.1 / 2 ^ (8 * src.bytes * (i * n + j)) % 2 ^ (8 * src.bytes)))) false
       row.2 = [] → (mxUser (w.second / 2 ^ 32)).natAbs ≤ 254 → 0 < src.bytes →
       s.engineAlloc r.req (dst / 2 ^ 20 % 16) = some (c, a) → m.rowBytes k ≤ a.size →
       s.engineAlloc r.req 0 = some (c₀, a₀) → 2 * nb ≤ a₀.size →
       (∀ i j, i < m.rowBytes k → j < 2 * nb → (c, a.place (dst % 2 ^ 20 + i)) ≠ (c₀, a₀.place (entry + j))) →
       ∃ t, exec (.matrixEngineStep ck) s = .next t ∧ (t.cluster ck).mxQ = rest ∧ t.teams = s.teams ∧ t.groups = s.groups ∧ (∀ z, t.mem.byte z = s.mem.byte z)
         ∧ (∀ i j, i < nb → j < n → (blk i).1[j]? = some (mxSig m.kind m.planes k (bytesAt t c a (dst % 2 ^ 20) (m.rowBytes k)) (i * n + j)))
         ∧ (m.present = true → ∀ i, i < nb → scaleValue (bytesAt t c₀ a₀ (entry + 2 * i) 2) false = (blk i).2)
         ∧ ∀ q z, (∀ i, i < m.rowBytes k → (q, z) ≠ (c, a.place (dst % 2 ^ 20 + i))) →
             (m.present = true → ∀ j, j < 2 * nb → (q, z) ≠ (c₀, a₀.place (entry + j))) → (t.cluster q).spad.byte z = (s.cluster q).spad.byte z)

/-- Rules R164, R188, R303, R309 to R312 and R315: the engine performs the next instruction of its queue. MXZERO clears its
tiles and no other; MXLDB holds B as it reads now, and the slice's buffer is its group's; MXMUL and MXBAT, in tiles with no error
to come, take each element of their rows through the blocks of its row and of its column, and change no other; MXCHK writes the
counts and lets its slot go on.
Rules R90, R164, R171, R172, R313 and R314: MXDRAIN stores each element of its row at its place in the scratchpad, converted to its type or as
an image, and no other byte changes; an element too small for the type stops the group for the assist. MXFILL loads them. Both let
their slot go on. -/
def Obligations.MatrixEngine : Prop :=
  (∀ (s : State) (ck : Nat) (r : MxReq) (rest : List MxReq) (tm : Team), EngineTurn s ck r rest tm →
     let side (m : MxSide) (base at_ x first : Nat) : List MxBlk :=
       mxBlocks m.kind m.planes (mxK r.rec_) (mxBlock r.rec_) m.present (s.mxRead r base at_ (m.rowBytes (mxK r.rec_)))
         (fun j => s.mxScale r m.soff (x + first + j))
     let clean : Prop := ∀ k ∈ r.tiles, (tm.tile k).flaws = []
     (r.op.joins = false → ∃ t, exec (.matrixEngineStep ck) s = .next t ∧ (t.cluster ck).mxQ = rest)
     ∧ (∀ tile, r.op = .zero tile → ∃ t u, exec (.matrixEngineStep ck) s = .next t ∧ t.team? r.team = some u ∧ SameBytes s t
         ∧ ∀ k, u.tile k = if k ∈ r.tiles then {} else tm.tile k)
     ∧ (∀ g x, r.op = .ldb → s.mxGroup r = some (g, x) → HasBuffer s r → ∃ t y, exec (.matrixEngineStep ck) s = .next t ∧ t.group? g = some y
         ∧ y.heldB = some (s.mxSnapshot r) ∧ y.heldSpilled = false ∧ SameRegisters x y ∧ SameBytes s t ∧ t.teams = s.teams
         ∧ ∀ k, k ≠ g → t.group? k = s.group? k)
     ∧ (∀ g x h z k l, r.op = .ldb → s.mxGroup r = some (g, x) → x.heldSpilled = false → s.group? h = some z → h ≠ g → z.uid ≠ r.uid → z.skey = x.skey →
         z.heldB.isSome = true → z.heldSpilled = false →
         (∀ p ∈ s.groups, p.2.skey = x.skey → p.2.uid ≠ r.uid → p.2.heldB.isSome = true → p.2.heldSpilled = true ∨ p = (h, z)) →
         s.launch? z.launch = some l → MapsTo s z.part (l.area + s.spillOffset z l) ({ z with heldSpilled := true } : Group).spillSlot.length k →
         ∃ t y z', exec (.matrixEngineStep ck) s = .next t ∧ t.group? g = some y ∧ y.heldB = some (s.mxSnapshot r)
           ∧ t.group? h = some z' ∧ z' = { z with heldSpilled := true } ∧ t.teams = s.teams)
     ∧ (∀ tile hb held, r.op = .mul tile hb → (if hb then s.mxHeldOf r = some held ∧ HasBuffer s r else held = s.mxSnapshot r) →
         (∀ w ∈ r.rows, w.lane < (if r.wide then 64 else 32)) → (r.rows.map MxRow.lane).Nodup → clean →
         ∃ t u, exec (.matrixEngineStep ck) s = .next t ∧ t.team? r.team = some u ∧ SameBytes s t
           ∧ (∀ w ∈ r.rows, ∀ col, col < 64 →
               (u.tile (r.tileOf tile w.lane).1).get (r.tileOf tile w.lane).2 col
                 = mxAccumulate ((tm.tile (r.tileOf tile w.lane).1).get (r.tileOf tile w.lane).2 col)
                     ((side (mxA r.rec_) w.addr 0 (w.lane * mxNB r.rec_) 0).zip (held.column col)))
           ∧ ∀ k row col, row < 64 → col < 64 → (∀ w ∈ r.rows, r.tileOf tile w.lane ≠ (k, row)) → (u.tile k).get row col = (tm.tile k).get row col)
     ∧ (∀ tile, r.op = .bat tile → r.wide = false → (∀ w ∈ r.rows, w.lane < 32) → (r.rows.map MxRow.lane).Nodup → clean →
         let segs (m : MxSide) (base first x : Nat) : List MxBlk :=
           (List.range 16).flatMap (fun i => side m base ((first + i) * m.rowBytes (mxK r.rec_)) (x * (16 * mxNB r.rec_)) (i * mxNB r.rec_))
         ∃ t u, exec (.matrixEngineStep ck) s = .next t ∧ t.team? r.team = some u ∧ SameBytes s t
           ∧ (∀ w ∈ r.rows, ∀ col, col / 4 = w.lane / 2 →
               (u.tile (tileKey r.upper tile)).get w.lane col
                 = mxAccumulate ((tm.tile (tileKey r.upper tile)).get w.lane col) ((segs (mxA r.rec_) w.addr 0 w.lane).zip (segs (mxB r.rec_) r.base (16 * col) col)))
           ∧ ∀ k row col, row < 64 → col < 64 → (k ≠ tileKey r.upper tile ∨ ∀ w ∈ r.rows, w.lane ≠ row ∨ col / 4 ≠ row / 2) →
               (u.tile k).get row col = (tm.tile k).get row col)
     ∧ (∀ tile clr g x, r.op = .chk tile clr → s.mxGroup r = some (g, x) → r.logged = none → s.pairOf? r.team = none →
         (∀ w ∈ r.rows, w.lane < 64) →
         ∃ t y u, exec (.matrixEngineStep ck) s = .next t ∧ t.group? g = some y ∧ SameBytes s t ∧ t.team? r.team = some u
           ∧ (∀ k, u.tile k = if clr ∧ k ∈ r.tiles then { tm.tile k with corr := 0, uncorr := 0 } else tm.tile k)
           ∧ (∀ n j, j < 64 → y.reg n j = if n = r.d ∧ (∃ w ∈ r.rows, w.lane = j) then BitVec.ofNat 32 (tm.mxCounts r) else x.reg n j)
           ∧ (y.slot r.slot).pc = (x.slot r.slot).pc + 1 ∧ (y.slot r.slot).wait = .run))
  ∧ (∀ (s : State) (ck g tile : Nat) (r : MxReq) (rest : List MxReq) (tm : Team) (x : Group) (w : MxRow) (ty : Ty) (img : Bool),
       EngineTurn s ck r rest tm →
       s.mxGroup r = some (g, x) → r.rows = [w] → w.lane < 64 → (∀ a ∈ s.access, a.uid = x.uid) →
       let size := if img then 8 else ty.bytes
       let old (col : Nat) : BitVec 34 := (tm.tile (r.tileOf tile w.lane).1).get (r.tileOf tile w.lane).2 col
       0 < size → w.off + 64 * size ≤ 2 ^ 20 →
       (r.op = .drain tile ty img → (∀ col, col < 64 → mxSubnormal ty img (old col) = false) →
           ∃ t y, exec (.matrixEngineStep ck) s = .next t ∧ t.group? g = some y
           ∧ (y.slot r.slot).pc = (x.slot r.slot).pc + 1 ∧ (y.slot r.slot).wait = .run ∧ y.regs = x.regs ∧ y.masks = x.masks
           ∧ t.mem = s.mem ∧ t.teams = s.teams
           ∧ (∀ col, col < 64 → (t.cluster w.ck).spad.read (w.off + size * col) size
               = (if img then (old col).toNat else (convertTo ty .rn (extValue (old col))).1) % 2 ^ (8 * size))
           ∧ (∀ k a, (k ≠ w.ck ∨ a < w.off ∨ w.off + 64 * size ≤ a) → (t.cluster k).spad.byte a = (s.cluster k).spad.byte a)
           ∧ y.flags w.lane = if img then x.flags w.lane
               else (List.range 64).foldl (fun f col => f ||| BitVec.ofNat 32 (convertTo ty .rn (extValue (old col))).2.toNat) (x.flags w.lane))
       ∧ (r.op = .drain tile ty img → (∃ col, col < 64 ∧ mxSubnormal ty img (old col) = true) → x.run = .active →
           ∃ t y rc, exec (.matrixEngineStep ck) s = .next t ∧ t.group? g = some y ∧ y.run = .halted ∧ y.evHold = true ∧ y.assist = true
           ∧ y.stop = some rc ∧ (y.slot r.slot).pc = (x.slot r.slot).pc ∧ y.regs = x.regs ∧ SameBytes s t ∧ (t.cluster r.ckey).mxHeld = [r])
       ∧ (r.op = .fill tile ty img → (s.cluster w.ck).poisoned w.off (64 * size) = false → s.sees (r.reader .lane) (.spad w.ck w.off) (64 * size) = true →
           ∃ t y u, exec (.matrixEngineStep ck) s = .next t
           ∧ t.group? g = some y ∧ (y.slot r.slot).pc = (x.slot r.slot).pc + 1 ∧ (y.slot r.slot).wait = .run ∧ y.regs = x.regs ∧ y.masks = x.masks ∧ SameBytes s t
           ∧ t.team? r.team = some u
           ∧ (∀ col, col < 64 → (u.tile (r.tileOf tile w.lane).1).get (r.tileOf tile w.lane).2 col
               = if img then extRead ((s.cluster w.ck).spad.read (w.off + size * col) size) else extOf (fpValue ty ((s.cluster w.ck).spad.read (w.off + size * col) size)))
           ∧ (∀ k, k ≠ (r.tileOf tile w.lane).1 → k ∉ r.tiles → u.tile k = tm.tile k)
           ∧ ∀ k, k ∈ r.tiles → (u.tile k).corr = 0 ∧ (u.tile k).uncorr = 0))

/-! ### The prompter -/

/-- Rule R330: the result of every integer instruction of the prompter, written to its destination; g0 stays zero. The word
of the rule's example is that LI. -/
def Obligations.PrompterArithmetic : Prop :=
  ∀ (s : State) (c : Nat) (x : Ctx) (i : Instr) (regs : List Nat) (d : Nat) (v : DWord), prAluOf x i = some (regs, d, v) →
    MayExecute s c x (regs ++ [d]) →
    (∃ t, CtxStep i s t c (Ctx.after (Ctx.put x d v)))
    ∧ (∀ n, Ctx.val (Ctx.put x d v) n = if n = d ∧ n ≠ 0 then v else Ctx.val x n)
    ∧ BitVec.ofInt 64 ((BitVec.ofNat 64 (2 ^ 63)).toInt.tdiv (BitVec.allOnes 64).toInt) = BitVec.ofNat 64 (2 ^ 63)
    ∧ BitVec.ofInt 64 ((BitVec.ofNat 64 (2 ^ 63)).toInt.tmod (BitVec.allOnes 64).toInt) = 0
    ∧ decodePrompter 0x1040_0000_0000_0005 = .ok (.li { d := 8, imm := 5 })

/-- Rules R57 and R351: NOP changes nothing, and YIELD leaves the context not ready until the next cycle, which is its next
turn, and changes nothing else; a word of either with an operand is no such instruction. -/
def Obligations.PrompterYields : Prop :=
  (∀ (s : State) (c : Nat) (x : Ctx) (o : POps), MayExecute s c x [] →
    (∃ t, CtxStep (.prNop o) s t c (Ctx.after x)) ∧ ∃ t, CtxStep (.prYield o) s t c { Ctx.after x with wait := .yield })
  ∧ (∀ (s : State) (c : Nat) (x : Ctx) (o : POps), s.cur = .prompter c → s.ctx? c = some x → x.wait = .yield → s.running (c / 8) = true →
    ∃ t, CtxStep (.prNop o) s t c { x with wait := .run })
  ∧ ∀ (w : Nat) (o : POps), decodePrompter w = .ok (.prNop o) ∨ decodePrompter w = .ok (.prYield o) → w % 2 ^ 56 = 0

/-- Rule R335: B and CALL go to their target, which is 2^20 addresses round; CALL leaves the next index in g31; BC goes where
its condition holds, else on; JR goes to its register plus its offset. -/
def Obligations.PrompterBranches : Prop :=
  ∀ (s : State) (c : Nat) (x : Ctx) (o : POps),
    let target := x.pc + BitVec.ofNat 20 o.imm
    let a := Ctx.val x o.a
    let b := Ctx.val x o.b
    (MayExecute s c x [] → ∃ t, CtxStep (.b o) s t c { Ctx.after x with pc := target })
    ∧ (MayExecute s c x [31] → ∃ t, CtxStep (.prCall o) s t c { Ctx.after (Ctx.put x 31 ((x.pc + 1).setWidth 64)) with pc := target })
    ∧ (MayExecute s c x [o.a] →
        ∃ t, CtxStep (.jr o) s t c { Ctx.after x with pc := (a + (BitVec.ofNat 32 o.imm).signExtend 64).setWidth 20 })
    ∧ (MayExecute s c x [o.a, o.b] → ∀ cond : PrCond,
        let holds : Bool := match cond with
          | .eq => a == b | .ne => a != b | .lt => a.slt b | .ge => !(a.slt b) | .ltn => a.ult b | .gen => !(a.ult b)
        ∃ t, CtxStep (.bc o cond) s t c { Ctx.after x with pc := if holds then target else x.pc + 1 })

/-- Rule R350: a fault of the assist or system context saves the index, the code and the detail, and goes to the handler; nothing
else of the machine changes. Inside a handler it makes the partition fatal instead, whose launch ends with PARTITION_FATAL. ERET goes back to epc; in a generator
context it is an illegal instruction with detail 4. -/
def Obligations.HandlerEntryAndReturn : Prop :=
  ∀ (s : State) (c : Nat) (x : Ctx), MayExecute s c x [] →
    (6 ≤ x.num → x.inHandler = false →
      (∀ detail, ∃ t, CtxStep (.illegalInstruction detail) s t c
        { x with epc := x.pc.setWidth 64, ecause := BitVec.ofNat 64 (detail * 256 + 1), pc := x.evec.setWidth 20, inHandler := true, wait := .run })
      ∧ ∀ index, ∃ t, CtxStep (.prompterMemoryFault index) s t c
        { x with epc := x.pc.setWidth 64, ecause := 2, pc := x.evec.setWidth 20, inHandler := true, wait := .run })
    ∧ (6 ≤ x.num → x.inHandler = true → ∀ detail, ∃ t, exec (.illegalInstruction detail) s = .next t ∧ (t.part x.part).fatal = true
        ∧ ∀ u l, s.launches = [(u, l)] → l.part = x.part → l.killed = false → Ended t u 0x0C)
    ∧ (6 ≤ x.num → ∀ o, ∃ t, CtxStep (.eret o) s t c { Ctx.after x with pc := x.epc.setWidth 20, inHandler := false })
    ∧ (x.num < 6 → ∀ o, exec (.eret o) s = exec (.illegalInstruction 4) s)

/-- Rules R78, R328 and R348: an illegal instruction or a prompter memory fault of a generator context is a level-G fault: its
launch ends with GENERATOR_FAULT. A word that is not permitted in the context is an illegal instruction with detail 4. -/
def Obligations.PrompterFaults : Prop :=
  ∀ (s : State) (c : Nat) (x : Ctx) (l : Launch), MayExecute s c x [] →
    (x.num < 6 → s.launch? x.launch = some l → l.killed = false →
      (∀ detail, ∃ t, exec (.illegalInstruction detail) s = .next t ∧ Ended t x.launch 0x07)
      ∧ ∀ index, ∃ t, exec (.prompterMemoryFault index) s = .next t ∧ Ended t x.launch 0x07)
    ∧ (6 ≤ x.num → ∀ o : POps, ∀ i ∈ [Instr.tmpl o, .fld o, .emit o, .emitx o, .emitb o, .segnew o, .seal o, .segfree o, .start o, .sysc o],
        exec i s = exec (.illegalInstruction 4) s)
    ∧ (x.num ≠ 7 → ∀ o : POps, ∀ i ∈ [Instr.sysresume o, .dhalt o, .drelease o, .tlbinv o, .lkill o], exec i s = exec (.illegalInstruction 4) s)
    ∧ (x.num < 6 → ∀ o : POps, ∀ i ∈ [Instr.accrd o, .accwr o], exec i s = exec (.illegalInstruction 4) s)
    ∧ (∀ o : POps, csrPermitted (o.imm % 4096) x = false → exec (.csrr o) s = exec (.illegalInstruction 4) s ∧ exec (.csrw o) s = exec (.illegalInstruction 4) s)

/-- Rules R81, R331 to R334: a prompter access whose address is in order, translated and granted, or inside the allocation its
register names, leaves for its place, and the context goes on; FENCE completes once what its order speaks of is done. A
device address out of order is a prompter memory fault. -/
def Obligations.PrompterMemory : Prop :=
  ∀ (s : State) (c : Nat) (x : Ctx) (o : POps) (m : PMem), s.ctxHeld c x = false → (orderReleases m.order = true → s.ctxUndone c x = false) →
    s.ctxDiscards c x = false →
    let reached (p : Place) : Prop := ∀ q, p = .remote q → s.unreachable.contains (fabricDevice q) = true ∨ s.portsTo (fabricDevice q) ≠ []
    let addr := (Ctx.val x o.a + (BitVec.ofNat 32 o.imm).signExtend 64).toNat
    let at_ := (Ctx.val x o.a).toNat
    (∀ place phys chk, deviceCheck addr m.ty.bytes = none → s.servedAt phys = place → reached place →
      (MayExecute s c x [o.a, o.d] → s.translate (c / 8) addr false = .hit phys chk → s.unitMay x.part phys false = true →
        ∃ t y op, CtxAccess (.prLd o m) s t c x y op (.load m.ty) place m.ty.bytes 0 (some o.d) m)
      ∧ (MayExecute s c x [o.a, o.b] → s.translate (c / 8) addr true = .hit phys chk → s.unitMay x.part phys true = true →
        ∃ t y op, CtxAccess (.prSt o m) s t c x y op (.store m.ty.bytes) place m.ty.bytes (Ctx.val x o.b) none m))
    ∧ (∀ place phys chk, deviceCheck at_ m.ty.bytes = none → s.servedAt phys = place → reached place → MayExecute s c x [o.a, o.b, o.d] →
      s.translate (c / 8) at_ true = .hit phys chk → s.unitMay x.part phys true = true →
        ∃ t y op, CtxAccess (.prAtom o m) s t c x y op (.atom (o.imm % 16) m.ty) place m.ty.bytes (Ctx.val x o.b) (some o.d) m)
    ∧ (let a := wrapOf 32 (Int.ofNat ((Ctx.val x o.a).toNat % 2 ^ 32) + ((BitVec.ofNat 32 o.imm).signExtend 64).toInt)
       ∀ k tm ck off declared base, s.ctxTeam c x (field (Ctx.val x o.a) 32 8) = some (k, tm) → s.ctxSpadRef x tm a = .at_ ck off declared base →
        a % m.ty.bytes = 0 → off + m.ty.bytes ≤ declared →
        (MayExecute s c x [o.a, o.d] →
          ∃ t y op, CtxAccess (.prLds o m) s t c x y op (.load m.ty) (.spad ck (base + off)) m.ty.bytes 0 (some o.d) m)
        ∧ (MayExecute s c x [o.a, o.b] → (s.cluster ck).poison.contains ((base + off) / 16) = false →
          ∃ t y op, CtxAccess (.prSts o m) s t c x y op (.store m.ty.bytes) (.spad ck (base + off)) m.ty.bytes (Ctx.val x o.b) none m))
    ∧ (∀ sc od, MayExecute s c x [] → (orderReleases od = true → s.ctxUndone c x = false) →
        (orderAcquires od = true → ∀ k ∈ s.flight, k.agent = .ctx c → k.uid = x.uid → k.atomic = true → k.d = none) →
        ∃ t y, exec (.prFence o sc od) s = .next t ∧ t.ctx? c = some y ∧ (∀ k, k ≠ c → t.ctx? k = s.ctx? k)
          ∧ y = { Ctx.after x with clk := y.clk, scClk := y.scClk, relFence := y.relFence } ∧ t = { s with ctxs := t.ctxs, scClk := t.scClk }
          ∧ (orderReleases od = true → (sc, y.clk) ∈ y.relFence) ∧ (od ≠ .sc → t.scClk = s.scClk ∧ y.scClk = x.scClk))
    ∧ (MayExecute s c x [o.a, o.d] → deviceCheck addr m.ty.bytes ≠ none → 6 ≤ x.num → x.inHandler = false →
        ∃ t, CtxStep (.prLd o m) s t c
          { x with epc := x.pc.setWidth 64, ecause := 2, pc := x.evec.setWidth 20, inHandler := true, wait := .run })

/-- Rules R347 and R408: CSRR of a register that may be read completes with its value; CSRW of one that only holds its value
completes, and its reserved bits keep reading zero; nothing else changes. In the assist and system contexts the epoch, the quota
and the chunks read zero. -/
def Obligations.ControlRegisters : Prop :=
  ∀ (s : State) (c : Nat) (x : Ctx) (o : POps), csrPermitted (o.imm % 4096) x = true →
    ((o.imm % 4096 ≤ 0x009 ∨ o.imm % 4096 ∈ [0x100, 0x101, 0x102, 0x103, 0x113, 0x114]) → MayExecute s c x [o.d] →
      ∃ t, CtxStep (.csrr o) s t c (Ctx.after (Ctx.put x o.d (s.csrRead c x (o.imm % 4096)))))
    ∧ (MayExecute s c x [o.a] →
        let v := Ctx.val x o.a
        (o.imm % 4096 = 0x001 → ∃ t, CtxStep (.csrw o) s t c (Ctx.after { x with evmask := v &&& 0xFFE }))
        ∧ (o.imm % 4096 = 0x100 → ∃ t, CtxStep (.csrw o) s t c (Ctx.after { x with epc := v }))
        ∧ (o.imm % 4096 = 0x101 → ∃ t, CtxStep (.csrw o) s t c (Ctx.after { x with ecause := v &&& 0xFFFFF }))
        ∧ (o.imm % 4096 = 0x102 → ∃ t, CtxStep (.csrw o) s t c (Ctx.after { x with evec := v }))
        ∧ (o.imm % 4096 = 0x103 → ∃ t, CtxStep (.csrw o) s t c (Ctx.after { x with escratch := v })))
    ∧ s.csrRead c x 0x000 = BitVec.ofNat 64 x.num ∧ s.csrRead c x 0x001 = x.evmask
    ∧ s.csrRead c x 0x003 = (if x.num < 6 then BitVec.ofNat 64 x.epoch else 0)
    ∧ s.csrRead c x 0x004 = BitVec.ofNat 64 (min x.events.length 64) ∧ s.csrRead c x 0x005 = x.cue.setWidth 64
    ∧ s.csrRead c x 0x006 = (s.cluster (c / 8)).clock ∧ s.csrRead c x 0x007 = x.image
    ∧ s.csrRead c x 0x008 = (if x.num < 6 then BitVec.ofNat 64 x.quota else 0)
    ∧ s.csrRead c x 0x009 = (if x.num < 6 then BitVec.ofNat 64 x.chunks else 0)
    ∧ s.csrRead c x 0x100 = x.epc ∧ s.csrRead c x 0x101 = x.ecause ∧ s.csrRead c x 0x102 = x.evec ∧ s.csrRead c x 0x103 = x.escratch
    ∧ s.csrRead c x 0x002 = BitVec.ofNat 64 (x.stalled.toNat * 2 ^ 23
        + (match x.openSeg with | some g => x.nextOff * 2 ^ 10 + g * 4 + 2 | none => 0) + (!x.inService.isEmpty).toNat)
    ∧ s.csrRead c x 0x113 = (if (s.cluster (c / 8)).tlbBusy = [] then 0 else 1)
    ∧ s.csrRead c x 0x114 = BitVec.ofNat 64 ((s.cluster (c / 8)).copyCount * 2 ^ 32 + (s.cluster (c / 8)).copyTeam * 2 ^ 24 + (s.cluster (c / 8)).copyAddr)

/-! ### Composition and segments -/

/-- Rules R59 to R61, R63, R214, R336 and R337: TMPL loads a word and its holes; FLD writes a field of the composition register;
EMIT and EMITX queue the word that their registers complete, at the next or at a stated offset; EMITB queues its words two at a
time. A word that fails the check queues nothing and ends the launch with COMPOSE_FAULT. A full queue stalls EMIT, or ends the
launch with SCRIPT_FULL where no chunk can come back. -/
def Obligations.Composition : Prop :=
  ∀ (s : State) (c : Nat) (x : Ctx) (o : POps), x.num < 6 →
    (s.cluster (c / 8)).compHolder = none ∨ (s.cluster (c / 8)).compHolder = some x.num →
    let i := ((Ctx.val x o.a).toNat + o.imm % 2 ^ 20) % 2 ^ 20
    let word (k : Nat) : DWord := Sp.getD x.words k 0
    let valid (w : DWord) : Prop := ∃ l, decodeLane w.toNat = .ok l
    (let holes := (List.range (word (i + 1) >>> 60).toNat).map (fun h =>
        ((word (i + 1)).toNat / 2 ^ (12 * h + 6) % 64, (word (i + 1)).toNat / 2 ^ (12 * h) % 64, false));
      MayExecute s c x [o.a] → i + 1 < x.imageLen → holes.length ≤ 5 → (∀ h ∈ holes, 1 ≤ h.2.1 ∧ h.2.1 ≤ 32 ∧ h.1 + h.2.1 ≤ 64) →
      holes.Pairwise (fun p q => p.1 + p.2.1 ≤ q.1 ∨ q.1 + q.2.1 ≤ p.1) →
      ∃ t, CtxStep (.tmpl o) s t c { Ctx.after x with comp := word i, holes := holes })
    ∧ (let p := o.imm % 64
      let w := o.imm / 256 % 128;
      MayExecute s c x [o.a] → 1 ≤ w → p + w ≤ 64 → ∃ t v, CtxStep (.fld o) s t c
          { Ctx.after x with comp := v, holes := x.holes.map (fun h => (h.1, h.2.1, h.2.2 || (h.1 == p && h.2.1 == w))) }
        ∧ ∀ k, k < 64 → v.getLsbD k = if p ≤ k ∧ k < p + w then (Ctx.val x o.a).getLsbD (k - p) else x.comp.getLsbD k)
    ∧ (∀ g e, x.openSeg = some g → Sp.get? x.segs g = some e →
      let h := (x.holes.filter (fun h => !h.2.2)).length
      let prov (k : Nat) : BitVec 32 := BitVec.ofNat 32 (x.num * 2 ^ 29 + k % 2 ^ 20)
      (h = 0 ∨ o.a + h - 1 ≤ 31) → (x.compose o.a).2 = false →
      (MayExecute s c x ((List.range h).map (fun k => o.a + k)) → valid (x.compose o.a).1 → x.nextOff < e.cap → x.emitQ.length < 16 →
        ∃ t, ComposeStep (.emit o) s t c { Ctx.after (Ctx.queued x g [{ seg := g, off := x.nextOff, word := (x.compose o.a).1, prov := prov x.pc.toNat }])
          with nextOff := x.nextOff + 1 })
      ∧ (MayExecute s c x (o.b :: (List.range h).map (fun k => o.a + k)) → valid (x.compose o.a).1 → (Ctx.val x o.b).toNat < e.cap →
          x.emitQ.length < 16 →
        ∃ t, ComposeStep (.emitx o) s t c
          (Ctx.after (Ctx.queued x g [{ seg := g, off := (Ctx.val x o.b).toNat, word := (x.compose o.a).1, prov := prov x.pc.toNat }])))
      ∧ (MayExecute s c x ((List.range h).map (fun k => o.a + k)) → valid (x.compose o.a).1 → x.nextOff < e.cap → 16 ≤ x.emitQ.length →
          x.starved = false → ∃ t, exec (.emit o) s = .next t ∧ t.ctx? c = some { x with wait := .stall, stalled := true }
            ∧ (t.cluster (c / 8)).compHolder = some x.num ∧ t = { s with ctxs := t.ctxs, clusters := t.clusters })
      ∧ ∀ l, s.launch? x.launch = some l → l.killed = false → x.inService = [] →
          MayExecute s c x ((List.range h).map (fun k => o.a + k)) →
          (¬ valid (x.compose o.a).1 → ∃ t, exec (.emit o) s = .next t ∧ Ended t x.launch 0x05)
          ∧ (valid (x.compose o.a).1 → x.nextOff < e.cap → 16 ≤ x.emitQ.length → x.starved = true → (∀ p ∈ x.segs, p.2.state ≠ .retiring) →
              ∃ t, exec (.emit o) s = .next t ∧ Ended t x.launch 0x06))
    ∧ (∀ g e, x.openSeg = some g → Sp.get? x.segs g = some e → MayExecute s c x [o.a] → x.emitQ.length < 16 →
      let n := o.imm / 2 ^ 20 + 1
      let m := x.emitted
      let k := min (n - m) (min 2 (16 - x.emitQ.length))
      let ws := (List.range k).map (fun j => ({ seg := g, off := x.nextOff + j, word := word (i + m + j),
                                                prov := BitVec.ofNat 32 (x.num * 2 ^ 29 + (i + m + j) % 2 ^ 20) } : EmitWord))
      m < n → (m = 0 → i + n ≤ x.imageLen ∧ x.nextOff + n ≤ e.cap ∧ ∀ j, j < n → valid (word (i + j))) →
      (m + k = n → ∃ t, ComposeStep (.emitb o) s t c { Ctx.after (Ctx.queued x g ws) with nextOff := x.nextOff + k, emitted := 0 })
      ∧ (m + k < n → ∃ t, exec (.emitb o) s = .next t ∧ (t.cluster (c / 8)).compHolder = some x.num
          ∧ t.ctx? c = some { Ctx.queued x g ws with nextOff := x.nextOff + k, emitted := m + k, wait := .run, stalled := false }
          ∧ t = { s with ctxs := t.ctxs, clusters := t.clusters }))

/-- Rules R61 to R67, R70, R338 and R339: SEGNEW opens the lowest free segment; SEAL waits, and once the segment has drained and what its context did before is done gives
its words the new epoch, starts what waits for it and wakes its groups; SEGFREE makes a sealed segment retiring, which is freed
when no slot stands in it, and discards an open one; START, once what its context did before is done, starts every group of its team, at once or at SEAL. The drain puts
the word at the head of a queue in the store; a stall of 256 cycles gives up the unit. -/
def Obligations.Segments : Prop :=
  ∀ (s : State) (c : Nat) (x : Ctx) (o : POps), s.ctx? c = some x → x.num < 6 → Sp.sorted s.groups = true →
    (∀ n, MayExecute s c x [o.d] → 1 ≤ o.imm → o.imm ≤ 4096 → x.openSeg = none → n < 256 → Sp.get? x.segs n = none →
      (∀ m, m < n → (Sp.get? x.segs m).isSome) →
      ∃ t, CtxStep (.segnew o) s t c { Ctx.after (Ctx.put x o.d (BitVec.ofNat 64 (n * 4096))) with
        segs := Sp.set x.segs n { state := .open_, cap := o.imm }, openSeg := some n, nextOff := 0 })
    ∧ (∀ g, MayExecute s c x [o.d] → x.openSeg = some g → ∃ t, CtxStep (.seal o) s t c
        { x with wait := .seal, replyReg := some o.d, segs := Sp.modify x.segs g (fun e => { e with sealing := true }) })
    ∧ (∀ g e d, x.openSeg = some g → Sp.get? x.segs g = some e → e.sealing = true → x.replyReg = some d →
        (∀ w ∈ x.emitQ, w.seg ≠ g) → s.running (c / 8) = true → s.ctxQuiet c x = true →
        let ep := x.epoch % 511 + 1
        x.epoch ≤ 511 → ∃ t y, exec (.sealComplete c) s = .next t ∧ t.ctx? c = some y
          ∧ y.epoch = ep ∧ y.openSeg = none ∧ y.pc = x.pc + 1 ∧ y.wait = .run ∧ (∀ n, Ctx.val y n = if n = d ∧ n ≠ 0 then BitVec.ofNat 64 ep else Ctx.val x n)
          ∧ Sp.get? y.segs g = some { e with state := .sealed, sealing := false, starts := [], clk := y.clk }
          ∧ (∀ k w p, Sp.get? x.store k = some (w, p) →
              Sp.get? y.store k = some (w, if k / 4096 = g then p ||| BitVec.ofNat 32 (ep * 2 ^ 20) else p))
          ∧ SameBytes s t
          ∧ (∀ k a, e.starts = [(k, a)] → StartedAt s t k a)
          ∧ (∀ h z b tm, e.starts = [] → s.group? h = some z → s.team? z.team = some tm → tm.ctx = c → (z.slot b).mask ≠ 0 →
              (z.slot b).wait = .segment g → ∃ z', t.group? h = some z' ∧ (z'.slot b).wait = .run ∧ (z'.slot b).pc = (z.slot b).pc))
    ∧ (let g := (Ctx.val x o.a).toNat / 4096;
      MayExecute s c x [o.a] → (Ctx.val x o.a).toNat < 2 ^ 20 →
      (∀ e, Sp.get? x.segs g = some e → e.state = .sealed →
        ∃ t, CtxStep (.segfree o) s t c { Ctx.after x with segs := Sp.set x.segs g { e with state := .retiring } })
      ∧ (Sp.get? x.segs g = none → ∃ t, CtxStep (.segfree o) s t c (Ctx.after x))
      ∧ (∀ e, Sp.get? x.segs g = some e → e.state = .retiring → ∃ t, CtxStep (.segfree o) s t c (Ctx.after x))
      ∧ ∀ e, Sp.get? x.segs g = some e → e.state = .open_ → e.starts = [] →
          (∀ p ∈ s.groups, ∀ b, (p.2.slot b).wait ≠ .segment g) →
          ∃ t y, CtxStep (.segfree o) s t c y ∧ Sp.get? y.segs g = none ∧ y.openSeg = none ∧ y.pc = x.pc + 1 ∧ y.regs = x.regs)
    ∧ (∀ g e, Sp.get? x.segs g = some e → e.state = .retiring → NoneStandsIn s c g →
        ∃ t y, CtxStep (.segmentRelease c g) s t c y ∧ Sp.get? y.segs g = none ∧ y.chunks = x.chunks - e.chunks.length
          ∧ y.regs = x.regs ∧ y.pc = x.pc ∧ (x.wait = .chunk → (e.chunks ≠ [] ∨ ∀ p ∈ x.segs, p.1 ≠ g → p.2.state ≠ .retiring) → y.wait = .run) ∧ ∀ k, k / 4096 = g → Sp.get? y.store k = none)
    ∧ (MayExecute s c x [o.a, o.b] → (Ctx.val x o.b).toNat < 2 ^ 20 →
      let a := BitVec.ofNat 20 (Ctx.val x o.b).toNat
      ∀ k tm e, s.ctxTeam c x ((Ctx.val x o.a).toNat % 256) = some (k, tm) → s.team? k = some tm → tm.ctx = c → tm.started = false → s.ctxQuiet c x = true →
        Sp.get? x.segs (segOf a) = some e →
        (e.state = .sealed → ∃ t y, exec (.start o) s = .next t ∧ t.ctx? c = some { Ctx.after x with clk := y } ∧ StartedAt s t k a
          ∧ t.team? k = some { tm with started := true } ∧ SameBytes s t)
        ∧ (e.state = .open_ → ∃ t y, exec (.start o) s = .next t ∧ t.groups = s.groups ∧ SameBytes s t
          ∧ t.ctx? c = some { Ctx.after x with clk := y, segs := Sp.set x.segs (segOf a) { e with starts := e.starts ++ [(k, a)] } }))
    ∧ (∀ ck n w e, c = ctxKey ck n → n < 6 → s.running ck = true → x.emitQ = [w] → Sp.get? x.segs w.seg = some e →
        (w.off / 64 ∈ e.chunks ∨ x.chunks < x.quota) → (∀ m z, m ≠ n → s.ctx? (ctxKey ck m) = some z → z.emitQ = []) →
        ∃ t y, exec (.scriptStoreDrain ck) s = .next t ∧ t.ctx? c = some y ∧ (∀ k, k ≠ c → t.ctx? k = s.ctx? k)
          ∧ y = { x with emitQ := [], store := Sp.set x.store (w.seg * 4096 + w.off) (w.word, w.prov),
                         chunks := if w.off / 64 ∈ e.chunks then x.chunks else x.chunks + 1,
                         segs := Sp.set x.segs w.seg { e with chunks := insNat (w.off / 64) e.chunks } }
          ∧ t = { s with ctxs := t.ctxs, clusters := t.clusters } ∧ SameBytes s t)
    ∧ (x.wait = .stall → (s.cluster (c / 8)).compHolder = some x.num → ∃ t, ComposeStep (.composeStallTimeout c) s t c { x with wait := .chunk })

/-! ### The prompter's services -/

/-- Rules R72, R101, R340, R341, R344 to R346 and R424: a mailbox word of the prompter puts its request to the team it names; WAITEV
takes the oldest record, waits, or answers all ones with `.nb`; EVINFO gives a word of the current event; CUEPT sets the cue
count; ACCRD and ACCWR wait in the engine's queue, and are performed there on one element, whose image ACCWR reads as MXFILL. -/
def Obligations.PrompterServices : Prop :=
  ∀ (s : State) (c : Nat) (x : Ctx) (o : POps),
    (∀ (i : Instr) (op : MbOp) (k : Nat) (tm : Team),
      [(Instr.prMbget o, MbOp.get), (Instr.prMbput o, MbOp.put), (Instr.prMbr o, MbOp.read), (Instr.prMbw o, MbOp.write)].contains (i, op) = true →
      let puts := op == .put || op == .write
      MayExecute s c x (if puts then [o.a, o.b] else [o.a, o.d]) → s.ctxTeam c x ((Ctx.val x o.a).toNat % 256) = some (k, tm) →
      tm.ckey = c / 8 → (puts = false ∨ s.ctxQuiet c x = true) →
      ∃ t r, exec i s = .next t
        ∧ t.ctx? c = some { x with wait := .mailbox } ∧ t.team? k = some { tm with requests := tm.requests ++ [r] }
        ∧ t = { s with ctxs := t.ctxs, teams := t.teams }
        ∧ r.agent = .ctx c ∧ r.clk = Clock.tick x.clk x.uid ∧ r.op = op ∧ r.mb = o.imm % 32 ∧ r.value = (if puts then Ctx.val x o.b else 0) ∧ r.d = o.d)
    ∧ (∀ nb, MayExecute s c x [o.d] →
      (∀ r k g rest, x.events = (r, k, g) :: rest → ∃ t, CtxStep (.waitev o nb) s t c
        { Ctx.after (Ctx.put x o.d (BitVec.ofNat 64 (r.w0.toNat / 2 ^ 48 % 256))) with
          events := rest ++ x.arrivals.take 1, arrivals := x.arrivals.drop 1, current := some r, clk := Clock.join x.clk k,
          inService := if 1 ≤ r.w0.toNat / 2 ^ 56 ∧ r.w0.toNat / 2 ^ 56 ≤ 0x0B then x.inService ++ [g] else x.inService })
      ∧ (x.events = [] → ∃ t, CtxStep (.waitev o nb) s t c
          (if nb then Ctx.after (Ctx.put x o.d (BitVec.allOnes 64)) else { x with wait := .event })))
    ∧ (MayExecute s c x [o.d] → o.imm % 8 ≤ 4 → ∃ t, CtxStep (.evinfo o) s t c (Ctx.after (Ctx.put x o.d
        (match x.current with
         | none => 0
         | some r => match o.imm % 8 with | 0 => r.w0 | 1 => r.w1 | 2 => r.w2 | 3 => r.w3 | _ => r.w4))))
    ∧ (let n := (Ctx.val x o.a).setWidth 32;
      MayExecute s c x [o.a] → s.ctxUndone c x = false → x.cue.toNat < n.toNat → (s.part x.part).cutState = 0 →
        ∃ t, CtxStep (.prCuept o) s t c { Ctx.after x with cue := n, issuedCue := true, cutStop := false })
    ∧ (∀ k tm, 6 ≤ x.num → s.ctxTeam c x ((Ctx.val x o.a).toNat % 256) = some (k, tm) → (Ctx.val x o.a).toNat / 2 ^ 8 % 32 < tm.tiles →
        (mxGoing (s.cluster (c / 8)).mxHeld (s.cluster (c / 8)).mxQ []).length < 16 →
        let tile := (Ctx.val x o.a).toNat / 2 ^ 8 % 32
        let row := (Ctx.val x o.a).toNat / 2 ^ 19 % 32
        let col := (Ctx.val x o.a).toNat / 2 ^ 13 % 64
        let queued (i : Instr) (op : MxOp) (d : Nat) : Prop :=
          ∃ t r, exec i s = .next t ∧ t.ctx? c = some { x with wait := .engine } ∧ (t.cluster (c / 8)).mxQ = (s.cluster (c / 8)).mxQ ++ [r]
            ∧ r.op = op ∧ r.agent = .ctx c ∧ r.team = k ∧ r.d = d ∧ t.teams = s.teams ∧ t.groups = s.groups
        (MayExecute s c x [o.a, o.d] → queued (.accrd o) (.accrd tile row col) o.d)
        ∧ (MayExecute s c x [o.a, o.b] → queued (.accwr o) (.accwr tile row col (Ctx.val x o.b)) 0))
    ∧ ∀ ck r rest tm, EngineTurn s ck r rest tm → r.agent = .ctx c → s.ctx? c = some x →
        (∀ tile row col, r.op = .accrd tile row col → ∃ t y, exec (.matrixEngineStep ck) s = .next t ∧ t.ctx? c = some y
          ∧ y.pc = x.pc + 1 ∧ y.wait = .run ∧ t.teams = s.teams ∧ SameBytes s t
          ∧ ∀ n, Ctx.val y n = if n = r.d ∧ n ≠ 0 then ((tm.tile (tileKey r.upper tile)).get row col).setWidth 64 else Ctx.val x n)
        ∧ ∀ tile row col image, r.op = .accwr tile row col image → row < 32 → col < 64 →
          ∃ t y u, exec (.matrixEngineStep ck) s = .next t ∧ t.ctx? c = some y
          ∧ y.pc = x.pc + 1 ∧ y.wait = .run ∧ y.regs = x.regs ∧ SameBytes s t ∧ t.team? r.team = some u
          ∧ (∀ k m n, m < 32 → n < 64 → (u.tile k).get m n =
              if k = tileKey r.upper tile ∧ m = row ∧ n = col then extRead image.toNat else (tm.tile k).get m n)
          ∧ ∀ k, (u.tile k).corr = (tm.tile k).corr ∧ (u.tile k).uncorr = (tm.tile k).uncorr

/-- Rules R342, R343, R405 and R77: each GCTL answers 0 for a group it may control and acts on it: RESUME releases it where it
stands, REDIRECT with the named slot at its target, KILL makes it exit, FLAGS sets flags of a lane and leaves it halted. It answers
2 where no such team is resident, and 1 for a group that nothing halts; then nothing else changes. The system context finds a group halted also before its event is
posted, and its RESUME clears all the holds, and a slot that waits on a translation tries again. What the context did before is done first. -/
def Obligations.GroupControl : Prop :=
  ∀ (s : State) (c : Nat) (x : Ctx) (o : POps),
    let v := Ctx.val x o.a
    let w := Ctx.val x o.b
    let again (q : Slot) : Slot := if x.num = 7 ∧ q.wait = .walk then { q with wait := .run } else q
    (∀ g y k tm, Controlled s c x v g y k tm →
      (MayExecute s c x [o.a, o.d] → s.ctxQuiet c x = true → ∃ t z u, exec (.gctlResume o) s = .next t ∧ t.group? g = some z ∧ Released x y z
        ∧ (∀ b, z.slot b = again (y.slot b)) ∧ (∀ h, h ≠ g → t.group? h = s.group? h) ∧ SameBytes s t
        ∧ t.ctx? c = some u ∧ u = { Ctx.after (Ctx.put x o.d 0) with clk := u.clk, inService := delNat g x.inService })
      ∧ (MayExecute s c x [o.b, o.a, o.d] → s.ctxQuiet c x = true → w.toNat < 2 ^ 20 → ∃ t z u, exec (.gctlRedirect o) s = .next t ∧ t.group? g = some z ∧ Released x y z
        ∧ (let b := v.getLsbD 42
           let bad : Bool := match s.ctxOf y with | none => true | some q => q.badTransfer (w.setWidth 20)
           z.slot b = { y.slot b with pc := w.setWidth 20, wait := .run, waitAt := 0, wants := [], past := bad, age := s.sliceNow y } ∧ z.slot (!b) = again (y.slot (!b)))
        ∧ (∀ h, h ≠ g → t.group? h = s.group? h) ∧ SameBytes s t
        ∧ t.ctx? c = some u ∧ u = { Ctx.after (Ctx.put x o.d 0) with clk := u.clk, inService := delNat g x.inService })
      ∧ (MayExecute s c x [o.a, o.d] → s.ctxQuiet c x = true → ∃ t, exec (.gctlKill o) s = .next t ∧ t.group? g = none ∧ (∀ h, h ≠ g → t.group? h = s.group? h)
        ∧ ((insNat y.index tm.gone).length < tm.ngroups → ∃ u z, t.team? y.team = some u ∧ u.gone = insNat y.index tm.gone
            ∧ t.ctx? c = some z ∧ z = { Ctx.after (Ctx.put x o.d 0) with clk := z.clk, inService := delNat g x.inService }))
      ∧ (let lane := w.toNat / 2 ^ 8 % 64;
        MayExecute s c x [o.a, o.b, o.d] → w.toNat / 2 ^ 14 = 0 → w.toNat / 2 ^ 5 % 8 = 0 → lane < y.width →
          ∃ t z, exec (.gctlFlags o) s = .next t ∧ t.group? g = some z ∧ z.run = y.run ∧ z.stop = y.stop ∧ z.slotA = y.slotA ∧ z.slotB = y.slotB
            ∧ z.regs = y.regs ∧ (∀ j, z.flags j = if j = lane then y.flags j ||| BitVec.ofNat 32 (w.toNat % 32) else y.flags j)
            ∧ (∀ h, h ≠ g → t.group? h = s.group? h) ∧ SameBytes s t ∧ t.ctx? c = some (Ctx.after (Ctx.put x o.d 0))))
    ∧ (∀ i ∈ [Instr.gctlResume o, .gctlRedirect o, .gctlKill o, .gctlFlags o], MayExecute s c x [o.a, o.b, o.d] →
        (i = Instr.gctlRedirect o → w.toNat < 2 ^ 20) → (i = Instr.gctlFlags o → w.toNat / 2 ^ 14 = 0 ∧ w.toNat / 2 ^ 5 % 8 = 0) →
        (s.teamAt (c / 8) (v.toNat / 2 ^ 48 % 256) = none → ∃ t, CtxStep i s t c (Ctx.after (Ctx.put x o.d 2)))
        ∧ ∀ k tm g y, s.teamAt (c / 8) (v.toNat / 2 ^ 48 % 256) = some (k, tm) → tm.ctx = c → s.groupOf k (v.toNat / 2 ^ 43 % 32) = some g →
            s.group? g = some y → y.stop = none → (x.num = 7 → y.evHold = false ∧ y.trHold = false ∧ y.dbgHold = false) → y.run ≠ .exited →
            (i = Instr.gctlFlags o → w.toNat / 2 ^ 8 % 64 < y.width) → ∃ t, CtxStep i s t c (Ctx.after (Ctx.put x o.d 1)))

/-- Rules R349, R405, R407 to R409, R422 and R423: SYSC posts its record and waits, until the system context resumes it or ends its
launch, or the firmware has served it; DHALT marks a group that stops with record 0x34 at its next boundary, DRELEASE clears the
debug hold; TLBINV, once what its context did before is done, drops every translation in its span at both levels, and is complete, with what was brought
in since dropped as well, when older accesses are performed; LKILL ends the launches
of its identifier with CONTEXT_LOST.
Rule R409: the firmware's services for a context that waits in SYSC: code 1 adds the bytes at g10 + 8 to the partition's log, code 2
writes four words at g10, code 3 writes the 64 bytes at g10 to the address of QNOTE; the record is taken, and the context goes on. Code 0 only resumes the
context, and any other ends its launch with GENERATOR_FAULT (R349). -/
def Obligations.SystemContext : Prop :=
  (∀ (s : State) (c : Nat) (x : Ctx) (o : POps),
     let v := Ctx.val x o.a
     (∀ z, x.num < 6 → MayExecute s c x [10] → s.ctx? (ctxKey (c / 8) 7) = some z → c ≠ ctxKey (c / 8) 7 →
       ∃ t u r, exec (.sysc o) s = .next t ∧ t.ctx? c = some { x with wait := .sysc, instrs := x.instrs + 1 }
         ∧ t = { s with ctxs := t.ctxs } ∧ t.ctx? (ctxKey (c / 8) 7) = some u ∧ u.events = z.events ++ [(r, [], 0)]
         ∧ r.w0 = BitVec.ofNat 64 (0x26 * 2 ^ 56 + x.num * 2 ^ 53 + x.pc.toNat) ∧ r.w1 = 0 ∧ r.w2 = 0
         ∧ r.w3 = BitVec.ofNat 64 (o.imm % 2 ^ 16 * 2 ^ 32) ∧ r.w4 = Ctx.val x 10)
     ∧ (∀ n z, x.num = 7 → MayExecute s c x [o.a] → n ≤ 5 → ctxKey (c / 8) n ≠ c → s.ctx? (ctxKey (c / 8) n) = some z → z.wait = .sysc →
       (v.toNat = n → ∃ t, exec (.sysresume o) s = .next t ∧ t.ctx? c = some (Ctx.after x)
         ∧ t.ctx? (ctxKey (c / 8) n) = some { z with pc := z.pc + 1, wait := .run } ∧ t = { s with ctxs := t.ctxs })
       ∧ ∀ l, v.toNat = 0x100 + n → s.launch? z.launch = some l → l.killed = false →
           ∃ t, exec (.sysresume o) s = .next t ∧ Ended t z.launch 0x07)
     ∧ (∀ k tm g y, x.num = 7 → MayExecute s c x [o.a] → s.teamAt (c / 8) (v.toNat / 2 ^ 48 % 256) = some (k, tm) →
         s.groupOf k (v.toNat / 2 ^ 43 % 32) = some g → s.group? g = some y →
         (y.dbgHold = false → ∃ t, exec (.dhalt o) s = .next t ∧ t.ctx? c = some (Ctx.after x) ∧ t.group? g = some { y with dbgPend := true }
           ∧ t = { s with ctxs := t.ctxs, groups := t.groups } ∧ ∀ h, h ≠ g → t.group? h = s.group? h)
         ∧ ∃ t z, exec (.drelease o) s = .next t ∧ t.ctx? c = some (Ctx.after x) ∧ t.group? g = some z ∧ z.dbgHold = false ∧ z.dbgPend = false
           ∧ SameRegisters y z ∧ z.slotA = y.slotA ∧ z.slotB = y.slotB ∧ z.evHold = y.evHold
           ∧ (y.run = .halted → y.evHold = false → y.trHold = false → z.run = .active)
           ∧ t = { s with ctxs := t.ctxs, groups := t.groups } ∧ ∀ h, h ≠ g → t.group? h = s.group? h)
     ∧ (∀ g y z, s.group? g = some y → y.dbgPend = true → y.run ≠ .exited → s.settled g y = true → s.ctx? (ctxKey y.ckey 7) = some z →
         y.index < 32 → y.slice < 6 → y.gslot < 32 →
         ∃ t w u r, exec (.debugHalt g) s = .next t ∧ t.group? g = some w ∧ w.run = .halted ∧ w.dbgHold = true ∧ w.dbgPend = false
           ∧ w.evHold = y.evHold ∧ w.slotA = y.slotA ∧ w.slotB = y.slotB ∧ w.regs = y.regs ∧ w.masks = y.masks
           ∧ t = { s with ctxs := t.ctxs, groups := t.groups } ∧ (∀ h, h ≠ g → t.group? h = s.group? h)
           ∧ t.ctx? (ctxKey y.ckey 7) = some u ∧ u.events = z.events ++ [(r, [], 0)] ∧ r.w0.toNat / 2 ^ 56 = 0x34)
     ∧ (let hit (part : Nat) (v : DWord) (e : TlbEntry) : Prop :=
         let bits := match v.toNat % 8 with | 0 => 12 | 1 => 16 | 2 => 21 | _ => 30
         let lo := v.toNat % 2 ^ 56 / 2 ^ bits * 2 ^ bits
         e.part = part ∧ (v.getLsbD 3 = true ∨ (e.page * 2 ^ e.bits < lo + 2 ^ bits ∧ lo < (e.page + 1) * 2 ^ e.bits))
       let drops (part : Nat) (v : DWord) (t : State) : Prop :=
         (∀ k e, e ∈ (t.cluster k).tlb ↔ e ∈ (s.cluster k).tlb ∧ ¬ hit part v e)
         ∧ ∀ d e, e ∈ Sp.getD t.tlb2 d [] ↔ e ∈ Sp.getD s.tlb2 d [] ∧ ¬ hit part v e
       (x.num = 7 → MayExecute s c x [o.a] → s.ctxQuiet c x = true → v.toNat % 8 < 4 → s.faulted = [] →
         ∃ t, exec (.tlbinv o) s = .next t ∧ t.ctx? c = some (Ctx.after x) ∧ t.groups = s.groups ∧ t.teams = s.teams ∧ SameBytes s t
           ∧ drops x.part v t ∧ (t.cluster (c / 8)).tlbBusy = (s.cluster (c / 8)).tlbBusy ++ [(v, s.nextId)])
       ∧ ∀ cl r rest, (s.cluster cl).tlbBusy = r :: rest → r.1.toNat % 8 < 4 → (∀ m ∈ s.flight, m.part = cl / 256 → m.id ≤ r.2 → m.performed = true) →
         ∃ t, exec (.tlbinvComplete cl) s = .next t ∧ (t.cluster cl).tlbBusy = rest ∧ t = { s with clusters := t.clusters, tlb2 := t.tlb2 } ∧ SameBytes s t
           ∧ drops (cl / 256) r.1 t)
     ∧ (∀ k l, x.num = 7 → MayExecute s c x [o.a] → s.launch? k = some l → l.part = x.part → l.id = v.setWidth 32 → l.killed = false →
         ∃ t, exec (.lkill o) s = .next t ∧ Ended t k 0x09))
  ∧ (∀ (s : State) (c k : Nat) (x : Ctx) (kl : Launch), s.ctx? c = some x → x.num < 6 → c ≠ ctxKey (c / 8) 7 → x.wait = .sysc → s.running (c / 8) = true →
       s.launch? x.launch = some kl →
       let a := (Ctx.val x 10).toNat
       let code (n : Nat) : Prop := (Sp.getD x.words x.pc.toNat 0).toNat % 2 ^ 16 = n
       let goes (t : State) : Prop := t.ctx? c = some { x with pc := x.pc + 1, wait := .run } ∧ t.groups = s.groups ∧ t.teams = s.teams
       (∀ h bs, code 1 → s.readVirtual x.part a 8 = some h → s.readVirtual x.part (a + 8) (min (bytesWord h) 4064) = some bs →
         ∃ t, exec (.syscLog c) s = .next t ∧ goes t ∧ (t.part x.part).log = (s.part x.part).log ++ [bs] ∧ t.mem = s.mem)
       ∧ (code 2 → MapsTo s x.part a 32 k →
         ∃ t, exec (.syscInfo c) s = .next t ∧ goes t
           ∧ t.mem.read k 8 = x.part % 2 ^ 64 ∧ t.mem.read (k + 8) 8 = (if (s.part x.part).v128 then 2 else 1)
           ∧ t.mem.read (k + 16) 8 = s.clusterCount x.part % 2 ^ 64 ∧ t.mem.read (k + 24) 8 = (s.shareMembers x.part).length % 2 ^ 64
           ∧ ∀ b, (b < k ∨ k + 32 ≤ b) → t.mem.byte b = s.mem.byte b)
       ∧ (∀ bs, code 3 → s.readVirtual x.part a 64 = some bs →
         (∀ i, i < 8 → s.servedAt ((s.queue kl.queue).note + 8 * i) = .dev ((s.queue kl.queue).note + 8 * i)) →
         ∃ t, exec (.syscNotify c) s = .next t ∧ goes t ∧ (∀ j, j < 64 → some (t.mem.byte ((s.queue kl.queue).note + j)) = bs[j]?)
           ∧ ∀ b, (b < (s.queue kl.queue).note ∨ (s.queue kl.queue).note + 64 ≤ b) → t.mem.byte b = s.mem.byte b)
       ∧ (code 0 → ∃ t, Own.run (.syscPlain c) s = .next t ∧ goes t ∧ SameBytes s t)
       ∧ ∀ n, code n → 3 < n → kl.killed = false → ∃ t, Own.run (.syscPlain c) s = .next t ∧ Ended t x.launch 0x07)

/-! ### The dispatcher and launches -/

/-- Rules R384, R385, R434 and R442: a queue kick by a port with the right to it writes the tail, and one that moves it more than the
ring's size past the head disables the queue and sets overrun, while the others cover the launches up to their tail that no kick before
them covers, after all that the host did (the place of a launch is its distance from the head), whose writes it brings to every path; a write of QCFG
keeps size and part of an enabled queue, and a reserved size or priority is ignored and leaves it disabled; QBASE is kept while it is enabled; a kick without the right is a violation.
Rules R385, R386, R388, R390, R398 and R410: the dispatcher takes the next descriptor of an enabled queue of a partition that is
on, whose last launch is placed, and advances the head: a launch that passes the checks is kept, after what its kick came after; one
that fails gives its status in the completion record at once. A waiting launch may be placed once bit 63 of its event word is set. -/
def Obligations.LaunchQueues : Prop :=
  (∀ (s : State) (port q : Nat), q < 256 →
     let k := s.queue q
     let at_ := 0x10000 + 0x40 * q
     (∀ tail, HostWrites s port (at_ + 0x10) → k.head < 2 ^ 16 →
       let moved := (tail % 2 ^ 16 + 2 ^ 16 - k.head) % 2 ^ 16
       let covers (l : List (Nat × Clock)) (n : Nat) : Option Clock :=
         (l.find? (fun e => decide (n < (e.1 + 2 ^ 16 - k.head) % 2 ^ 16))).map Prod.snd
       ∃ t, exec (.queueKick port q tail) s = .next t ∧ t = { s with queues := t.queues, late := t.late, hostClk := t.hostClk }
         ∧ (∀ j, j ≠ q → t.queue j = s.queue j)
         ∧ t.queue q = (if moved ≤ 64 * 2 ^ k.size then { k with tail := tail % 2 ^ 16, kicks := (t.queue q).kicks }
             else { k with en := false, overrun := true })
         ∧ (moved ≤ 64 * 2 ^ k.size → ∀ n, n < moved → covers (t.queue q).kicks n = some ((covers k.kicks n).getD t.hostClk))
         ∧ (∀ w n, Clock.has s.hostClk w n = true → Clock.has t.hostClk w n = true)
         ∧ ∀ (i : Nat) e (p : Path), s.late[i]? = some e → e.path = .coll → e.uid = 0 →
             ∃ f, t.late[i]? = some f ∧ f.crossed.any (fun c => c.1 == p && c.2.1 == 0) = true)
     ∧ (∀ tail, 7 ≤ s.house.step → (s.port port).frozen = false → (s.portRights port (q / 64)).testBit (q % 64) = false →
         ∃ t, exec (.queueKick port q tail) s = .next t ∧ (t.port port).frozen = true ∧ t.queues = s.queues ∧ t.groups = s.groups)
     ∧ ∀ v : DWord, (let n := v.toNat
       HostWrites s port (at_ + 8) → ∃ t, exec (.registerWrite (.host port) (at_ + 8) v) s = .next t ∧ t = { s with queues := t.queues }
         ∧ (∀ j, j ≠ q → t.queue j = s.queue j)
         ∧ t.queue q = { k with
             en := v.getLsbD 63 && decide (n / 2 ^ 16 % 16 ≤ 10) && decide (n % 64 ≤ 47), prio := if n % 64 ≤ 47 then n % 64 else k.prio,
             size := if k.en ∨ 10 < n / 2 ^ 16 % 16 then k.size else n / 2 ^ 16 % 16, part := if k.en then k.part else n / 2 ^ 8 % 8 })
       ∧ (HostWrites s port at_ → ∃ t, exec (.registerWrite (.host port) at_ v) s = .next t ∧ t = { s with queues := t.queues }
         ∧ t.queue q = if k.en then k else { k with base := v.toNat % 2 ^ 56 / 2 ^ 12 * 2 ^ 12 })
       ∧ (HostWrites s port (at_ + 0x20) → ∃ t, exec (.registerWrite (.host port) (at_ + 0x20) v) s = .next t ∧ t = { s with queues := t.queues }
         ∧ t.queue q = { k with note := v.toNat % 2 ^ 56 })
       ∧ (HostWrites s port (at_ + 0x28) → ∃ t, exec (.registerWrite (.host port) (at_ + 0x28) v) s = .next t ∧ t = { s with queues := t.queues }
         ∧ t.queue q = { k with overrun := k.overrun && !(v.getLsbD 2) }))
  ∧ (∀ (s : State) (q : Nat),
       let k := s.queue q
       (∀ d, k.en = true → k.head ≠ k.tail → (s.part k.part).on = true →
         (∀ p ∈ s.launches, p.2.queue = q → p.2.phase = .placed ∧ (p.2.killed = false ∨ p.2.teams ≤ p.2.next)) →
         s.readWords k.part (k.base + 64 * (k.head % (64 * 2 ^ k.size))) 8 = some d →
         (∀ l, s.readLaunch q d = some (.inl l) → ∃ t, exec (.descriptorTake q) s = .next t ∧ t.queue q = { k with head := (k.head + 1) % 2 ^ 16, kicks := (t.queue q).kicks }
           ∧ (∀ e, k.kicks.find? (fun e => e.1 != k.head) = some e → ∀ w n, Clock.has e.2 w n = true → Clock.has l.clk w n = true)
           ∧ t.launch? l.uid = some l ∧ t.groups = s.groups ∧ t.mem = s.mem
           ∧ l.queue = q ∧ l.part = k.part ∧ l.desc = d ∧ l.next = 0 ∧ l.killed = false
           ∧ l.id = (((d[7]?).getD 0) >>> 32).setWidth 32 ∧ l.phase = if ((d[0]?).getD 0).getLsbD 59 then .waiting else .placing)
         ∧ ∀ l st a, s.readLaunch q d = some (.inr (l, st)) → MapsTo s l.part l.area 32 a → ((d[0]?).getD 0).getLsbD 58 = false →
             ∃ t, exec (.descriptorTake q) s = .next t ∧ t.queue q = { k with head := (k.head + 1) % 2 ^ 16, kicks := (t.queue q).kicks } ∧ t.launches = s.launches
               ∧ t.mem.read a 8 = doneWord l.id st 0 ∧ t.mem.read (a + 8) 8 = 0 ∧ t.mem.read (a + 16) 8 = 0 ∧ t.mem.read (a + 24) 8 = 0
               ∧ ∀ b, (b < a ∨ a + 32 ≤ b) → t.mem.byte b = s.mem.byte b)
       ∧ (∀ d l st, s.readLaunch q d = some (.inr (l, st)) → st ∈ [0x01, 0x02, 0x04])
       ∧ (∀ d, ((d[0]?).getD 0).getLsbD 56 = false → ∃ l, s.readLaunch q d = some (.inr (l, 0x01)))
       ∧ ∀ u l a, s.launches.find? (fun p => p.2.queue == q && p.2.phase == .waiting) = some (u, l) →
           (s.part l.part).on = true → s.readsAt l.part (((l.desc[6]?).getD 0).toNat % 2 ^ 56) = .dev a →
           (s.mem.read a 8 / 2 ^ 63 = 1 → ∃ t y, exec (.eventWordSet q) s = .next t ∧ t.launch? u = some { l with phase := .placing, clk := y }
             ∧ t = { s with launches := t.launches })
           ∧ (s.mem.read a 8 / 2 ^ 63 = 0 → exec (.eventWordSet q) s = .next s))

/-- Rules R69, R118, R391 and R392: a placement step makes the next team of a launch resident at its place, unstarted where the launch has no
entry, whose generator then has a TEAM_ARRIVED record (whose word 0 has the cause code beside the handle by the choice of log entry
126); the first step of a launch comes after every write that memory holds, on whatever path it was made (R126); in fixed shape team q
goes to cluster (b + q) mod C, in native shape to the cluster with room that holds the fewest groups, the lowest of equals; its stand-in
to cluster (c + 3) mod C, or in native shape to such a cluster of another pair than the lead's.
Rules R389, R397, R398 and R438: a launch whose teams have exited, or that was ended, and that has nothing outstanding closes its
`.ord` sums, each location's contributions added to it one after another in the order of their keys, whoever else contributes; then its
record is written, word 0 of it also at QNOTE where the descriptor asks for that, and it is gone. -/
def Obligations.Placement : Prop :=
  ((∀ (s u : State) (l : Launch) (c : Nat), s.launches = [(l.uid, l)] → l.phase = .placing → (s.queue l.queue).en = true → s.serves l.part = true →
     let b := if l.next = 0 then s.launchStarts l else (l, s)
     l.allres = false → l.pair = false → l.slack = 0 → l.entry = 0xFFFFF → s.placeOf l l.next = some c → (∀ p ∈ s.ctxs, p.2.launch ≠ l.uid) →
     (b.2.placeTeam b.1 l.next c true).2.takeImages b.1 = some u →
     ∃ t k tm y r clk, exec .placementStep s = .next t
       ∧ (∀ w n, Clock.has l.clk w n = true → Clock.has clk w n = true)
       ∧ (l.next = 0 → (∀ e ∈ s.access, e.write = true → Clock.has clk e.uid e.time = true) ∧ Clock.has clk l.uid 1 = true
         ∧ ∀ (e : Late) (p : Path), e ∈ b.2.late → e.crossed.any (fun c => c.1 == p && c.2.1 == l.uid) = true)
       ∧ t.launch? l.uid = some { l with clk := clk, next := l.next + 1, phase := if l.teams ≤ l.next + 1 then .placed else .placing }
       ∧ t.team? k = some tm ∧ tm.launch = l.uid ∧ tm.part = l.part ∧ tm.cluster = c ∧ tm.q = l.next ∧ tm.ngroups = l.groups ∧ tm.tiles = l.tiles
       ∧ tm.started = false ∧ tm.exited = false ∧ tm.copy = .sole
       ∧ (let gx := ((l.desc[2]?).getD 0).toNat / 2 ^ 40 + 1
          let gy := ((l.desc[2]?).getD 0).toNat / 2 ^ 24 % 2 ^ 16 + 1
          tm.x = l.next % gx ∧ tm.y = l.next / gx % gy ∧ tm.z = l.next / (gx * gy))
       ∧ t.ctx? tm.ctx = some y ∧ y.launch = l.uid ∧ (r, clk, 0) ∈ y.events ++ y.arrivals
       ∧ r.w0 = BitVec.ofNat 64 (0x10 * 2 ^ 56 + tm.handle * 2 ^ 48))
   ∧ (∀ (s : State) (l : Launch) (q c : Nat), l.pair = false → s.placeOf l q = some c →
       s.roomAt l c = true
       ∧ ((s.part l.part).v128 = true → c = (((l.desc[5]?).getD 0).toNat / 2 ^ 56 + q) % (s.part l.part).count)
       ∧ ((s.part l.part).v128 = false → (s.part l.part).pairs.Pairwise (· < ·) → c ∈ s.offered l.part ∧ ∀ d ∈ s.offered l.part, s.roomAt l d = true →
           s.residents (clusterKey l.part c) < s.residents (clusterKey l.part d)
           ∨ (s.residents (clusterKey l.part c) = s.residents (clusterKey l.part d) ∧ c ≤ d)))
   ∧ (∀ (s : State) (l : Launch) (c k : Nat), s.standInPlace l c = some k →
       s.roomAt l k = true
       ∧ ((s.part l.part).v128 = true → k = (c + 3) % (s.part l.part).count)
       ∧ ((s.part l.part).v128 = false → (s.part l.part).pairs.Pairwise (· < ·) → k ∈ s.offered l.part ∧ k / 2 ≠ c / 2
           ∧ ∀ d ∈ s.offered l.part, d / 2 ≠ c / 2 → s.roomAt l d = true →
             s.residents (clusterKey l.part k) < s.residents (clusterKey l.part d)
             ∨ (s.residents (clusterKey l.part k) = s.residents (clusterKey l.part d) ∧ k ≤ d))))
  ∧ (∀ (s : State) (l : Nat) (x : Launch), s.launch? l = some x → x.uid = l →
       (x.killed = true ∨ (x.phase = .placed ∧ x.teams ≤ x.exited)) → (∀ c ∈ x.counters, c.2 = {}) → (∀ p ∈ s.teams, p.2.launch ≠ l) →
       (∀ r ∈ s.rputs, r.launch ≠ l) →
       (∀ a n, (∀ i ∈ s.ordBuf, i.launch ≠ l) → (∀ p ∈ s.ctxs, p.2.launch = l → 6 ≤ p.2.num) → MapsTo s x.part x.area 32 a →
         let notes := ((x.desc[0]?).getD 0).getLsbD 58
         (notes = true → s.servedAt (s.queue x.queue).note = .dev n ∧ (n + 8 ≤ a ∨ a + 32 ≤ n)) →
         ∃ t, exec (.launchComplete l) s = .next t ∧ t.launch? l = none ∧ t.groups = s.groups ∧ t.ctxs = s.ctxs
           ∧ t.mem.read a 8 = doneWord x.id x.status x.dead ∧ t.mem.read (a + 8) 8 = x.energy % 2 ^ 64
           ∧ t.mem.read (a + 16) 8 = min x.rollbacks (2 ^ 32 - 1) * 2 ^ 32 + min x.exited (2 ^ 32 - 1)
           ∧ t.mem.read (a + 24) 8 = x.faultWord.toNat
           ∧ (notes = true → t.mem.read n 8 = doneWord x.id x.status x.dead)
           ∧ ∀ b, (b < a ∨ a + 32 ≤ b) → (notes = true → b < n ∨ n + 8 ≤ b) → t.mem.byte b = s.mem.byte b)
       ∧ (∀ L : List OrdItem, L.Perm (s.ordBuf.filter (fun i => i.launch == l)) → L.Pairwise (fun i j => i.key < j.key) →
           (∀ i ∈ L, i.phys % 4 = 0 ∧ s.linePoisoned i.phys 4 = false) →
           let add (a : Nat) (b : Word) : Nat := ((rmwResult (.red 9 .f32) a b.toNat 0).1.getD a) % 2 ^ 32
           ∃ t, exec (.ordClose l) s = .next t ∧ t.ordBuf = s.ordBuf.filter (fun i => i.launch != l) ∧ t.groups = s.groups ∧ t.launches = s.launches
             ∧ (∀ a, a % 4 = 0 → t.mem.read a 4 = (L.filter (fun i => i.phys == a)).foldl (fun v i => add v i.value) (s.mem.read a 4))
             ∧ ∀ b, (∀ i ∈ L, b < i.phys ∨ i.phys + 4 ≤ b) → t.mem.byte b = s.mem.byte b))

/-! ### The slice, and what waits -/

/-- Rules R20, R23, R24, R38, R43, R113 and R114: a slice cycle issues the oldest of the ready slots of its eligible stage groups, and
with a width-16 one the oldest of the opposite half; slots whose words park them take their turns before it, in a cycle that is held too;
the oldest ready wings group takes a vacant stage slot, or that of the group parked longest once its lane steps are done, which loses its
latches; a group that yielded leaves once its lane steps are done.
Rules R22, R23, R38, R42 and R43: a stage group is eligible when its 4 cycles have passed; a slot whose dependence is resolved goes on,
and its group is parked no longer; one whose dependence is not stays; the oldest chain of a group that has ended becomes the tail of
its team, or fills the first entry of its hand-on queue that is not filled, which is usable 2 cycles later, 24 on the other cluster. -/
def Obligations.SliceCycles : Prop :=
  (∀ (s : State) (cl sl : Nat),
     let now := Sp.getD (s.cluster cl).cycle sl 0
     let paths := ((s.cluster cl).paths.filter (fun p => p.2.2.2 / 64 == sl)).map (fun p => (p.1, p.2.1, p.2.2.1, p.2.2.2 % 64))
     let rs := s.readySlots (cl * 6 + sl) now paths ((s.cluster cl).halfHolds.contains (sl, now))
     let park := (s.parkingSlots (cl * 6 + sl) now paths).map (fun p => Turn.lane p.1 p.2)
     (s.running cl = true → (sl, now) ∈ (s.cluster cl).holds → ∃ t, exec (.sliceIssue cl sl) s = .next t
       ∧ t = { s with clusters := t.clusters, agenda := park ++ s.agenda } ∧ Sp.getD (t.cluster cl).cycle sl 0 = now + 1)
     ∧ (∀ h b, (h, b) ∈ s.parkingSlots (cl * 6 + sl) now paths → ∃ x, (h, x) ∈ s.groups ∧ x.onStage = true ∧ x.eligAt = 0 ∧ s.mayIssue h x = true
         ∧ (x.slot b).mask ≠ 0 ∧ (x.slot b).wait = .run)
     ∧ (s.running cl = true → (sl, now) ∉ (s.cluster cl).holds →
       ∃ t go, exec (.sliceIssue cl sl) s = .next t ∧ t = { s with clusters := t.clusters, agenda := park ++ go ++ s.agenda }
         ∧ Sp.getD (t.cluster cl).cycle sl 0 = now + 1 ∧ (t.cluster cl).clock = (s.cluster cl).clock + 1 ∧ SameBytes s t
         ∧ (rs = [] → go = [])
         ∧ (rs ≠ [] → ∃ r ∈ rs, (∀ q ∈ rs, r.age ≤ q.age)
             ∧ ((r.width ≠ 16 ∨ ∀ q ∈ rs, q.width = 16 → q.half = r.half) → go = [Turn.lane r.g r.slotB])
             ∧ (r.width = 16 → (∃ q ∈ rs, q.width = 16 ∧ q.half ≠ r.half) → ∃ q ∈ rs, q.width = 16 ∧ q.half ≠ r.half
                 ∧ (∀ w ∈ rs, w.width = 16 → w.half ≠ r.half → q.age ≤ w.age) ∧ go = [Turn.lane r.g r.slotB, Turn.lane q.g q.slotB])))
     ∧ (∀ r ∈ rs, ∃ x, (r.g, x) ∈ s.groups ∧ x.onStage = true ∧ x.eligAt = 0 ∧ s.mayIssue r.g x = true ∧ (x.slot r.slotB).mask ≠ 0
         ∧ (x.slot r.slotB).wait = .run ∧ r.age = (x.slot r.slotB).age)
     ∧ (∀ g x, (∀ p ∈ s.groups, p.2.skey = cl * 6 + sl → p.2.yielding = false) → s.nextReady (cl * 6 + sl) = some (g, x) →
         ((g, x) ∈ s.groups ∧ x.readyInWings = true)
         ∧ ((∀ p ∈ s.groups, p.2.gslot < 32) → ∀ p ∈ s.groups, p.2.skey = cl * 6 + sl → p.2.readyInWings = true → x.readyAge ≤ p.2.readyAge)
         ∧ (((s.sliceGroups (cl * 6 + sl)).filter (fun p => p.2.onStage)).length < 8 → ∃ t, exec (.stageSwap cl sl) s = .next t
             ∧ t = { s with groups := t.groups } ∧ t.group? g = some { x with onStage := true, eligAt := s.sliceNow x + 4 } ∧ ∀ h, h ≠ g → t.group? h = s.group? h)
         ∧ ∀ h y, 8 ≤ ((s.sliceGroups (cl * 6 + sl)).filter (fun p => p.2.onStage)).length → s.leaver (cl * 6 + sl) = some (h, y) → h ≠ g →
             (y.onStage = true ∧ y.parked = true)
             ∧ ((∀ p ∈ s.groups, p.2.gslot < 32) → ∀ p ∈ s.groups, p.2.skey = cl * 6 + sl → p.2.onStage = true → p.2.parked = true →
                 y.parkedAt ≤ p.2.parkedAt)
             ∧ (s.sliceNow x < y.stepsEnd → exec (.stageSwap cl sl) s = .next s)
             ∧ (y.stepsEnd ≤ s.sliceNow x → ∃ t, exec (.stageSwap cl sl) s = .next t
             ∧ t = { s with groups := t.groups } ∧ t.group? g = some { x with onStage := true, eligAt := s.sliceNow x + 4 }
             ∧ t.group? h = some { y with onStage := false, latches := [] } ∧ ∀ k, k ≠ g → k ≠ h → t.group? k = s.group? k))
     ∧ ∀ g x h y, s.group? g = some x → x.skey = cl * 6 + sl → x.onStage = true → x.yielding = true →
         (∀ p ∈ s.groups, p.2.skey = cl * 6 + sl → p.2.yielding = true → p = (g, x)) →
         ((s.sliceGroups (cl * 6 + sl)).filter (fun p => p.2.onStage)).length ≤ 8 → s.nextReady (cl * 6 + sl) = some (h, y) → h ≠ g → y.gslot < 32 →
         y.readyAge < s.sliceNow x → x.stepsEnd ≤ s.sliceNow x →
         ∃ t, exec (.stageSwap cl sl) s = .next t ∧ t = { s with groups := t.groups }
           ∧ t.group? g = some { x with onStage := false, yielding := false, latches := [], readyAge := s.sliceNow x }
           ∧ t.group? h = some { y with onStage := true, eligAt := s.sliceNow y + 4 } ∧ ∀ k, k ≠ g → k ≠ h → t.group? k = s.group? k)
  ∧ (∀ (s : State) (g : Nat) (x : Group), s.group? g = some x →
       (x.onStage = true → x.eligAt ≤ s.sliceNow x → ∃ t, exec (.stageEligible g) s = .next t ∧ t = { s with groups := t.groups }
         ∧ t.group? g = some { x with eligAt := 0 } ∧ ∀ h, h ≠ g → t.group? h = s.group? h)
       ∧ (∀ b, (x.slot b).mask ≠ 0 → (x.slot (!b)).mask = 0 →
         (s.resolved g x b = true → ∃ t y, exec (.dependenceResolved g) s = .next t ∧ t = { s with groups := t.groups } ∧ t.group? g = some y
           ∧ y.slot b = { x.slot b with wait := .run } ∧ y.slot (!b) = x.slot (!b) ∧ y.parked = false ∧ SameRegisters x y ∧ y.onStage = x.onStage
           ∧ (∀ h, h ≠ g → t.group? h = s.group? h))
         ∧ (s.resolved g x b = false → x.parked = true → (x.slot b).wait.long = true → ∃ t y, exec (.dependenceResolved g) s = .next t ∧ t.group? g = some y
           ∧ y.slot b = x.slot b ∧ y.parked = true)
         ∧ ((x.slot b).wait = .arrivals → (s.resolved g x b = true ↔ ∀ n ∈ (x.slot b).wants, n ≤ x.arrivals.toNat))
         ∧ ((x.slot b).wait = .reply → (x.slot b).wants ≠ [] → (s.resolved g x b = true ↔ ∀ r ∈ (x.slot b).wants, s.awaited g x r = false)))
       ∧ ∀ k tm c rest, s.team? k = some tm → Sp.getD tm.chains x.index [] = c :: rest → s.groupOf k x.index = some g → c.endCycle ≤ s.sliceNow x →
           x.stop = none → x.run ≠ .exited →
           ∃ t u, exec (.linkedChainEnd k x.index) s = .next t ∧ t = { s with teams := t.teams } ∧ t.team? k = some u ∧ Sp.getD u.chains x.index [] = rest
             ∧ (c.last = true → u.tail = c.carry ∧ u.handOn = tm.handOn)
             ∧ (c.last = false → c.discard = true → u.tail = tm.tail ∧ u.handOn = tm.handOn)
             ∧ (c.last = false → c.discard = false → u.tail = tm.tail ∧ ∀ pre e post, Sp.getD tm.handOn x.index [] = pre ++ e :: post →
                 (∀ q ∈ pre, q.filled = true) → e.filled = false →
                 ∃ n, Sp.getD u.handOn x.index [] = pre ++ { filled := true, usable := n, value := c.carry, restart := c.restart } :: post
                   ∧ ∀ h y, s.groupOf k (x.index + 1) = some h → s.group? h = some y → n = s.sliceNow y + if x.cluster = y.cluster then 1 else 23))

/-! ### Deferred events, and the confirmations of a pair -/

/-- Rules R76, R77, R181 to R183 and R186: a halted group's event is posted when nothing older is in flight and the queue has room;
one that the evmask does not handle ends the launch. The oldest entries of the two copies are compared: equal ones leave the
buffer and start the lead's access once, different ones stop the pair. A cue point that both copies have reached, with everything
before it confirmed, is the place a rollback goes to. -/
def Obligations.EventsAndConfirmations : Prop :=
  (∀ (s : State) (g : Nat) (x : Group) (r : Rec) (tm : Team) (c : Ctx), s.group? g = some x → x.stop = some r → x.posted = false →
    x.assist = false → s.settled g x = true → s.team? x.team = some tm → tm.copy = .sole → s.pairOf? x.team = none → s.ctx? tm.ctx = some c →
    (c.evmask.getLsbD (r.w0.toNat / 2 ^ 56) = true → c.events.length < 64 → ∃ t, exec (.eventPostDeferred g) s = .next t
      ∧ t.group? g = some { x with posted := true } ∧ (∀ h, h ≠ g → t.group? h = s.group? h)
      ∧ t.ctx? tm.ctx = some { c with events := c.events ++ [(r, x.clk, g)], wait := if c.wait = .event then .run else c.wait }
      ∧ t = { s with groups := t.groups, ctxs := t.ctxs })
    ∧ (c.evmask.getLsbD (r.w0.toNat / 2 ^ 56) = true → 64 ≤ c.events.length → exec (.eventPostDeferred g) s = .next s)
    ∧ ∀ l, c.evmask.getLsbD (r.w0.toNat / 2 ^ 56) = false → c.inService = [] → s.launch? c.launch = some l → l.killed = false →
        ∃ t, exec (.eventPostDeferred g) s = .next t ∧ Ended t c.launch 0x08)
  ∧ (∀ (s : State) (team group : Nat) (p : PairOf) (a b : CmpEntry) (tm : Team) (l : Launch), s.pairOf? team = some p → p.mismatch = false → p.exitsAgree = true →
    p.oldest group true = some a → p.oldest group false = some b →
    (a.agrees b = true ↔ a.kind = b.kind ∧ a.sig = b.sig ∧ a.events = b.events ∧ a.cue = b.cue)
    ∧ (a.agrees b = true → a.kind ≠ 8 → a.kind ≠ 9 → a.kind ≠ 10 → s.emptied p.lead = false → s.team? p.lead = some tm → s.launch? tm.launch = some l → l.killed = false →
        s.pairOf? p.lead = some p →
        ∃ t, exec (.compareConfirm team group) s = .next t ∧ t = { s with flight := t.flight, pairs := t.pairs }
          ∧ t.flight = s.flight.map (fun m => if m.id = a.op then { m with compared := false, twin := some b.op } else m)
          ∧ ∀ q ∈ t.pairs, q.lead = p.lead → a ∉ q.entries ∧ b ∉ q.entries)
    ∧ (a.agrees b = false → s.pairBusy p = true → ∃ t, exec (.compareConfirm team group) s = .next t
        ∧ t = { s with pairs := s.pairs.map (fun q => if q.lead = p.lead then q.mismatched else q) }
        ∧ p.mismatched.mismatch = true ∧ p.mismatched.entries = p.entries
        ∧ p.mismatched.confirmed = (match p.settledCue with | none => p.confirmed | some (k, l) => [k, l])))
  ∧ ∀ (s : State) (team : Nat) (p : PairOf) (k l : Ckpt), s.pairOf? team = some p → p.mismatch = false →
    s.teamWaits p.lead = none → s.teamWaits p.standIn = none →
    p.pending.find? (fun q => q.key == p.lead) = some k → p.pending.find? (fun q => q.key == p.standIn) = some l → k.cue = l.cue →
    (∀ r ∈ k.groups, ∀ y, l.at_ r.2.index = some y → y.events = r.2.events) →
    p.settledAt k = true → p.settledAt l = true →
    ∃ t, exec (.cueConfirmed team) s = .next t ∧ t = { s with pairs := t.pairs }
      ∧ t.pairs = s.pairs.map (fun q => if q.lead = p.lead then q.confirmCue k l else q)
      ∧ (p.confirmCue k l).confirmed = [k, l] ∧ (p.confirmCue k l).rollbacks = 0 ∧ (p.confirmCue k l).replay = false ∧ (p.confirmCue k l).overflow = false

/-! ### Translation, swaps and cuts -/

/-- Rules R404, R407, R411, R421 and R422: a walk that ends well fills the TLB of its cluster and that of its die, which hold 256 and
16,384 entries at most, and its context goes on; one that faults halts its group with the translation hold before its word and posts record
0x30, whose word 0 names the group, slot and place, or the context, that asked, with the lanes, the detail and the address. A write of PTROOT sets the root and makes every held
translation of the partition invalid. -/
def Obligations.WalksAndRoots : Prop :=
  (∀ (s : State) (die : Nat) (r : WalkReq), Sp.getD s.walks die [] = [r] →
    (∀ e, s.walkEnds r = .inl e → ∃ t, exec (.walkComplete die) s = .next t ∧ Sp.getD t.walks die [] = [] ∧ t.groups = s.groups ∧ SameBytes s t
      ∧ e ∈ (t.cluster (clusterKey r.part r.cluster)).tlb ∧ e.part = r.part ∧ e.page = r.va / 2 ^ e.bits ∧ (r.write = true → e.w = true)
      ∧ (let d := s.dieOf (clusterKey r.part r.cluster)
         e ∈ Sp.getD t.tlb2 d [] ∧ (Sp.getD t.tlb2 d []).length ≤ 16384 ∧ ∀ k, k ≠ d → Sp.getD t.tlb2 k [] = Sp.getD s.tlb2 k [])
      ∧ (t.cluster (clusterKey r.part r.cluster)).tlb.length ≤ 256
      ∧ ∀ c y, r.agent = .ctx c → s.ctx? c = some y → t.ctx? c = some { y with wait := if y.wait = .walk then .run else y.wait })
    ∧ (∀ d c y z, s.walkEnds r = .inr d → r.agent = .ctx c → s.ctx? c = some y → y.num < 8 →
        s.ctx? (ctxKey (clusterKey r.part r.cluster) 7) = some z →
        ∃ t u q, exec (.walkComplete die) s = .next t ∧ Sp.getD t.walks die [] = [] ∧ t.faulted = s.faulted ++ [r] ∧ SameBytes s t ∧ t.groups = s.groups
          ∧ t.ctx? (ctxKey (clusterKey r.part r.cluster) 7) = some u ∧ u.events = z.events ++ [(q, [], 0)]
          ∧ field q.w0 56 8 = 0x30 ∧ field q.w0 53 3 = y.num ∧ field q.w0 0 20 = y.pc.toNat ∧ q.w3 = BitVec.ofNat 64 (d % 2 ^ 32 * 2 ^ 32)
          ∧ q.w4 = BitVec.ofNat 64 r.va)
    ∧ ∀ d g x z, x.index < 32 → x.gslot < 32 → s.recSlice x < 16 → s.walkEnds r = .inr d → r.agent = .group g → s.group? g = some x → x.trHold = false → s.settled g x = true →
        s.ctx? (ctxKey (clusterKey r.part r.cluster) 7) = some z →
        ∃ t y u q, exec (.walkComplete die) s = .next t ∧ Sp.getD t.walks die [] = [] ∧ t.faulted = s.faulted ++ [r] ∧ SameBytes s t
          ∧ t.group? g = some y ∧ y = { x with run := .halted, trHold := true, onStage := false, parked := false, latches := [] }
          ∧ t.ctx? (ctxKey (clusterKey r.part r.cluster) 7) = some u ∧ u.events = z.events ++ [(q, [], 0)]
          ∧ field q.w0 56 8 = 0x30 ∧ field q.w0 48 8 = x.team % 192 ∧ field q.w0 43 5 = x.index ∧ field q.w0 42 1 = r.slot.toNat
          ∧ field q.w0 38 4 = s.recSlice x ∧ field q.w0 33 5 = x.gslot ∧ field q.w0 0 20 = (x.slot r.slot).pc.toNat
          ∧ q.w1 = r.lanes ∧ q.w3 = BitVec.ofNat 64 (d % 2 ^ 32 * 2 ^ 32) ∧ q.w4 = BitVec.ofNat 64 r.va)
  ∧ ∀ (s : State) (port p : Nat) (v : DWord), p < 8 → HostWrites s port (0x20000 + 0x100 * p) →
    ∃ t, exec (.ptrootWrite (.host port) p v) s = .next t ∧ t.groups = s.groups ∧ SameBytes s t
      ∧ (t.part p) = { s.part p with root := v.toNat / 2 ^ 12 % 2 ^ 44 * 2 ^ 12 }
      ∧ (∀ k e, e ∈ (t.cluster k).tlb ↔ e ∈ (s.cluster k).tlb ∧ e.part ≠ p) ∧ ∀ d e, e ∈ Sp.getD t.tlb2 d [] ↔ e ∈ Sp.getD s.tlb2 d [] ∧ e.part ≠ p

/-- Rules R191, R406, R410 to R413 and R416: yield, and the end of a quantum, start a swap of the time-share group when another
partition has work: its drain, or, while the swap engine is busy, a trigger that waits. The flip turns the bank's partition on;
after the exchange, which saves the held B and the props entries of the outgoing launches, it runs, with the engine busy until they
are saved: in area 0, or, recorded, in area 1, which the selector names. Of two logical clusters on one physical cluster the next quantum
runs the other; a debug hold in the way leaves the quantum's end due. -/
def Obligations.Swaps : Prop :=
  ∀ (s : State) (p : Nat), Sp.sorted s.parts = true → Sp.sorted s.shares = true →
    let k := s.shareKey p
    (p < 8 → (s.part p).on = true → s.othersWork p = true → (s.share k).phase = .run → (s.part p).qnt < 2 ^ 16 →
      (∀ q ∈ s.shareMembers k, (s.part q).on = true → s.debugHeld q = false) →
      (∀ port, HostWrites s port (0x20000 + 0x100 * p + 8) → ∃ t, exec (.pswapYield (.host port) p) s = .next t
        ∧ t = { s with parts := t.parts, shares := t.shares } ∧ t.part p = { s.part p with yield := true }
        ∧ t.share k = if (s.share k).busy then { s.share k with pending := true } else { s.share k with phase := .drain, pending := false })
      ∧ ((s.part p).qnt ≠ 0 → ∃ t, exec (.swapQuantumExpiry p) s = .next t ∧ t = { s with shares := t.shares }
        ∧ t.share k = if (s.share k).busy then { s.share k with pending := true } else { s.share k with phase := .drain, pending := false }))
    ∧ (∀ out inc, (s.share k).phase = .drain → (s.shareMembers k).find? (fun q => (s.part q).on) = some out → (s.share k).bank = some inc → inc ≠ out →
        ∃ t, exec (.swapFlip p) s = .next t ∧ (t.part out).on = false ∧ (t.part out).yield = false ∧ (t.part inc).on = true
          ∧ t.share k = { s.share k with phase := .exchange, bank := some out } ∧ t.groups = s.groups ∧ t.teams = s.teams ∧ SameBytes s t)
    ∧ ((s.share k).phase = .exchange → (∀ out, (s.share k).bank = some out → s.launchesOf out = []) →
        ∃ t, exec (.swapExchangeDone p) s = .next t ∧ t = { s with shares := t.shares } ∧ t.share k = { s.share k with phase := .run, busy := true })
    ∧ (∀ out u l, (s.share k).phase = .exchange → (s.share k).bank = some out → s.launchesOf out = [(u, l)] →
        (∀ w, s.writeExchange u l = some w → ∃ t, exec (.swapExchangeDone p) s = .next t ∧ t = { w with shares := t.shares }
          ∧ t.share k = { s.share k with phase := .run, busy := true } ∧ t.groups = s.groups)
        ∧ (s.writeExchange u l = none → s.launch? u = some l → l.killed = false → ∃ t, exec (.swapExchangeDone p) s = .next t ∧ Ended t u 0x09
          ∧ t.share k = { s.share k with phase := .run, busy := true }))
    ∧ (∀ out u l a w, (s.share k).busy = true → (s.share k).phase = .run → (s.share k).bank = some out → s.launchesOf out = [(u, l)] →
        (∀ inc, s.nextWithWork k = some inc → s.launchesOf inc = []) → s.erEn = false → MapsTo w l.part (l.area + 0x20) 8 a →
        (s.writeImages u l 0 = some w → ∃ t, exec (.swapBackgroundDone p [] []) s = .next t ∧ t.mem.read a 8 = 2 ^ 63 ∧ (t.share k).busy = false
          ∧ (∀ b, (b < a ∨ a + 8 ≤ b) → t.mem.byte b = w.mem.byte b) ∧ t.groups = s.groups)
        ∧ (s.writeImages u l 1 = some w → ∃ t, exec (.swapBackgroundDone p [(u, false)] []) s = .next t ∧ t.mem.read a 8 = 2 ^ 63 + 1
          ∧ (t.share k).busy = false ∧ (∀ b, (b < a ∨ a + 8 ≤ b) → t.mem.byte b = w.mem.byte b) ∧ t.groups = s.groups
          ∧ ∀ z, s.ctx? (ctxKey (clusterKey l.part (s.part l.part).firstCluster) 7) = some z →
              ∃ y r, t.ctx? (ctxKey (clusterKey l.part (s.part l.part).firstCluster) 7) = some y ∧ y.events = z.events ++ [(r, [], 0)]
                ∧ r.w0 = BitVec.ofNat 64 (0x35 * 2 ^ 56) ∧ r.w3 = BitVec.ofNat 64 (l.id.toNat * 2 ^ 32)))
    ∧ ∀ phys q c d, s.parts.find? (fun p => p.2.on && p.2.v128) = some (p, q) → c ≠ d → c < q.count → d < q.count → q.physical c = phys →
        q.physical d = phys → (∀ e, e < q.count → q.physical e = phys → e = c ∨ e = d) → c ∉ q.sliced → d ∈ q.sliced →
        ((∀ y ∈ s.groups, y.2.ckey = clusterKey p c → y.2.dbgHold = false ∧ y.2.dbgPend = false) → ∃ t, exec (.timesliceQuantum phys) s = .next t ∧ t = { s with parts := t.parts }
          ∧ t.part p = { q with sliced := insNat c (delNat d q.sliced), sliceDue := delNat phys q.sliceDue })
        ∧ ((∃ y ∈ s.groups, y.2.ckey = clusterKey p c ∧ (y.2.dbgHold = true ∨ y.2.dbgPend = true)) → ∃ t, exec (.timesliceQuantum phys) s = .next t
          ∧ t = { s with parts := t.parts } ∧ t.part p = { q with sliceDue := insNat phys q.sliceDue })

/-- Rules R144, R186, R407, R411, R424 and R425: a write of go starts a cut, in which what has not started is held, a lead and its stand-in as
one unit; the cut completes when every unit stands at the target, none of them halted, and everything that the partition began is performed,
and then what any unit did comes before what every unit does next, on every path; it fails, with everything resumed, when its time is up;
release resumes everything. Each change of its state is recorded.
Rules R399 and R400: at the end of an interval the energy of a cluster is shared among its kernels by their activity, in whole
microjoules, or in equal parts where none was active; the activity is counted anew. -/
def Obligations.Cuts : Prop :=
  (∀ (s : State) (p : Nat) (z : Ctx), p < 8 → s.ctx? (ctxKey (clusterKey p (s.part p).firstCluster) 7) = some z → z.part = p → z.num = 7 →
     1 ≤ (s.part p).tmo → (s.part p).tmo < 2 ^ 16 → Sp.sorted s.groups = true → Sp.sorted s.ctxs = true →
     let recorded (t : State) (state : Nat) : Prop := ∃ u r, t.ctx? (ctxKey (clusterKey p (s.part p).firstCluster) 7) = some u
       ∧ u.events = z.events ++ [(r, [], 0)] ∧ r.w0 = BitVec.ofNat 64 (0x33 * 2 ^ 56) ∧ r.w3 = BitVec.ofNat 64 (state * 2 ^ 62)
       ∧ r.w4 = (t.part p).target.setWidth 64
     let resumed (t : State) : Prop := ∀ g x, s.group? g = some x → x.part = p → t.group? g = some { x with cutStop := false }
     let apart (t : State) : Prop := SameBytes s t ∧ (∀ g x, s.group? g = some x → x.part ≠ p → t.group? g = some x) ∧ ∀ q, q ≠ p → t.part q = s.part q
     (∀ port, HostWrites s port (0x20000 + 0x100 * p + 0x10) →
       ((s.part p).cutState = 0 ∨ (s.part p).cutState = 3 → ∃ t, exec (.cutGo (.host port) p) s = .next t ∧ recorded t 1 ∧ apart t
         ∧ t.part p = { s.part p with cutState := 1, cutFirst := true, target := 0 }
         ∧ (∀ g x, s.group? g = some x → x.part = p → 
           ((x.issued = 0 → (∀ y, s.otherCopy x = some y → y.2.issued = 0) → t.group? g = some { x with cutStop := true })
             ∧ (0 < x.issued ∨ (∃ y, s.otherCopy x = some y ∧ 0 < y.2.issued) → t.group? g = some x)))
         ∧ ∀ c x, s.ctx? c = some x → x.part = p → x.num < 6 → x.issuedCue = false → ∃ y, t.ctx? c = some y ∧ y.cutStop = true)
       ∧ ((s.part p).cutState = 1 ∨ (s.part p).cutState = 2 → ∃ t, exec (.cutGo (.host port) p) s = .next t ∧ t.part p = s.part p ∧ t.groups = s.groups)
       ∧ ((s.part p).cutState = 2 → ∃ t, exec (.cutRelease (.host port) p) s = .next t ∧ recorded t 0 ∧ apart t ∧ resumed t
         ∧ t.part p = { s.part p with cutState := 0, cutFirst := false }))
     ∧ ((s.part p).cutState = 1 → ∃ t, exec (.cutBlocked p) s = .next t ∧ recorded t 3 ∧ apart t ∧ resumed t
         ∧ t.part p = { s.part p with cutState := 3, cutFirst := false })
     ∧ ((s.part p).cutState = 1 → (s.part p).cutFirst = false → (∀ u ∈ s.cutUnits p, u = { stands := true, blocked := false, cue := (s.part p).target.toNat }) → s.cutQuiet p = true →
         ∃ t, exec (.cutComplete p) s = .next t ∧ recorded t 2 ∧ SameBytes s t ∧ t.part p = { s.part p with cutState := 2 }
           ∧ ∀ g x, s.group? g = some x → ∃ y, t.group? g = some y ∧ (y.slotA = x.slotA ∧ y.slotB = x.slotB ∧ y.cutStop = x.cutStop)
             ∧ (x.part = p → 0 < x.issued → (∀ h w, s.group? h = some w → w.part = p → 0 < w.issued → ∀ a n, Clock.has w.clk a n = true → Clock.has y.clk a n = true)
               ∧ ∀ (i : Nat) e (q : Path) h w, s.late[i]? = some e → s.group? h = some w → w.part = p → 0 < w.issued → Clock.has w.clk e.uid e.time = true →
                   (∀ c ∈ e.crossed, c.2.1 ≤ s.nextId) → ∃ f c, t.late[i]? = some f ∧ c ∈ f.crossed ∧ c.1 = q ∧ Clock.has y.clk c.2.1 c.2.2 = true))
     ∧ ((s.part p).cutState = 1 → (s.part p).cutFirst = false → (∀ u ∈ s.cutUnits p, u.cue ≤ (s.part p).target.toNat) →
         s.cutQuiet p = false ∨ (∃ y ∈ s.groups, y.2.part = p ∧ 0 < y.2.issued ∧ (∀ tm, s.team? y.2.team = some tm → tm.copy = .sole)
           ∧ (y.2.run = .halted ∨ y.2.evHold = true ∨ y.2.trHold = true ∨ y.2.dbgHold = true)) →
         exec (.cutComplete p) s = .next s))
  ∧ (∀ (s : State) (cl : Nat), Sp.sorted s.ctxs = true →
       let sum := ((s.kernelsOn cl).map (fun p => p.2.laneSteps + 64 * p.2.mxCycles + 4 * p.2.instrs)).sum
       ∃ t e, exec (.energyInterval cl) s = .next t ∧ t = { s with ctxs := t.ctxs, free := s.free + 1 }
         ∧ ∀ c x, s.ctx? c = some x → t.ctx? c = some (if c / 8 = cl ∧ x.num < 6 ∧ x.active = true then
             { x with energy := x.energy + (if sum = 0 then e / (s.kernelsOn cl).length else e * (x.laneSteps + 64 * x.mxCycles + 4 * x.instrs) / sum),
                      laneSteps := 0, mxCycles := 0, instrs := 0 } else x))

/-! ### The fabric -/

/-- Rules R426, R428 and R430 to R435: a good flit in sequence is taken, another refused and replayed, and one of this port's own that the
far end refuses is replayed too; a port sheds a lane and retrains, or is down with its last one, and no stream stays on it; a device that
cannot be reached has no stream, and streams that passed through it go on by ports that reach their destinations. The next request of a
stream, up to a line, is performed once: a read answers with the bytes as the collective path sees them, a write writes them, an atomic
operation reads the newest value and writes its own, one that releases brings the earlier writes of its source to the lanes; a contribution
to a sum is kept with its key; a host reads and writes control space within its rights (another device only reads, by the choice of log
entry 127); what is misaligned, poisoned or without memory gets an error response; a request that is not next does nothing. -/
def Obligations.Fabric : Prop :=
  (∀ (s : State) (port : Nat), let p := s.port port
    (∀ seq flit, p.state ≠ 0 → (flit = .arrives true → seq = p.rxSeq → ∃ t, exec (.flitReceive port seq flit) s = .next t ∧ t = { s with ports := t.ports }
        ∧ t.port port = { p with rxSeq := p.rxSeq + 1 } ∧ ∀ q, q ≠ port → t.port q = s.port q)
      ∧ (flit ≠ .arrives true ∨ seq ≠ p.rxSeq → ∃ t, exec (.flitReceive port seq flit) s = .next t
        ∧ t.port port = { p with replays := p.replays + 1 } ∧ (∀ q, q ≠ port → t.port q = s.port q) ∧ t.groups = s.groups))
    ∧ (p.state = 2 → 2 ≤ p.lanes → ∃ t, exec (.laneShed port) s = .next t ∧ t.port port = { p with state := 3, newWidth := p.lanes - 1, sheds := p.sheds + 1 }
        ∧ (∀ q, q ≠ port → t.port q = s.port q) ∧ t.streams = s.streams)
    ∧ (p.state = 2 → p.lanes = 1 → ∃ t, exec (.laneShed port) s = .next t ∧ (t.port port).state = 0 ∧ (t.port port).lanes = 0)
    ∧ (p.state = 3 → ∃ t, exec (.portRetrained port) s = .next t ∧ t = { s with ports := t.ports } ∧ t.port port = { p with state := 2, lanes := p.newWidth }
        ∧ ∀ q, q ≠ port → t.port q = s.port q)
    ∧ (p.state ≠ 0 → (∀ u ∈ s.streams, u.dest ∉ s.unreachable) → ∃ t, exec (.portDown port) s = .next t ∧ t.port port = { p with state := 0, lanes := 0 }
        ∧ (∀ q, q ≠ port → t.port q = s.port q) ∧ ∀ u ∈ t.streams, u.port ≠ port))
  ∧ (∀ (s : State) (dev : Nat) (routes : List (Nat × List Nat)), ∃ t, exec (.deviceUnreachable { dev := dev, routes := routes }) s = .next t
      ∧ dev ∈ t.unreachable ∧ (∀ d ∈ s.unreachable, d ∈ t.unreachable)
      ∧ t.routes = routes.foldl (fun r k => Sp.set r k.1 k.2) s.routes ∧ t.groups = s.groups ∧ t.flight = s.flight
      ∧ (∀ u ∈ t.streams, u.dest ≠ dev)
      ∧ ((∀ u ∈ s.streams, u.dest ∉ s.unreachable) → ∀ u ∈ t.streams, u.port ∈ t.portsTo u.dest)
      ∧ (routes = [] → (∀ u ∈ s.streams, u.dest ≠ dev → u.port ∈ s.portsTo u.dest) → t.streams = s.streams.filter (fun u => u.dest != dev)))
  ∧ ∀ (s : State) (r : FabricReq), (s.port r.port).state = 2 →
    let last := Sp.getD s.performed (reqKey r) 0
    let source := 2 ^ 40 + 2 * r.source
    let brings (t : State) : Prop := r.isHost = false → ∀ (i : Nat) e, s.late[i]? = some e → e.path = .coll → e.uid = source →
      ∃ f, t.late[i]? = some f ∧ f.crossed.any (fun c => c.1 == .lane && c.2.1 == source) = true
    (r.seq ≠ last + 1 → exec (.fabricRequest r) s = .next s)
    ∧ (r.seq = last + 1 → s.noSlot r = false → r.isHost = true → (s.port r.port).frozen = true → ∃ t, exec (.fabricRequest r) s = .next t
        ∧ t = { s with performed := t.performed, answers := (r.port, false, 0) :: s.answers } ∧ Sp.getD t.performed (reqKey r) 0 = r.seq)
    ∧ (r.seq = last + 1 → (r.isHost = true → (s.port r.port).frozen = false) → r.control = false → memoryExists r.off = true →
      (∀ n acq, r.op = .read n acq → n ∈ [1, 2, 4, 8, 16, 64] → r.off % n = 0 → s.linePoisoned r.off n = false →
        let rd := s.reqReader r
        ∃ t, exec (.fabricRequest r) s = .next t ∧ t.mem = s.mem ∧ t.groups = s.groups ∧ Sp.getD t.performed (reqKey r) 0 = r.seq
          ∧ rd.path = .coll ∧ t.answers = (r.port, true, BitVec.ofNat 512 (s.peek rd (.dev r.off) n)) :: s.answers
          ∧ (s.sees rd (.dev r.off) n = true → s.peek rd (.dev r.off) n = s.mem.read r.off n
            ∧ (acq = true → r.isHost = true → ∀ e ∈ s.published, e.space = 0 → e.addr < r.off + n → r.off < e.addr + e.size → e.scope = .sys →
                ∀ w k, Clock.has e.clk w k = true → Clock.has t.hostClk w k = true)))
      ∧ (∀ n d rel, r.op = .write n d rel → n ∈ [1, 2, 4, 8, 16, 64] → r.off % n = 0 →
        ∃ t, exec (.fabricRequest r) s = .next t ∧ t.groups = s.groups ∧ Sp.getD t.performed (reqKey r) 0 = r.seq
          ∧ t.answers = (r.port, true, 0) :: s.answers ∧ t.mem.read r.off n = d.toNat % 2 ^ (8 * n)
          ∧ t.poisonLines = (if n = 64 then delNat (r.off / 64) s.poisonLines else s.poisonLines)
          ∧ (rel = true → brings t) ∧ ∀ b, (b < r.off ∨ r.off + n ≤ b) → t.mem.byte b = s.mem.byte b)
      ∧ (∀ k n b c rel, (match r.op with
          | .atom o ty d rl => k = .atom o ty ∧ n = ty.bytes ∧ b = d.toNat % 2 ^ (8 * n) ∧ c = 0 ∧ rel = rl
          | .cas ty x v rl => k = .cas ty ∧ n = ty.bytes ∧ b = x.toNat % 2 ^ (8 * n) ∧ c = v.toNat % 2 ^ (8 * n) ∧ rel = rl
          | .bfi ty d m rl => k = .bfi ty ∧ n = ty.bytes ∧ b = d.toNat % 2 ^ (8 * n) ∧ c = m.toNat % 2 ^ (8 * n) ∧ rel = rl
          | .ffcs rl => k = .ffcs ∧ n = 8 ∧ b = 0 ∧ c = 0 ∧ rel = rl
          | .plset d l rl => k = .plset ∧ n = 8 ∧ b = d.toNat ∧ c = l.toNat ∧ rel = rl
          | _ => False) → r.off % n = 0 → s.linePoisoned r.off n = false →
        let old := s.mem.read r.off n
        let x := rmwResult k old b c
        ∃ t, exec (.fabricRequest r) s = .next t ∧ t.groups = s.groups ∧ Sp.getD t.performed (reqKey r) 0 = r.seq
          ∧ t.answers = (r.port, true, BitVec.ofNat 512 x.2) :: s.answers ∧ t.mem.read r.off n = (x.1.getD old) % 2 ^ (8 * n)
          ∧ (rel = true → x.1 ≠ none → brings t) ∧ ∀ b, (b < r.off ∨ r.off + n ≤ b) → t.mem.byte b = s.mem.byte b)
      ∧ (∀ key l d, r.op = .ord key l d → r.off % 4 = 0 → s.noSlot r = false → ∃ t, exec (.fabricRequest r) s = .next t ∧ t.mem = s.mem ∧ t.groups = s.groups
          ∧ t.ordBuf = s.ordBuf ++ [{ launch := reqLaunch r l, phys := r.off, key := key, value := d }] ∧ t.answers = (r.port, true, 0) :: s.answers))
    ∧ (s.noSlot r = true → exec (.fabricRequest r) s = .next s)
    ∧ (r.seq = last + 1 → (r.isHost = true → (s.port r.port).frozen = false) → r.control = false → (∀ l, r.op ≠ .close l) → s.noSlot r = false →
        r.off % opBytes r.op ≠ 0 ∨ memoryExists r.off = false ∨ (∃ n acq, r.op = .read n acq ∧ s.linePoisoned r.off n = true) →
        ∃ t, exec (.fabricRequest r) s = .next t ∧ t = { s with performed := t.performed, answers := (r.port, false, 0) :: s.answers })
    ∧ (r.seq = last + 1 → (r.isHost = true → (s.port r.port).frozen = false) → r.control = true → r.off % 8 = 0 → 7 ≤ s.house.step →
      (∀ acq, r.op = .read 8 acq → r.isHost = false ∨ s.hostMay r.port r.off false = true → ∃ t, exec (.fabricRequest r) s = .next t ∧ t.mem = s.mem
          ∧ t.parts = s.parts ∧ t.answers = (r.port, true, BitVec.ofNat 512 (s.controlRead r.off)) :: s.answers)
      ∧ (∀ acq, r.op = .read 8 acq → r.isHost = true → s.hostMay r.port r.off false = false → ∃ t, exec (.fabricRequest r) s = .next t
          ∧ (t.port r.port).frozen = true ∧ t.answers = (r.port, false, 0) :: s.answers)
      ∧ (∀ d rel, r.op = .write 8 d rel → r.isHost = true → s.hostMay r.port r.off true = true → r.off = 0x20000 + 0x100 * (r.off / 0x100 % 8) →
          ∃ t, exec (.fabricRequest r) s = .next t ∧ t.answers = (r.port, true, 0) :: s.answers ∧ t.groups = s.groups
            ∧ t.part (r.off / 0x100 % 8) = { s.part (r.off / 0x100 % 8) with root := d.toNat / 2 ^ 12 % 2 ^ 44 * 2 ^ 12 })
      ∧ (∀ d rel, r.op = .write 8 d rel → r.isHost = true → s.hostMay r.port r.off true = false → ∃ t, exec (.fabricRequest r) s = .next t
          ∧ (t.port r.port).frozen = true ∧ t.answers = (r.port, false, 0) :: s.answers)
      ∧ (∀ n d rel, r.op = .write n d rel → r.isHost = false → ∃ t, exec (.fabricRequest r) s = .next t
          ∧ t = { s with performed := t.performed, answers := (r.port, false, 0) :: s.answers }))

/-! ### Errors, repairs, power and the house controller -/

/-- Rules R53, R84, R90, R175 to R177, R188, R439, R440, R448, R450 and R451: an uncorrectable error is contained where it is found: it
stays in a lane register until that is read, poisons a granule or a line, makes an accumulator element NaN and counts in its tile, ends
the launch of a script word or a prompter context, and is fatal to the partition in the remap, the dispatcher or partition control. A
corrected one changes no result; one in a partial is met at the tile's next block step (R187); a translation with a parity error is
fetched again, whatever the error is. Each enters the history, with its time and place, as a corrected error (0x11) or an uncorrectable one
(0x12, type codes of the model, log entry 116), after the report of a partition that is fatal; an error of a line counts for its row. No domain is trimmed here (R450).
Rules R439, R440 and R451: a report has four words, its type, partition, unit and the number of reports lost, its detail, the count of
such events and its number; it enters the history, and the ring when that is enabled and has room, little-endian at its place, the head
then one further; one that finds the ring full is lost and counted. A write of ERCFG sets en and size, and a reserved size is ignored;
en set anew begins with head 0. -/
def Obligations.ErrorContainment : Prop :=
  (∀ (s : State), s.house.history.length < 65535 → (∀ p, Sp.getD s.house.clusterErrs p [] = []) →
     (∀ d, (Sp.getD s.house.margins d {}).nominal ≤ (Sp.getD s.house.margins d {}).setpoint) →
     let is (e : HistEntry) (type : Nat) : Prop := e.w0.toNat / 2 ^ 56 = type ∧ e.time = s.house.time ∧ e.injected = false
     let noted (t : State) (type : Nat) : Prop := ∃ e, t.house.history = s.house.history ++ [e] ∧ is e type ∧ e.seq = s.house.histSeq
       ∧ t.house.histSeq = s.house.histSeq + 1
     let reported (t : State) : Prop := ∃ e f, t.house.history = s.house.history ++ [e, f] ∧ is e 0x0B ∧ is f 0x12
     (∀ a, ∃ t, exec (.uncorrectableError (.line a)) s = .next t ∧ noted t 0x12 ∧ Config.rowOf (a / 64) ∈ t.house.rowBad ∧ a / 64 ∈ t.poisonLines ∧ (∀ l ∈ s.poisonLines, l ∈ t.poisonLines) ∧ t.mem = s.mem
       ∧ t.groups = s.groups)
     ∧ (∀ ck off, ∃ t, exec (.uncorrectableError (.granule ck off)) s = .next t ∧ noted t 0x12 ∧ off / 16 ∈ (t.cluster ck).poison ∧ t.groups = s.groups
       ∧ (t.cluster ck).spad = (s.cluster ck).spad)
     ∧ (∀ g x lane reg, s.group? g = some x → reg < x.nregs → lane < 64 → ∃ t y, exec (.uncorrectableError (.laneReg g lane reg)) s = .next t
       ∧ noted t 0x12 ∧ t.group? g = some y ∧ reg * 64 + lane ∈ y.latent ∧ y = { x with latent := y.latent } ∧ ∀ h, h ≠ g → t.group? h = s.group? h)
     ∧ (∀ k tm tile row col, s.team? k = some tm → s.pairOf? k = none → row < 32 → col < 64 →
       (∃ t u, exec (.uncorrectableError (.accElem k tile row col)) s = .next t ∧ noted t 0x12 ∧ t.team? k = some u ∧ (u.tile tile).get row col = extNan
         ∧ (u.tile tile).uncorr = min ((tm.tile tile).uncorr + 1) 0xFFFF ∧ (u.tile tile).corr = (tm.tile tile).corr ∧ t.groups = s.groups
         ∧ ∀ i, i ≠ tile → u.tile i = tm.tile i)
       ∧ (∃ t, exec (.correctedError (.accElem k tile row col)) s = .next t ∧ noted t 0x11 ∧ t = { s with house := t.house })
       ∧ (∀ step, ∃ t u, exec (.correctedError (.mxPartial k tile row col step)) s = .next t ∧ noted t 0x11 ∧ t.team? k = some u ∧ t.groups = s.groups ∧ t.mem = s.mem
         ∧ ∃ q, u.tile tile = { tm.tile tile with flaws := (tm.tile tile).flaws ++ [q] } ∧ q.step = step ∧ q.row = some row ∧ q.col = some col ∧ q.again = false
           ∧ wrapOf 64 q.delta ≠ 0)
       ∧ ∀ step, ∃ t u, exec (.uncorrectableError (.mxPartial k tile row col step)) s = .next t ∧ noted t 0x12 ∧ t.team? k = some u ∧ t.groups = s.groups ∧ t.mem = s.mem
         ∧ ∃ q r, u.tile tile = { tm.tile tile with flaws := (tm.tile tile).flaws ++ [q, r] } ∧ q.step = step ∧ r.step = step ∧ q.row = some row ∧ q.col = some col ∧ q.again = true
           ∧ wrapOf 64 q.delta ≠ 0 ∧ r.row = some row ∧ r.col = none ∧ r.again = true ∧ wrapOf 64 r.delta ≠ 0 ∧ wrapOf 64 r.delta ≠ wrapOf 64 q.delta)
     ∧ (∀ ck va, let dropped (t : State) : Prop := noted t 0x11 ∧ t.groups = s.groups ∧ SameBytes s t
         ∧ ∀ k e, e ∈ (t.cluster k).tlb ↔ e ∈ (s.cluster k).tlb ∧ ¬ (k = ck ∧ e.part = ck / 256 ∧ e.page = va / 2 ^ e.bits)
       (∃ t, exec (.uncorrectableError (.tlbEntry ck va)) s = .next t ∧ dropped t) ∧ ∃ t, exec (.correctedError (.tlbEntry ck va)) s = .next t ∧ dropped t)
     ∧ (∀ c x l, s.ctx? c = some x → x.num < 6 → s.launch? x.launch = some l → l.killed = false →
         (∀ q ∈ s.teams, q.2.ctx = c → s.pairOf? q.1 = none) →
         (∃ t, exec (.uncorrectableError (.ctxState c)) s = .next t ∧ noted t 0x12 ∧ Ended t x.launch 0x09)
         ∧ ∀ a, ∃ t, exec (.uncorrectableError (.scriptWord c a)) s = .next t ∧ noted t 0x12 ∧ Ended t x.launch 0x09)
     ∧ (∀ g x tm l, s.group? g = some x → s.pairOf? x.team = none → s.team? x.team = some tm → s.launch? tm.launch = some l → l.killed = false →
         (∃ t, exec (.uncorrectableError (.groupControl g)) s = .next t ∧ noted t 0x12 ∧ Ended t tm.launch 0x09)
         ∧ (∃ t, exec (.uncorrectableError (.reconStack g)) s = .next t ∧ noted t 0x12 ∧ Ended t tm.launch 0x09)
         ∧ ∀ m, ∃ t, exec (.uncorrectableError (.mailbox x.team m)) s = .next t ∧ noted t 0x12 ∧ Ended t tm.launch 0x09)
     ∧ (∀ p, (∃ t, exec (.uncorrectableError (.remap p)) s = .next t ∧ reported t ∧ (t.part p).fatal = true)
         ∧ (∃ t, exec (.uncorrectableError (.dispatcher p)) s = .next t ∧ reported t ∧ (t.part p).fatal = true)
         ∧ ∃ t, exec (.uncorrectableError (.partControl p)) s = .next t ∧ reported t ∧ (t.part p).fatal = true)
     ∧ (∀ a, ∃ t, exec (.correctedError (.line a)) s = .next t ∧ noted t 0x11 ∧ t = { s with house := t.house }
         ∧ s.house.time ∈ Sp.getD t.house.rowErrs (Config.rowOf (a / 64)) []))
  ∧ (∀ (s : State),
       (∀ type part unit detail, type < 256 → part < 256 → unit < 2 ^ 32 → s.house.history.length < 65536 →
         let t := s.report type part unit detail
         let room := decide (s.erHead < s.erTail + 128 * 2 ^ s.erSize)
         ∃ e, t.house.history = s.house.history ++ [e] ∧ field e.w0 56 8 = type ∧ field e.w0 48 8 = part ∧ field e.w0 32 16 = min s.erLost 0xFFFF
           ∧ field e.w0 0 32 = unit ∧ e.w1 = BitVec.ofNat 64 detail ∧ e.w2 = BitVec.ofNat 64 (Sp.getD s.house.counts (type * 4 * 2 ^ 32 + unit) 0 + 1)
           ∧ e.w3 = BitVec.ofNat 64 (s.erSeq + 1) ∧ e.time = s.house.time ∧ t.erSeq = s.erSeq + 1 ∧ t.launches = s.launches ∧ t.groups = s.groups
           ∧ (s.erEn = true → room = true → let a := s.erBase + 32 * (s.erHead % (128 * 2 ^ s.erSize))
               t.mem.read a 8 = e.w0.toNat ∧ t.mem.read (a + 8) 8 = e.w1.toNat ∧ t.mem.read (a + 16) 8 = e.w2.toNat ∧ t.mem.read (a + 24) 8 = e.w3.toNat
               ∧ t.erHead = s.erHead + 1 ∧ t.erLost = 0 ∧ ∀ b, (b < a ∨ a + 32 ≤ b) → t.mem.byte b = s.mem.byte b)
           ∧ (s.erEn = true → room = false → t.mem = s.mem ∧ t.erHead = s.erHead ∧ t.erLost = s.erLost + 1)
           ∧ (s.erEn = false → t.mem = s.mem ∧ t.erHead = s.erHead ∧ t.erLost = s.erLost))
       ∧ ∀ port (v : DWord),
         (HostWrites s port 0x60000 → exec (.registerWrite (.host port) 0x60000 v) s = .next { s with erBase := v.toNat / 2 ^ 12 % 2 ^ 44 * 2 ^ 12 })
         ∧ (HostWrites s port 0x60008 → exec (.registerWrite (.host port) 0x60008 v) s
             = .next { s with erEn := v.getLsbD 63, erSize := if v.toNat % 16 ≤ 10 then v.toNat % 16 else s.erSize,
                              erHead := if v.getLsbD 63 && !s.erEn then 0 else s.erHead })
         ∧ (HostWrites s port 0x60018 → exec (.registerWrite (.host port) 0x60018 v) s = .next { s with erTail := v.toNat }))

/-- Rules R446 to R450 and R453: scrubbing poisons what it cannot correct; a row at its fourth corrected error in 30 days is copied and then
switched; the margin rules of a window, of an uncorrectable error in a trimmed
domain (whose cause in the history is the model's code, log entry 106) and of a lockout; a cluster that is retired takes no more teams, and leaves the working set when none is
on it, in fixed shape with a save-and-restore swap; an armed injection flips bits of its target once. -/
def Obligations.Repairs : Prop :=
  ∀ (s : State),
    (∀ dev row addr, ((∀ d, (Sp.getD s.house.margins d {}).nominal ≤ (Sp.getD s.house.margins d {}).setpoint) →
        ∃ t, exec (.scrubPass dev row addr false true) s = .next t ∧ addr / 64 ∈ t.poisonLines ∧ rowKey dev row ∈ t.house.rowBad ∧ t.mem = s.mem
        ∧ t.groups = s.groups)
      ∧ (∃ t, exec (.scrubPass dev row addr false false) s = .next t ∧ t = { s with house := t.house } ∧ Sp.get? t.house.scrubbed (rowKey dev row) = some s.house.time)
      ∧ ∃ t, exec (.scrubPass dev row addr true false) s = .next t ∧ t = { s with house := t.house }
        ∧ ∃ rest, Sp.getD t.house.rowErrs (rowKey dev row) [] = s.house.time :: rest ∧ ∀ n ∈ rest, n ∈ Sp.getD s.house.rowErrs (rowKey dev row) [])
    ∧ (∀ dev row, dev < 48 → (rowKey dev row ∈ s.house.rowBad
          ∨ 4 ≤ ((Sp.getD s.house.rowErrs (rowKey dev row) []).filter (fun n => decide (s.house.time < n + 2592000000))).length) →
        (dev, row) ∉ s.house.copying → (dev, row) ∉ s.house.spared → Sp.getD s.house.remaps dev 0 < 1024 →
        ∃ t, exec (.rowSpare dev row) s = .next t ∧ t = { s with house := t.house } ∧ (dev, row) ∈ t.house.copying
          ∧ Sp.getD t.house.remaps dev 0 = Sp.getD s.house.remaps dev 0 + 1)
    ∧ (∀ dev row, (dev, row) ∈ s.house.copying → ∃ t, exec (.rowSpareSwitch dev row) s = .next t ∧ (dev, row) ∈ t.house.spared ∧ (dev, row) ∉ t.house.copying
        ∧ t.groups = s.groups)
    ∧ (∀ dom, let m := Sp.getD s.house.margins dom {}
        ∃ t n, exec (.marginWindow dom) s = .next t ∧ t = { s with house := { s.house with margins := Sp.set s.house.margins dom n } } ∧ n.window = 0
          ∧ n.floor = m.floor ∧ n.nominal = m.nominal ∧ n.locked = m.locked ∧ n.lastClean = (if m.window = 0 then m.setpoint else m.lastClean)
          ∧ (m.locked ≠ none → n.setpoint = m.setpoint)
          ∧ (m.locked = none → n.setpoint = if m.window = 0 then (if m.floor + 5 ≤ m.setpoint then m.setpoint - 5 else m.setpoint)
              else if 8 ≤ m.window then m.setpoint + 5 else m.setpoint))
    ∧ (∀ ck off, let dom := 2 * s.physOfKey ck + 1
        let m := Sp.getD s.house.margins dom {}
        m.setpoint < m.nominal → m.restored ≠ some s.house.time → Sp.getD s.house.clusterErrs (s.physOfKey ck) [] = [] → s.house.history.length < 65534 →
        ∃ t, exec (.uncorrectableError (.granule ck off)) s = .next t ∧ off / 16 ∈ (t.cluster ck).poison ∧ t.launches = s.launches
          ∧ Sp.getD t.house.margins dom {} = { m with setpoint := if m.locked = none then m.lastClean + 5 else m.setpoint + 5,
                                                      locked := some (s.house.time + 86400000), restored := some s.house.time }
          ∧ ∃ e f, t.house.history = s.house.history ++ [e, f] ∧ e.w0.toNat / 2 ^ 56 = 0x12 ∧ e.w1 = 0x08 ∧ f.w0.toNat / 2 ^ 56 = 0x08
              ∧ f.w1 = BitVec.ofNat 64 dom)
    ∧ (∀ dom n, (Sp.getD s.house.margins dom {}).locked = some n →
        (n ≤ s.house.time → ∃ t, exec (.marginLockoutExpiry dom) s = .next t
          ∧ t = { s with house := { s.house with margins := Sp.set s.house.margins dom { Sp.getD s.house.margins dom {} with locked := none } } })
        ∧ (s.house.time < n → exec (.marginLockoutExpiry dom) s = .next s))
    ∧ (∀ c, 2 ≤ s.house.step → c ∉ s.house.retired → c ∉ s.house.retiring → ∃ t, exec (.retire c) s = .next t ∧ c ∈ t.house.retiring ∧ t.house.code = 0
        ∧ t.groups = s.groups ∧ ∀ p q, (p, q) ∈ s.parts → q.v128 = false → c / 2 ∈ q.pairs →
          (s.pinned (clusterKey p c) = false → (t.cluster (clusterKey p c)).limit = 0)
          ∧ (s.pinned (clusterKey p c) = true → (t.cluster (clusterKey p c)).limit = (s.cluster (clusterKey p c)).limit
              ∧ (t.cluster (clusterKey p c)).limitWant = some 0))
    ∧ (∀ c, c ∈ s.house.retiring → (∀ p ∈ s.parts, p.2.v128 = false) → (∀ p ∈ s.parts, c / 2 ∈ p.2.pairs → s.teamsOn (clusterKey p.1 c) = []) →
        ∃ t, exec (.retireComplete c) s = .next t ∧ c ∈ t.house.retired ∧ c ∉ t.house.retiring ∧ t.groups = s.groups ∧ t.parts = s.parts
          ∧ (c < 2 ^ 32 → ∃ e ∈ t.house.history, field e.w0 56 8 = 0x07 ∧ field e.w0 0 32 = c ∧ e.seq = s.house.histSeq))
    ∧ (∀ c p, c ∈ s.house.retiring → (∀ q ∈ s.parts, q.2.v128 = true ∧ s.shareKey q.1 = p ∧ s.debugHeld q.1 = false) → s.parts ≠ [] →
        (s.share p).phase = .run → (s.share p).busy = false →
        ∃ t, exec (.retireComplete c) s = .next t ∧ t = { s with shares := t.shares } ∧ (t.share p).phase = .move c)
    ∧ (∀ c p, (s.share (s.shareKey p)).phase = .move c → ∃ t, exec (.swapBackgroundDone p [] []) s = .next t
        ∧ c ∈ t.house.retired ∧ c ∉ t.house.retiring ∧ ((t.share (s.shareKey p)).phase = .run ∨ (t.share (s.shareKey p)).phase = .drain))
    ∧ (∀ i j k tm g x, s.house.armed[i]? = some j → s.injectionTeam j = some k → s.team? k = some tm →
        s.groupOf k ((j.words[0]?.getD 0).toNat / 2 ^ 12 % 32) = some g → s.group? g = some x →
        (j.words[1]?.getD 0).toNat / 2 ^ 60 = 0 → (j.words[3]?.getD 0).toNat / 2 ^ 62 = 0 →
        let reg := (j.words[1]?.getD 0).toNat % 2 ^ 60
        let lane := (j.words[0]?.getD 0).toNat / 2 ^ 6 % 64
        reg < x.nregs → lane < x.width →
        ∃ t y, exec (.faultInjectionFire i) s = .next t ∧ t.house.armed = s.house.armed.eraseIdx i ∧ t.group? g = some y ∧ y = { x with regs := y.regs }
          ∧ (∃ e ∈ t.house.history, e.w0.toNat / 2 ^ 56 = 0x13 ∧ e.injected = true ∧ e.seq = s.house.histSeq)
          ∧ (∀ n l, l < 64 → y.reg n l = if n = reg ∧ l = lane then x.reg n l ^^^ (j.words[2]?.getD 0).setWidth 32 else x.reg n l)
          ∧ ∀ h, h ≠ g → t.group? h = s.group? h)

/-- Rules R56, R394, R395, R410, R441 to R444 and R454 to R456: bring-up goes one step at a time, each where its condition holds (the house controller's firmware at step 2, the device's at step 4), and takes the
stored layout at step 5, where every cluster receives its assist and system contexts. Power pressure lowers the limit of every cluster that is
not pinned by 8, of those that do not retire, and is withdrawn the same way, the ratios where it lowered them, once every condition, an input
power above 2,000 W for 1 ms among them, is clear for a second; a sample without it changes no cluster. A thermal trip and a loss of power leave nothing but
the house controller's own state. -/
def Obligations.Power : Prop :=
  ∀ (s : State),
    (∀ b : BringUp, (s.house.step = 0 → 48000 ≤ b.milliVolts → b.milliVolts ≤ 58000 → b.inlet ≤ 400 → b.flow = true →
        exec (.powerUp b) s = .next { s with house := { s.house with step := 1 } })
      ∧ (s.house.step = 0 → b.milliVolts < 48000 ∨ 58000 < b.milliVolts ∨ 400 < b.inlet ∨ b.flow = false → exec (.powerUp b) s = .next s)
      ∧ (s.house.step = 1 → s.house.pendingFw = none → s.house.accepts s.house.fw s.house.fwSig s.house.svn = true →
          ∃ t, exec (.powerUp b) s = .next t ∧ t = { s with house := { s.house with step := 2, measure := t.house.measure } })
      ∧ (s.house.step = 2 → exec (.powerUp b) s = .next (if b.trained then { s with house := { s.house with step := 3 } } else s))
      ∧ (s.house.step = 1 → s.house.pendingFw = none → s.house.accepts s.house.fw s.house.fwSig s.house.svn = false → exec (.powerUp b) s = .next s)
      ∧ (s.house.step = 1 → ∀ w sig svn, s.house.pendingFw = some (w, sig, svn) → s.house.accepts w sig svn = true →
          ∃ t, exec (.powerUp b) s = .next t
            ∧ t = { s with house := { s.house with step := 2, measure := t.house.measure, fw := w, fwSig := sig, svn := svn, pendingFw := none } })
      ∧ (s.house.step = 3 → s.house.pendingDev = none → s.house.accepts s.house.devFw s.house.devSig s.house.devSvn = true →
          ∃ t, exec (.powerUp b) s = .next t ∧ t = { s with house := { s.house with step := 4, measure := t.house.measure } }
            ∧ ∀ i, i ≠ 1 → Sp.getD t.house.measure i 0 = Sp.getD s.house.measure i 0)
      ∧ (s.house.step = 3 → s.house.pendingDev = none → s.house.accepts s.house.devFw s.house.devSig s.house.devSvn = false → exec (.powerUp b) s = .next s)
      ∧ (s.house.step = 4 → s.house.failing s.free = [] → 2 ≤ workingPairs s.house.working → ∃ t, exec (.powerUp b) s = .next t ∧ t.house.step = 5
          ∧ t.house.active = s.house.stored
          ∧ t.parts = (List.range (((s.house.stored.words[1]?).getD 0).toNat % 16)).map (fun p => (p, partOf s.house.stored.words p s.house.working))
          ∧ t.groups = s.groups ∧ t.mem = s.mem
          ∧ ∀ ck ∈ t.allClusters, ∀ n ∈ [6, 7], ∃ y, t.ctx? (ctxKey ck n) = some y ∧ y.active = true ∧ y.num = n ∧ y.pc = 0 ∧ y.imageLen = s.house.devFw.length)
      ∧ (s.house.step = 6 → ∃ t, exec (.powerUp b) s = .next t
          ∧ t = { s with house := { s.house with step := 7, fused := max s.house.fused (max s.house.svn s.house.devSvn) } }))
    ∧ (∀ avg10 avg1 inlet die, s.allClusters.Nodup →
      (avg10 ≤ 1900 → inlet ≤ 38 → die ≤ 100 → ∃ t, exec (.powerSample avg10 avg1 inlet die) s = .next t ∧ t = { s with house := t.house }
        ∧ t.house.time = s.house.time + 10 ∧ t.house.ratioClamp = (decide (2000 < avg1) || (s.house.ratioClamp && decide (1900 ≤ avg10)))
        ∧ t.house.clearSince = (if 2000 < avg1 then none else some (s.house.clearSince.getD s.house.time)))
      ∧ (1900 < avg10 ∨ 38 < inlet ∨ 100 < die → ∃ t, exec (.powerSample avg10 avg1 inlet die) s = .next t
        ∧ t = { s with house := t.house, clusters := t.clusters } ∧ t.house.steps = s.allClusters.filter s.pinned :: s.house.steps ∧ t.house.clearSince = none ∧ SameBytes s t
        ∧ ∀ ck ∈ s.pressured,
            (s.pinned ck = false → t.cluster ck = { s.cluster ck with limit := (s.cluster ck).limitWant.getD (s.cluster ck).limit - 8, limitWant := none })
            ∧ (s.pinned ck = true → (t.cluster ck).limit = (s.cluster ck).limit ∧ ∀ i, i < 6 →
                (t.cluster ck).ratio.toNat / 2 ^ (3 * i) % 8 = (s.cluster ck).ratio.toNat / 2 ^ (3 * i) % 8 - 1)))
    ∧ (∀ pins rest n, s.allClusters.Nodup → s.house.steps = pins :: rest → s.house.clearSince = some n →
      (n + 1000 ≤ s.house.time → ∃ t, exec .pressureWithdraw s = .next t ∧ t = { s with house := t.house, clusters := t.clusters } ∧ t.house.steps = rest
        ∧ SameBytes s t ∧ ∀ ck ∈ s.pressured,
            let more := min ((s.cluster ck).limitWant.getD (s.cluster ck).limit + 8) 192
            (s.pinned ck = false → (t.cluster ck).limit = more ∧ (t.cluster ck).limitWant = none)
            ∧ (s.pinned ck = true → (t.cluster ck).limit = (s.cluster ck).limit ∧ (t.cluster ck).limitWant = some more)
            ∧ (ck ∉ pins → (t.cluster ck).ratio = (s.cluster ck).ratio)
            ∧ (ck ∈ pins → ∀ i, i < 6 → (t.cluster ck).ratio.toNat / 2 ^ (3 * i) % 8 = min ((s.cluster ck).ratio.toNat / 2 ^ (3 * i) % 8 + 1) 7))
      ∧ (s.house.time < n + 1000 → exec .pressureWithdraw s = .next s))
    ∧ (∀ inlet die, (40 < inlet ∨ 115 ≤ die → ∃ t, exec (.thermalTrip inlet die) s = .next t ∧ t.house.step = 2 ∧ t.groups = [] ∧ t.teams = []
        ∧ t.launches = [] ∧ t.mem = [] ∧ t.house.retired = s.house.retired ∧ t.house.stored = s.house.stored)
      ∧ (inlet ≤ 40 → die < 115 → exec (.thermalTrip inlet die) s = .next s))
    ∧ ∃ t, exec .powerLoss s = .next t ∧ t.house.step = 0 ∧ t.groups = [] ∧ t.teams = [] ∧ t.ctxs = [] ∧ t.launches = [] ∧ t.mem = [] ∧ t.parts = []
        ∧ t.house.history = s.house.history ∧ t.house.retired = s.house.retired ∧ t.house.stored = s.house.stored ∧ t.house.margins = s.house.margins

/-- Rules R426, R431, R441, R442, R445, R451 to R453, R455 and R456: what each command of the house controller does once bring-up has reached step 3, which
is when step 2 is done, with completion code 0; before, every command is refused with code 0x04 and does nothing else. What an entry of
the history is read as is the model's choice (log entry 116). -/
def Obligations.HouseCommands : Prop :=
  ∀ (s : State), let h := s.house
    let done (t : State) (code : Nat) (reply : List Nat) : Prop := t.house.code = code ∧ t.house.reply = reply ∧ t.groups = s.groups ∧ SameBytes s t
    (2 ≤ h.step →
      (∀ w sig, (configBad w = false → h.accepts w sig (((w[0]?).getD 0).toNat % 2 ^ 16) = true → ∃ t, exec (.partcfg w sig) s = .next t ∧ done t 0 []
          ∧ t = { s with house := { h with stored := { words := w }, cleared := false, code := 0, reply := [] } })
        ∧ (h.accepts w sig (((w[0]?).getD 0).toNat % 2 ^ 16) = false → exec (.partcfg w sig) s = .next { s with house := { h with code := 0x02, reply := [] } }))
      ∧ (∀ p w, (s.port p).state = 2 → 0 < w → w < (s.port p).lanes → s.erEn = false → ∃ t, exec (.shed p w) s = .next t ∧ done t 0 []
          ∧ t.port p = { s.port p with state := 3, newWidth := w, sheds := (s.port p).sheds + 1 } ∧ ∀ q, q ≠ p → t.port q = s.port q)
      ∧ (h.step < 6 → ∀ p, exec (.restore p) s = .next { s with house := { h with code := 0x02, reply := [] } })
      ∧ (6 ≤ h.step → ∀ p, s.erEn = false → ∃ t n, exec (.restore p) s = .next t ∧ done t 0 [] ∧ n ≤ 4 ∧ (∀ q, q ≠ p → t.port q = s.port q)
          ∧ (n ≠ 0 → t.port p = { s.port p with state := 3, newWidth := n } ∧ t.streams = s.streams)
          ∧ (n = 0 → (s.port p).state ≠ 0 → t.port p = { s.port p with state := 0, lanes := 0 }
              ∧ ((∀ u ∈ s.streams, u.dest ∉ s.unreachable) → ∀ u ∈ t.streams, u.port ≠ p))
          ∧ (n = 0 → (s.port p).state = 0 → t.port p = s.port p ∧ t.streams = s.streams))
      ∧ (∀ p, ∃ t, exec (.thaw p) s = .next t ∧ done t 0 [] ∧ t.port p = { s.port p with frozen := false } ∧ ∀ q, q ≠ p → t.port q = s.port q)
      ∧ (∀ c, Sp.sorted s.clusters = true →
          (∀ ck x, Sp.get? s.clusters ck = some x → x.frozen = true → x.tableauRead = true → s.physOfKey ck = c → ∃ t, exec (.resetcl c) s = .next t
            ∧ t.house.code = 0 ∧ (t.cluster ck).frozen = true ∧ (t.cluster ck).rejoin = true ∧ (t.cluster ck).spad = [] ∧ t.mem = s.mem ∧ ∀ p ∈ t.groups, p.2.ckey ≠ ck)
          ∧ ((∀ p ∈ s.clusters, p.2.frozen = false ∨ p.2.tableauRead = false) → exec (.resetcl c) s = .next { s with house := { h with code := 0x02, reply := [] } }))
      ∧ (∃ t, exec .tabtrig s = .next t ∧ done t 0 [] ∧ (h.tableau = none → t.house.tableau ≠ none ∧ t.house.retriggers = h.retriggers)
          ∧ (h.tableau ≠ none → t.house.tableau = h.tableau ∧ t.house.retriggers = h.retriggers + 1))
      ∧ (∀ v, h.tableau = some v → ∃ t, exec .tabread s = .next t ∧ done t 0 [v, h.retriggers] ∧ t.house.tableau = none ∧ t.house.retriggers = 0
          ∧ ∀ ck, (s.cluster ck).frozen = true → (t.cluster ck).tableauRead = true)
      ∧ (∀ w, (((h.active.words[1]?).getD 0).getLsbD 63 = true → injectionBad w = false → ∃ t j, exec (.fiarm w) s = .next t ∧ done t 0 []
            ∧ t.house.armed = h.armed ++ [j] ∧ j.words = w)
          ∧ (((h.active.words[1]?).getD 0).getLsbD 63 = false ∨ injectionBad w = true → exec (.fiarm w) s = .next { s with house := { h with code := 0x02, reply := [] } }))
      ∧ (∀ seq, ∃ t, exec (.errread seq) s = .next t ∧ t = { s with house := { h with code := 0, reply := t.house.reply } }
          ∧ t.house.reply = (h.history.filter (fun e => decide (seq ≤ e.seq))).flatMap (fun e =>
              [e.w0.toNat, e.w1.toNat, e.w2.toNat, e.w3.toNat, e.time, e.injected.toNat]))
      ∧ (∀ nonce, ∃ t body, exec (.attest nonce) s = .next t ∧ t = { s with house := { h with code := 0, reply := t.house.reply } }
          ∧ t.house.reply = body ++ [Config.reportSignature body] ∧ body.take 3 = [0x0144, s.device, h.svn] ∧ (body.drop 3).take nonce.length = nonce
          ∧ ∀ i, i < 8 → (body.drop (3 + nonce.length))[i]? = some (Sp.getD h.measure i 0).toNat)
      ∧ exec .baseDiscovery s = .next { s with house := { h with code := 0, reply := [0, 2, 5, 63] } }
      ∧ (∀ n, (7 ≤ n → n < 151 → exec (.sensorRead n) s = .next { s with house := { h with code := 0, reply := [s.pstat (n - 7)] } })
          ∧ (151 ≤ n → n < 441 → exec (.sensorRead n) s = .next { s with house := { h with code := 0, reply := [(Sp.getD h.margins (n - 151) {}).setpoint] } })
          ∧ (n < 7 → ∃ t v, exec (.sensorRead n) s = .next t ∧ t = { s with free := s.free + 1, house := { h with code := 0, reply := [v] } }))
      ∧ ∀ w svn sig, exec (.firmwareUpdate { device := false, words := w } svn sig) s = .next { s with house := { h with pendingFw := some (w, sig, svn), code := 0, reply := [] } }
        ∧ exec (.firmwareUpdate { device := true, words := w } svn sig) s = .next { s with house := { h with pendingDev := some (w, sig, svn), code := 0, reply := [] } })
    ∧ (h.step < 2 → ∀ i : Instr, (∃ w sig, i = .partcfg w sig) ∨ (∃ c, i = .retire c) ∨ (∃ p w, i = .shed p w) ∨ (∃ p, i = .restore p) ∨ (∃ p, i = .thaw p)
        ∨ (∃ c, i = .resetcl c) ∨ i = .tabtrig ∨ i = .tabread ∨ (∃ w, i = .fiarm w) ∨ (∃ n, i = .errread n) ∨ (∃ n, i = .attest n)
        ∨ i = .baseDiscovery ∨ (∃ n, i = .sensorRead n) ∨ (∃ w n g, i = .firmwareUpdate w n g) →
        exec i s = .next { s with house := { h with code := 0x04, reply := [] } })

/-! ### Words, steps and memory -/

/-- Rules R196 and R197: bit 63 and the op field select the format of a lane word, and a full-form word has its fields where the
table of R197 puts them. Beside them: the fields of an I-form word, of a pair word's halves and of a prompter word, the
reserved full-form codes of R209, and the reserved prompter codes of R217, which are refused by name. -/
def Obligations.FormatSelection : Prop :=
  ∀ w : Nat, w < 2 ^ 64 →
    let op := w / 2 ^ 55 % 2 ^ 8
    (w.testBit 63 = true → decodeLane w = decodePair (pairFirst w) (pairSecond w) (w % 2))
    ∧ (w.testBit 63 = false → 0xC0 ≤ op → op ≤ 0xDF → decodeLane w = decodeImm (ImmW.ofNat w))
    ∧ (w.testBit 63 = false → (op < 0xC0 ∨ 0xDF < op) → decodeLane w = decodeFull (FullW.ofNat w))
    ∧ FullW.ofNat w =
        { op := op,
          o := { d := w / 2 ^ 47 % 2 ^ 8, a := w / 2 ^ 39 % 2 ^ 8, b := w / 2 ^ 31 % 2 ^ 8, c := w / 2 ^ 23 % 2 ^ 8, p := w / 2 ^ 19 % 2 ^ 4,
                 pn := w.testBit 18, u := w.testBit 17, k := w.testBit 16, ld := w / 2 ^ 14 % 2 ^ 2 },
          fn := w % 2 ^ 14 }
    ∧ ImmW.ofNat w =
        { op := op,
          o := { d := w / 2 ^ 47 % 2 ^ 8, a := w / 2 ^ 39 % 2 ^ 8, p := w / 2 ^ 35 % 2 ^ 4, pn := w.testBit 34, u := w.testBit 33,
                 k := w.testBit 32, imm := w % 2 ^ 32 } }
    ∧ pairFirst w =
        { op := w / 2 ^ 56 % 2 ^ 7,
          h := { d := w / 2 ^ 48 % 2 ^ 8, a := w / 2 ^ 40 % 2 ^ 8, p := w / 2 ^ 37 % 2 ^ 3, pn := w.testBit 36, u := w.testBit 35, mod := w / 2 ^ 32 % 2 ^ 3 } }
    ∧ pairSecond w =
        { op := w / 2 ^ 25 % 2 ^ 7,
          h := { d := w / 2 ^ 17 % 2 ^ 8, a := w / 2 ^ 9 % 2 ^ 8, p := w / 2 ^ 6 % 2 ^ 3, pn := w.testBit 5, u := w.testBit 4, mod := w / 2 % 2 ^ 3 } }
    ∧ PromW.ofNat w =
        { op := w / 2 ^ 56, o := { d := w / 2 ^ 51 % 2 ^ 5, a := w / 2 ^ 46 % 2 ^ 5, b := w / 2 ^ 41 % 2 ^ 5, imm := w % 2 ^ 32 }, fn := w / 2 ^ 32 % 2 ^ 9 }
    ∧ (w.testBit 63 = false →
        ((0x1A ≤ op ∧ op ≤ 0x1F) ∨ (0x28 ≤ op ∧ op ≤ 0x3F) ∨ (0x45 ≤ op ∧ op ≤ 0x47) ∨ (0x4D ≤ op ∧ op ≤ 0x5F) ∨ (0x79 ≤ op ∧ op ≤ 0x7F)
          ∨ op = 0x9F ∨ (0xA8 ≤ op ∧ op ≤ 0xAF) ∨ op = 0xB7 ∨ op = 0xBF ∨ (0xCC ≤ op ∧ op ≤ 0xCF) ∨ (0xD3 ≤ op ∧ op ≤ 0xFF)) →
        decodeLane w = .error .reservedOpcode)
    ∧ ((let q := w / 2 ^ 56
        (0x12 ≤ q ∧ q ≤ 0x1F) ∨ (0x26 ≤ q ∧ q ≤ 0x2F) ∨ (0x34 ≤ q ∧ q ≤ 0x3F) ∨ (0x49 ≤ q ∧ q ≤ 0x4F) ∨ (0x57 ≤ q ∧ q ≤ 0x5F) ∨ 0x68 ≤ q) →
        decodePrompter w = .error 1)

/-- Words that the spec writes out beside their assembly (Exhibit 1 and R238, R239, R242, R269, R272, R286, R296, R325, the cases
of chapters 14 to 17 and 19, Exhibits 9 and 20) decode to the instructions they stand for: one or more of every format and
of every family that has a word. -/
def Obligations.DecodeWords : Prop :=
  decodeLane 0x0002_8278_0301_0800 = .ok (.add { d := 5, a := 4, b := 240, c := 6, k := true } .i32 false)
  ∧ decodeLane 0x0B81_01F8_8001_0801 = .ok (.cmp { d := 2, a := 3, b := 241, k := true } .i32 .ne false)
  ∧ decodeLane 0x0C04_0179_8101_1C00 = .ok (.lea { d := 8, a := 2, b := 243, c := 2, k := true } .n64)
  ∧ decodeLane 0x2180_0100_0000_0000 = .ok (.lkbrk { a := 2 } .set)
  ∧ decodeLane 0x2006_0500_0401_1C07 = .ok (.shfl { d := 12, a := 10, c := 8, k := true } .n64 true .x)
  ∧ decodeLane 0x6880_0100_0000_0005 = .ok (.brx { a := 2, imm := 5 })
  ∧ decodeLane 0x5E00_0300_0000_0000 = .ok (.cuept { a := 6 })
  ∧ decodeLane 0x3183_7802_0281_2000 = .ok (.ffma { d := 6, a := 240, b := 4, c := 5, k := true } .rn)
  ∧ decodeLane 0x3883_0200_0001_0908 = .ok (.f2i { d := 6, a := 4, k := true } .i32 .f32 .rz)
  ∧ decodeLane 0x8005_0200_2416_0802
      = .ok (.pairAdd { d := 5, a := 2 } { op := .fmul, h := { d := 11, a := 4, mod := 1 } })
  ∧ decodeLane 0x4003_8200_2001_0688 = .ok (.ld { d := 7, a := 4, c := 64, k := true } 0 .n32 .dev .acq)
  ∧ decodeLane 0x4080_010A_0200_068C = .ok (.st { a := 2, b := 20, c := 4 } 0 .n32 .dev .rel)
  ∧ decodeLane 0x428D_0E0C_0121_0784 = .ok (.atom { d := 26, a := 28, b := 24, c := 2, p := 4, k := true } .n64 .dev .rlx false)
  ∧ decodeLane 0x4500_0203_0480_0886 = .ok (.red { a := 4, b := 6, c := 9 } .f32 .dev .rlx false true)
  ∧ decodeLane 0x4600_0000_0400_0000 = .ok (.pfence { c := 8 })
  ∧ decodeLane 0x4C80_0480_0080_0000 = .ok (.kick { a := 9, c := 1 })
  ∧ decodeLane 0x5000_0203_0700_000D = .ok (.mxplane { a := 4, b := 6, c := 14 } .kt8 false)
  ∧ decodeLane 0x5100_0203_0388_0000 = .ok (.mxmul { a := 4, b := 6, c := 7, p := 1 } 0 false)
  ∧ decodeLane 0x5280_0400_0800_0100 = .ok (.mxdrain { a := 8, c := 16 } 0 .f32 false)
  ∧ decodeLane 0x5A8A_0184_0601_0219 = .ok (.cvsplit { d := 20, a := 3, b := 8, c := 12, k := true } 2 4 true)
  ∧ decodePrompter 0x1040_0000_0000_0004 = .ok (.li { d := 8, imm := 4 })
  ∧ decodePrompter 0x6402_0000_0000_0001 = .ok (.csrw { a := 8, imm := 1 })
  ∧ decodePrompter 0x5438_0000_0000_0000 = .ok (.waitev { d := 7 } false)
  ∧ decodePrompter 0x4801_D400_0000_0000 = .ok (.start { a := 7, b := 10 })
  ∧ decodePrompter 0x5603_0000_0000_0000 = .ok (.gctlResume { a := 12 })

/-- Decode and encode agree (R196 to R199, R205 to R212, R216, R217): the word of a well-formed lane instruction has 64 bits and
decodes to it, with every operand and modifier as it was; the word of a well-formed prompter instruction does so too. -/
def Obligations.RoundTrip : Prop :=
  ∀ (i : Instr) (w : Nat), i.wf = true →
    (encodeLane i = some w → w < 2 ^ 64 ∧ decodeLane w = .ok i) ∧ (encodePrompter i = some w → w < 2 ^ 64 ∧ decodePrompter w = .ok i)

/-- A step is the head of the agenda (log [2]): an event of the outside world or of a unit runs as its instruction; a slot that
may issue fetches the word where it stands, after what sealed its segment (R125), and the step is that instruction; so is that of a context, where a word of no
meaning is an illegal instruction and an index beyond the image a prompter memory fault (R64, R78, R326, R328, R335). With
no turn left a step lays down a round of turns. -/
def Obligations.StepRuns : Prop :=
  (∀ s : State, s.agenda = [] → step s = .next { s with agenda := s.round })
  ∧ ∀ (s : State) (rest : List Turn),
    let z := { s with agenda := rest }
    (∀ i, s.agenda = .event i :: rest → step s = exec i { z with cur := .env })
    ∧ (∀ e i, s.agenda = .own e :: rest → runsAs e i → step s = exec i { z with cur := .env })
    ∧ (∀ c, s.agenda = .own (.syscPlain c) :: rest → step s = .next ({ z with cur := .env }.syscPlain c))
    ∧ (∀ g b x c, s.agenda = .lane g b :: rest → s.group? g = some x → z.mayIssue g x = true → (x.slot b).mask ≠ 0 → (x.slot b).wait = .run →
        s.ctxOf x = some c →
        ((x.slot b).past = true → step s = .next (z.stopBefore g b x 0x08 (x.slot b).mask 0 0))
        ∧ ((x.slot b).past = false →
          (∀ w v i, c.fetch (x.slot b).pc = .word w v → decodeLane w.toNat = .ok i → step s = exec i { z.noteFetch g b with cur := .lane g b })
          ∧ (c.fetch (x.slot b).pc = .range → step s = .next (z.stopBefore g b x 0x08 (x.slot b).mask 0 0))
          ∧ ∀ seg, c.fetch (x.slot b).pc = .parks seg → step s = .next (z.park g b (.segment seg))))
    ∧ ∀ c x, s.agenda = .prompter c :: rest → s.ctx? c = some x →
        let w := (Sp.getD x.words x.pc.toNat 0).toNat
        let y := { (z.noteCtx c) with cur := .prompter c }
        (x.pc.toNat < x.imageLen → ∀ i, decodePrompter w = .ok i → step s = exec i y)
        ∧ (x.pc.toNat < x.imageLen → ∀ n, decodePrompter w = .error n → step s = exec (.illegalInstruction n) y)
        ∧ (x.imageLen ≤ x.pc.toNat → step s = exec (.prompterMemoryFault x.pc.toNat) y)

/-- Rules R384, R394, R411, R429, R434, R436, R439 and R456: after reset the registers of control space read their reset values,
nothing is resident and the measurement registers are zero. That memory which nothing has written reads zero, that the
device number is 0 and that the agenda is empty are the model's choices (log [4], [9], [2]). -/
def Obligations.ResetState : Prop :=
  let s := State.reset
  (∀ q, q < 256 → s.controlRead (0x10000 + 0x40 * q + 0x08) = 47
    ∧ ∀ i ∈ [0, 2, 3, 4, 5], s.controlRead (0x10000 + 0x40 * q + 8 * i) = 0)
  ∧ (∀ p, p < 8 → s.controlRead (0x20000 + 0x100 * p + 0x10) = 100 ∧ ∀ i ∈ [0, 1, 3], s.controlRead (0x20000 + 0x100 * p + 8 * i) = 0)
  ∧ (∀ c, c < 144 → s.controlRead (0x30000 + 0x40 * c) = 0x3FFFF * 2 ^ 24 + 192 * 2 ^ 8)
  ∧ (∀ n, n < 64 → s.controlRead (0x40000 + 0x40 * n) = 0)
  ∧ (∀ w, w < 16 → s.controlRead (0x50000 + 8 * w) = 0) ∧ (∀ i, i < 4 → s.controlRead (0x60000 + 8 * i) = 0)
  ∧ s.controlRead 0 / 2 ^ 48 = 0x0144
  ∧ s.groups = [] ∧ s.teams = [] ∧ s.ctxs = [] ∧ s.launches = [] ∧ s.flight = [] ∧ (∀ k, Sp.getD s.house.measure k 0 = 0)
  ∧ s.mem.wf = true ∧ (∀ a, s.mem.byte a = 0) ∧ s.controlRead 0 % 2 ^ 11 = 0 ∧ s.agenda = []

/-- The memory of the device keeps its one canonical form (the model's form of R83's memory): addresses strictly rising, no entry
that reads as an unlisted address does. Every step keeps it, whatever the state. -/
def Obligations.MemoryCanonical : Prop :=
  ∀ s t : State, s.mem.wf = true → step s = .next t → t.mem.wf = true

/-- Rule R6 and the laws of memory: the number written at a place, little-endian, reads back there; every byte outside keeps its
value; each byte of it is the byte of the number at its distance; writing keeps the canonical form, in which two memories that
read alike are one. -/
def Obligations.ReadAfterWrite : Prop :=
  (∀ (m : Memory) (a n v : Nat), (m.write a n v).read a n = v % 2 ^ (8 * n)
    ∧ (∀ b, (b < a ∨ a + n ≤ b) → (m.write a n v).byte b = m.byte b)
    ∧ (∀ i, i < n → (m.write a n v).byte (a + i) = BitVec.ofNat 8 (v / 2 ^ (8 * i)))
    ∧ (∀ i k, i + k ≤ n → (m.write a n v).read (a + i) k = v / 2 ^ (8 * i) % 2 ^ (8 * k))
    ∧ (m.wf = true → (m.write a n v).wf = true))
  ∧ ∀ m k : Memory, m.wf = true → k.wf = true → (∀ a, m.byte a = k.byte a) → m = k
end

