-- ==== Sys2Proof/Laws/Sparse.lean ====
section
/-! SUPPORT. Laws of the sparse tables and of memory: what a read meets after a write, and that every memory operation
keeps the canonical form. -/

namespace Sys2Proof.Machine

/-! ### Tables -/

@[simp] theorem Sp.get?_nil {α : Type} (k : Nat) : Sp.get? ([] : Sp α) k = none := rfl

@[simp] theorem Sp.get?_set_self {α : Type} (m : Sp α) (k : Nat) (v : α) : Sp.get? (Sp.set m k v) k = some v := by
  induction m with
  | nil => simp [Sp.set, Sp.get?]
  | cons p t ih =>
    obtain ⟨j, w⟩ := p
    by_cases h1 : k < j
    · simp [Sp.set, Sp.get?, h1]
    · by_cases h2 : k = j
      · simp [Sp.set, Sp.get?, h2]
      · simp [Sp.set, Sp.get?, h1, h2, ih]

theorem Sp.get?_set_ne {α : Type} (m : Sp α) {k i : Nat} (v : α) (h : i ≠ k) : Sp.get? (Sp.set m k v) i = Sp.get? m i := by
  induction m with
  | nil => simp [Sp.set, Sp.get?, h]
  | cons p t ih =>
    obtain ⟨j, w⟩ := p
    by_cases h1 : k < j
    · simp [Sp.set, Sp.get?, h1, h]
    · by_cases h2 : k = j
      · subst h2; simp [Sp.set, Sp.get?, h]
      · simp only [Sp.set, h1, h2, if_false, Sp.get?, ih]

theorem Sp.get?_set {α : Type} (m : Sp α) (k i : Nat) (v : α) :
    Sp.get? (Sp.set m k v) i = if i = k then some v else Sp.get? m i := by
  split
  · subst_vars; simp
  · exact Sp.get?_set_ne m v ‹_›

@[simp] theorem Sp.get?_erase_self {α : Type} (m : Sp α) (k : Nat) : Sp.get? (Sp.erase m k) k = none := by
  induction m with
  | nil => rfl
  | cons p t ih =>
    obtain ⟨j, w⟩ := p
    by_cases h : k = j <;> simp [Sp.erase, Sp.get?, h]
    · subst h; exact ih
    · exact ih

theorem Sp.get?_erase_ne {α : Type} (m : Sp α) {k i : Nat} (h : i ≠ k) : Sp.get? (Sp.erase m k) i = Sp.get? m i := by
  induction m with
  | nil => rfl
  | cons p t ih =>
    obtain ⟨j, w⟩ := p
    by_cases hj : k = j
    · subst hj; simp [Sp.erase, Sp.get?, h, ih]
    · simp only [Sp.erase, hj, if_false, Sp.get?, ih]

theorem Sp.get?_modify {α : Type} (m : Sp α) (k i : Nat) (f : α → α) :
    Sp.get? (Sp.modify m k f) i = if i = k then (Sp.get? m i).map f else Sp.get? m i := by
  induction m with
  | nil => simp [Sp.modify]
  | cons p t ih =>
    obtain ⟨j, w⟩ := p
    by_cases hk : k = j
    · subst hk
      by_cases hi : i = k <;> simp [Sp.modify, Sp.get?, hi]
    · by_cases hi : i = k
      · subst hi; simp_all [Sp.modify, Sp.get?]
      · by_cases hj : i = j <;> simp_all [Sp.modify, Sp.get?]

theorem Sp.getD_put {α : Type} [DecidableEq α] (d : α) (m : Sp α) (k i : Nat) (v : α) :
    Sp.getD (Sp.put d m k v) i d = if i = k then v else Sp.getD m i d := by
  unfold Sp.getD Sp.put
  by_cases hv : v = d
  · by_cases hi : i = k
    · subst hi; simp [hv]
    · simp [hv, hi, Sp.get?_erase_ne m hi]
  · by_cases hi : i = k
    · subst hi; simp [hv]
    · simp [hv, hi, Sp.get?_set_ne m v hi]

/-! ### Memory: a read after a write -/

theorem Memory.byte_setByte (m : Memory) (a b : Nat) (v : Byte) :
    (m.setByte a v).byte b = if b = a then v else m.byte b := Sp.getD_put _ m a b v

/-- The bytes of a write: those of the value in its range, the old ones elsewhere. -/
theorem Memory.byte_write (m : Memory) (a b n v : Nat) :
    (m.write a n v).byte b = if a ≤ b ∧ b < a + n then BitVec.ofNat 8 (v / 256 ^ (b - a)) else m.byte b := by
  induction n generalizing m a v with
  | zero => rw [if_neg (by omega)]; rfl
  | succ n ih =>
    rw [Memory.write, ih, Memory.byte_setByte]
    by_cases h1 : a + 1 ≤ b ∧ b < a + 1 + n
    · have h2 : a ≤ b ∧ b < a + (n + 1) := by omega
      have h3 : b - a = (b - (a + 1)) + 1 := by omega
      rw [if_pos h1, if_pos h2, h3, Nat.pow_succ', Nat.div_div_eq_div_mul]
    · rw [if_neg h1]
      by_cases h2 : b = a
      · subst h2; simp
      · have h3 : ¬ (a ≤ b ∧ b < a + (n + 1)) := by omega
        simp [h2, h3]

/-- Bytes outside a write keep what they held. -/
theorem Memory.byte_write_of_outside (m : Memory) {a b n : Nat} (v : Nat) (h : b < a ∨ a + n ≤ b) :
    (m.write a n v).byte b = m.byte b := by
  rw [Memory.byte_write, if_neg (by omega)]

theorem Memory.read_congr {m m' : Memory} {a n : Nat} (h : ∀ b, a ≤ b → b < a + n → m.byte b = m'.byte b) :
    m.read a n = m'.read a n := by
  induction n generalizing a with
  | zero => rfl
  | succ n ih =>
    rw [Memory.read, Memory.read, h a (by omega) (by omega), ih (fun b h1 h2 => h b (by omega) (by omega))]

/-! ### The canonical form is kept -/

theorem Sp.sorted_set {α : Type} (m : Sp α) (k : Nat) (v : α) (h : Sp.sorted m) : Sp.sorted (Sp.set m k v) := by
  induction m with
  | nil => rfl
  | cons p t ih =>
    obtain ⟨j, w⟩ := p
    by_cases h1 : k < j
    · simpa [Sp.set, h1, Sp.sorted] using h
    · by_cases h2 : k = j
      · subst h2
        cases t with
        | nil => simp [Sp.set, Sp.sorted]
        | cons q u => simpa [Sp.set, Sp.sorted] using h
      · cases t with
        | nil => simp [Sp.set, h1, h2, Sp.sorted]; omega
        | cons q u =>
          obtain ⟨i, z⟩ := q
          simp only [Sp.sorted, Bool.and_eq_true, decide_eq_true_eq] at h
          have := ih h.2
          simp only [Sp.set, h1, h2, if_false] at this ⊢
          by_cases h3 : k < i
          · simp only [h3, if_true] at this ⊢
            simp only [Sp.sorted, Bool.and_eq_true, decide_eq_true_eq]
            exact ⟨by omega, h3, h.2⟩
          · by_cases h4 : k = i
            · simp only [h4, Nat.lt_irrefl, if_false, if_true] at this ⊢
              simp only [Sp.sorted, Bool.and_eq_true, decide_eq_true_eq]
              exact ⟨h.1, this⟩
            · simp only [h3, h4, if_false] at this ⊢
              simp only [Sp.sorted, Bool.and_eq_true, decide_eq_true_eq]
              exact ⟨h.1, this⟩

/-- Keys of a rising table lie above the key of its head. -/
theorem Sp.head_lt {α : Type} {j : Nat} {w : α} {t : Sp α} (h : Sp.sorted ((j, w) :: t)) {p : Nat × α} (hp : p ∈ t) : j < p.1 := by
  induction t generalizing j w with
  | nil => cases hp
  | cons q u ih =>
    obtain ⟨i, z⟩ := q
    simp only [Sp.sorted, Bool.and_eq_true, decide_eq_true_eq] at h
    rcases List.mem_cons.mp hp with rfl | hq
    · exact h.1
    · exact Nat.lt_trans h.1 (ih h.2 hq)

theorem Sp.sorted_tail {α : Type} {p : Nat × α} {t : Sp α} (h : Sp.sorted (p :: t)) : Sp.sorted t := by
  cases t with
  | nil => rfl
  | cons q u =>
    obtain ⟨j, w⟩ := p
    obtain ⟨i, z⟩ := q
    simp only [Sp.sorted, Bool.and_eq_true] at h
    exact h.2

theorem Sp.sorted_cons {α : Type} {j : Nat} {w : α} {t : Sp α} (h : ∀ p ∈ t, j < p.1) (ht : Sp.sorted t) : Sp.sorted ((j, w) :: t) := by
  cases t with
  | nil => rfl
  | cons q u =>
    obtain ⟨i, z⟩ := q
    simp only [Sp.sorted, Bool.and_eq_true, decide_eq_true_eq]
    exact ⟨h (i, z) (by simp), ht⟩

theorem Sp.sorted_filter {α : Type} (m : Sp α) (f : Nat × α → Bool) (h : Sp.sorted m) : Sp.sorted (List.filter f m) := by
  induction m with
  | nil => rfl
  | cons p t ih =>
    obtain ⟨j, w⟩ := p
    have ht := ih (Sp.sorted_tail h)
    rw [List.filter_cons]
    split
    · exact Sp.sorted_cons (fun q hq => Sp.head_lt h (List.mem_filter.mp hq).1) ht
    · exact ht

theorem Sp.mem_erase {α : Type} (m : Sp α) (k : Nat) (p : Nat × α) (h : p ∈ Sp.erase m k) : p ∈ m := by
  induction m with
  | nil => cases h
  | cons q t ih =>
    obtain ⟨j, w⟩ := q
    by_cases hk : k = j
    · simp only [Sp.erase, hk, if_true] at h; exact List.mem_cons_of_mem _ (ih (by simpa [hk] using h))
    · simp only [Sp.erase, hk, if_false] at h
      rcases List.mem_cons.mp h with rfl | h
      · simp
      · exact List.mem_cons_of_mem _ (ih h)

theorem Sp.sorted_erase {α : Type} (m : Sp α) (k : Nat) (h : Sp.sorted m) : Sp.sorted (Sp.erase m k) := by
  induction m with
  | nil => rfl
  | cons p t ih =>
    obtain ⟨j, w⟩ := p
    have ht := ih (Sp.sorted_tail h)
    by_cases hk : k = j
    · simpa [Sp.erase, hk] using (hk ▸ ht)
    · simp only [Sp.erase, hk, if_false]
      exact Sp.sorted_cons (fun q hq => Sp.head_lt h (Sp.mem_erase t k q hq)) ht

theorem Sp.mem_set {α : Type} (m : Sp α) (k : Nat) (v : α) (p : Nat × α) (h : p ∈ Sp.set m k v) : p = (k, v) ∨ p ∈ m := by
  induction m with
  | nil => simpa [Sp.set] using h
  | cons q t ih =>
    obtain ⟨j, w⟩ := q
    by_cases h1 : k < j
    · simpa [Sp.set, h1] using h
    · by_cases h2 : k = j
      · simp only [Sp.set, h2, Nat.lt_irrefl, if_false, if_true] at h
        rcases List.mem_cons.mp h with rfl | h
        · exact .inl (by simp [h2])
        · exact .inr (List.mem_cons_of_mem _ h)
      · simp only [Sp.set, h1, h2, if_false] at h
        rcases List.mem_cons.mp h with rfl | h
        · exact .inr (by simp)
        · rcases ih h with rfl | h
          · exact .inl rfl
          · exact .inr (List.mem_cons_of_mem _ h)

theorem Memory.wf_nil : Memory.wf [] = true := rfl

/-- One byte written keeps the canonical form. -/
theorem Memory.wf_setByte (m : Memory) (a : Nat) (v : Byte) (h : m.wf) : (m.setByte a v).wf := by
  simp only [Memory.wf, Bool.and_eq_true, List.all_eq_true] at h ⊢
  unfold Memory.setByte Sp.put
  split
  · exact ⟨Sp.sorted_erase m a h.1, fun p hp => h.2 p (Sp.mem_erase m a p hp)⟩
  · refine ⟨Sp.sorted_set m a v h.1, fun p hp => ?_⟩
    rcases Sp.mem_set m a v p hp with rfl | hp
    · simpa using ‹¬ v = Memory.unlisted›
    · exact h.2 p hp

theorem Memory.wf_write (m : Memory) (a n v : Nat) (h : m.wf) : (m.write a n v).wf := by
  induction n generalizing m a v with
  | zero => exact h
  | succ n ih => exact ih _ _ _ (Memory.wf_setByte m a _ h)

theorem Memory.wf_setBytes (m : Memory) (a : Nat) (l : List Byte) (h : m.wf) : (m.setBytes a l).wf := by
  induction l generalizing m a with
  | nil => exact h
  | cons b t ih => exact ih _ _ (Memory.wf_setByte m a b h)

theorem Memory.wf_filter (m : Memory) (f : Host.Cell → Bool) (h : m.wf) : Memory.wf (List.filter f m) := by
  simp only [Memory.wf, Bool.and_eq_true, List.all_eq_true] at h ⊢
  exact ⟨Sp.sorted_filter m f h.1, fun p hp => h.2 p (List.mem_filter.mp hp).1⟩

theorem Memory.wf_clear (m : Memory) (lo n : Nat) (h : m.wf) : (m.clear lo n).wf := Memory.wf_filter m _ h

theorem Memory.wf_slice (m : Memory) (lo n : Nat) (h : m.wf) : (m.slice lo n).wf := Memory.wf_filter m _ h

theorem Memory.wf_foldl_setByte (l : List Host.Cell) (m : Memory) (h : m.wf) :
    Memory.wf (l.foldl (fun acc c => Memory.setByte acc c.1 c.2) m) := by
  induction l generalizing m with
  | nil => exact h
  | cons c t ih => exact ih _ (Memory.wf_setByte m c.1 c.2 h)

theorem Memory.wf_restore (m saved : Memory) (lo n : Nat) (h : m.wf) : (m.restore saved lo n).wf :=
  Memory.wf_foldl_setByte _ _ (Memory.wf_clear m lo n h)

/-- The memory right after reset has the canonical form. -/
theorem Memory.wf_reset : State.reset.mem.wf = true := rfl

end Sys2Proof.Machine
end

