-- ==== Sys2Proof/Laws/State.lean ====
section
/-! SUPPORT. One law for each field that an update of the state leaves alone, and what an update writes. -/

namespace Sys2Proof.Machine

/-! ### Updates of the state -/

@[simp] theorem State.setGroup_agenda (s : State) (g : Nat) (x : Group) : (s.setGroup g x).agenda = s.agenda := rfl
@[simp] theorem State.setGroup_cur (s : State) (g : Nat) (x : Group) : (s.setGroup g x).cur = s.cur := rfl
@[simp] theorem State.setGroup_free (s : State) (g : Nat) (x : Group) : (s.setGroup g x).free = s.free := rfl
@[simp] theorem State.setGroup_nextId (s : State) (g : Nat) (x : Group) : (s.setGroup g x).nextId = s.nextId := rfl
@[simp] theorem State.setGroup_teams (s : State) (g : Nat) (x : Group) : (s.setGroup g x).teams = s.teams := rfl
@[simp] theorem State.setGroup_oldGroups (s : State) (g : Nat) (x : Group) : (s.setGroup g x).oldGroups = s.oldGroups := rfl
@[simp] theorem State.setGroup_oldTeams (s : State) (g : Nat) (x : Group) : (s.setGroup g x).oldTeams = s.oldTeams := rfl
@[simp] theorem State.setGroup_ctxs (s : State) (g : Nat) (x : Group) : (s.setGroup g x).ctxs = s.ctxs := rfl
@[simp] theorem State.setGroup_clusters (s : State) (g : Nat) (x : Group) : (s.setGroup g x).clusters = s.clusters := rfl
@[simp] theorem State.setGroup_launches (s : State) (g : Nat) (x : Group) : (s.setGroup g x).launches = s.launches := rfl
@[simp] theorem State.setGroup_ensembles (s : State) (g : Nat) (x : Group) : (s.setGroup g x).ensembles = s.ensembles := rfl
@[simp] theorem State.setGroup_pairs (s : State) (g : Nat) (x : Group) : (s.setGroup g x).pairs = s.pairs := rfl
@[simp] theorem State.setGroup_mem (s : State) (g : Nat) (x : Group) : (s.setGroup g x).mem = s.mem := rfl
@[simp] theorem State.setGroup_poisonLines (s : State) (g : Nat) (x : Group) : (s.setGroup g x).poisonLines = s.poisonLines := rfl
@[simp] theorem State.setGroup_cached (s : State) (g : Nat) (x : Group) : (s.setGroup g x).cached = s.cached := rfl
@[simp] theorem State.setGroup_flight (s : State) (g : Nat) (x : Group) : (s.setGroup g x).flight = s.flight := rfl
@[simp] theorem State.setGroup_rputs (s : State) (g : Nat) (x : Group) : (s.setGroup g x).rputs = s.rputs := rfl
@[simp] theorem State.setGroup_access (s : State) (g : Nat) (x : Group) : (s.setGroup g x).access = s.access := rfl
@[simp] theorem State.setGroup_published (s : State) (g : Nat) (x : Group) : (s.setGroup g x).published = s.published := rfl
@[simp] theorem State.setGroup_late (s : State) (g : Nat) (x : Group) : (s.setGroup g x).late = s.late := rfl
@[simp] theorem State.setGroup_hostClk (s : State) (g : Nat) (x : Group) : (s.setGroup g x).hostClk = s.hostClk := rfl
@[simp] theorem State.setGroup_scClk (s : State) (g : Nat) (x : Group) : (s.setGroup g x).scClk = s.scClk := rfl
@[simp] theorem State.setGroup_tlb2 (s : State) (g : Nat) (x : Group) : (s.setGroup g x).tlb2 = s.tlb2 := rfl
@[simp] theorem State.setGroup_walks (s : State) (g : Nat) (x : Group) : (s.setGroup g x).walks = s.walks := rfl
@[simp] theorem State.setGroup_faulted (s : State) (g : Nat) (x : Group) : (s.setGroup g x).faulted = s.faulted := rfl
@[simp] theorem State.setGroup_queues (s : State) (g : Nat) (x : Group) : (s.setGroup g x).queues = s.queues := rfl
@[simp] theorem State.setGroup_lastWin (s : State) (g : Nat) (x : Group) : (s.setGroup g x).lastWin = s.lastWin := rfl
@[simp] theorem State.setGroup_parts (s : State) (g : Nat) (x : Group) : (s.setGroup g x).parts = s.parts := rfl
@[simp] theorem State.setGroup_shares (s : State) (g : Nat) (x : Group) : (s.setGroup g x).shares = s.shares := rfl
@[simp] theorem State.setGroup_ports (s : State) (g : Nat) (x : Group) : (s.setGroup g x).ports = s.ports := rfl
@[simp] theorem State.setGroup_streams (s : State) (g : Nat) (x : Group) : (s.setGroup g x).streams = s.streams := rfl
@[simp] theorem State.setGroup_performed (s : State) (g : Nat) (x : Group) : (s.setGroup g x).performed = s.performed := rfl
@[simp] theorem State.setGroup_unreachable (s : State) (g : Nat) (x : Group) : (s.setGroup g x).unreachable = s.unreachable := rfl
@[simp] theorem State.setGroup_routes (s : State) (g : Nat) (x : Group) : (s.setGroup g x).routes = s.routes := rfl
@[simp] theorem State.setGroup_answers (s : State) (g : Nat) (x : Group) : (s.setGroup g x).answers = s.answers := rfl
@[simp] theorem State.setGroup_notes (s : State) (g : Nat) (x : Group) : (s.setGroup g x).notes = s.notes := rfl
@[simp] theorem State.setGroup_windows (s : State) (g : Nat) (x : Group) : (s.setGroup g x).windows = s.windows := rfl
@[simp] theorem State.setGroup_ordBuf (s : State) (g : Nat) (x : Group) : (s.setGroup g x).ordBuf = s.ordBuf := rfl
@[simp] theorem State.setGroup_ordSlots (s : State) (g : Nat) (x : Group) : (s.setGroup g x).ordSlots = s.ordSlots := rfl
@[simp] theorem State.setGroup_erBase (s : State) (g : Nat) (x : Group) : (s.setGroup g x).erBase = s.erBase := rfl
@[simp] theorem State.setGroup_erEn (s : State) (g : Nat) (x : Group) : (s.setGroup g x).erEn = s.erEn := rfl
@[simp] theorem State.setGroup_erSize (s : State) (g : Nat) (x : Group) : (s.setGroup g x).erSize = s.erSize := rfl
@[simp] theorem State.setGroup_erHead (s : State) (g : Nat) (x : Group) : (s.setGroup g x).erHead = s.erHead := rfl
@[simp] theorem State.setGroup_erTail (s : State) (g : Nat) (x : Group) : (s.setGroup g x).erTail = s.erTail := rfl
@[simp] theorem State.setGroup_erLost (s : State) (g : Nat) (x : Group) : (s.setGroup g x).erLost = s.erLost := rfl
@[simp] theorem State.setGroup_erSeq (s : State) (g : Nat) (x : Group) : (s.setGroup g x).erSeq = s.erSeq := rfl
@[simp] theorem State.setGroup_device (s : State) (g : Nat) (x : Group) : (s.setGroup g x).device = s.device := rfl
@[simp] theorem State.setGroup_house (s : State) (g : Nat) (x : Group) : (s.setGroup g x).house = s.house := rfl

@[simp] theorem State.setTeam_agenda (s : State) (k : Nat) (x : Team) : (s.setTeam k x).agenda = s.agenda := rfl
@[simp] theorem State.setTeam_cur (s : State) (k : Nat) (x : Team) : (s.setTeam k x).cur = s.cur := rfl
@[simp] theorem State.setTeam_free (s : State) (k : Nat) (x : Team) : (s.setTeam k x).free = s.free := rfl
@[simp] theorem State.setTeam_nextId (s : State) (k : Nat) (x : Team) : (s.setTeam k x).nextId = s.nextId := rfl
@[simp] theorem State.setTeam_groups (s : State) (k : Nat) (x : Team) : (s.setTeam k x).groups = s.groups := rfl
@[simp] theorem State.setTeam_oldGroups (s : State) (k : Nat) (x : Team) : (s.setTeam k x).oldGroups = s.oldGroups := rfl
@[simp] theorem State.setTeam_oldTeams (s : State) (k : Nat) (x : Team) : (s.setTeam k x).oldTeams = s.oldTeams := rfl
@[simp] theorem State.setTeam_ctxs (s : State) (k : Nat) (x : Team) : (s.setTeam k x).ctxs = s.ctxs := rfl
@[simp] theorem State.setTeam_clusters (s : State) (k : Nat) (x : Team) : (s.setTeam k x).clusters = s.clusters := rfl
@[simp] theorem State.setTeam_launches (s : State) (k : Nat) (x : Team) : (s.setTeam k x).launches = s.launches := rfl
@[simp] theorem State.setTeam_ensembles (s : State) (k : Nat) (x : Team) : (s.setTeam k x).ensembles = s.ensembles := rfl
@[simp] theorem State.setTeam_pairs (s : State) (k : Nat) (x : Team) : (s.setTeam k x).pairs = s.pairs := rfl
@[simp] theorem State.setTeam_mem (s : State) (k : Nat) (x : Team) : (s.setTeam k x).mem = s.mem := rfl
@[simp] theorem State.setTeam_poisonLines (s : State) (k : Nat) (x : Team) : (s.setTeam k x).poisonLines = s.poisonLines := rfl
@[simp] theorem State.setTeam_cached (s : State) (k : Nat) (x : Team) : (s.setTeam k x).cached = s.cached := rfl
@[simp] theorem State.setTeam_flight (s : State) (k : Nat) (x : Team) : (s.setTeam k x).flight = s.flight := rfl
@[simp] theorem State.setTeam_rputs (s : State) (k : Nat) (x : Team) : (s.setTeam k x).rputs = s.rputs := rfl
@[simp] theorem State.setTeam_access (s : State) (k : Nat) (x : Team) : (s.setTeam k x).access = s.access := rfl
@[simp] theorem State.setTeam_published (s : State) (k : Nat) (x : Team) : (s.setTeam k x).published = s.published := rfl
@[simp] theorem State.setTeam_late (s : State) (k : Nat) (x : Team) : (s.setTeam k x).late = s.late := rfl
@[simp] theorem State.setTeam_hostClk (s : State) (k : Nat) (x : Team) : (s.setTeam k x).hostClk = s.hostClk := rfl
@[simp] theorem State.setTeam_scClk (s : State) (k : Nat) (x : Team) : (s.setTeam k x).scClk = s.scClk := rfl
@[simp] theorem State.setTeam_tlb2 (s : State) (k : Nat) (x : Team) : (s.setTeam k x).tlb2 = s.tlb2 := rfl
@[simp] theorem State.setTeam_walks (s : State) (k : Nat) (x : Team) : (s.setTeam k x).walks = s.walks := rfl
@[simp] theorem State.setTeam_faulted (s : State) (k : Nat) (x : Team) : (s.setTeam k x).faulted = s.faulted := rfl
@[simp] theorem State.setTeam_queues (s : State) (k : Nat) (x : Team) : (s.setTeam k x).queues = s.queues := rfl
@[simp] theorem State.setTeam_lastWin (s : State) (k : Nat) (x : Team) : (s.setTeam k x).lastWin = s.lastWin := rfl
@[simp] theorem State.setTeam_parts (s : State) (k : Nat) (x : Team) : (s.setTeam k x).parts = s.parts := rfl
@[simp] theorem State.setTeam_shares (s : State) (k : Nat) (x : Team) : (s.setTeam k x).shares = s.shares := rfl
@[simp] theorem State.setTeam_ports (s : State) (k : Nat) (x : Team) : (s.setTeam k x).ports = s.ports := rfl
@[simp] theorem State.setTeam_streams (s : State) (k : Nat) (x : Team) : (s.setTeam k x).streams = s.streams := rfl
@[simp] theorem State.setTeam_performed (s : State) (k : Nat) (x : Team) : (s.setTeam k x).performed = s.performed := rfl
@[simp] theorem State.setTeam_unreachable (s : State) (k : Nat) (x : Team) : (s.setTeam k x).unreachable = s.unreachable := rfl
@[simp] theorem State.setTeam_routes (s : State) (k : Nat) (x : Team) : (s.setTeam k x).routes = s.routes := rfl
@[simp] theorem State.setTeam_answers (s : State) (k : Nat) (x : Team) : (s.setTeam k x).answers = s.answers := rfl
@[simp] theorem State.setTeam_notes (s : State) (k : Nat) (x : Team) : (s.setTeam k x).notes = s.notes := rfl
@[simp] theorem State.setTeam_windows (s : State) (k : Nat) (x : Team) : (s.setTeam k x).windows = s.windows := rfl
@[simp] theorem State.setTeam_ordBuf (s : State) (k : Nat) (x : Team) : (s.setTeam k x).ordBuf = s.ordBuf := rfl
@[simp] theorem State.setTeam_ordSlots (s : State) (k : Nat) (x : Team) : (s.setTeam k x).ordSlots = s.ordSlots := rfl
@[simp] theorem State.setTeam_erBase (s : State) (k : Nat) (x : Team) : (s.setTeam k x).erBase = s.erBase := rfl
@[simp] theorem State.setTeam_erEn (s : State) (k : Nat) (x : Team) : (s.setTeam k x).erEn = s.erEn := rfl
@[simp] theorem State.setTeam_erSize (s : State) (k : Nat) (x : Team) : (s.setTeam k x).erSize = s.erSize := rfl
@[simp] theorem State.setTeam_erHead (s : State) (k : Nat) (x : Team) : (s.setTeam k x).erHead = s.erHead := rfl
@[simp] theorem State.setTeam_erTail (s : State) (k : Nat) (x : Team) : (s.setTeam k x).erTail = s.erTail := rfl
@[simp] theorem State.setTeam_erLost (s : State) (k : Nat) (x : Team) : (s.setTeam k x).erLost = s.erLost := rfl
@[simp] theorem State.setTeam_erSeq (s : State) (k : Nat) (x : Team) : (s.setTeam k x).erSeq = s.erSeq := rfl
@[simp] theorem State.setTeam_device (s : State) (k : Nat) (x : Team) : (s.setTeam k x).device = s.device := rfl
@[simp] theorem State.setTeam_house (s : State) (k : Nat) (x : Team) : (s.setTeam k x).house = s.house := rfl

@[simp] theorem State.setCtx_agenda (s : State) (k : Nat) (x : Ctx) : (s.setCtx k x).agenda = s.agenda := rfl
@[simp] theorem State.setCtx_cur (s : State) (k : Nat) (x : Ctx) : (s.setCtx k x).cur = s.cur := rfl
@[simp] theorem State.setCtx_free (s : State) (k : Nat) (x : Ctx) : (s.setCtx k x).free = s.free := rfl
@[simp] theorem State.setCtx_nextId (s : State) (k : Nat) (x : Ctx) : (s.setCtx k x).nextId = s.nextId := rfl
@[simp] theorem State.setCtx_groups (s : State) (k : Nat) (x : Ctx) : (s.setCtx k x).groups = s.groups := rfl
@[simp] theorem State.setCtx_teams (s : State) (k : Nat) (x : Ctx) : (s.setCtx k x).teams = s.teams := rfl
@[simp] theorem State.setCtx_oldGroups (s : State) (k : Nat) (x : Ctx) : (s.setCtx k x).oldGroups = s.oldGroups := rfl
@[simp] theorem State.setCtx_oldTeams (s : State) (k : Nat) (x : Ctx) : (s.setCtx k x).oldTeams = s.oldTeams := rfl
@[simp] theorem State.setCtx_clusters (s : State) (k : Nat) (x : Ctx) : (s.setCtx k x).clusters = s.clusters := rfl
@[simp] theorem State.setCtx_launches (s : State) (k : Nat) (x : Ctx) : (s.setCtx k x).launches = s.launches := rfl
@[simp] theorem State.setCtx_ensembles (s : State) (k : Nat) (x : Ctx) : (s.setCtx k x).ensembles = s.ensembles := rfl
@[simp] theorem State.setCtx_pairs (s : State) (k : Nat) (x : Ctx) : (s.setCtx k x).pairs = s.pairs := rfl
@[simp] theorem State.setCtx_mem (s : State) (k : Nat) (x : Ctx) : (s.setCtx k x).mem = s.mem := rfl
@[simp] theorem State.setCtx_poisonLines (s : State) (k : Nat) (x : Ctx) : (s.setCtx k x).poisonLines = s.poisonLines := rfl
@[simp] theorem State.setCtx_cached (s : State) (k : Nat) (x : Ctx) : (s.setCtx k x).cached = s.cached := rfl
@[simp] theorem State.setCtx_flight (s : State) (k : Nat) (x : Ctx) : (s.setCtx k x).flight = s.flight := rfl
@[simp] theorem State.setCtx_rputs (s : State) (k : Nat) (x : Ctx) : (s.setCtx k x).rputs = s.rputs := rfl
@[simp] theorem State.setCtx_access (s : State) (k : Nat) (x : Ctx) : (s.setCtx k x).access = s.access := rfl
@[simp] theorem State.setCtx_published (s : State) (k : Nat) (x : Ctx) : (s.setCtx k x).published = s.published := rfl
@[simp] theorem State.setCtx_late (s : State) (k : Nat) (x : Ctx) : (s.setCtx k x).late = s.late := rfl
@[simp] theorem State.setCtx_hostClk (s : State) (k : Nat) (x : Ctx) : (s.setCtx k x).hostClk = s.hostClk := rfl
@[simp] theorem State.setCtx_scClk (s : State) (k : Nat) (x : Ctx) : (s.setCtx k x).scClk = s.scClk := rfl
@[simp] theorem State.setCtx_tlb2 (s : State) (k : Nat) (x : Ctx) : (s.setCtx k x).tlb2 = s.tlb2 := rfl
@[simp] theorem State.setCtx_walks (s : State) (k : Nat) (x : Ctx) : (s.setCtx k x).walks = s.walks := rfl
@[simp] theorem State.setCtx_faulted (s : State) (k : Nat) (x : Ctx) : (s.setCtx k x).faulted = s.faulted := rfl
@[simp] theorem State.setCtx_queues (s : State) (k : Nat) (x : Ctx) : (s.setCtx k x).queues = s.queues := rfl
@[simp] theorem State.setCtx_lastWin (s : State) (k : Nat) (x : Ctx) : (s.setCtx k x).lastWin = s.lastWin := rfl
@[simp] theorem State.setCtx_parts (s : State) (k : Nat) (x : Ctx) : (s.setCtx k x).parts = s.parts := rfl
@[simp] theorem State.setCtx_shares (s : State) (k : Nat) (x : Ctx) : (s.setCtx k x).shares = s.shares := rfl
@[simp] theorem State.setCtx_ports (s : State) (k : Nat) (x : Ctx) : (s.setCtx k x).ports = s.ports := rfl
@[simp] theorem State.setCtx_streams (s : State) (k : Nat) (x : Ctx) : (s.setCtx k x).streams = s.streams := rfl
@[simp] theorem State.setCtx_performed (s : State) (k : Nat) (x : Ctx) : (s.setCtx k x).performed = s.performed := rfl
@[simp] theorem State.setCtx_unreachable (s : State) (k : Nat) (x : Ctx) : (s.setCtx k x).unreachable = s.unreachable := rfl
@[simp] theorem State.setCtx_routes (s : State) (k : Nat) (x : Ctx) : (s.setCtx k x).routes = s.routes := rfl
@[simp] theorem State.setCtx_answers (s : State) (k : Nat) (x : Ctx) : (s.setCtx k x).answers = s.answers := rfl
@[simp] theorem State.setCtx_notes (s : State) (k : Nat) (x : Ctx) : (s.setCtx k x).notes = s.notes := rfl
@[simp] theorem State.setCtx_windows (s : State) (k : Nat) (x : Ctx) : (s.setCtx k x).windows = s.windows := rfl
@[simp] theorem State.setCtx_ordBuf (s : State) (k : Nat) (x : Ctx) : (s.setCtx k x).ordBuf = s.ordBuf := rfl
@[simp] theorem State.setCtx_ordSlots (s : State) (k : Nat) (x : Ctx) : (s.setCtx k x).ordSlots = s.ordSlots := rfl
@[simp] theorem State.setCtx_erBase (s : State) (k : Nat) (x : Ctx) : (s.setCtx k x).erBase = s.erBase := rfl
@[simp] theorem State.setCtx_erEn (s : State) (k : Nat) (x : Ctx) : (s.setCtx k x).erEn = s.erEn := rfl
@[simp] theorem State.setCtx_erSize (s : State) (k : Nat) (x : Ctx) : (s.setCtx k x).erSize = s.erSize := rfl
@[simp] theorem State.setCtx_erHead (s : State) (k : Nat) (x : Ctx) : (s.setCtx k x).erHead = s.erHead := rfl
@[simp] theorem State.setCtx_erTail (s : State) (k : Nat) (x : Ctx) : (s.setCtx k x).erTail = s.erTail := rfl
@[simp] theorem State.setCtx_erLost (s : State) (k : Nat) (x : Ctx) : (s.setCtx k x).erLost = s.erLost := rfl
@[simp] theorem State.setCtx_erSeq (s : State) (k : Nat) (x : Ctx) : (s.setCtx k x).erSeq = s.erSeq := rfl
@[simp] theorem State.setCtx_device (s : State) (k : Nat) (x : Ctx) : (s.setCtx k x).device = s.device := rfl
@[simp] theorem State.setCtx_house (s : State) (k : Nat) (x : Ctx) : (s.setCtx k x).house = s.house := rfl

@[simp] theorem State.setLaunch_agenda (s : State) (k : Nat) (x : Launch) : (s.setLaunch k x).agenda = s.agenda := rfl
@[simp] theorem State.setLaunch_cur (s : State) (k : Nat) (x : Launch) : (s.setLaunch k x).cur = s.cur := rfl
@[simp] theorem State.setLaunch_free (s : State) (k : Nat) (x : Launch) : (s.setLaunch k x).free = s.free := rfl
@[simp] theorem State.setLaunch_nextId (s : State) (k : Nat) (x : Launch) : (s.setLaunch k x).nextId = s.nextId := rfl
@[simp] theorem State.setLaunch_groups (s : State) (k : Nat) (x : Launch) : (s.setLaunch k x).groups = s.groups := rfl
@[simp] theorem State.setLaunch_teams (s : State) (k : Nat) (x : Launch) : (s.setLaunch k x).teams = s.teams := rfl
@[simp] theorem State.setLaunch_oldGroups (s : State) (k : Nat) (x : Launch) : (s.setLaunch k x).oldGroups = s.oldGroups := rfl
@[simp] theorem State.setLaunch_oldTeams (s : State) (k : Nat) (x : Launch) : (s.setLaunch k x).oldTeams = s.oldTeams := rfl
@[simp] theorem State.setLaunch_ctxs (s : State) (k : Nat) (x : Launch) : (s.setLaunch k x).ctxs = s.ctxs := rfl
@[simp] theorem State.setLaunch_clusters (s : State) (k : Nat) (x : Launch) : (s.setLaunch k x).clusters = s.clusters := rfl
@[simp] theorem State.setLaunch_ensembles (s : State) (k : Nat) (x : Launch) : (s.setLaunch k x).ensembles = s.ensembles := rfl
@[simp] theorem State.setLaunch_pairs (s : State) (k : Nat) (x : Launch) : (s.setLaunch k x).pairs = s.pairs := rfl
@[simp] theorem State.setLaunch_mem (s : State) (k : Nat) (x : Launch) : (s.setLaunch k x).mem = s.mem := rfl
@[simp] theorem State.setLaunch_poisonLines (s : State) (k : Nat) (x : Launch) : (s.setLaunch k x).poisonLines = s.poisonLines := rfl
@[simp] theorem State.setLaunch_cached (s : State) (k : Nat) (x : Launch) : (s.setLaunch k x).cached = s.cached := rfl
@[simp] theorem State.setLaunch_flight (s : State) (k : Nat) (x : Launch) : (s.setLaunch k x).flight = s.flight := rfl
@[simp] theorem State.setLaunch_rputs (s : State) (k : Nat) (x : Launch) : (s.setLaunch k x).rputs = s.rputs := rfl
@[simp] theorem State.setLaunch_access (s : State) (k : Nat) (x : Launch) : (s.setLaunch k x).access = s.access := rfl
@[simp] theorem State.setLaunch_published (s : State) (k : Nat) (x : Launch) : (s.setLaunch k x).published = s.published := rfl
@[simp] theorem State.setLaunch_late (s : State) (k : Nat) (x : Launch) : (s.setLaunch k x).late = s.late := rfl
@[simp] theorem State.setLaunch_hostClk (s : State) (k : Nat) (x : Launch) : (s.setLaunch k x).hostClk = s.hostClk := rfl
@[simp] theorem State.setLaunch_scClk (s : State) (k : Nat) (x : Launch) : (s.setLaunch k x).scClk = s.scClk := rfl
@[simp] theorem State.setLaunch_tlb2 (s : State) (k : Nat) (x : Launch) : (s.setLaunch k x).tlb2 = s.tlb2 := rfl
@[simp] theorem State.setLaunch_walks (s : State) (k : Nat) (x : Launch) : (s.setLaunch k x).walks = s.walks := rfl
@[simp] theorem State.setLaunch_faulted (s : State) (k : Nat) (x : Launch) : (s.setLaunch k x).faulted = s.faulted := rfl
@[simp] theorem State.setLaunch_queues (s : State) (k : Nat) (x : Launch) : (s.setLaunch k x).queues = s.queues := rfl
@[simp] theorem State.setLaunch_lastWin (s : State) (k : Nat) (x : Launch) : (s.setLaunch k x).lastWin = s.lastWin := rfl
@[simp] theorem State.setLaunch_parts (s : State) (k : Nat) (x : Launch) : (s.setLaunch k x).parts = s.parts := rfl
@[simp] theorem State.setLaunch_shares (s : State) (k : Nat) (x : Launch) : (s.setLaunch k x).shares = s.shares := rfl
@[simp] theorem State.setLaunch_ports (s : State) (k : Nat) (x : Launch) : (s.setLaunch k x).ports = s.ports := rfl
@[simp] theorem State.setLaunch_streams (s : State) (k : Nat) (x : Launch) : (s.setLaunch k x).streams = s.streams := rfl
@[simp] theorem State.setLaunch_performed (s : State) (k : Nat) (x : Launch) : (s.setLaunch k x).performed = s.performed := rfl
@[simp] theorem State.setLaunch_unreachable (s : State) (k : Nat) (x : Launch) : (s.setLaunch k x).unreachable = s.unreachable := rfl
@[simp] theorem State.setLaunch_routes (s : State) (k : Nat) (x : Launch) : (s.setLaunch k x).routes = s.routes := rfl
@[simp] theorem State.setLaunch_answers (s : State) (k : Nat) (x : Launch) : (s.setLaunch k x).answers = s.answers := rfl
@[simp] theorem State.setLaunch_notes (s : State) (k : Nat) (x : Launch) : (s.setLaunch k x).notes = s.notes := rfl
@[simp] theorem State.setLaunch_windows (s : State) (k : Nat) (x : Launch) : (s.setLaunch k x).windows = s.windows := rfl
@[simp] theorem State.setLaunch_ordBuf (s : State) (k : Nat) (x : Launch) : (s.setLaunch k x).ordBuf = s.ordBuf := rfl
@[simp] theorem State.setLaunch_ordSlots (s : State) (k : Nat) (x : Launch) : (s.setLaunch k x).ordSlots = s.ordSlots := rfl
@[simp] theorem State.setLaunch_erBase (s : State) (k : Nat) (x : Launch) : (s.setLaunch k x).erBase = s.erBase := rfl
@[simp] theorem State.setLaunch_erEn (s : State) (k : Nat) (x : Launch) : (s.setLaunch k x).erEn = s.erEn := rfl
@[simp] theorem State.setLaunch_erSize (s : State) (k : Nat) (x : Launch) : (s.setLaunch k x).erSize = s.erSize := rfl
@[simp] theorem State.setLaunch_erHead (s : State) (k : Nat) (x : Launch) : (s.setLaunch k x).erHead = s.erHead := rfl
@[simp] theorem State.setLaunch_erTail (s : State) (k : Nat) (x : Launch) : (s.setLaunch k x).erTail = s.erTail := rfl
@[simp] theorem State.setLaunch_erLost (s : State) (k : Nat) (x : Launch) : (s.setLaunch k x).erLost = s.erLost := rfl
@[simp] theorem State.setLaunch_erSeq (s : State) (k : Nat) (x : Launch) : (s.setLaunch k x).erSeq = s.erSeq := rfl
@[simp] theorem State.setLaunch_device (s : State) (k : Nat) (x : Launch) : (s.setLaunch k x).device = s.device := rfl
@[simp] theorem State.setLaunch_house (s : State) (k : Nat) (x : Launch) : (s.setLaunch k x).house = s.house := rfl

@[simp] theorem State.setCluster_agenda (s : State) (k : Nat) (x : Cluster) : (s.setCluster k x).agenda = s.agenda := rfl
@[simp] theorem State.setCluster_cur (s : State) (k : Nat) (x : Cluster) : (s.setCluster k x).cur = s.cur := rfl
@[simp] theorem State.setCluster_free (s : State) (k : Nat) (x : Cluster) : (s.setCluster k x).free = s.free := rfl
@[simp] theorem State.setCluster_nextId (s : State) (k : Nat) (x : Cluster) : (s.setCluster k x).nextId = s.nextId := rfl
@[simp] theorem State.setCluster_groups (s : State) (k : Nat) (x : Cluster) : (s.setCluster k x).groups = s.groups := rfl
@[simp] theorem State.setCluster_teams (s : State) (k : Nat) (x : Cluster) : (s.setCluster k x).teams = s.teams := rfl
@[simp] theorem State.setCluster_oldGroups (s : State) (k : Nat) (x : Cluster) : (s.setCluster k x).oldGroups = s.oldGroups := rfl
@[simp] theorem State.setCluster_oldTeams (s : State) (k : Nat) (x : Cluster) : (s.setCluster k x).oldTeams = s.oldTeams := rfl
@[simp] theorem State.setCluster_ctxs (s : State) (k : Nat) (x : Cluster) : (s.setCluster k x).ctxs = s.ctxs := rfl
@[simp] theorem State.setCluster_launches (s : State) (k : Nat) (x : Cluster) : (s.setCluster k x).launches = s.launches := rfl
@[simp] theorem State.setCluster_ensembles (s : State) (k : Nat) (x : Cluster) : (s.setCluster k x).ensembles = s.ensembles := rfl
@[simp] theorem State.setCluster_pairs (s : State) (k : Nat) (x : Cluster) : (s.setCluster k x).pairs = s.pairs := rfl
@[simp] theorem State.setCluster_mem (s : State) (k : Nat) (x : Cluster) : (s.setCluster k x).mem = s.mem := rfl
@[simp] theorem State.setCluster_poisonLines (s : State) (k : Nat) (x : Cluster) : (s.setCluster k x).poisonLines = s.poisonLines := rfl
@[simp] theorem State.setCluster_cached (s : State) (k : Nat) (x : Cluster) : (s.setCluster k x).cached = s.cached := rfl
@[simp] theorem State.setCluster_flight (s : State) (k : Nat) (x : Cluster) : (s.setCluster k x).flight = s.flight := rfl
@[simp] theorem State.setCluster_rputs (s : State) (k : Nat) (x : Cluster) : (s.setCluster k x).rputs = s.rputs := rfl
@[simp] theorem State.setCluster_access (s : State) (k : Nat) (x : Cluster) : (s.setCluster k x).access = s.access := rfl
@[simp] theorem State.setCluster_published (s : State) (k : Nat) (x : Cluster) : (s.setCluster k x).published = s.published := rfl
@[simp] theorem State.setCluster_late (s : State) (k : Nat) (x : Cluster) : (s.setCluster k x).late = s.late := rfl
@[simp] theorem State.setCluster_hostClk (s : State) (k : Nat) (x : Cluster) : (s.setCluster k x).hostClk = s.hostClk := rfl
@[simp] theorem State.setCluster_scClk (s : State) (k : Nat) (x : Cluster) : (s.setCluster k x).scClk = s.scClk := rfl
@[simp] theorem State.setCluster_tlb2 (s : State) (k : Nat) (x : Cluster) : (s.setCluster k x).tlb2 = s.tlb2 := rfl
@[simp] theorem State.setCluster_walks (s : State) (k : Nat) (x : Cluster) : (s.setCluster k x).walks = s.walks := rfl
@[simp] theorem State.setCluster_faulted (s : State) (k : Nat) (x : Cluster) : (s.setCluster k x).faulted = s.faulted := rfl
@[simp] theorem State.setCluster_queues (s : State) (k : Nat) (x : Cluster) : (s.setCluster k x).queues = s.queues := rfl
@[simp] theorem State.setCluster_lastWin (s : State) (k : Nat) (x : Cluster) : (s.setCluster k x).lastWin = s.lastWin := rfl
@[simp] theorem State.setCluster_parts (s : State) (k : Nat) (x : Cluster) : (s.setCluster k x).parts = s.parts := rfl
@[simp] theorem State.setCluster_shares (s : State) (k : Nat) (x : Cluster) : (s.setCluster k x).shares = s.shares := rfl
@[simp] theorem State.setCluster_ports (s : State) (k : Nat) (x : Cluster) : (s.setCluster k x).ports = s.ports := rfl
@[simp] theorem State.setCluster_streams (s : State) (k : Nat) (x : Cluster) : (s.setCluster k x).streams = s.streams := rfl
@[simp] theorem State.setCluster_performed (s : State) (k : Nat) (x : Cluster) : (s.setCluster k x).performed = s.performed := rfl
@[simp] theorem State.setCluster_unreachable (s : State) (k : Nat) (x : Cluster) : (s.setCluster k x).unreachable = s.unreachable := rfl
@[simp] theorem State.setCluster_routes (s : State) (k : Nat) (x : Cluster) : (s.setCluster k x).routes = s.routes := rfl
@[simp] theorem State.setCluster_answers (s : State) (k : Nat) (x : Cluster) : (s.setCluster k x).answers = s.answers := rfl
@[simp] theorem State.setCluster_notes (s : State) (k : Nat) (x : Cluster) : (s.setCluster k x).notes = s.notes := rfl
@[simp] theorem State.setCluster_windows (s : State) (k : Nat) (x : Cluster) : (s.setCluster k x).windows = s.windows := rfl
@[simp] theorem State.setCluster_ordBuf (s : State) (k : Nat) (x : Cluster) : (s.setCluster k x).ordBuf = s.ordBuf := rfl
@[simp] theorem State.setCluster_ordSlots (s : State) (k : Nat) (x : Cluster) : (s.setCluster k x).ordSlots = s.ordSlots := rfl
@[simp] theorem State.setCluster_erBase (s : State) (k : Nat) (x : Cluster) : (s.setCluster k x).erBase = s.erBase := rfl
@[simp] theorem State.setCluster_erEn (s : State) (k : Nat) (x : Cluster) : (s.setCluster k x).erEn = s.erEn := rfl
@[simp] theorem State.setCluster_erSize (s : State) (k : Nat) (x : Cluster) : (s.setCluster k x).erSize = s.erSize := rfl
@[simp] theorem State.setCluster_erHead (s : State) (k : Nat) (x : Cluster) : (s.setCluster k x).erHead = s.erHead := rfl
@[simp] theorem State.setCluster_erTail (s : State) (k : Nat) (x : Cluster) : (s.setCluster k x).erTail = s.erTail := rfl
@[simp] theorem State.setCluster_erLost (s : State) (k : Nat) (x : Cluster) : (s.setCluster k x).erLost = s.erLost := rfl
@[simp] theorem State.setCluster_erSeq (s : State) (k : Nat) (x : Cluster) : (s.setCluster k x).erSeq = s.erSeq := rfl
@[simp] theorem State.setCluster_device (s : State) (k : Nat) (x : Cluster) : (s.setCluster k x).device = s.device := rfl
@[simp] theorem State.setCluster_house (s : State) (k : Nat) (x : Cluster) : (s.setCluster k x).house = s.house := rfl

@[simp] theorem State.setPart_agenda (s : State) (k : Nat) (x : Part) : (s.setPart k x).agenda = s.agenda := rfl
@[simp] theorem State.setPart_cur (s : State) (k : Nat) (x : Part) : (s.setPart k x).cur = s.cur := rfl
@[simp] theorem State.setPart_free (s : State) (k : Nat) (x : Part) : (s.setPart k x).free = s.free := rfl
@[simp] theorem State.setPart_nextId (s : State) (k : Nat) (x : Part) : (s.setPart k x).nextId = s.nextId := rfl
@[simp] theorem State.setPart_groups (s : State) (k : Nat) (x : Part) : (s.setPart k x).groups = s.groups := rfl
@[simp] theorem State.setPart_teams (s : State) (k : Nat) (x : Part) : (s.setPart k x).teams = s.teams := rfl
@[simp] theorem State.setPart_oldGroups (s : State) (k : Nat) (x : Part) : (s.setPart k x).oldGroups = s.oldGroups := rfl
@[simp] theorem State.setPart_oldTeams (s : State) (k : Nat) (x : Part) : (s.setPart k x).oldTeams = s.oldTeams := rfl
@[simp] theorem State.setPart_ctxs (s : State) (k : Nat) (x : Part) : (s.setPart k x).ctxs = s.ctxs := rfl
@[simp] theorem State.setPart_clusters (s : State) (k : Nat) (x : Part) : (s.setPart k x).clusters = s.clusters := rfl
@[simp] theorem State.setPart_launches (s : State) (k : Nat) (x : Part) : (s.setPart k x).launches = s.launches := rfl
@[simp] theorem State.setPart_ensembles (s : State) (k : Nat) (x : Part) : (s.setPart k x).ensembles = s.ensembles := rfl
@[simp] theorem State.setPart_pairs (s : State) (k : Nat) (x : Part) : (s.setPart k x).pairs = s.pairs := rfl
@[simp] theorem State.setPart_mem (s : State) (k : Nat) (x : Part) : (s.setPart k x).mem = s.mem := rfl
@[simp] theorem State.setPart_poisonLines (s : State) (k : Nat) (x : Part) : (s.setPart k x).poisonLines = s.poisonLines := rfl
@[simp] theorem State.setPart_cached (s : State) (k : Nat) (x : Part) : (s.setPart k x).cached = s.cached := rfl
@[simp] theorem State.setPart_flight (s : State) (k : Nat) (x : Part) : (s.setPart k x).flight = s.flight := rfl
@[simp] theorem State.setPart_rputs (s : State) (k : Nat) (x : Part) : (s.setPart k x).rputs = s.rputs := rfl
@[simp] theorem State.setPart_access (s : State) (k : Nat) (x : Part) : (s.setPart k x).access = s.access := rfl
@[simp] theorem State.setPart_published (s : State) (k : Nat) (x : Part) : (s.setPart k x).published = s.published := rfl
@[simp] theorem State.setPart_late (s : State) (k : Nat) (x : Part) : (s.setPart k x).late = s.late := rfl
@[simp] theorem State.setPart_hostClk (s : State) (k : Nat) (x : Part) : (s.setPart k x).hostClk = s.hostClk := rfl
@[simp] theorem State.setPart_scClk (s : State) (k : Nat) (x : Part) : (s.setPart k x).scClk = s.scClk := rfl
@[simp] theorem State.setPart_tlb2 (s : State) (k : Nat) (x : Part) : (s.setPart k x).tlb2 = s.tlb2 := rfl
@[simp] theorem State.setPart_walks (s : State) (k : Nat) (x : Part) : (s.setPart k x).walks = s.walks := rfl
@[simp] theorem State.setPart_faulted (s : State) (k : Nat) (x : Part) : (s.setPart k x).faulted = s.faulted := rfl
@[simp] theorem State.setPart_queues (s : State) (k : Nat) (x : Part) : (s.setPart k x).queues = s.queues := rfl
@[simp] theorem State.setPart_lastWin (s : State) (k : Nat) (x : Part) : (s.setPart k x).lastWin = s.lastWin := rfl
@[simp] theorem State.setPart_shares (s : State) (k : Nat) (x : Part) : (s.setPart k x).shares = s.shares := rfl
@[simp] theorem State.setPart_ports (s : State) (k : Nat) (x : Part) : (s.setPart k x).ports = s.ports := rfl
@[simp] theorem State.setPart_streams (s : State) (k : Nat) (x : Part) : (s.setPart k x).streams = s.streams := rfl
@[simp] theorem State.setPart_performed (s : State) (k : Nat) (x : Part) : (s.setPart k x).performed = s.performed := rfl
@[simp] theorem State.setPart_unreachable (s : State) (k : Nat) (x : Part) : (s.setPart k x).unreachable = s.unreachable := rfl
@[simp] theorem State.setPart_routes (s : State) (k : Nat) (x : Part) : (s.setPart k x).routes = s.routes := rfl
@[simp] theorem State.setPart_answers (s : State) (k : Nat) (x : Part) : (s.setPart k x).answers = s.answers := rfl
@[simp] theorem State.setPart_notes (s : State) (k : Nat) (x : Part) : (s.setPart k x).notes = s.notes := rfl
@[simp] theorem State.setPart_windows (s : State) (k : Nat) (x : Part) : (s.setPart k x).windows = s.windows := rfl
@[simp] theorem State.setPart_ordBuf (s : State) (k : Nat) (x : Part) : (s.setPart k x).ordBuf = s.ordBuf := rfl
@[simp] theorem State.setPart_ordSlots (s : State) (k : Nat) (x : Part) : (s.setPart k x).ordSlots = s.ordSlots := rfl
@[simp] theorem State.setPart_erBase (s : State) (k : Nat) (x : Part) : (s.setPart k x).erBase = s.erBase := rfl
@[simp] theorem State.setPart_erEn (s : State) (k : Nat) (x : Part) : (s.setPart k x).erEn = s.erEn := rfl
@[simp] theorem State.setPart_erSize (s : State) (k : Nat) (x : Part) : (s.setPart k x).erSize = s.erSize := rfl
@[simp] theorem State.setPart_erHead (s : State) (k : Nat) (x : Part) : (s.setPart k x).erHead = s.erHead := rfl
@[simp] theorem State.setPart_erTail (s : State) (k : Nat) (x : Part) : (s.setPart k x).erTail = s.erTail := rfl
@[simp] theorem State.setPart_erLost (s : State) (k : Nat) (x : Part) : (s.setPart k x).erLost = s.erLost := rfl
@[simp] theorem State.setPart_erSeq (s : State) (k : Nat) (x : Part) : (s.setPart k x).erSeq = s.erSeq := rfl
@[simp] theorem State.setPart_device (s : State) (k : Nat) (x : Part) : (s.setPart k x).device = s.device := rfl
@[simp] theorem State.setPart_house (s : State) (k : Nat) (x : Part) : (s.setPart k x).house = s.house := rfl

@[simp] theorem State.setQueue_agenda (s : State) (k : Nat) (x : Queue) : (s.setQueue k x).agenda = s.agenda := rfl
@[simp] theorem State.setQueue_cur (s : State) (k : Nat) (x : Queue) : (s.setQueue k x).cur = s.cur := rfl
@[simp] theorem State.setQueue_free (s : State) (k : Nat) (x : Queue) : (s.setQueue k x).free = s.free := rfl
@[simp] theorem State.setQueue_nextId (s : State) (k : Nat) (x : Queue) : (s.setQueue k x).nextId = s.nextId := rfl
@[simp] theorem State.setQueue_groups (s : State) (k : Nat) (x : Queue) : (s.setQueue k x).groups = s.groups := rfl
@[simp] theorem State.setQueue_teams (s : State) (k : Nat) (x : Queue) : (s.setQueue k x).teams = s.teams := rfl
@[simp] theorem State.setQueue_oldGroups (s : State) (k : Nat) (x : Queue) : (s.setQueue k x).oldGroups = s.oldGroups := rfl
@[simp] theorem State.setQueue_oldTeams (s : State) (k : Nat) (x : Queue) : (s.setQueue k x).oldTeams = s.oldTeams := rfl
@[simp] theorem State.setQueue_ctxs (s : State) (k : Nat) (x : Queue) : (s.setQueue k x).ctxs = s.ctxs := rfl
@[simp] theorem State.setQueue_clusters (s : State) (k : Nat) (x : Queue) : (s.setQueue k x).clusters = s.clusters := rfl
@[simp] theorem State.setQueue_launches (s : State) (k : Nat) (x : Queue) : (s.setQueue k x).launches = s.launches := rfl
@[simp] theorem State.setQueue_ensembles (s : State) (k : Nat) (x : Queue) : (s.setQueue k x).ensembles = s.ensembles := rfl
@[simp] theorem State.setQueue_pairs (s : State) (k : Nat) (x : Queue) : (s.setQueue k x).pairs = s.pairs := rfl
@[simp] theorem State.setQueue_mem (s : State) (k : Nat) (x : Queue) : (s.setQueue k x).mem = s.mem := rfl
@[simp] theorem State.setQueue_poisonLines (s : State) (k : Nat) (x : Queue) : (s.setQueue k x).poisonLines = s.poisonLines := rfl
@[simp] theorem State.setQueue_cached (s : State) (k : Nat) (x : Queue) : (s.setQueue k x).cached = s.cached := rfl
@[simp] theorem State.setQueue_flight (s : State) (k : Nat) (x : Queue) : (s.setQueue k x).flight = s.flight := rfl
@[simp] theorem State.setQueue_rputs (s : State) (k : Nat) (x : Queue) : (s.setQueue k x).rputs = s.rputs := rfl
@[simp] theorem State.setQueue_access (s : State) (k : Nat) (x : Queue) : (s.setQueue k x).access = s.access := rfl
@[simp] theorem State.setQueue_published (s : State) (k : Nat) (x : Queue) : (s.setQueue k x).published = s.published := rfl
@[simp] theorem State.setQueue_late (s : State) (k : Nat) (x : Queue) : (s.setQueue k x).late = s.late := rfl
@[simp] theorem State.setQueue_hostClk (s : State) (k : Nat) (x : Queue) : (s.setQueue k x).hostClk = s.hostClk := rfl
@[simp] theorem State.setQueue_scClk (s : State) (k : Nat) (x : Queue) : (s.setQueue k x).scClk = s.scClk := rfl
@[simp] theorem State.setQueue_tlb2 (s : State) (k : Nat) (x : Queue) : (s.setQueue k x).tlb2 = s.tlb2 := rfl
@[simp] theorem State.setQueue_walks (s : State) (k : Nat) (x : Queue) : (s.setQueue k x).walks = s.walks := rfl
@[simp] theorem State.setQueue_faulted (s : State) (k : Nat) (x : Queue) : (s.setQueue k x).faulted = s.faulted := rfl
@[simp] theorem State.setQueue_lastWin (s : State) (k : Nat) (x : Queue) : (s.setQueue k x).lastWin = s.lastWin := rfl
@[simp] theorem State.setQueue_parts (s : State) (k : Nat) (x : Queue) : (s.setQueue k x).parts = s.parts := rfl
@[simp] theorem State.setQueue_shares (s : State) (k : Nat) (x : Queue) : (s.setQueue k x).shares = s.shares := rfl
@[simp] theorem State.setQueue_ports (s : State) (k : Nat) (x : Queue) : (s.setQueue k x).ports = s.ports := rfl
@[simp] theorem State.setQueue_streams (s : State) (k : Nat) (x : Queue) : (s.setQueue k x).streams = s.streams := rfl
@[simp] theorem State.setQueue_performed (s : State) (k : Nat) (x : Queue) : (s.setQueue k x).performed = s.performed := rfl
@[simp] theorem State.setQueue_unreachable (s : State) (k : Nat) (x : Queue) : (s.setQueue k x).unreachable = s.unreachable := rfl
@[simp] theorem State.setQueue_routes (s : State) (k : Nat) (x : Queue) : (s.setQueue k x).routes = s.routes := rfl
@[simp] theorem State.setQueue_answers (s : State) (k : Nat) (x : Queue) : (s.setQueue k x).answers = s.answers := rfl
@[simp] theorem State.setQueue_notes (s : State) (k : Nat) (x : Queue) : (s.setQueue k x).notes = s.notes := rfl
@[simp] theorem State.setQueue_windows (s : State) (k : Nat) (x : Queue) : (s.setQueue k x).windows = s.windows := rfl
@[simp] theorem State.setQueue_ordBuf (s : State) (k : Nat) (x : Queue) : (s.setQueue k x).ordBuf = s.ordBuf := rfl
@[simp] theorem State.setQueue_ordSlots (s : State) (k : Nat) (x : Queue) : (s.setQueue k x).ordSlots = s.ordSlots := rfl
@[simp] theorem State.setQueue_erBase (s : State) (k : Nat) (x : Queue) : (s.setQueue k x).erBase = s.erBase := rfl
@[simp] theorem State.setQueue_erEn (s : State) (k : Nat) (x : Queue) : (s.setQueue k x).erEn = s.erEn := rfl
@[simp] theorem State.setQueue_erSize (s : State) (k : Nat) (x : Queue) : (s.setQueue k x).erSize = s.erSize := rfl
@[simp] theorem State.setQueue_erHead (s : State) (k : Nat) (x : Queue) : (s.setQueue k x).erHead = s.erHead := rfl
@[simp] theorem State.setQueue_erTail (s : State) (k : Nat) (x : Queue) : (s.setQueue k x).erTail = s.erTail := rfl
@[simp] theorem State.setQueue_erLost (s : State) (k : Nat) (x : Queue) : (s.setQueue k x).erLost = s.erLost := rfl
@[simp] theorem State.setQueue_erSeq (s : State) (k : Nat) (x : Queue) : (s.setQueue k x).erSeq = s.erSeq := rfl
@[simp] theorem State.setQueue_device (s : State) (k : Nat) (x : Queue) : (s.setQueue k x).device = s.device := rfl
@[simp] theorem State.setQueue_house (s : State) (k : Nat) (x : Queue) : (s.setQueue k x).house = s.house := rfl

@[simp] theorem State.setPort_agenda (s : State) (k : Nat) (x : Port) : (s.setPort k x).agenda = s.agenda := rfl
@[simp] theorem State.setPort_cur (s : State) (k : Nat) (x : Port) : (s.setPort k x).cur = s.cur := rfl
@[simp] theorem State.setPort_free (s : State) (k : Nat) (x : Port) : (s.setPort k x).free = s.free := rfl
@[simp] theorem State.setPort_nextId (s : State) (k : Nat) (x : Port) : (s.setPort k x).nextId = s.nextId := rfl
@[simp] theorem State.setPort_groups (s : State) (k : Nat) (x : Port) : (s.setPort k x).groups = s.groups := rfl
@[simp] theorem State.setPort_teams (s : State) (k : Nat) (x : Port) : (s.setPort k x).teams = s.teams := rfl
@[simp] theorem State.setPort_oldGroups (s : State) (k : Nat) (x : Port) : (s.setPort k x).oldGroups = s.oldGroups := rfl
@[simp] theorem State.setPort_oldTeams (s : State) (k : Nat) (x : Port) : (s.setPort k x).oldTeams = s.oldTeams := rfl
@[simp] theorem State.setPort_ctxs (s : State) (k : Nat) (x : Port) : (s.setPort k x).ctxs = s.ctxs := rfl
@[simp] theorem State.setPort_clusters (s : State) (k : Nat) (x : Port) : (s.setPort k x).clusters = s.clusters := rfl
@[simp] theorem State.setPort_launches (s : State) (k : Nat) (x : Port) : (s.setPort k x).launches = s.launches := rfl
@[simp] theorem State.setPort_ensembles (s : State) (k : Nat) (x : Port) : (s.setPort k x).ensembles = s.ensembles := rfl
@[simp] theorem State.setPort_pairs (s : State) (k : Nat) (x : Port) : (s.setPort k x).pairs = s.pairs := rfl
@[simp] theorem State.setPort_mem (s : State) (k : Nat) (x : Port) : (s.setPort k x).mem = s.mem := rfl
@[simp] theorem State.setPort_poisonLines (s : State) (k : Nat) (x : Port) : (s.setPort k x).poisonLines = s.poisonLines := rfl
@[simp] theorem State.setPort_cached (s : State) (k : Nat) (x : Port) : (s.setPort k x).cached = s.cached := rfl
@[simp] theorem State.setPort_flight (s : State) (k : Nat) (x : Port) : (s.setPort k x).flight = s.flight := rfl
@[simp] theorem State.setPort_rputs (s : State) (k : Nat) (x : Port) : (s.setPort k x).rputs = s.rputs := rfl
@[simp] theorem State.setPort_access (s : State) (k : Nat) (x : Port) : (s.setPort k x).access = s.access := rfl
@[simp] theorem State.setPort_published (s : State) (k : Nat) (x : Port) : (s.setPort k x).published = s.published := rfl
@[simp] theorem State.setPort_late (s : State) (k : Nat) (x : Port) : (s.setPort k x).late = s.late := rfl
@[simp] theorem State.setPort_hostClk (s : State) (k : Nat) (x : Port) : (s.setPort k x).hostClk = s.hostClk := rfl
@[simp] theorem State.setPort_scClk (s : State) (k : Nat) (x : Port) : (s.setPort k x).scClk = s.scClk := rfl
@[simp] theorem State.setPort_tlb2 (s : State) (k : Nat) (x : Port) : (s.setPort k x).tlb2 = s.tlb2 := rfl
@[simp] theorem State.setPort_walks (s : State) (k : Nat) (x : Port) : (s.setPort k x).walks = s.walks := rfl
@[simp] theorem State.setPort_faulted (s : State) (k : Nat) (x : Port) : (s.setPort k x).faulted = s.faulted := rfl
@[simp] theorem State.setPort_queues (s : State) (k : Nat) (x : Port) : (s.setPort k x).queues = s.queues := rfl
@[simp] theorem State.setPort_lastWin (s : State) (k : Nat) (x : Port) : (s.setPort k x).lastWin = s.lastWin := rfl
@[simp] theorem State.setPort_parts (s : State) (k : Nat) (x : Port) : (s.setPort k x).parts = s.parts := rfl
@[simp] theorem State.setPort_shares (s : State) (k : Nat) (x : Port) : (s.setPort k x).shares = s.shares := rfl
@[simp] theorem State.setPort_streams (s : State) (k : Nat) (x : Port) : (s.setPort k x).streams = s.streams := rfl
@[simp] theorem State.setPort_performed (s : State) (k : Nat) (x : Port) : (s.setPort k x).performed = s.performed := rfl
@[simp] theorem State.setPort_unreachable (s : State) (k : Nat) (x : Port) : (s.setPort k x).unreachable = s.unreachable := rfl
@[simp] theorem State.setPort_routes (s : State) (k : Nat) (x : Port) : (s.setPort k x).routes = s.routes := rfl
@[simp] theorem State.setPort_answers (s : State) (k : Nat) (x : Port) : (s.setPort k x).answers = s.answers := rfl
@[simp] theorem State.setPort_notes (s : State) (k : Nat) (x : Port) : (s.setPort k x).notes = s.notes := rfl
@[simp] theorem State.setPort_windows (s : State) (k : Nat) (x : Port) : (s.setPort k x).windows = s.windows := rfl
@[simp] theorem State.setPort_ordBuf (s : State) (k : Nat) (x : Port) : (s.setPort k x).ordBuf = s.ordBuf := rfl
@[simp] theorem State.setPort_ordSlots (s : State) (k : Nat) (x : Port) : (s.setPort k x).ordSlots = s.ordSlots := rfl
@[simp] theorem State.setPort_erBase (s : State) (k : Nat) (x : Port) : (s.setPort k x).erBase = s.erBase := rfl
@[simp] theorem State.setPort_erEn (s : State) (k : Nat) (x : Port) : (s.setPort k x).erEn = s.erEn := rfl
@[simp] theorem State.setPort_erSize (s : State) (k : Nat) (x : Port) : (s.setPort k x).erSize = s.erSize := rfl
@[simp] theorem State.setPort_erHead (s : State) (k : Nat) (x : Port) : (s.setPort k x).erHead = s.erHead := rfl
@[simp] theorem State.setPort_erTail (s : State) (k : Nat) (x : Port) : (s.setPort k x).erTail = s.erTail := rfl
@[simp] theorem State.setPort_erLost (s : State) (k : Nat) (x : Port) : (s.setPort k x).erLost = s.erLost := rfl
@[simp] theorem State.setPort_erSeq (s : State) (k : Nat) (x : Port) : (s.setPort k x).erSeq = s.erSeq := rfl
@[simp] theorem State.setPort_device (s : State) (k : Nat) (x : Port) : (s.setPort k x).device = s.device := rfl
@[simp] theorem State.setPort_house (s : State) (k : Nat) (x : Port) : (s.setPort k x).house = s.house := rfl

@[simp] theorem State.modGroup_agenda (s : State) (g : Nat) (f : Group → Group) : (s.modGroup g f).agenda = s.agenda := rfl
@[simp] theorem State.modGroup_cur (s : State) (g : Nat) (f : Group → Group) : (s.modGroup g f).cur = s.cur := rfl
@[simp] theorem State.modGroup_free (s : State) (g : Nat) (f : Group → Group) : (s.modGroup g f).free = s.free := rfl
@[simp] theorem State.modGroup_nextId (s : State) (g : Nat) (f : Group → Group) : (s.modGroup g f).nextId = s.nextId := rfl
@[simp] theorem State.modGroup_teams (s : State) (g : Nat) (f : Group → Group) : (s.modGroup g f).teams = s.teams := rfl
@[simp] theorem State.modGroup_oldGroups (s : State) (g : Nat) (f : Group → Group) : (s.modGroup g f).oldGroups = s.oldGroups := rfl
@[simp] theorem State.modGroup_oldTeams (s : State) (g : Nat) (f : Group → Group) : (s.modGroup g f).oldTeams = s.oldTeams := rfl
@[simp] theorem State.modGroup_ctxs (s : State) (g : Nat) (f : Group → Group) : (s.modGroup g f).ctxs = s.ctxs := rfl
@[simp] theorem State.modGroup_clusters (s : State) (g : Nat) (f : Group → Group) : (s.modGroup g f).clusters = s.clusters := rfl
@[simp] theorem State.modGroup_launches (s : State) (g : Nat) (f : Group → Group) : (s.modGroup g f).launches = s.launches := rfl
@[simp] theorem State.modGroup_ensembles (s : State) (g : Nat) (f : Group → Group) : (s.modGroup g f).ensembles = s.ensembles := rfl
@[simp] theorem State.modGroup_pairs (s : State) (g : Nat) (f : Group → Group) : (s.modGroup g f).pairs = s.pairs := rfl
@[simp] theorem State.modGroup_mem (s : State) (g : Nat) (f : Group → Group) : (s.modGroup g f).mem = s.mem := rfl
@[simp] theorem State.modGroup_poisonLines (s : State) (g : Nat) (f : Group → Group) : (s.modGroup g f).poisonLines = s.poisonLines := rfl
@[simp] theorem State.modGroup_cached (s : State) (g : Nat) (f : Group → Group) : (s.modGroup g f).cached = s.cached := rfl
@[simp] theorem State.modGroup_flight (s : State) (g : Nat) (f : Group → Group) : (s.modGroup g f).flight = s.flight := rfl
@[simp] theorem State.modGroup_rputs (s : State) (g : Nat) (f : Group → Group) : (s.modGroup g f).rputs = s.rputs := rfl
@[simp] theorem State.modGroup_access (s : State) (g : Nat) (f : Group → Group) : (s.modGroup g f).access = s.access := rfl
@[simp] theorem State.modGroup_published (s : State) (g : Nat) (f : Group → Group) : (s.modGroup g f).published = s.published := rfl
@[simp] theorem State.modGroup_late (s : State) (g : Nat) (f : Group → Group) : (s.modGroup g f).late = s.late := rfl
@[simp] theorem State.modGroup_hostClk (s : State) (g : Nat) (f : Group → Group) : (s.modGroup g f).hostClk = s.hostClk := rfl
@[simp] theorem State.modGroup_scClk (s : State) (g : Nat) (f : Group → Group) : (s.modGroup g f).scClk = s.scClk := rfl
@[simp] theorem State.modGroup_tlb2 (s : State) (g : Nat) (f : Group → Group) : (s.modGroup g f).tlb2 = s.tlb2 := rfl
@[simp] theorem State.modGroup_walks (s : State) (g : Nat) (f : Group → Group) : (s.modGroup g f).walks = s.walks := rfl
@[simp] theorem State.modGroup_faulted (s : State) (g : Nat) (f : Group → Group) : (s.modGroup g f).faulted = s.faulted := rfl
@[simp] theorem State.modGroup_queues (s : State) (g : Nat) (f : Group → Group) : (s.modGroup g f).queues = s.queues := rfl
@[simp] theorem State.modGroup_lastWin (s : State) (g : Nat) (f : Group → Group) : (s.modGroup g f).lastWin = s.lastWin := rfl
@[simp] theorem State.modGroup_parts (s : State) (g : Nat) (f : Group → Group) : (s.modGroup g f).parts = s.parts := rfl
@[simp] theorem State.modGroup_shares (s : State) (g : Nat) (f : Group → Group) : (s.modGroup g f).shares = s.shares := rfl
@[simp] theorem State.modGroup_ports (s : State) (g : Nat) (f : Group → Group) : (s.modGroup g f).ports = s.ports := rfl
@[simp] theorem State.modGroup_streams (s : State) (g : Nat) (f : Group → Group) : (s.modGroup g f).streams = s.streams := rfl
@[simp] theorem State.modGroup_performed (s : State) (g : Nat) (f : Group → Group) : (s.modGroup g f).performed = s.performed := rfl
@[simp] theorem State.modGroup_unreachable (s : State) (g : Nat) (f : Group → Group) : (s.modGroup g f).unreachable = s.unreachable := rfl
@[simp] theorem State.modGroup_routes (s : State) (g : Nat) (f : Group → Group) : (s.modGroup g f).routes = s.routes := rfl
@[simp] theorem State.modGroup_answers (s : State) (g : Nat) (f : Group → Group) : (s.modGroup g f).answers = s.answers := rfl
@[simp] theorem State.modGroup_notes (s : State) (g : Nat) (f : Group → Group) : (s.modGroup g f).notes = s.notes := rfl
@[simp] theorem State.modGroup_windows (s : State) (g : Nat) (f : Group → Group) : (s.modGroup g f).windows = s.windows := rfl
@[simp] theorem State.modGroup_ordBuf (s : State) (g : Nat) (f : Group → Group) : (s.modGroup g f).ordBuf = s.ordBuf := rfl
@[simp] theorem State.modGroup_ordSlots (s : State) (g : Nat) (f : Group → Group) : (s.modGroup g f).ordSlots = s.ordSlots := rfl
@[simp] theorem State.modGroup_erBase (s : State) (g : Nat) (f : Group → Group) : (s.modGroup g f).erBase = s.erBase := rfl
@[simp] theorem State.modGroup_erEn (s : State) (g : Nat) (f : Group → Group) : (s.modGroup g f).erEn = s.erEn := rfl
@[simp] theorem State.modGroup_erSize (s : State) (g : Nat) (f : Group → Group) : (s.modGroup g f).erSize = s.erSize := rfl
@[simp] theorem State.modGroup_erHead (s : State) (g : Nat) (f : Group → Group) : (s.modGroup g f).erHead = s.erHead := rfl
@[simp] theorem State.modGroup_erTail (s : State) (g : Nat) (f : Group → Group) : (s.modGroup g f).erTail = s.erTail := rfl
@[simp] theorem State.modGroup_erLost (s : State) (g : Nat) (f : Group → Group) : (s.modGroup g f).erLost = s.erLost := rfl
@[simp] theorem State.modGroup_erSeq (s : State) (g : Nat) (f : Group → Group) : (s.modGroup g f).erSeq = s.erSeq := rfl
@[simp] theorem State.modGroup_device (s : State) (g : Nat) (f : Group → Group) : (s.modGroup g f).device = s.device := rfl
@[simp] theorem State.modGroup_house (s : State) (g : Nat) (f : Group → Group) : (s.modGroup g f).house = s.house := rfl

@[simp] theorem State.modTeam_agenda (s : State) (k : Nat) (f : Team → Team) : (s.modTeam k f).agenda = s.agenda := rfl
@[simp] theorem State.modTeam_cur (s : State) (k : Nat) (f : Team → Team) : (s.modTeam k f).cur = s.cur := rfl
@[simp] theorem State.modTeam_free (s : State) (k : Nat) (f : Team → Team) : (s.modTeam k f).free = s.free := rfl
@[simp] theorem State.modTeam_nextId (s : State) (k : Nat) (f : Team → Team) : (s.modTeam k f).nextId = s.nextId := rfl
@[simp] theorem State.modTeam_groups (s : State) (k : Nat) (f : Team → Team) : (s.modTeam k f).groups = s.groups := rfl
@[simp] theorem State.modTeam_oldGroups (s : State) (k : Nat) (f : Team → Team) : (s.modTeam k f).oldGroups = s.oldGroups := rfl
@[simp] theorem State.modTeam_oldTeams (s : State) (k : Nat) (f : Team → Team) : (s.modTeam k f).oldTeams = s.oldTeams := rfl
@[simp] theorem State.modTeam_ctxs (s : State) (k : Nat) (f : Team → Team) : (s.modTeam k f).ctxs = s.ctxs := rfl
@[simp] theorem State.modTeam_clusters (s : State) (k : Nat) (f : Team → Team) : (s.modTeam k f).clusters = s.clusters := rfl
@[simp] theorem State.modTeam_launches (s : State) (k : Nat) (f : Team → Team) : (s.modTeam k f).launches = s.launches := rfl
@[simp] theorem State.modTeam_ensembles (s : State) (k : Nat) (f : Team → Team) : (s.modTeam k f).ensembles = s.ensembles := rfl
@[simp] theorem State.modTeam_pairs (s : State) (k : Nat) (f : Team → Team) : (s.modTeam k f).pairs = s.pairs := rfl
@[simp] theorem State.modTeam_mem (s : State) (k : Nat) (f : Team → Team) : (s.modTeam k f).mem = s.mem := rfl
@[simp] theorem State.modTeam_poisonLines (s : State) (k : Nat) (f : Team → Team) : (s.modTeam k f).poisonLines = s.poisonLines := rfl
@[simp] theorem State.modTeam_cached (s : State) (k : Nat) (f : Team → Team) : (s.modTeam k f).cached = s.cached := rfl
@[simp] theorem State.modTeam_flight (s : State) (k : Nat) (f : Team → Team) : (s.modTeam k f).flight = s.flight := rfl
@[simp] theorem State.modTeam_rputs (s : State) (k : Nat) (f : Team → Team) : (s.modTeam k f).rputs = s.rputs := rfl
@[simp] theorem State.modTeam_access (s : State) (k : Nat) (f : Team → Team) : (s.modTeam k f).access = s.access := rfl
@[simp] theorem State.modTeam_published (s : State) (k : Nat) (f : Team → Team) : (s.modTeam k f).published = s.published := rfl
@[simp] theorem State.modTeam_late (s : State) (k : Nat) (f : Team → Team) : (s.modTeam k f).late = s.late := rfl
@[simp] theorem State.modTeam_hostClk (s : State) (k : Nat) (f : Team → Team) : (s.modTeam k f).hostClk = s.hostClk := rfl
@[simp] theorem State.modTeam_scClk (s : State) (k : Nat) (f : Team → Team) : (s.modTeam k f).scClk = s.scClk := rfl
@[simp] theorem State.modTeam_tlb2 (s : State) (k : Nat) (f : Team → Team) : (s.modTeam k f).tlb2 = s.tlb2 := rfl
@[simp] theorem State.modTeam_walks (s : State) (k : Nat) (f : Team → Team) : (s.modTeam k f).walks = s.walks := rfl
@[simp] theorem State.modTeam_faulted (s : State) (k : Nat) (f : Team → Team) : (s.modTeam k f).faulted = s.faulted := rfl
@[simp] theorem State.modTeam_queues (s : State) (k : Nat) (f : Team → Team) : (s.modTeam k f).queues = s.queues := rfl
@[simp] theorem State.modTeam_lastWin (s : State) (k : Nat) (f : Team → Team) : (s.modTeam k f).lastWin = s.lastWin := rfl
@[simp] theorem State.modTeam_parts (s : State) (k : Nat) (f : Team → Team) : (s.modTeam k f).parts = s.parts := rfl
@[simp] theorem State.modTeam_shares (s : State) (k : Nat) (f : Team → Team) : (s.modTeam k f).shares = s.shares := rfl
@[simp] theorem State.modTeam_ports (s : State) (k : Nat) (f : Team → Team) : (s.modTeam k f).ports = s.ports := rfl
@[simp] theorem State.modTeam_streams (s : State) (k : Nat) (f : Team → Team) : (s.modTeam k f).streams = s.streams := rfl
@[simp] theorem State.modTeam_performed (s : State) (k : Nat) (f : Team → Team) : (s.modTeam k f).performed = s.performed := rfl
@[simp] theorem State.modTeam_unreachable (s : State) (k : Nat) (f : Team → Team) : (s.modTeam k f).unreachable = s.unreachable := rfl
@[simp] theorem State.modTeam_routes (s : State) (k : Nat) (f : Team → Team) : (s.modTeam k f).routes = s.routes := rfl
@[simp] theorem State.modTeam_answers (s : State) (k : Nat) (f : Team → Team) : (s.modTeam k f).answers = s.answers := rfl
@[simp] theorem State.modTeam_notes (s : State) (k : Nat) (f : Team → Team) : (s.modTeam k f).notes = s.notes := rfl
@[simp] theorem State.modTeam_windows (s : State) (k : Nat) (f : Team → Team) : (s.modTeam k f).windows = s.windows := rfl
@[simp] theorem State.modTeam_ordBuf (s : State) (k : Nat) (f : Team → Team) : (s.modTeam k f).ordBuf = s.ordBuf := rfl
@[simp] theorem State.modTeam_ordSlots (s : State) (k : Nat) (f : Team → Team) : (s.modTeam k f).ordSlots = s.ordSlots := rfl
@[simp] theorem State.modTeam_erBase (s : State) (k : Nat) (f : Team → Team) : (s.modTeam k f).erBase = s.erBase := rfl
@[simp] theorem State.modTeam_erEn (s : State) (k : Nat) (f : Team → Team) : (s.modTeam k f).erEn = s.erEn := rfl
@[simp] theorem State.modTeam_erSize (s : State) (k : Nat) (f : Team → Team) : (s.modTeam k f).erSize = s.erSize := rfl
@[simp] theorem State.modTeam_erHead (s : State) (k : Nat) (f : Team → Team) : (s.modTeam k f).erHead = s.erHead := rfl
@[simp] theorem State.modTeam_erTail (s : State) (k : Nat) (f : Team → Team) : (s.modTeam k f).erTail = s.erTail := rfl
@[simp] theorem State.modTeam_erLost (s : State) (k : Nat) (f : Team → Team) : (s.modTeam k f).erLost = s.erLost := rfl
@[simp] theorem State.modTeam_erSeq (s : State) (k : Nat) (f : Team → Team) : (s.modTeam k f).erSeq = s.erSeq := rfl
@[simp] theorem State.modTeam_device (s : State) (k : Nat) (f : Team → Team) : (s.modTeam k f).device = s.device := rfl
@[simp] theorem State.modTeam_house (s : State) (k : Nat) (f : Team → Team) : (s.modTeam k f).house = s.house := rfl

@[simp] theorem State.modCtx_agenda (s : State) (k : Nat) (f : Ctx → Ctx) : (s.modCtx k f).agenda = s.agenda := rfl
@[simp] theorem State.modCtx_cur (s : State) (k : Nat) (f : Ctx → Ctx) : (s.modCtx k f).cur = s.cur := rfl
@[simp] theorem State.modCtx_free (s : State) (k : Nat) (f : Ctx → Ctx) : (s.modCtx k f).free = s.free := rfl
@[simp] theorem State.modCtx_nextId (s : State) (k : Nat) (f : Ctx → Ctx) : (s.modCtx k f).nextId = s.nextId := rfl
@[simp] theorem State.modCtx_groups (s : State) (k : Nat) (f : Ctx → Ctx) : (s.modCtx k f).groups = s.groups := rfl
@[simp] theorem State.modCtx_teams (s : State) (k : Nat) (f : Ctx → Ctx) : (s.modCtx k f).teams = s.teams := rfl
@[simp] theorem State.modCtx_oldGroups (s : State) (k : Nat) (f : Ctx → Ctx) : (s.modCtx k f).oldGroups = s.oldGroups := rfl
@[simp] theorem State.modCtx_oldTeams (s : State) (k : Nat) (f : Ctx → Ctx) : (s.modCtx k f).oldTeams = s.oldTeams := rfl
@[simp] theorem State.modCtx_clusters (s : State) (k : Nat) (f : Ctx → Ctx) : (s.modCtx k f).clusters = s.clusters := rfl
@[simp] theorem State.modCtx_launches (s : State) (k : Nat) (f : Ctx → Ctx) : (s.modCtx k f).launches = s.launches := rfl
@[simp] theorem State.modCtx_ensembles (s : State) (k : Nat) (f : Ctx → Ctx) : (s.modCtx k f).ensembles = s.ensembles := rfl
@[simp] theorem State.modCtx_pairs (s : State) (k : Nat) (f : Ctx → Ctx) : (s.modCtx k f).pairs = s.pairs := rfl
@[simp] theorem State.modCtx_mem (s : State) (k : Nat) (f : Ctx → Ctx) : (s.modCtx k f).mem = s.mem := rfl
@[simp] theorem State.modCtx_poisonLines (s : State) (k : Nat) (f : Ctx → Ctx) : (s.modCtx k f).poisonLines = s.poisonLines := rfl
@[simp] theorem State.modCtx_cached (s : State) (k : Nat) (f : Ctx → Ctx) : (s.modCtx k f).cached = s.cached := rfl
@[simp] theorem State.modCtx_flight (s : State) (k : Nat) (f : Ctx → Ctx) : (s.modCtx k f).flight = s.flight := rfl
@[simp] theorem State.modCtx_rputs (s : State) (k : Nat) (f : Ctx → Ctx) : (s.modCtx k f).rputs = s.rputs := rfl
@[simp] theorem State.modCtx_access (s : State) (k : Nat) (f : Ctx → Ctx) : (s.modCtx k f).access = s.access := rfl
@[simp] theorem State.modCtx_published (s : State) (k : Nat) (f : Ctx → Ctx) : (s.modCtx k f).published = s.published := rfl
@[simp] theorem State.modCtx_late (s : State) (k : Nat) (f : Ctx → Ctx) : (s.modCtx k f).late = s.late := rfl
@[simp] theorem State.modCtx_hostClk (s : State) (k : Nat) (f : Ctx → Ctx) : (s.modCtx k f).hostClk = s.hostClk := rfl
@[simp] theorem State.modCtx_scClk (s : State) (k : Nat) (f : Ctx → Ctx) : (s.modCtx k f).scClk = s.scClk := rfl
@[simp] theorem State.modCtx_tlb2 (s : State) (k : Nat) (f : Ctx → Ctx) : (s.modCtx k f).tlb2 = s.tlb2 := rfl
@[simp] theorem State.modCtx_walks (s : State) (k : Nat) (f : Ctx → Ctx) : (s.modCtx k f).walks = s.walks := rfl
@[simp] theorem State.modCtx_faulted (s : State) (k : Nat) (f : Ctx → Ctx) : (s.modCtx k f).faulted = s.faulted := rfl
@[simp] theorem State.modCtx_queues (s : State) (k : Nat) (f : Ctx → Ctx) : (s.modCtx k f).queues = s.queues := rfl
@[simp] theorem State.modCtx_lastWin (s : State) (k : Nat) (f : Ctx → Ctx) : (s.modCtx k f).lastWin = s.lastWin := rfl
@[simp] theorem State.modCtx_parts (s : State) (k : Nat) (f : Ctx → Ctx) : (s.modCtx k f).parts = s.parts := rfl
@[simp] theorem State.modCtx_shares (s : State) (k : Nat) (f : Ctx → Ctx) : (s.modCtx k f).shares = s.shares := rfl
@[simp] theorem State.modCtx_ports (s : State) (k : Nat) (f : Ctx → Ctx) : (s.modCtx k f).ports = s.ports := rfl
@[simp] theorem State.modCtx_streams (s : State) (k : Nat) (f : Ctx → Ctx) : (s.modCtx k f).streams = s.streams := rfl
@[simp] theorem State.modCtx_performed (s : State) (k : Nat) (f : Ctx → Ctx) : (s.modCtx k f).performed = s.performed := rfl
@[simp] theorem State.modCtx_unreachable (s : State) (k : Nat) (f : Ctx → Ctx) : (s.modCtx k f).unreachable = s.unreachable := rfl
@[simp] theorem State.modCtx_routes (s : State) (k : Nat) (f : Ctx → Ctx) : (s.modCtx k f).routes = s.routes := rfl
@[simp] theorem State.modCtx_answers (s : State) (k : Nat) (f : Ctx → Ctx) : (s.modCtx k f).answers = s.answers := rfl
@[simp] theorem State.modCtx_notes (s : State) (k : Nat) (f : Ctx → Ctx) : (s.modCtx k f).notes = s.notes := rfl
@[simp] theorem State.modCtx_windows (s : State) (k : Nat) (f : Ctx → Ctx) : (s.modCtx k f).windows = s.windows := rfl
@[simp] theorem State.modCtx_ordBuf (s : State) (k : Nat) (f : Ctx → Ctx) : (s.modCtx k f).ordBuf = s.ordBuf := rfl
@[simp] theorem State.modCtx_ordSlots (s : State) (k : Nat) (f : Ctx → Ctx) : (s.modCtx k f).ordSlots = s.ordSlots := rfl
@[simp] theorem State.modCtx_erBase (s : State) (k : Nat) (f : Ctx → Ctx) : (s.modCtx k f).erBase = s.erBase := rfl
@[simp] theorem State.modCtx_erEn (s : State) (k : Nat) (f : Ctx → Ctx) : (s.modCtx k f).erEn = s.erEn := rfl
@[simp] theorem State.modCtx_erSize (s : State) (k : Nat) (f : Ctx → Ctx) : (s.modCtx k f).erSize = s.erSize := rfl
@[simp] theorem State.modCtx_erHead (s : State) (k : Nat) (f : Ctx → Ctx) : (s.modCtx k f).erHead = s.erHead := rfl
@[simp] theorem State.modCtx_erTail (s : State) (k : Nat) (f : Ctx → Ctx) : (s.modCtx k f).erTail = s.erTail := rfl
@[simp] theorem State.modCtx_erLost (s : State) (k : Nat) (f : Ctx → Ctx) : (s.modCtx k f).erLost = s.erLost := rfl
@[simp] theorem State.modCtx_erSeq (s : State) (k : Nat) (f : Ctx → Ctx) : (s.modCtx k f).erSeq = s.erSeq := rfl
@[simp] theorem State.modCtx_device (s : State) (k : Nat) (f : Ctx → Ctx) : (s.modCtx k f).device = s.device := rfl
@[simp] theorem State.modCtx_house (s : State) (k : Nat) (f : Ctx → Ctx) : (s.modCtx k f).house = s.house := rfl

@[simp] theorem State.modLaunch_agenda (s : State) (k : Nat) (f : Launch → Launch) : (s.modLaunch k f).agenda = s.agenda := rfl
@[simp] theorem State.modLaunch_cur (s : State) (k : Nat) (f : Launch → Launch) : (s.modLaunch k f).cur = s.cur := rfl
@[simp] theorem State.modLaunch_free (s : State) (k : Nat) (f : Launch → Launch) : (s.modLaunch k f).free = s.free := rfl
@[simp] theorem State.modLaunch_nextId (s : State) (k : Nat) (f : Launch → Launch) : (s.modLaunch k f).nextId = s.nextId := rfl
@[simp] theorem State.modLaunch_groups (s : State) (k : Nat) (f : Launch → Launch) : (s.modLaunch k f).groups = s.groups := rfl
@[simp] theorem State.modLaunch_teams (s : State) (k : Nat) (f : Launch → Launch) : (s.modLaunch k f).teams = s.teams := rfl
@[simp] theorem State.modLaunch_oldGroups (s : State) (k : Nat) (f : Launch → Launch) : (s.modLaunch k f).oldGroups = s.oldGroups := rfl
@[simp] theorem State.modLaunch_oldTeams (s : State) (k : Nat) (f : Launch → Launch) : (s.modLaunch k f).oldTeams = s.oldTeams := rfl
@[simp] theorem State.modLaunch_ctxs (s : State) (k : Nat) (f : Launch → Launch) : (s.modLaunch k f).ctxs = s.ctxs := rfl
@[simp] theorem State.modLaunch_clusters (s : State) (k : Nat) (f : Launch → Launch) : (s.modLaunch k f).clusters = s.clusters := rfl
@[simp] theorem State.modLaunch_ensembles (s : State) (k : Nat) (f : Launch → Launch) : (s.modLaunch k f).ensembles = s.ensembles := rfl
@[simp] theorem State.modLaunch_pairs (s : State) (k : Nat) (f : Launch → Launch) : (s.modLaunch k f).pairs = s.pairs := rfl
@[simp] theorem State.modLaunch_mem (s : State) (k : Nat) (f : Launch → Launch) : (s.modLaunch k f).mem = s.mem := rfl
@[simp] theorem State.modLaunch_poisonLines (s : State) (k : Nat) (f : Launch → Launch) : (s.modLaunch k f).poisonLines = s.poisonLines := rfl
@[simp] theorem State.modLaunch_cached (s : State) (k : Nat) (f : Launch → Launch) : (s.modLaunch k f).cached = s.cached := rfl
@[simp] theorem State.modLaunch_flight (s : State) (k : Nat) (f : Launch → Launch) : (s.modLaunch k f).flight = s.flight := rfl
@[simp] theorem State.modLaunch_rputs (s : State) (k : Nat) (f : Launch → Launch) : (s.modLaunch k f).rputs = s.rputs := rfl
@[simp] theorem State.modLaunch_access (s : State) (k : Nat) (f : Launch → Launch) : (s.modLaunch k f).access = s.access := rfl
@[simp] theorem State.modLaunch_published (s : State) (k : Nat) (f : Launch → Launch) : (s.modLaunch k f).published = s.published := rfl
@[simp] theorem State.modLaunch_late (s : State) (k : Nat) (f : Launch → Launch) : (s.modLaunch k f).late = s.late := rfl
@[simp] theorem State.modLaunch_hostClk (s : State) (k : Nat) (f : Launch → Launch) : (s.modLaunch k f).hostClk = s.hostClk := rfl
@[simp] theorem State.modLaunch_scClk (s : State) (k : Nat) (f : Launch → Launch) : (s.modLaunch k f).scClk = s.scClk := rfl
@[simp] theorem State.modLaunch_tlb2 (s : State) (k : Nat) (f : Launch → Launch) : (s.modLaunch k f).tlb2 = s.tlb2 := rfl
@[simp] theorem State.modLaunch_walks (s : State) (k : Nat) (f : Launch → Launch) : (s.modLaunch k f).walks = s.walks := rfl
@[simp] theorem State.modLaunch_faulted (s : State) (k : Nat) (f : Launch → Launch) : (s.modLaunch k f).faulted = s.faulted := rfl
@[simp] theorem State.modLaunch_queues (s : State) (k : Nat) (f : Launch → Launch) : (s.modLaunch k f).queues = s.queues := rfl
@[simp] theorem State.modLaunch_lastWin (s : State) (k : Nat) (f : Launch → Launch) : (s.modLaunch k f).lastWin = s.lastWin := rfl
@[simp] theorem State.modLaunch_parts (s : State) (k : Nat) (f : Launch → Launch) : (s.modLaunch k f).parts = s.parts := rfl
@[simp] theorem State.modLaunch_shares (s : State) (k : Nat) (f : Launch → Launch) : (s.modLaunch k f).shares = s.shares := rfl
@[simp] theorem State.modLaunch_ports (s : State) (k : Nat) (f : Launch → Launch) : (s.modLaunch k f).ports = s.ports := rfl
@[simp] theorem State.modLaunch_streams (s : State) (k : Nat) (f : Launch → Launch) : (s.modLaunch k f).streams = s.streams := rfl
@[simp] theorem State.modLaunch_performed (s : State) (k : Nat) (f : Launch → Launch) : (s.modLaunch k f).performed = s.performed := rfl
@[simp] theorem State.modLaunch_unreachable (s : State) (k : Nat) (f : Launch → Launch) : (s.modLaunch k f).unreachable = s.unreachable := rfl
@[simp] theorem State.modLaunch_routes (s : State) (k : Nat) (f : Launch → Launch) : (s.modLaunch k f).routes = s.routes := rfl
@[simp] theorem State.modLaunch_answers (s : State) (k : Nat) (f : Launch → Launch) : (s.modLaunch k f).answers = s.answers := rfl
@[simp] theorem State.modLaunch_notes (s : State) (k : Nat) (f : Launch → Launch) : (s.modLaunch k f).notes = s.notes := rfl
@[simp] theorem State.modLaunch_windows (s : State) (k : Nat) (f : Launch → Launch) : (s.modLaunch k f).windows = s.windows := rfl
@[simp] theorem State.modLaunch_ordBuf (s : State) (k : Nat) (f : Launch → Launch) : (s.modLaunch k f).ordBuf = s.ordBuf := rfl
@[simp] theorem State.modLaunch_ordSlots (s : State) (k : Nat) (f : Launch → Launch) : (s.modLaunch k f).ordSlots = s.ordSlots := rfl
@[simp] theorem State.modLaunch_erBase (s : State) (k : Nat) (f : Launch → Launch) : (s.modLaunch k f).erBase = s.erBase := rfl
@[simp] theorem State.modLaunch_erEn (s : State) (k : Nat) (f : Launch → Launch) : (s.modLaunch k f).erEn = s.erEn := rfl
@[simp] theorem State.modLaunch_erSize (s : State) (k : Nat) (f : Launch → Launch) : (s.modLaunch k f).erSize = s.erSize := rfl
@[simp] theorem State.modLaunch_erHead (s : State) (k : Nat) (f : Launch → Launch) : (s.modLaunch k f).erHead = s.erHead := rfl
@[simp] theorem State.modLaunch_erTail (s : State) (k : Nat) (f : Launch → Launch) : (s.modLaunch k f).erTail = s.erTail := rfl
@[simp] theorem State.modLaunch_erLost (s : State) (k : Nat) (f : Launch → Launch) : (s.modLaunch k f).erLost = s.erLost := rfl
@[simp] theorem State.modLaunch_erSeq (s : State) (k : Nat) (f : Launch → Launch) : (s.modLaunch k f).erSeq = s.erSeq := rfl
@[simp] theorem State.modLaunch_device (s : State) (k : Nat) (f : Launch → Launch) : (s.modLaunch k f).device = s.device := rfl
@[simp] theorem State.modLaunch_house (s : State) (k : Nat) (f : Launch → Launch) : (s.modLaunch k f).house = s.house := rfl

@[simp] theorem State.modCluster_agenda (s : State) (k : Nat) (f : Cluster → Cluster) : (s.modCluster k f).agenda = s.agenda := rfl
@[simp] theorem State.modCluster_cur (s : State) (k : Nat) (f : Cluster → Cluster) : (s.modCluster k f).cur = s.cur := rfl
@[simp] theorem State.modCluster_free (s : State) (k : Nat) (f : Cluster → Cluster) : (s.modCluster k f).free = s.free := rfl
@[simp] theorem State.modCluster_nextId (s : State) (k : Nat) (f : Cluster → Cluster) : (s.modCluster k f).nextId = s.nextId := rfl
@[simp] theorem State.modCluster_groups (s : State) (k : Nat) (f : Cluster → Cluster) : (s.modCluster k f).groups = s.groups := rfl
@[simp] theorem State.modCluster_teams (s : State) (k : Nat) (f : Cluster → Cluster) : (s.modCluster k f).teams = s.teams := rfl
@[simp] theorem State.modCluster_oldGroups (s : State) (k : Nat) (f : Cluster → Cluster) : (s.modCluster k f).oldGroups = s.oldGroups := rfl
@[simp] theorem State.modCluster_oldTeams (s : State) (k : Nat) (f : Cluster → Cluster) : (s.modCluster k f).oldTeams = s.oldTeams := rfl
@[simp] theorem State.modCluster_ctxs (s : State) (k : Nat) (f : Cluster → Cluster) : (s.modCluster k f).ctxs = s.ctxs := rfl
@[simp] theorem State.modCluster_launches (s : State) (k : Nat) (f : Cluster → Cluster) : (s.modCluster k f).launches = s.launches := rfl
@[simp] theorem State.modCluster_ensembles (s : State) (k : Nat) (f : Cluster → Cluster) : (s.modCluster k f).ensembles = s.ensembles := rfl
@[simp] theorem State.modCluster_pairs (s : State) (k : Nat) (f : Cluster → Cluster) : (s.modCluster k f).pairs = s.pairs := rfl
@[simp] theorem State.modCluster_mem (s : State) (k : Nat) (f : Cluster → Cluster) : (s.modCluster k f).mem = s.mem := rfl
@[simp] theorem State.modCluster_poisonLines (s : State) (k : Nat) (f : Cluster → Cluster) : (s.modCluster k f).poisonLines = s.poisonLines := rfl
@[simp] theorem State.modCluster_cached (s : State) (k : Nat) (f : Cluster → Cluster) : (s.modCluster k f).cached = s.cached := rfl
@[simp] theorem State.modCluster_flight (s : State) (k : Nat) (f : Cluster → Cluster) : (s.modCluster k f).flight = s.flight := rfl
@[simp] theorem State.modCluster_rputs (s : State) (k : Nat) (f : Cluster → Cluster) : (s.modCluster k f).rputs = s.rputs := rfl
@[simp] theorem State.modCluster_access (s : State) (k : Nat) (f : Cluster → Cluster) : (s.modCluster k f).access = s.access := rfl
@[simp] theorem State.modCluster_published (s : State) (k : Nat) (f : Cluster → Cluster) : (s.modCluster k f).published = s.published := rfl
@[simp] theorem State.modCluster_late (s : State) (k : Nat) (f : Cluster → Cluster) : (s.modCluster k f).late = s.late := rfl
@[simp] theorem State.modCluster_hostClk (s : State) (k : Nat) (f : Cluster → Cluster) : (s.modCluster k f).hostClk = s.hostClk := rfl
@[simp] theorem State.modCluster_scClk (s : State) (k : Nat) (f : Cluster → Cluster) : (s.modCluster k f).scClk = s.scClk := rfl
@[simp] theorem State.modCluster_tlb2 (s : State) (k : Nat) (f : Cluster → Cluster) : (s.modCluster k f).tlb2 = s.tlb2 := rfl
@[simp] theorem State.modCluster_walks (s : State) (k : Nat) (f : Cluster → Cluster) : (s.modCluster k f).walks = s.walks := rfl
@[simp] theorem State.modCluster_faulted (s : State) (k : Nat) (f : Cluster → Cluster) : (s.modCluster k f).faulted = s.faulted := rfl
@[simp] theorem State.modCluster_queues (s : State) (k : Nat) (f : Cluster → Cluster) : (s.modCluster k f).queues = s.queues := rfl
@[simp] theorem State.modCluster_lastWin (s : State) (k : Nat) (f : Cluster → Cluster) : (s.modCluster k f).lastWin = s.lastWin := rfl
@[simp] theorem State.modCluster_parts (s : State) (k : Nat) (f : Cluster → Cluster) : (s.modCluster k f).parts = s.parts := rfl
@[simp] theorem State.modCluster_shares (s : State) (k : Nat) (f : Cluster → Cluster) : (s.modCluster k f).shares = s.shares := rfl
@[simp] theorem State.modCluster_ports (s : State) (k : Nat) (f : Cluster → Cluster) : (s.modCluster k f).ports = s.ports := rfl
@[simp] theorem State.modCluster_streams (s : State) (k : Nat) (f : Cluster → Cluster) : (s.modCluster k f).streams = s.streams := rfl
@[simp] theorem State.modCluster_performed (s : State) (k : Nat) (f : Cluster → Cluster) : (s.modCluster k f).performed = s.performed := rfl
@[simp] theorem State.modCluster_unreachable (s : State) (k : Nat) (f : Cluster → Cluster) : (s.modCluster k f).unreachable = s.unreachable := rfl
@[simp] theorem State.modCluster_routes (s : State) (k : Nat) (f : Cluster → Cluster) : (s.modCluster k f).routes = s.routes := rfl
@[simp] theorem State.modCluster_answers (s : State) (k : Nat) (f : Cluster → Cluster) : (s.modCluster k f).answers = s.answers := rfl
@[simp] theorem State.modCluster_notes (s : State) (k : Nat) (f : Cluster → Cluster) : (s.modCluster k f).notes = s.notes := rfl
@[simp] theorem State.modCluster_windows (s : State) (k : Nat) (f : Cluster → Cluster) : (s.modCluster k f).windows = s.windows := rfl
@[simp] theorem State.modCluster_ordBuf (s : State) (k : Nat) (f : Cluster → Cluster) : (s.modCluster k f).ordBuf = s.ordBuf := rfl
@[simp] theorem State.modCluster_ordSlots (s : State) (k : Nat) (f : Cluster → Cluster) : (s.modCluster k f).ordSlots = s.ordSlots := rfl
@[simp] theorem State.modCluster_erBase (s : State) (k : Nat) (f : Cluster → Cluster) : (s.modCluster k f).erBase = s.erBase := rfl
@[simp] theorem State.modCluster_erEn (s : State) (k : Nat) (f : Cluster → Cluster) : (s.modCluster k f).erEn = s.erEn := rfl
@[simp] theorem State.modCluster_erSize (s : State) (k : Nat) (f : Cluster → Cluster) : (s.modCluster k f).erSize = s.erSize := rfl
@[simp] theorem State.modCluster_erHead (s : State) (k : Nat) (f : Cluster → Cluster) : (s.modCluster k f).erHead = s.erHead := rfl
@[simp] theorem State.modCluster_erTail (s : State) (k : Nat) (f : Cluster → Cluster) : (s.modCluster k f).erTail = s.erTail := rfl
@[simp] theorem State.modCluster_erLost (s : State) (k : Nat) (f : Cluster → Cluster) : (s.modCluster k f).erLost = s.erLost := rfl
@[simp] theorem State.modCluster_erSeq (s : State) (k : Nat) (f : Cluster → Cluster) : (s.modCluster k f).erSeq = s.erSeq := rfl
@[simp] theorem State.modCluster_device (s : State) (k : Nat) (f : Cluster → Cluster) : (s.modCluster k f).device = s.device := rfl
@[simp] theorem State.modCluster_house (s : State) (k : Nat) (f : Cluster → Cluster) : (s.modCluster k f).house = s.house := rfl

@[simp] theorem State.modPart_agenda (s : State) (k : Nat) (f : Part → Part) : (s.modPart k f).agenda = s.agenda := rfl
@[simp] theorem State.modPart_cur (s : State) (k : Nat) (f : Part → Part) : (s.modPart k f).cur = s.cur := rfl
@[simp] theorem State.modPart_free (s : State) (k : Nat) (f : Part → Part) : (s.modPart k f).free = s.free := rfl
@[simp] theorem State.modPart_nextId (s : State) (k : Nat) (f : Part → Part) : (s.modPart k f).nextId = s.nextId := rfl
@[simp] theorem State.modPart_groups (s : State) (k : Nat) (f : Part → Part) : (s.modPart k f).groups = s.groups := rfl
@[simp] theorem State.modPart_teams (s : State) (k : Nat) (f : Part → Part) : (s.modPart k f).teams = s.teams := rfl
@[simp] theorem State.modPart_oldGroups (s : State) (k : Nat) (f : Part → Part) : (s.modPart k f).oldGroups = s.oldGroups := rfl
@[simp] theorem State.modPart_oldTeams (s : State) (k : Nat) (f : Part → Part) : (s.modPart k f).oldTeams = s.oldTeams := rfl
@[simp] theorem State.modPart_ctxs (s : State) (k : Nat) (f : Part → Part) : (s.modPart k f).ctxs = s.ctxs := rfl
@[simp] theorem State.modPart_clusters (s : State) (k : Nat) (f : Part → Part) : (s.modPart k f).clusters = s.clusters := rfl
@[simp] theorem State.modPart_launches (s : State) (k : Nat) (f : Part → Part) : (s.modPart k f).launches = s.launches := rfl
@[simp] theorem State.modPart_ensembles (s : State) (k : Nat) (f : Part → Part) : (s.modPart k f).ensembles = s.ensembles := rfl
@[simp] theorem State.modPart_pairs (s : State) (k : Nat) (f : Part → Part) : (s.modPart k f).pairs = s.pairs := rfl
@[simp] theorem State.modPart_mem (s : State) (k : Nat) (f : Part → Part) : (s.modPart k f).mem = s.mem := rfl
@[simp] theorem State.modPart_poisonLines (s : State) (k : Nat) (f : Part → Part) : (s.modPart k f).poisonLines = s.poisonLines := rfl
@[simp] theorem State.modPart_cached (s : State) (k : Nat) (f : Part → Part) : (s.modPart k f).cached = s.cached := rfl
@[simp] theorem State.modPart_flight (s : State) (k : Nat) (f : Part → Part) : (s.modPart k f).flight = s.flight := rfl
@[simp] theorem State.modPart_rputs (s : State) (k : Nat) (f : Part → Part) : (s.modPart k f).rputs = s.rputs := rfl
@[simp] theorem State.modPart_access (s : State) (k : Nat) (f : Part → Part) : (s.modPart k f).access = s.access := rfl
@[simp] theorem State.modPart_published (s : State) (k : Nat) (f : Part → Part) : (s.modPart k f).published = s.published := rfl
@[simp] theorem State.modPart_late (s : State) (k : Nat) (f : Part → Part) : (s.modPart k f).late = s.late := rfl
@[simp] theorem State.modPart_hostClk (s : State) (k : Nat) (f : Part → Part) : (s.modPart k f).hostClk = s.hostClk := rfl
@[simp] theorem State.modPart_scClk (s : State) (k : Nat) (f : Part → Part) : (s.modPart k f).scClk = s.scClk := rfl
@[simp] theorem State.modPart_tlb2 (s : State) (k : Nat) (f : Part → Part) : (s.modPart k f).tlb2 = s.tlb2 := rfl
@[simp] theorem State.modPart_walks (s : State) (k : Nat) (f : Part → Part) : (s.modPart k f).walks = s.walks := rfl
@[simp] theorem State.modPart_faulted (s : State) (k : Nat) (f : Part → Part) : (s.modPart k f).faulted = s.faulted := rfl
@[simp] theorem State.modPart_queues (s : State) (k : Nat) (f : Part → Part) : (s.modPart k f).queues = s.queues := rfl
@[simp] theorem State.modPart_lastWin (s : State) (k : Nat) (f : Part → Part) : (s.modPart k f).lastWin = s.lastWin := rfl
@[simp] theorem State.modPart_shares (s : State) (k : Nat) (f : Part → Part) : (s.modPart k f).shares = s.shares := rfl
@[simp] theorem State.modPart_ports (s : State) (k : Nat) (f : Part → Part) : (s.modPart k f).ports = s.ports := rfl
@[simp] theorem State.modPart_streams (s : State) (k : Nat) (f : Part → Part) : (s.modPart k f).streams = s.streams := rfl
@[simp] theorem State.modPart_performed (s : State) (k : Nat) (f : Part → Part) : (s.modPart k f).performed = s.performed := rfl
@[simp] theorem State.modPart_unreachable (s : State) (k : Nat) (f : Part → Part) : (s.modPart k f).unreachable = s.unreachable := rfl
@[simp] theorem State.modPart_routes (s : State) (k : Nat) (f : Part → Part) : (s.modPart k f).routes = s.routes := rfl
@[simp] theorem State.modPart_answers (s : State) (k : Nat) (f : Part → Part) : (s.modPart k f).answers = s.answers := rfl
@[simp] theorem State.modPart_notes (s : State) (k : Nat) (f : Part → Part) : (s.modPart k f).notes = s.notes := rfl
@[simp] theorem State.modPart_windows (s : State) (k : Nat) (f : Part → Part) : (s.modPart k f).windows = s.windows := rfl
@[simp] theorem State.modPart_ordBuf (s : State) (k : Nat) (f : Part → Part) : (s.modPart k f).ordBuf = s.ordBuf := rfl
@[simp] theorem State.modPart_ordSlots (s : State) (k : Nat) (f : Part → Part) : (s.modPart k f).ordSlots = s.ordSlots := rfl
@[simp] theorem State.modPart_erBase (s : State) (k : Nat) (f : Part → Part) : (s.modPart k f).erBase = s.erBase := rfl
@[simp] theorem State.modPart_erEn (s : State) (k : Nat) (f : Part → Part) : (s.modPart k f).erEn = s.erEn := rfl
@[simp] theorem State.modPart_erSize (s : State) (k : Nat) (f : Part → Part) : (s.modPart k f).erSize = s.erSize := rfl
@[simp] theorem State.modPart_erHead (s : State) (k : Nat) (f : Part → Part) : (s.modPart k f).erHead = s.erHead := rfl
@[simp] theorem State.modPart_erTail (s : State) (k : Nat) (f : Part → Part) : (s.modPart k f).erTail = s.erTail := rfl
@[simp] theorem State.modPart_erLost (s : State) (k : Nat) (f : Part → Part) : (s.modPart k f).erLost = s.erLost := rfl
@[simp] theorem State.modPart_erSeq (s : State) (k : Nat) (f : Part → Part) : (s.modPart k f).erSeq = s.erSeq := rfl
@[simp] theorem State.modPart_device (s : State) (k : Nat) (f : Part → Part) : (s.modPart k f).device = s.device := rfl
@[simp] theorem State.modPart_house (s : State) (k : Nat) (f : Part → Part) : (s.modPart k f).house = s.house := rfl

@[simp] theorem State.modQueue_agenda (s : State) (k : Nat) (f : Queue → Queue) : (s.modQueue k f).agenda = s.agenda := rfl
@[simp] theorem State.modQueue_cur (s : State) (k : Nat) (f : Queue → Queue) : (s.modQueue k f).cur = s.cur := rfl
@[simp] theorem State.modQueue_free (s : State) (k : Nat) (f : Queue → Queue) : (s.modQueue k f).free = s.free := rfl
@[simp] theorem State.modQueue_nextId (s : State) (k : Nat) (f : Queue → Queue) : (s.modQueue k f).nextId = s.nextId := rfl
@[simp] theorem State.modQueue_groups (s : State) (k : Nat) (f : Queue → Queue) : (s.modQueue k f).groups = s.groups := rfl
@[simp] theorem State.modQueue_teams (s : State) (k : Nat) (f : Queue → Queue) : (s.modQueue k f).teams = s.teams := rfl
@[simp] theorem State.modQueue_oldGroups (s : State) (k : Nat) (f : Queue → Queue) : (s.modQueue k f).oldGroups = s.oldGroups := rfl
@[simp] theorem State.modQueue_oldTeams (s : State) (k : Nat) (f : Queue → Queue) : (s.modQueue k f).oldTeams = s.oldTeams := rfl
@[simp] theorem State.modQueue_ctxs (s : State) (k : Nat) (f : Queue → Queue) : (s.modQueue k f).ctxs = s.ctxs := rfl
@[simp] theorem State.modQueue_clusters (s : State) (k : Nat) (f : Queue → Queue) : (s.modQueue k f).clusters = s.clusters := rfl
@[simp] theorem State.modQueue_launches (s : State) (k : Nat) (f : Queue → Queue) : (s.modQueue k f).launches = s.launches := rfl
@[simp] theorem State.modQueue_ensembles (s : State) (k : Nat) (f : Queue → Queue) : (s.modQueue k f).ensembles = s.ensembles := rfl
@[simp] theorem State.modQueue_pairs (s : State) (k : Nat) (f : Queue → Queue) : (s.modQueue k f).pairs = s.pairs := rfl
@[simp] theorem State.modQueue_mem (s : State) (k : Nat) (f : Queue → Queue) : (s.modQueue k f).mem = s.mem := rfl
@[simp] theorem State.modQueue_poisonLines (s : State) (k : Nat) (f : Queue → Queue) : (s.modQueue k f).poisonLines = s.poisonLines := rfl
@[simp] theorem State.modQueue_cached (s : State) (k : Nat) (f : Queue → Queue) : (s.modQueue k f).cached = s.cached := rfl
@[simp] theorem State.modQueue_flight (s : State) (k : Nat) (f : Queue → Queue) : (s.modQueue k f).flight = s.flight := rfl
@[simp] theorem State.modQueue_rputs (s : State) (k : Nat) (f : Queue → Queue) : (s.modQueue k f).rputs = s.rputs := rfl
@[simp] theorem State.modQueue_access (s : State) (k : Nat) (f : Queue → Queue) : (s.modQueue k f).access = s.access := rfl
@[simp] theorem State.modQueue_published (s : State) (k : Nat) (f : Queue → Queue) : (s.modQueue k f).published = s.published := rfl
@[simp] theorem State.modQueue_late (s : State) (k : Nat) (f : Queue → Queue) : (s.modQueue k f).late = s.late := rfl
@[simp] theorem State.modQueue_hostClk (s : State) (k : Nat) (f : Queue → Queue) : (s.modQueue k f).hostClk = s.hostClk := rfl
@[simp] theorem State.modQueue_scClk (s : State) (k : Nat) (f : Queue → Queue) : (s.modQueue k f).scClk = s.scClk := rfl
@[simp] theorem State.modQueue_tlb2 (s : State) (k : Nat) (f : Queue → Queue) : (s.modQueue k f).tlb2 = s.tlb2 := rfl
@[simp] theorem State.modQueue_walks (s : State) (k : Nat) (f : Queue → Queue) : (s.modQueue k f).walks = s.walks := rfl
@[simp] theorem State.modQueue_faulted (s : State) (k : Nat) (f : Queue → Queue) : (s.modQueue k f).faulted = s.faulted := rfl
@[simp] theorem State.modQueue_lastWin (s : State) (k : Nat) (f : Queue → Queue) : (s.modQueue k f).lastWin = s.lastWin := rfl
@[simp] theorem State.modQueue_parts (s : State) (k : Nat) (f : Queue → Queue) : (s.modQueue k f).parts = s.parts := rfl
@[simp] theorem State.modQueue_shares (s : State) (k : Nat) (f : Queue → Queue) : (s.modQueue k f).shares = s.shares := rfl
@[simp] theorem State.modQueue_ports (s : State) (k : Nat) (f : Queue → Queue) : (s.modQueue k f).ports = s.ports := rfl
@[simp] theorem State.modQueue_streams (s : State) (k : Nat) (f : Queue → Queue) : (s.modQueue k f).streams = s.streams := rfl
@[simp] theorem State.modQueue_performed (s : State) (k : Nat) (f : Queue → Queue) : (s.modQueue k f).performed = s.performed := rfl
@[simp] theorem State.modQueue_unreachable (s : State) (k : Nat) (f : Queue → Queue) : (s.modQueue k f).unreachable = s.unreachable := rfl
@[simp] theorem State.modQueue_routes (s : State) (k : Nat) (f : Queue → Queue) : (s.modQueue k f).routes = s.routes := rfl
@[simp] theorem State.modQueue_answers (s : State) (k : Nat) (f : Queue → Queue) : (s.modQueue k f).answers = s.answers := rfl
@[simp] theorem State.modQueue_notes (s : State) (k : Nat) (f : Queue → Queue) : (s.modQueue k f).notes = s.notes := rfl
@[simp] theorem State.modQueue_windows (s : State) (k : Nat) (f : Queue → Queue) : (s.modQueue k f).windows = s.windows := rfl
@[simp] theorem State.modQueue_ordBuf (s : State) (k : Nat) (f : Queue → Queue) : (s.modQueue k f).ordBuf = s.ordBuf := rfl
@[simp] theorem State.modQueue_ordSlots (s : State) (k : Nat) (f : Queue → Queue) : (s.modQueue k f).ordSlots = s.ordSlots := rfl
@[simp] theorem State.modQueue_erBase (s : State) (k : Nat) (f : Queue → Queue) : (s.modQueue k f).erBase = s.erBase := rfl
@[simp] theorem State.modQueue_erEn (s : State) (k : Nat) (f : Queue → Queue) : (s.modQueue k f).erEn = s.erEn := rfl
@[simp] theorem State.modQueue_erSize (s : State) (k : Nat) (f : Queue → Queue) : (s.modQueue k f).erSize = s.erSize := rfl
@[simp] theorem State.modQueue_erHead (s : State) (k : Nat) (f : Queue → Queue) : (s.modQueue k f).erHead = s.erHead := rfl
@[simp] theorem State.modQueue_erTail (s : State) (k : Nat) (f : Queue → Queue) : (s.modQueue k f).erTail = s.erTail := rfl
@[simp] theorem State.modQueue_erLost (s : State) (k : Nat) (f : Queue → Queue) : (s.modQueue k f).erLost = s.erLost := rfl
@[simp] theorem State.modQueue_erSeq (s : State) (k : Nat) (f : Queue → Queue) : (s.modQueue k f).erSeq = s.erSeq := rfl
@[simp] theorem State.modQueue_device (s : State) (k : Nat) (f : Queue → Queue) : (s.modQueue k f).device = s.device := rfl
@[simp] theorem State.modQueue_house (s : State) (k : Nat) (f : Queue → Queue) : (s.modQueue k f).house = s.house := rfl

@[simp] theorem State.modPort_agenda (s : State) (k : Nat) (f : Port → Port) : (s.modPort k f).agenda = s.agenda := rfl
@[simp] theorem State.modPort_cur (s : State) (k : Nat) (f : Port → Port) : (s.modPort k f).cur = s.cur := rfl
@[simp] theorem State.modPort_free (s : State) (k : Nat) (f : Port → Port) : (s.modPort k f).free = s.free := rfl
@[simp] theorem State.modPort_nextId (s : State) (k : Nat) (f : Port → Port) : (s.modPort k f).nextId = s.nextId := rfl
@[simp] theorem State.modPort_groups (s : State) (k : Nat) (f : Port → Port) : (s.modPort k f).groups = s.groups := rfl
@[simp] theorem State.modPort_teams (s : State) (k : Nat) (f : Port → Port) : (s.modPort k f).teams = s.teams := rfl
@[simp] theorem State.modPort_oldGroups (s : State) (k : Nat) (f : Port → Port) : (s.modPort k f).oldGroups = s.oldGroups := rfl
@[simp] theorem State.modPort_oldTeams (s : State) (k : Nat) (f : Port → Port) : (s.modPort k f).oldTeams = s.oldTeams := rfl
@[simp] theorem State.modPort_ctxs (s : State) (k : Nat) (f : Port → Port) : (s.modPort k f).ctxs = s.ctxs := rfl
@[simp] theorem State.modPort_clusters (s : State) (k : Nat) (f : Port → Port) : (s.modPort k f).clusters = s.clusters := rfl
@[simp] theorem State.modPort_launches (s : State) (k : Nat) (f : Port → Port) : (s.modPort k f).launches = s.launches := rfl
@[simp] theorem State.modPort_ensembles (s : State) (k : Nat) (f : Port → Port) : (s.modPort k f).ensembles = s.ensembles := rfl
@[simp] theorem State.modPort_pairs (s : State) (k : Nat) (f : Port → Port) : (s.modPort k f).pairs = s.pairs := rfl
@[simp] theorem State.modPort_mem (s : State) (k : Nat) (f : Port → Port) : (s.modPort k f).mem = s.mem := rfl
@[simp] theorem State.modPort_poisonLines (s : State) (k : Nat) (f : Port → Port) : (s.modPort k f).poisonLines = s.poisonLines := rfl
@[simp] theorem State.modPort_cached (s : State) (k : Nat) (f : Port → Port) : (s.modPort k f).cached = s.cached := rfl
@[simp] theorem State.modPort_flight (s : State) (k : Nat) (f : Port → Port) : (s.modPort k f).flight = s.flight := rfl
@[simp] theorem State.modPort_rputs (s : State) (k : Nat) (f : Port → Port) : (s.modPort k f).rputs = s.rputs := rfl
@[simp] theorem State.modPort_access (s : State) (k : Nat) (f : Port → Port) : (s.modPort k f).access = s.access := rfl
@[simp] theorem State.modPort_published (s : State) (k : Nat) (f : Port → Port) : (s.modPort k f).published = s.published := rfl
@[simp] theorem State.modPort_late (s : State) (k : Nat) (f : Port → Port) : (s.modPort k f).late = s.late := rfl
@[simp] theorem State.modPort_hostClk (s : State) (k : Nat) (f : Port → Port) : (s.modPort k f).hostClk = s.hostClk := rfl
@[simp] theorem State.modPort_scClk (s : State) (k : Nat) (f : Port → Port) : (s.modPort k f).scClk = s.scClk := rfl
@[simp] theorem State.modPort_tlb2 (s : State) (k : Nat) (f : Port → Port) : (s.modPort k f).tlb2 = s.tlb2 := rfl
@[simp] theorem State.modPort_walks (s : State) (k : Nat) (f : Port → Port) : (s.modPort k f).walks = s.walks := rfl
@[simp] theorem State.modPort_faulted (s : State) (k : Nat) (f : Port → Port) : (s.modPort k f).faulted = s.faulted := rfl
@[simp] theorem State.modPort_queues (s : State) (k : Nat) (f : Port → Port) : (s.modPort k f).queues = s.queues := rfl
@[simp] theorem State.modPort_lastWin (s : State) (k : Nat) (f : Port → Port) : (s.modPort k f).lastWin = s.lastWin := rfl
@[simp] theorem State.modPort_parts (s : State) (k : Nat) (f : Port → Port) : (s.modPort k f).parts = s.parts := rfl
@[simp] theorem State.modPort_shares (s : State) (k : Nat) (f : Port → Port) : (s.modPort k f).shares = s.shares := rfl
@[simp] theorem State.modPort_streams (s : State) (k : Nat) (f : Port → Port) : (s.modPort k f).streams = s.streams := rfl
@[simp] theorem State.modPort_performed (s : State) (k : Nat) (f : Port → Port) : (s.modPort k f).performed = s.performed := rfl
@[simp] theorem State.modPort_unreachable (s : State) (k : Nat) (f : Port → Port) : (s.modPort k f).unreachable = s.unreachable := rfl
@[simp] theorem State.modPort_routes (s : State) (k : Nat) (f : Port → Port) : (s.modPort k f).routes = s.routes := rfl
@[simp] theorem State.modPort_answers (s : State) (k : Nat) (f : Port → Port) : (s.modPort k f).answers = s.answers := rfl
@[simp] theorem State.modPort_notes (s : State) (k : Nat) (f : Port → Port) : (s.modPort k f).notes = s.notes := rfl
@[simp] theorem State.modPort_windows (s : State) (k : Nat) (f : Port → Port) : (s.modPort k f).windows = s.windows := rfl
@[simp] theorem State.modPort_ordBuf (s : State) (k : Nat) (f : Port → Port) : (s.modPort k f).ordBuf = s.ordBuf := rfl
@[simp] theorem State.modPort_ordSlots (s : State) (k : Nat) (f : Port → Port) : (s.modPort k f).ordSlots = s.ordSlots := rfl
@[simp] theorem State.modPort_erBase (s : State) (k : Nat) (f : Port → Port) : (s.modPort k f).erBase = s.erBase := rfl
@[simp] theorem State.modPort_erEn (s : State) (k : Nat) (f : Port → Port) : (s.modPort k f).erEn = s.erEn := rfl
@[simp] theorem State.modPort_erSize (s : State) (k : Nat) (f : Port → Port) : (s.modPort k f).erSize = s.erSize := rfl
@[simp] theorem State.modPort_erHead (s : State) (k : Nat) (f : Port → Port) : (s.modPort k f).erHead = s.erHead := rfl
@[simp] theorem State.modPort_erTail (s : State) (k : Nat) (f : Port → Port) : (s.modPort k f).erTail = s.erTail := rfl
@[simp] theorem State.modPort_erLost (s : State) (k : Nat) (f : Port → Port) : (s.modPort k f).erLost = s.erLost := rfl
@[simp] theorem State.modPort_erSeq (s : State) (k : Nat) (f : Port → Port) : (s.modPort k f).erSeq = s.erSeq := rfl
@[simp] theorem State.modPort_device (s : State) (k : Nat) (f : Port → Port) : (s.modPort k f).device = s.device := rfl
@[simp] theorem State.modPort_house (s : State) (k : Nat) (f : Port → Port) : (s.modPort k f).house = s.house := rfl

@[simp] theorem State.modShare_agenda (s : State) (k : Nat) (f : Share → Share) : (s.modShare k f).agenda = s.agenda := rfl
@[simp] theorem State.modShare_cur (s : State) (k : Nat) (f : Share → Share) : (s.modShare k f).cur = s.cur := rfl
@[simp] theorem State.modShare_free (s : State) (k : Nat) (f : Share → Share) : (s.modShare k f).free = s.free := rfl
@[simp] theorem State.modShare_nextId (s : State) (k : Nat) (f : Share → Share) : (s.modShare k f).nextId = s.nextId := rfl
@[simp] theorem State.modShare_groups (s : State) (k : Nat) (f : Share → Share) : (s.modShare k f).groups = s.groups := rfl
@[simp] theorem State.modShare_teams (s : State) (k : Nat) (f : Share → Share) : (s.modShare k f).teams = s.teams := rfl
@[simp] theorem State.modShare_oldGroups (s : State) (k : Nat) (f : Share → Share) : (s.modShare k f).oldGroups = s.oldGroups := rfl
@[simp] theorem State.modShare_oldTeams (s : State) (k : Nat) (f : Share → Share) : (s.modShare k f).oldTeams = s.oldTeams := rfl
@[simp] theorem State.modShare_ctxs (s : State) (k : Nat) (f : Share → Share) : (s.modShare k f).ctxs = s.ctxs := rfl
@[simp] theorem State.modShare_clusters (s : State) (k : Nat) (f : Share → Share) : (s.modShare k f).clusters = s.clusters := rfl
@[simp] theorem State.modShare_launches (s : State) (k : Nat) (f : Share → Share) : (s.modShare k f).launches = s.launches := rfl
@[simp] theorem State.modShare_ensembles (s : State) (k : Nat) (f : Share → Share) : (s.modShare k f).ensembles = s.ensembles := rfl
@[simp] theorem State.modShare_pairs (s : State) (k : Nat) (f : Share → Share) : (s.modShare k f).pairs = s.pairs := rfl
@[simp] theorem State.modShare_mem (s : State) (k : Nat) (f : Share → Share) : (s.modShare k f).mem = s.mem := rfl
@[simp] theorem State.modShare_poisonLines (s : State) (k : Nat) (f : Share → Share) : (s.modShare k f).poisonLines = s.poisonLines := rfl
@[simp] theorem State.modShare_cached (s : State) (k : Nat) (f : Share → Share) : (s.modShare k f).cached = s.cached := rfl
@[simp] theorem State.modShare_flight (s : State) (k : Nat) (f : Share → Share) : (s.modShare k f).flight = s.flight := rfl
@[simp] theorem State.modShare_rputs (s : State) (k : Nat) (f : Share → Share) : (s.modShare k f).rputs = s.rputs := rfl
@[simp] theorem State.modShare_access (s : State) (k : Nat) (f : Share → Share) : (s.modShare k f).access = s.access := rfl
@[simp] theorem State.modShare_published (s : State) (k : Nat) (f : Share → Share) : (s.modShare k f).published = s.published := rfl
@[simp] theorem State.modShare_late (s : State) (k : Nat) (f : Share → Share) : (s.modShare k f).late = s.late := rfl
@[simp] theorem State.modShare_hostClk (s : State) (k : Nat) (f : Share → Share) : (s.modShare k f).hostClk = s.hostClk := rfl
@[simp] theorem State.modShare_scClk (s : State) (k : Nat) (f : Share → Share) : (s.modShare k f).scClk = s.scClk := rfl
@[simp] theorem State.modShare_tlb2 (s : State) (k : Nat) (f : Share → Share) : (s.modShare k f).tlb2 = s.tlb2 := rfl
@[simp] theorem State.modShare_walks (s : State) (k : Nat) (f : Share → Share) : (s.modShare k f).walks = s.walks := rfl
@[simp] theorem State.modShare_faulted (s : State) (k : Nat) (f : Share → Share) : (s.modShare k f).faulted = s.faulted := rfl
@[simp] theorem State.modShare_queues (s : State) (k : Nat) (f : Share → Share) : (s.modShare k f).queues = s.queues := rfl
@[simp] theorem State.modShare_lastWin (s : State) (k : Nat) (f : Share → Share) : (s.modShare k f).lastWin = s.lastWin := rfl
@[simp] theorem State.modShare_parts (s : State) (k : Nat) (f : Share → Share) : (s.modShare k f).parts = s.parts := rfl
@[simp] theorem State.modShare_ports (s : State) (k : Nat) (f : Share → Share) : (s.modShare k f).ports = s.ports := rfl
@[simp] theorem State.modShare_streams (s : State) (k : Nat) (f : Share → Share) : (s.modShare k f).streams = s.streams := rfl
@[simp] theorem State.modShare_performed (s : State) (k : Nat) (f : Share → Share) : (s.modShare k f).performed = s.performed := rfl
@[simp] theorem State.modShare_unreachable (s : State) (k : Nat) (f : Share → Share) : (s.modShare k f).unreachable = s.unreachable := rfl
@[simp] theorem State.modShare_routes (s : State) (k : Nat) (f : Share → Share) : (s.modShare k f).routes = s.routes := rfl
@[simp] theorem State.modShare_answers (s : State) (k : Nat) (f : Share → Share) : (s.modShare k f).answers = s.answers := rfl
@[simp] theorem State.modShare_notes (s : State) (k : Nat) (f : Share → Share) : (s.modShare k f).notes = s.notes := rfl
@[simp] theorem State.modShare_windows (s : State) (k : Nat) (f : Share → Share) : (s.modShare k f).windows = s.windows := rfl
@[simp] theorem State.modShare_ordBuf (s : State) (k : Nat) (f : Share → Share) : (s.modShare k f).ordBuf = s.ordBuf := rfl
@[simp] theorem State.modShare_ordSlots (s : State) (k : Nat) (f : Share → Share) : (s.modShare k f).ordSlots = s.ordSlots := rfl
@[simp] theorem State.modShare_erBase (s : State) (k : Nat) (f : Share → Share) : (s.modShare k f).erBase = s.erBase := rfl
@[simp] theorem State.modShare_erEn (s : State) (k : Nat) (f : Share → Share) : (s.modShare k f).erEn = s.erEn := rfl
@[simp] theorem State.modShare_erSize (s : State) (k : Nat) (f : Share → Share) : (s.modShare k f).erSize = s.erSize := rfl
@[simp] theorem State.modShare_erHead (s : State) (k : Nat) (f : Share → Share) : (s.modShare k f).erHead = s.erHead := rfl
@[simp] theorem State.modShare_erTail (s : State) (k : Nat) (f : Share → Share) : (s.modShare k f).erTail = s.erTail := rfl
@[simp] theorem State.modShare_erLost (s : State) (k : Nat) (f : Share → Share) : (s.modShare k f).erLost = s.erLost := rfl
@[simp] theorem State.modShare_erSeq (s : State) (k : Nat) (f : Share → Share) : (s.modShare k f).erSeq = s.erSeq := rfl
@[simp] theorem State.modShare_device (s : State) (k : Nat) (f : Share → Share) : (s.modShare k f).device = s.device := rfl
@[simp] theorem State.modShare_house (s : State) (k : Nat) (f : Share → Share) : (s.modShare k f).house = s.house := rfl

@[simp] theorem State.modPair_agenda (s : State) (k : Nat) (f : PairOf → PairOf) : (s.modPair k f).agenda = s.agenda := rfl
@[simp] theorem State.modPair_cur (s : State) (k : Nat) (f : PairOf → PairOf) : (s.modPair k f).cur = s.cur := rfl
@[simp] theorem State.modPair_free (s : State) (k : Nat) (f : PairOf → PairOf) : (s.modPair k f).free = s.free := rfl
@[simp] theorem State.modPair_nextId (s : State) (k : Nat) (f : PairOf → PairOf) : (s.modPair k f).nextId = s.nextId := rfl
@[simp] theorem State.modPair_groups (s : State) (k : Nat) (f : PairOf → PairOf) : (s.modPair k f).groups = s.groups := rfl
@[simp] theorem State.modPair_teams (s : State) (k : Nat) (f : PairOf → PairOf) : (s.modPair k f).teams = s.teams := rfl
@[simp] theorem State.modPair_oldGroups (s : State) (k : Nat) (f : PairOf → PairOf) : (s.modPair k f).oldGroups = s.oldGroups := rfl
@[simp] theorem State.modPair_oldTeams (s : State) (k : Nat) (f : PairOf → PairOf) : (s.modPair k f).oldTeams = s.oldTeams := rfl
@[simp] theorem State.modPair_ctxs (s : State) (k : Nat) (f : PairOf → PairOf) : (s.modPair k f).ctxs = s.ctxs := rfl
@[simp] theorem State.modPair_clusters (s : State) (k : Nat) (f : PairOf → PairOf) : (s.modPair k f).clusters = s.clusters := rfl
@[simp] theorem State.modPair_launches (s : State) (k : Nat) (f : PairOf → PairOf) : (s.modPair k f).launches = s.launches := rfl
@[simp] theorem State.modPair_ensembles (s : State) (k : Nat) (f : PairOf → PairOf) : (s.modPair k f).ensembles = s.ensembles := rfl
@[simp] theorem State.modPair_mem (s : State) (k : Nat) (f : PairOf → PairOf) : (s.modPair k f).mem = s.mem := rfl
@[simp] theorem State.modPair_poisonLines (s : State) (k : Nat) (f : PairOf → PairOf) : (s.modPair k f).poisonLines = s.poisonLines := rfl
@[simp] theorem State.modPair_cached (s : State) (k : Nat) (f : PairOf → PairOf) : (s.modPair k f).cached = s.cached := rfl
@[simp] theorem State.modPair_flight (s : State) (k : Nat) (f : PairOf → PairOf) : (s.modPair k f).flight = s.flight := rfl
@[simp] theorem State.modPair_rputs (s : State) (k : Nat) (f : PairOf → PairOf) : (s.modPair k f).rputs = s.rputs := rfl
@[simp] theorem State.modPair_access (s : State) (k : Nat) (f : PairOf → PairOf) : (s.modPair k f).access = s.access := rfl
@[simp] theorem State.modPair_published (s : State) (k : Nat) (f : PairOf → PairOf) : (s.modPair k f).published = s.published := rfl
@[simp] theorem State.modPair_late (s : State) (k : Nat) (f : PairOf → PairOf) : (s.modPair k f).late = s.late := rfl
@[simp] theorem State.modPair_hostClk (s : State) (k : Nat) (f : PairOf → PairOf) : (s.modPair k f).hostClk = s.hostClk := rfl
@[simp] theorem State.modPair_scClk (s : State) (k : Nat) (f : PairOf → PairOf) : (s.modPair k f).scClk = s.scClk := rfl
@[simp] theorem State.modPair_tlb2 (s : State) (k : Nat) (f : PairOf → PairOf) : (s.modPair k f).tlb2 = s.tlb2 := rfl
@[simp] theorem State.modPair_walks (s : State) (k : Nat) (f : PairOf → PairOf) : (s.modPair k f).walks = s.walks := rfl
@[simp] theorem State.modPair_faulted (s : State) (k : Nat) (f : PairOf → PairOf) : (s.modPair k f).faulted = s.faulted := rfl
@[simp] theorem State.modPair_queues (s : State) (k : Nat) (f : PairOf → PairOf) : (s.modPair k f).queues = s.queues := rfl
@[simp] theorem State.modPair_lastWin (s : State) (k : Nat) (f : PairOf → PairOf) : (s.modPair k f).lastWin = s.lastWin := rfl
@[simp] theorem State.modPair_parts (s : State) (k : Nat) (f : PairOf → PairOf) : (s.modPair k f).parts = s.parts := rfl
@[simp] theorem State.modPair_shares (s : State) (k : Nat) (f : PairOf → PairOf) : (s.modPair k f).shares = s.shares := rfl
@[simp] theorem State.modPair_ports (s : State) (k : Nat) (f : PairOf → PairOf) : (s.modPair k f).ports = s.ports := rfl
@[simp] theorem State.modPair_streams (s : State) (k : Nat) (f : PairOf → PairOf) : (s.modPair k f).streams = s.streams := rfl
@[simp] theorem State.modPair_performed (s : State) (k : Nat) (f : PairOf → PairOf) : (s.modPair k f).performed = s.performed := rfl
@[simp] theorem State.modPair_unreachable (s : State) (k : Nat) (f : PairOf → PairOf) : (s.modPair k f).unreachable = s.unreachable := rfl
@[simp] theorem State.modPair_routes (s : State) (k : Nat) (f : PairOf → PairOf) : (s.modPair k f).routes = s.routes := rfl
@[simp] theorem State.modPair_answers (s : State) (k : Nat) (f : PairOf → PairOf) : (s.modPair k f).answers = s.answers := rfl
@[simp] theorem State.modPair_notes (s : State) (k : Nat) (f : PairOf → PairOf) : (s.modPair k f).notes = s.notes := rfl
@[simp] theorem State.modPair_windows (s : State) (k : Nat) (f : PairOf → PairOf) : (s.modPair k f).windows = s.windows := rfl
@[simp] theorem State.modPair_ordBuf (s : State) (k : Nat) (f : PairOf → PairOf) : (s.modPair k f).ordBuf = s.ordBuf := rfl
@[simp] theorem State.modPair_ordSlots (s : State) (k : Nat) (f : PairOf → PairOf) : (s.modPair k f).ordSlots = s.ordSlots := rfl
@[simp] theorem State.modPair_erBase (s : State) (k : Nat) (f : PairOf → PairOf) : (s.modPair k f).erBase = s.erBase := rfl
@[simp] theorem State.modPair_erEn (s : State) (k : Nat) (f : PairOf → PairOf) : (s.modPair k f).erEn = s.erEn := rfl
@[simp] theorem State.modPair_erSize (s : State) (k : Nat) (f : PairOf → PairOf) : (s.modPair k f).erSize = s.erSize := rfl
@[simp] theorem State.modPair_erHead (s : State) (k : Nat) (f : PairOf → PairOf) : (s.modPair k f).erHead = s.erHead := rfl
@[simp] theorem State.modPair_erTail (s : State) (k : Nat) (f : PairOf → PairOf) : (s.modPair k f).erTail = s.erTail := rfl
@[simp] theorem State.modPair_erLost (s : State) (k : Nat) (f : PairOf → PairOf) : (s.modPair k f).erLost = s.erLost := rfl
@[simp] theorem State.modPair_erSeq (s : State) (k : Nat) (f : PairOf → PairOf) : (s.modPair k f).erSeq = s.erSeq := rfl
@[simp] theorem State.modPair_device (s : State) (k : Nat) (f : PairOf → PairOf) : (s.modPair k f).device = s.device := rfl
@[simp] theorem State.modPair_house (s : State) (k : Nat) (f : PairOf → PairOf) : (s.modPair k f).house = s.house := rfl

@[simp] theorem State.modHouse_agenda (s : State) (f : House → House) : (s.modHouse f).agenda = s.agenda := rfl
@[simp] theorem State.modHouse_cur (s : State) (f : House → House) : (s.modHouse f).cur = s.cur := rfl
@[simp] theorem State.modHouse_free (s : State) (f : House → House) : (s.modHouse f).free = s.free := rfl
@[simp] theorem State.modHouse_nextId (s : State) (f : House → House) : (s.modHouse f).nextId = s.nextId := rfl
@[simp] theorem State.modHouse_groups (s : State) (f : House → House) : (s.modHouse f).groups = s.groups := rfl
@[simp] theorem State.modHouse_teams (s : State) (f : House → House) : (s.modHouse f).teams = s.teams := rfl
@[simp] theorem State.modHouse_oldGroups (s : State) (f : House → House) : (s.modHouse f).oldGroups = s.oldGroups := rfl
@[simp] theorem State.modHouse_oldTeams (s : State) (f : House → House) : (s.modHouse f).oldTeams = s.oldTeams := rfl
@[simp] theorem State.modHouse_ctxs (s : State) (f : House → House) : (s.modHouse f).ctxs = s.ctxs := rfl
@[simp] theorem State.modHouse_clusters (s : State) (f : House → House) : (s.modHouse f).clusters = s.clusters := rfl
@[simp] theorem State.modHouse_launches (s : State) (f : House → House) : (s.modHouse f).launches = s.launches := rfl
@[simp] theorem State.modHouse_ensembles (s : State) (f : House → House) : (s.modHouse f).ensembles = s.ensembles := rfl
@[simp] theorem State.modHouse_pairs (s : State) (f : House → House) : (s.modHouse f).pairs = s.pairs := rfl
@[simp] theorem State.modHouse_mem (s : State) (f : House → House) : (s.modHouse f).mem = s.mem := rfl
@[simp] theorem State.modHouse_poisonLines (s : State) (f : House → House) : (s.modHouse f).poisonLines = s.poisonLines := rfl
@[simp] theorem State.modHouse_cached (s : State) (f : House → House) : (s.modHouse f).cached = s.cached := rfl
@[simp] theorem State.modHouse_flight (s : State) (f : House → House) : (s.modHouse f).flight = s.flight := rfl
@[simp] theorem State.modHouse_rputs (s : State) (f : House → House) : (s.modHouse f).rputs = s.rputs := rfl
@[simp] theorem State.modHouse_access (s : State) (f : House → House) : (s.modHouse f).access = s.access := rfl
@[simp] theorem State.modHouse_published (s : State) (f : House → House) : (s.modHouse f).published = s.published := rfl
@[simp] theorem State.modHouse_late (s : State) (f : House → House) : (s.modHouse f).late = s.late := rfl
@[simp] theorem State.modHouse_hostClk (s : State) (f : House → House) : (s.modHouse f).hostClk = s.hostClk := rfl
@[simp] theorem State.modHouse_scClk (s : State) (f : House → House) : (s.modHouse f).scClk = s.scClk := rfl
@[simp] theorem State.modHouse_tlb2 (s : State) (f : House → House) : (s.modHouse f).tlb2 = s.tlb2 := rfl
@[simp] theorem State.modHouse_walks (s : State) (f : House → House) : (s.modHouse f).walks = s.walks := rfl
@[simp] theorem State.modHouse_faulted (s : State) (f : House → House) : (s.modHouse f).faulted = s.faulted := rfl
@[simp] theorem State.modHouse_queues (s : State) (f : House → House) : (s.modHouse f).queues = s.queues := rfl
@[simp] theorem State.modHouse_lastWin (s : State) (f : House → House) : (s.modHouse f).lastWin = s.lastWin := rfl
@[simp] theorem State.modHouse_parts (s : State) (f : House → House) : (s.modHouse f).parts = s.parts := rfl
@[simp] theorem State.modHouse_shares (s : State) (f : House → House) : (s.modHouse f).shares = s.shares := rfl
@[simp] theorem State.modHouse_ports (s : State) (f : House → House) : (s.modHouse f).ports = s.ports := rfl
@[simp] theorem State.modHouse_streams (s : State) (f : House → House) : (s.modHouse f).streams = s.streams := rfl
@[simp] theorem State.modHouse_performed (s : State) (f : House → House) : (s.modHouse f).performed = s.performed := rfl
@[simp] theorem State.modHouse_unreachable (s : State) (f : House → House) : (s.modHouse f).unreachable = s.unreachable := rfl
@[simp] theorem State.modHouse_routes (s : State) (f : House → House) : (s.modHouse f).routes = s.routes := rfl
@[simp] theorem State.modHouse_answers (s : State) (f : House → House) : (s.modHouse f).answers = s.answers := rfl
@[simp] theorem State.modHouse_notes (s : State) (f : House → House) : (s.modHouse f).notes = s.notes := rfl
@[simp] theorem State.modHouse_windows (s : State) (f : House → House) : (s.modHouse f).windows = s.windows := rfl
@[simp] theorem State.modHouse_ordBuf (s : State) (f : House → House) : (s.modHouse f).ordBuf = s.ordBuf := rfl
@[simp] theorem State.modHouse_ordSlots (s : State) (f : House → House) : (s.modHouse f).ordSlots = s.ordSlots := rfl
@[simp] theorem State.modHouse_erBase (s : State) (f : House → House) : (s.modHouse f).erBase = s.erBase := rfl
@[simp] theorem State.modHouse_erEn (s : State) (f : House → House) : (s.modHouse f).erEn = s.erEn := rfl
@[simp] theorem State.modHouse_erSize (s : State) (f : House → House) : (s.modHouse f).erSize = s.erSize := rfl
@[simp] theorem State.modHouse_erHead (s : State) (f : House → House) : (s.modHouse f).erHead = s.erHead := rfl
@[simp] theorem State.modHouse_erTail (s : State) (f : House → House) : (s.modHouse f).erTail = s.erTail := rfl
@[simp] theorem State.modHouse_erLost (s : State) (f : House → House) : (s.modHouse f).erLost = s.erLost := rfl
@[simp] theorem State.modHouse_erSeq (s : State) (f : House → House) : (s.modHouse f).erSeq = s.erSeq := rfl
@[simp] theorem State.modHouse_device (s : State) (f : House → House) : (s.modHouse f).device = s.device := rfl

/-! ### Updates of a group -/

@[simp] theorem Group.setReg_uid (x : Group) (n lane : Nat) (v : Word) : (x.setReg n lane v).uid = x.uid := rfl
@[simp] theorem Group.setReg_launch (x : Group) (n lane : Nat) (v : Word) : (x.setReg n lane v).launch = x.launch := rfl
@[simp] theorem Group.setReg_team (x : Group) (n lane : Nat) (v : Word) : (x.setReg n lane v).team = x.team := rfl
@[simp] theorem Group.setReg_index (x : Group) (n lane : Nat) (v : Word) : (x.setReg n lane v).index = x.index := rfl
@[simp] theorem Group.setReg_part (x : Group) (n lane : Nat) (v : Word) : (x.setReg n lane v).part = x.part := rfl
@[simp] theorem Group.setReg_cluster (x : Group) (n lane : Nat) (v : Word) : (x.setReg n lane v).cluster = x.cluster := rfl
@[simp] theorem Group.setReg_slice (x : Group) (n lane : Nat) (v : Word) : (x.setReg n lane v).slice = x.slice := rfl
@[simp] theorem Group.setReg_gslot (x : Group) (n lane : Nat) (v : Word) : (x.setReg n lane v).gslot = x.gslot := rfl
@[simp] theorem Group.setReg_half (x : Group) (n lane : Nat) (v : Word) : (x.setReg n lane v).half = x.half := rfl
@[simp] theorem Group.setReg_width (x : Group) (n lane : Nat) (v : Word) : (x.setReg n lane v).width = x.width := rfl
@[simp] theorem Group.setReg_extent (x : Group) (n lane : Nat) (v : Word) : (x.setReg n lane v).extent = x.extent := rfl
@[simp] theorem Group.setReg_nregs (x : Group) (n lane : Nat) (v : Word) : (x.setReg n lane v).nregs = x.nregs := rfl
@[simp] theorem Group.setReg_masks (x : Group) (n lane : Nat) (v : Word) : (x.setReg n lane v).masks = x.masks := rfl
@[simp] theorem Group.setReg_latches (x : Group) (n lane : Nat) (v : Word) : (x.setReg n lane v).latches = x.latches := rfl
@[simp] theorem Group.setReg_fpflags (x : Group) (n lane : Nat) (v : Word) : (x.setReg n lane v).fpflags = x.fpflags := rfl
@[simp] theorem Group.setReg_lbm (x : Group) (n lane : Nat) (v : Word) : (x.setReg n lane v).lbm = x.lbm := rfl
@[simp] theorem Group.setReg_deadMask (x : Group) (n lane : Nat) (v : Word) : (x.setReg n lane v).deadMask = x.deadMask := rfl
@[simp] theorem Group.setReg_deadRead (x : Group) (n lane : Nat) (v : Word) : (x.setReg n lane v).deadRead = x.deadRead := rfl
@[simp] theorem Group.setReg_arrivals (x : Group) (n lane : Nat) (v : Word) : (x.setReg n lane v).arrivals = x.arrivals := rfl
@[simp] theorem Group.setReg_cue (x : Group) (n lane : Nat) (v : Word) : (x.setReg n lane v).cue = x.cue := rfl
@[simp] theorem Group.setReg_slotA (x : Group) (n lane : Nat) (v : Word) : (x.setReg n lane v).slotA = x.slotA := rfl
@[simp] theorem Group.setReg_slotB (x : Group) (n lane : Nat) (v : Word) : (x.setReg n lane v).slotB = x.slotB := rfl
@[simp] theorem Group.setReg_stack (x : Group) (n lane : Nat) (v : Word) : (x.setReg n lane v).stack = x.stack := rfl
@[simp] theorem Group.setReg_nextTag (x : Group) (n lane : Nat) (v : Word) : (x.setReg n lane v).nextTag = x.nextTag := rfl
@[simp] theorem Group.setReg_started (x : Group) (n lane : Nat) (v : Word) : (x.setReg n lane v).started = x.started := rfl
@[simp] theorem Group.setReg_run (x : Group) (n lane : Nat) (v : Word) : (x.setReg n lane v).run = x.run := rfl
@[simp] theorem Group.setReg_onStage (x : Group) (n lane : Nat) (v : Word) : (x.setReg n lane v).onStage = x.onStage := rfl
@[simp] theorem Group.setReg_yielding (x : Group) (n lane : Nat) (v : Word) : (x.setReg n lane v).yielding = x.yielding := rfl
@[simp] theorem Group.setReg_parked (x : Group) (n lane : Nat) (v : Word) : (x.setReg n lane v).parked = x.parked := rfl
@[simp] theorem Group.setReg_readyAge (x : Group) (n lane : Nat) (v : Word) : (x.setReg n lane v).readyAge = x.readyAge := rfl
@[simp] theorem Group.setReg_parkedAt (x : Group) (n lane : Nat) (v : Word) : (x.setReg n lane v).parkedAt = x.parkedAt := rfl
@[simp] theorem Group.setReg_eligAt (x : Group) (n lane : Nat) (v : Word) : (x.setReg n lane v).eligAt = x.eligAt := rfl
@[simp] theorem Group.setReg_evHold (x : Group) (n lane : Nat) (v : Word) : (x.setReg n lane v).evHold = x.evHold := rfl
@[simp] theorem Group.setReg_dbgHold (x : Group) (n lane : Nat) (v : Word) : (x.setReg n lane v).dbgHold = x.dbgHold := rfl
@[simp] theorem Group.setReg_dbgPend (x : Group) (n lane : Nat) (v : Word) : (x.setReg n lane v).dbgPend = x.dbgPend := rfl
@[simp] theorem Group.setReg_trHold (x : Group) (n lane : Nat) (v : Word) : (x.setReg n lane v).trHold = x.trHold := rfl
@[simp] theorem Group.setReg_stop (x : Group) (n lane : Nat) (v : Word) : (x.setReg n lane v).stop = x.stop := rfl
@[simp] theorem Group.setReg_posted (x : Group) (n lane : Nat) (v : Word) : (x.setReg n lane v).posted = x.posted := rfl
@[simp] theorem Group.setReg_assist (x : Group) (n lane : Nat) (v : Word) : (x.setReg n lane v).assist = x.assist := rfl
@[simp] theorem Group.setReg_outerOf (x : Group) (n lane : Nat) (v : Word) : (x.setReg n lane v).outerOf = x.outerOf := rfl
@[simp] theorem Group.setReg_prods (x : Group) (n lane : Nat) (v : Word) : (x.setReg n lane v).prods = x.prods := rfl
@[simp] theorem Group.setReg_stepsEnd (x : Group) (n lane : Nat) (v : Word) : (x.setReg n lane v).stepsEnd = x.stepsEnd := rfl
@[simp] theorem Group.setReg_openBatch (x : Group) (n lane : Nat) (v : Word) : (x.setReg n lane v).openBatch = x.openBatch := rfl
@[simp] theorem Group.setReg_batches (x : Group) (n lane : Nat) (v : Word) : (x.setReg n lane v).batches = x.batches := rfl
@[simp] theorem Group.setReg_heldFor (x : Group) (n lane : Nat) (v : Word) : (x.setReg n lane v).heldFor = x.heldFor := rfl
@[simp] theorem Group.setReg_heldB (x : Group) (n lane : Nat) (v : Word) : (x.setReg n lane v).heldB = x.heldB := rfl
@[simp] theorem Group.setReg_heldSpilled (x : Group) (n lane : Nat) (v : Word) : (x.setReg n lane v).heldSpilled = x.heldSpilled := rfl
@[simp] theorem Group.setReg_heapUsed (x : Group) (n lane : Nat) (v : Word) : (x.setReg n lane v).heapUsed = x.heapUsed := rfl
@[simp] theorem Group.setReg_ordUsed (x : Group) (n lane : Nat) (v : Word) : (x.setReg n lane v).ordUsed = x.ordUsed := rfl
@[simp] theorem Group.setReg_evicted (x : Group) (n lane : Nat) (v : Word) : (x.setReg n lane v).evicted = x.evicted := rfl
@[simp] theorem Group.setReg_evictedAt (x : Group) (n lane : Nat) (v : Word) : (x.setReg n lane v).evictedAt = x.evictedAt := rfl
@[simp] theorem Group.setReg_cutStop (x : Group) (n lane : Nat) (v : Word) : (x.setReg n lane v).cutStop = x.cutStop := rfl
@[simp] theorem Group.setReg_issued (x : Group) (n lane : Nat) (v : Word) : (x.setReg n lane v).issued = x.issued := rfl
@[simp] theorem Group.setReg_compared (x : Group) (n lane : Nat) (v : Word) : (x.setReg n lane v).compared = x.compared := rfl
@[simp] theorem Group.setReg_events (x : Group) (n lane : Nat) (v : Word) : (x.setReg n lane v).events = x.events := rfl
@[simp] theorem Group.setReg_clk (x : Group) (n lane : Nat) (v : Word) : (x.setReg n lane v).clk = x.clk := rfl
@[simp] theorem Group.setReg_rels (x : Group) (n lane : Nat) (v : Word) : (x.setReg n lane v).rels = x.rels := rfl
@[simp] theorem Group.setReg_relFence (x : Group) (n lane : Nat) (v : Word) : (x.setReg n lane v).relFence = x.relFence := rfl
@[simp] theorem Group.setReg_relAt (x : Group) (n lane : Nat) (v : Word) : (x.setReg n lane v).relAt = x.relAt := rfl
@[simp] theorem Group.setReg_fence (x : Group) (n lane : Nat) (v : Word) : (x.setReg n lane v).fence = x.fence := rfl
@[simp] theorem Group.setReg_acqPend (x : Group) (n lane : Nat) (v : Word) : (x.setReg n lane v).acqPend = x.acqPend := rfl
@[simp] theorem Group.setReg_arrClk (x : Group) (n lane : Nat) (v : Word) : (x.setReg n lane v).arrClk = x.arrClk := rfl
@[simp] theorem Group.setReg_scClk (x : Group) (n lane : Nat) (v : Word) : (x.setReg n lane v).scClk = x.scClk := rfl

@[simp] theorem Group.setLatch_uid (x : Group) (l lane : Nat) (v : DWord) : (x.setLatch l lane v).uid = x.uid := rfl
@[simp] theorem Group.setLatch_launch (x : Group) (l lane : Nat) (v : DWord) : (x.setLatch l lane v).launch = x.launch := rfl
@[simp] theorem Group.setLatch_team (x : Group) (l lane : Nat) (v : DWord) : (x.setLatch l lane v).team = x.team := rfl
@[simp] theorem Group.setLatch_index (x : Group) (l lane : Nat) (v : DWord) : (x.setLatch l lane v).index = x.index := rfl
@[simp] theorem Group.setLatch_part (x : Group) (l lane : Nat) (v : DWord) : (x.setLatch l lane v).part = x.part := rfl
@[simp] theorem Group.setLatch_cluster (x : Group) (l lane : Nat) (v : DWord) : (x.setLatch l lane v).cluster = x.cluster := rfl
@[simp] theorem Group.setLatch_slice (x : Group) (l lane : Nat) (v : DWord) : (x.setLatch l lane v).slice = x.slice := rfl
@[simp] theorem Group.setLatch_gslot (x : Group) (l lane : Nat) (v : DWord) : (x.setLatch l lane v).gslot = x.gslot := rfl
@[simp] theorem Group.setLatch_half (x : Group) (l lane : Nat) (v : DWord) : (x.setLatch l lane v).half = x.half := rfl
@[simp] theorem Group.setLatch_width (x : Group) (l lane : Nat) (v : DWord) : (x.setLatch l lane v).width = x.width := rfl
@[simp] theorem Group.setLatch_extent (x : Group) (l lane : Nat) (v : DWord) : (x.setLatch l lane v).extent = x.extent := rfl
@[simp] theorem Group.setLatch_nregs (x : Group) (l lane : Nat) (v : DWord) : (x.setLatch l lane v).nregs = x.nregs := rfl
@[simp] theorem Group.setLatch_regs (x : Group) (l lane : Nat) (v : DWord) : (x.setLatch l lane v).regs = x.regs := rfl
@[simp] theorem Group.setLatch_masks (x : Group) (l lane : Nat) (v : DWord) : (x.setLatch l lane v).masks = x.masks := rfl
@[simp] theorem Group.setLatch_fpflags (x : Group) (l lane : Nat) (v : DWord) : (x.setLatch l lane v).fpflags = x.fpflags := rfl
@[simp] theorem Group.setLatch_lbm (x : Group) (l lane : Nat) (v : DWord) : (x.setLatch l lane v).lbm = x.lbm := rfl
@[simp] theorem Group.setLatch_deadMask (x : Group) (l lane : Nat) (v : DWord) : (x.setLatch l lane v).deadMask = x.deadMask := rfl
@[simp] theorem Group.setLatch_deadRead (x : Group) (l lane : Nat) (v : DWord) : (x.setLatch l lane v).deadRead = x.deadRead := rfl
@[simp] theorem Group.setLatch_arrivals (x : Group) (l lane : Nat) (v : DWord) : (x.setLatch l lane v).arrivals = x.arrivals := rfl
@[simp] theorem Group.setLatch_cue (x : Group) (l lane : Nat) (v : DWord) : (x.setLatch l lane v).cue = x.cue := rfl
@[simp] theorem Group.setLatch_slotA (x : Group) (l lane : Nat) (v : DWord) : (x.setLatch l lane v).slotA = x.slotA := rfl
@[simp] theorem Group.setLatch_slotB (x : Group) (l lane : Nat) (v : DWord) : (x.setLatch l lane v).slotB = x.slotB := rfl
@[simp] theorem Group.setLatch_stack (x : Group) (l lane : Nat) (v : DWord) : (x.setLatch l lane v).stack = x.stack := rfl
@[simp] theorem Group.setLatch_nextTag (x : Group) (l lane : Nat) (v : DWord) : (x.setLatch l lane v).nextTag = x.nextTag := rfl
@[simp] theorem Group.setLatch_started (x : Group) (l lane : Nat) (v : DWord) : (x.setLatch l lane v).started = x.started := rfl
@[simp] theorem Group.setLatch_run (x : Group) (l lane : Nat) (v : DWord) : (x.setLatch l lane v).run = x.run := rfl
@[simp] theorem Group.setLatch_onStage (x : Group) (l lane : Nat) (v : DWord) : (x.setLatch l lane v).onStage = x.onStage := rfl
@[simp] theorem Group.setLatch_yielding (x : Group) (l lane : Nat) (v : DWord) : (x.setLatch l lane v).yielding = x.yielding := rfl
@[simp] theorem Group.setLatch_parked (x : Group) (l lane : Nat) (v : DWord) : (x.setLatch l lane v).parked = x.parked := rfl
@[simp] theorem Group.setLatch_readyAge (x : Group) (l lane : Nat) (v : DWord) : (x.setLatch l lane v).readyAge = x.readyAge := rfl
@[simp] theorem Group.setLatch_parkedAt (x : Group) (l lane : Nat) (v : DWord) : (x.setLatch l lane v).parkedAt = x.parkedAt := rfl
@[simp] theorem Group.setLatch_eligAt (x : Group) (l lane : Nat) (v : DWord) : (x.setLatch l lane v).eligAt = x.eligAt := rfl
@[simp] theorem Group.setLatch_evHold (x : Group) (l lane : Nat) (v : DWord) : (x.setLatch l lane v).evHold = x.evHold := rfl
@[simp] theorem Group.setLatch_dbgHold (x : Group) (l lane : Nat) (v : DWord) : (x.setLatch l lane v).dbgHold = x.dbgHold := rfl
@[simp] theorem Group.setLatch_dbgPend (x : Group) (l lane : Nat) (v : DWord) : (x.setLatch l lane v).dbgPend = x.dbgPend := rfl
@[simp] theorem Group.setLatch_trHold (x : Group) (l lane : Nat) (v : DWord) : (x.setLatch l lane v).trHold = x.trHold := rfl
@[simp] theorem Group.setLatch_stop (x : Group) (l lane : Nat) (v : DWord) : (x.setLatch l lane v).stop = x.stop := rfl
@[simp] theorem Group.setLatch_posted (x : Group) (l lane : Nat) (v : DWord) : (x.setLatch l lane v).posted = x.posted := rfl
@[simp] theorem Group.setLatch_assist (x : Group) (l lane : Nat) (v : DWord) : (x.setLatch l lane v).assist = x.assist := rfl
@[simp] theorem Group.setLatch_outerOf (x : Group) (l lane : Nat) (v : DWord) : (x.setLatch l lane v).outerOf = x.outerOf := rfl
@[simp] theorem Group.setLatch_prods (x : Group) (l lane : Nat) (v : DWord) : (x.setLatch l lane v).prods = x.prods := rfl
@[simp] theorem Group.setLatch_stepsEnd (x : Group) (l lane : Nat) (v : DWord) : (x.setLatch l lane v).stepsEnd = x.stepsEnd := rfl
@[simp] theorem Group.setLatch_openBatch (x : Group) (l lane : Nat) (v : DWord) : (x.setLatch l lane v).openBatch = x.openBatch := rfl
@[simp] theorem Group.setLatch_batches (x : Group) (l lane : Nat) (v : DWord) : (x.setLatch l lane v).batches = x.batches := rfl
@[simp] theorem Group.setLatch_heldFor (x : Group) (l lane : Nat) (v : DWord) : (x.setLatch l lane v).heldFor = x.heldFor := rfl
@[simp] theorem Group.setLatch_heldB (x : Group) (l lane : Nat) (v : DWord) : (x.setLatch l lane v).heldB = x.heldB := rfl
@[simp] theorem Group.setLatch_heldSpilled (x : Group) (l lane : Nat) (v : DWord) : (x.setLatch l lane v).heldSpilled = x.heldSpilled := rfl
@[simp] theorem Group.setLatch_heapUsed (x : Group) (l lane : Nat) (v : DWord) : (x.setLatch l lane v).heapUsed = x.heapUsed := rfl
@[simp] theorem Group.setLatch_ordUsed (x : Group) (l lane : Nat) (v : DWord) : (x.setLatch l lane v).ordUsed = x.ordUsed := rfl
@[simp] theorem Group.setLatch_evicted (x : Group) (l lane : Nat) (v : DWord) : (x.setLatch l lane v).evicted = x.evicted := rfl
@[simp] theorem Group.setLatch_evictedAt (x : Group) (l lane : Nat) (v : DWord) : (x.setLatch l lane v).evictedAt = x.evictedAt := rfl
@[simp] theorem Group.setLatch_cutStop (x : Group) (l lane : Nat) (v : DWord) : (x.setLatch l lane v).cutStop = x.cutStop := rfl
@[simp] theorem Group.setLatch_issued (x : Group) (l lane : Nat) (v : DWord) : (x.setLatch l lane v).issued = x.issued := rfl
@[simp] theorem Group.setLatch_compared (x : Group) (l lane : Nat) (v : DWord) : (x.setLatch l lane v).compared = x.compared := rfl
@[simp] theorem Group.setLatch_events (x : Group) (l lane : Nat) (v : DWord) : (x.setLatch l lane v).events = x.events := rfl
@[simp] theorem Group.setLatch_latent (x : Group) (l lane : Nat) (v : DWord) : (x.setLatch l lane v).latent = x.latent := rfl
@[simp] theorem Group.setLatch_clk (x : Group) (l lane : Nat) (v : DWord) : (x.setLatch l lane v).clk = x.clk := rfl
@[simp] theorem Group.setLatch_rels (x : Group) (l lane : Nat) (v : DWord) : (x.setLatch l lane v).rels = x.rels := rfl
@[simp] theorem Group.setLatch_relFence (x : Group) (l lane : Nat) (v : DWord) : (x.setLatch l lane v).relFence = x.relFence := rfl
@[simp] theorem Group.setLatch_relAt (x : Group) (l lane : Nat) (v : DWord) : (x.setLatch l lane v).relAt = x.relAt := rfl
@[simp] theorem Group.setLatch_fence (x : Group) (l lane : Nat) (v : DWord) : (x.setLatch l lane v).fence = x.fence := rfl
@[simp] theorem Group.setLatch_acqPend (x : Group) (l lane : Nat) (v : DWord) : (x.setLatch l lane v).acqPend = x.acqPend := rfl
@[simp] theorem Group.setLatch_arrClk (x : Group) (l lane : Nat) (v : DWord) : (x.setLatch l lane v).arrClk = x.arrClk := rfl
@[simp] theorem Group.setLatch_scClk (x : Group) (l lane : Nat) (v : DWord) : (x.setLatch l lane v).scClk = x.scClk := rfl

@[simp] theorem Group.raise_uid (x : Group) (lane : Nat) (f : Fl) : (x.raise lane f).uid = x.uid := rfl
@[simp] theorem Group.raise_launch (x : Group) (lane : Nat) (f : Fl) : (x.raise lane f).launch = x.launch := rfl
@[simp] theorem Group.raise_team (x : Group) (lane : Nat) (f : Fl) : (x.raise lane f).team = x.team := rfl
@[simp] theorem Group.raise_index (x : Group) (lane : Nat) (f : Fl) : (x.raise lane f).index = x.index := rfl
@[simp] theorem Group.raise_part (x : Group) (lane : Nat) (f : Fl) : (x.raise lane f).part = x.part := rfl
@[simp] theorem Group.raise_cluster (x : Group) (lane : Nat) (f : Fl) : (x.raise lane f).cluster = x.cluster := rfl
@[simp] theorem Group.raise_slice (x : Group) (lane : Nat) (f : Fl) : (x.raise lane f).slice = x.slice := rfl
@[simp] theorem Group.raise_gslot (x : Group) (lane : Nat) (f : Fl) : (x.raise lane f).gslot = x.gslot := rfl
@[simp] theorem Group.raise_half (x : Group) (lane : Nat) (f : Fl) : (x.raise lane f).half = x.half := rfl
@[simp] theorem Group.raise_width (x : Group) (lane : Nat) (f : Fl) : (x.raise lane f).width = x.width := rfl
@[simp] theorem Group.raise_extent (x : Group) (lane : Nat) (f : Fl) : (x.raise lane f).extent = x.extent := rfl
@[simp] theorem Group.raise_nregs (x : Group) (lane : Nat) (f : Fl) : (x.raise lane f).nregs = x.nregs := rfl
@[simp] theorem Group.raise_regs (x : Group) (lane : Nat) (f : Fl) : (x.raise lane f).regs = x.regs := rfl
@[simp] theorem Group.raise_masks (x : Group) (lane : Nat) (f : Fl) : (x.raise lane f).masks = x.masks := rfl
@[simp] theorem Group.raise_latches (x : Group) (lane : Nat) (f : Fl) : (x.raise lane f).latches = x.latches := rfl
@[simp] theorem Group.raise_lbm (x : Group) (lane : Nat) (f : Fl) : (x.raise lane f).lbm = x.lbm := rfl
@[simp] theorem Group.raise_deadMask (x : Group) (lane : Nat) (f : Fl) : (x.raise lane f).deadMask = x.deadMask := rfl
@[simp] theorem Group.raise_deadRead (x : Group) (lane : Nat) (f : Fl) : (x.raise lane f).deadRead = x.deadRead := rfl
@[simp] theorem Group.raise_arrivals (x : Group) (lane : Nat) (f : Fl) : (x.raise lane f).arrivals = x.arrivals := rfl
@[simp] theorem Group.raise_cue (x : Group) (lane : Nat) (f : Fl) : (x.raise lane f).cue = x.cue := rfl
@[simp] theorem Group.raise_slotA (x : Group) (lane : Nat) (f : Fl) : (x.raise lane f).slotA = x.slotA := rfl
@[simp] theorem Group.raise_slotB (x : Group) (lane : Nat) (f : Fl) : (x.raise lane f).slotB = x.slotB := rfl
@[simp] theorem Group.raise_stack (x : Group) (lane : Nat) (f : Fl) : (x.raise lane f).stack = x.stack := rfl
@[simp] theorem Group.raise_nextTag (x : Group) (lane : Nat) (f : Fl) : (x.raise lane f).nextTag = x.nextTag := rfl
@[simp] theorem Group.raise_started (x : Group) (lane : Nat) (f : Fl) : (x.raise lane f).started = x.started := rfl
@[simp] theorem Group.raise_run (x : Group) (lane : Nat) (f : Fl) : (x.raise lane f).run = x.run := rfl
@[simp] theorem Group.raise_onStage (x : Group) (lane : Nat) (f : Fl) : (x.raise lane f).onStage = x.onStage := rfl
@[simp] theorem Group.raise_yielding (x : Group) (lane : Nat) (f : Fl) : (x.raise lane f).yielding = x.yielding := rfl
@[simp] theorem Group.raise_parked (x : Group) (lane : Nat) (f : Fl) : (x.raise lane f).parked = x.parked := rfl
@[simp] theorem Group.raise_readyAge (x : Group) (lane : Nat) (f : Fl) : (x.raise lane f).readyAge = x.readyAge := rfl
@[simp] theorem Group.raise_parkedAt (x : Group) (lane : Nat) (f : Fl) : (x.raise lane f).parkedAt = x.parkedAt := rfl
@[simp] theorem Group.raise_eligAt (x : Group) (lane : Nat) (f : Fl) : (x.raise lane f).eligAt = x.eligAt := rfl
@[simp] theorem Group.raise_evHold (x : Group) (lane : Nat) (f : Fl) : (x.raise lane f).evHold = x.evHold := rfl
@[simp] theorem Group.raise_dbgHold (x : Group) (lane : Nat) (f : Fl) : (x.raise lane f).dbgHold = x.dbgHold := rfl
@[simp] theorem Group.raise_dbgPend (x : Group) (lane : Nat) (f : Fl) : (x.raise lane f).dbgPend = x.dbgPend := rfl
@[simp] theorem Group.raise_trHold (x : Group) (lane : Nat) (f : Fl) : (x.raise lane f).trHold = x.trHold := rfl
@[simp] theorem Group.raise_stop (x : Group) (lane : Nat) (f : Fl) : (x.raise lane f).stop = x.stop := rfl
@[simp] theorem Group.raise_posted (x : Group) (lane : Nat) (f : Fl) : (x.raise lane f).posted = x.posted := rfl
@[simp] theorem Group.raise_assist (x : Group) (lane : Nat) (f : Fl) : (x.raise lane f).assist = x.assist := rfl
@[simp] theorem Group.raise_outerOf (x : Group) (lane : Nat) (f : Fl) : (x.raise lane f).outerOf = x.outerOf := rfl
@[simp] theorem Group.raise_prods (x : Group) (lane : Nat) (f : Fl) : (x.raise lane f).prods = x.prods := rfl
@[simp] theorem Group.raise_stepsEnd (x : Group) (lane : Nat) (f : Fl) : (x.raise lane f).stepsEnd = x.stepsEnd := rfl
@[simp] theorem Group.raise_openBatch (x : Group) (lane : Nat) (f : Fl) : (x.raise lane f).openBatch = x.openBatch := rfl
@[simp] theorem Group.raise_batches (x : Group) (lane : Nat) (f : Fl) : (x.raise lane f).batches = x.batches := rfl
@[simp] theorem Group.raise_heldFor (x : Group) (lane : Nat) (f : Fl) : (x.raise lane f).heldFor = x.heldFor := rfl
@[simp] theorem Group.raise_heldB (x : Group) (lane : Nat) (f : Fl) : (x.raise lane f).heldB = x.heldB := rfl
@[simp] theorem Group.raise_heldSpilled (x : Group) (lane : Nat) (f : Fl) : (x.raise lane f).heldSpilled = x.heldSpilled := rfl
@[simp] theorem Group.raise_heapUsed (x : Group) (lane : Nat) (f : Fl) : (x.raise lane f).heapUsed = x.heapUsed := rfl
@[simp] theorem Group.raise_ordUsed (x : Group) (lane : Nat) (f : Fl) : (x.raise lane f).ordUsed = x.ordUsed := rfl
@[simp] theorem Group.raise_evicted (x : Group) (lane : Nat) (f : Fl) : (x.raise lane f).evicted = x.evicted := rfl
@[simp] theorem Group.raise_evictedAt (x : Group) (lane : Nat) (f : Fl) : (x.raise lane f).evictedAt = x.evictedAt := rfl
@[simp] theorem Group.raise_cutStop (x : Group) (lane : Nat) (f : Fl) : (x.raise lane f).cutStop = x.cutStop := rfl
@[simp] theorem Group.raise_issued (x : Group) (lane : Nat) (f : Fl) : (x.raise lane f).issued = x.issued := rfl
@[simp] theorem Group.raise_compared (x : Group) (lane : Nat) (f : Fl) : (x.raise lane f).compared = x.compared := rfl
@[simp] theorem Group.raise_events (x : Group) (lane : Nat) (f : Fl) : (x.raise lane f).events = x.events := rfl
@[simp] theorem Group.raise_latent (x : Group) (lane : Nat) (f : Fl) : (x.raise lane f).latent = x.latent := rfl
@[simp] theorem Group.raise_clk (x : Group) (lane : Nat) (f : Fl) : (x.raise lane f).clk = x.clk := rfl
@[simp] theorem Group.raise_rels (x : Group) (lane : Nat) (f : Fl) : (x.raise lane f).rels = x.rels := rfl
@[simp] theorem Group.raise_relFence (x : Group) (lane : Nat) (f : Fl) : (x.raise lane f).relFence = x.relFence := rfl
@[simp] theorem Group.raise_relAt (x : Group) (lane : Nat) (f : Fl) : (x.raise lane f).relAt = x.relAt := rfl
@[simp] theorem Group.raise_fence (x : Group) (lane : Nat) (f : Fl) : (x.raise lane f).fence = x.fence := rfl
@[simp] theorem Group.raise_acqPend (x : Group) (lane : Nat) (f : Fl) : (x.raise lane f).acqPend = x.acqPend := rfl
@[simp] theorem Group.raise_arrClk (x : Group) (lane : Nat) (f : Fl) : (x.raise lane f).arrClk = x.arrClk := rfl
@[simp] theorem Group.raise_scClk (x : Group) (lane : Nat) (f : Fl) : (x.raise lane f).scClk = x.scClk := rfl

@[simp] theorem Group.setMask_uid (x : Group) (n : Nat) (v : DWord) : (x.setMask n v).uid = x.uid := by unfold Group.setMask; split <;> rfl
@[simp] theorem Group.setMask_launch (x : Group) (n : Nat) (v : DWord) : (x.setMask n v).launch = x.launch := by unfold Group.setMask; split <;> rfl
@[simp] theorem Group.setMask_team (x : Group) (n : Nat) (v : DWord) : (x.setMask n v).team = x.team := by unfold Group.setMask; split <;> rfl
@[simp] theorem Group.setMask_index (x : Group) (n : Nat) (v : DWord) : (x.setMask n v).index = x.index := by unfold Group.setMask; split <;> rfl
@[simp] theorem Group.setMask_part (x : Group) (n : Nat) (v : DWord) : (x.setMask n v).part = x.part := by unfold Group.setMask; split <;> rfl
@[simp] theorem Group.setMask_cluster (x : Group) (n : Nat) (v : DWord) : (x.setMask n v).cluster = x.cluster := by unfold Group.setMask; split <;> rfl
@[simp] theorem Group.setMask_slice (x : Group) (n : Nat) (v : DWord) : (x.setMask n v).slice = x.slice := by unfold Group.setMask; split <;> rfl
@[simp] theorem Group.setMask_gslot (x : Group) (n : Nat) (v : DWord) : (x.setMask n v).gslot = x.gslot := by unfold Group.setMask; split <;> rfl
@[simp] theorem Group.setMask_half (x : Group) (n : Nat) (v : DWord) : (x.setMask n v).half = x.half := by unfold Group.setMask; split <;> rfl
@[simp] theorem Group.setMask_width (x : Group) (n : Nat) (v : DWord) : (x.setMask n v).width = x.width := by unfold Group.setMask; split <;> rfl
@[simp] theorem Group.setMask_extent (x : Group) (n : Nat) (v : DWord) : (x.setMask n v).extent = x.extent := by unfold Group.setMask; split <;> rfl
@[simp] theorem Group.setMask_nregs (x : Group) (n : Nat) (v : DWord) : (x.setMask n v).nregs = x.nregs := by unfold Group.setMask; split <;> rfl
@[simp] theorem Group.setMask_regs (x : Group) (n : Nat) (v : DWord) : (x.setMask n v).regs = x.regs := by unfold Group.setMask; split <;> rfl
@[simp] theorem Group.setMask_latches (x : Group) (n : Nat) (v : DWord) : (x.setMask n v).latches = x.latches := by unfold Group.setMask; split <;> rfl
@[simp] theorem Group.setMask_fpflags (x : Group) (n : Nat) (v : DWord) : (x.setMask n v).fpflags = x.fpflags := by unfold Group.setMask; split <;> rfl
@[simp] theorem Group.setMask_lbm (x : Group) (n : Nat) (v : DWord) : (x.setMask n v).lbm = x.lbm := by unfold Group.setMask; split <;> rfl
@[simp] theorem Group.setMask_deadMask (x : Group) (n : Nat) (v : DWord) : (x.setMask n v).deadMask = x.deadMask := by unfold Group.setMask; split <;> rfl
@[simp] theorem Group.setMask_deadRead (x : Group) (n : Nat) (v : DWord) : (x.setMask n v).deadRead = x.deadRead := by unfold Group.setMask; split <;> rfl
@[simp] theorem Group.setMask_arrivals (x : Group) (n : Nat) (v : DWord) : (x.setMask n v).arrivals = x.arrivals := by unfold Group.setMask; split <;> rfl
@[simp] theorem Group.setMask_cue (x : Group) (n : Nat) (v : DWord) : (x.setMask n v).cue = x.cue := by unfold Group.setMask; split <;> rfl
@[simp] theorem Group.setMask_slotA (x : Group) (n : Nat) (v : DWord) : (x.setMask n v).slotA = x.slotA := by unfold Group.setMask; split <;> rfl
@[simp] theorem Group.setMask_slotB (x : Group) (n : Nat) (v : DWord) : (x.setMask n v).slotB = x.slotB := by unfold Group.setMask; split <;> rfl
@[simp] theorem Group.setMask_stack (x : Group) (n : Nat) (v : DWord) : (x.setMask n v).stack = x.stack := by unfold Group.setMask; split <;> rfl
@[simp] theorem Group.setMask_nextTag (x : Group) (n : Nat) (v : DWord) : (x.setMask n v).nextTag = x.nextTag := by unfold Group.setMask; split <;> rfl
@[simp] theorem Group.setMask_started (x : Group) (n : Nat) (v : DWord) : (x.setMask n v).started = x.started := by unfold Group.setMask; split <;> rfl
@[simp] theorem Group.setMask_run (x : Group) (n : Nat) (v : DWord) : (x.setMask n v).run = x.run := by unfold Group.setMask; split <;> rfl
@[simp] theorem Group.setMask_onStage (x : Group) (n : Nat) (v : DWord) : (x.setMask n v).onStage = x.onStage := by unfold Group.setMask; split <;> rfl
@[simp] theorem Group.setMask_yielding (x : Group) (n : Nat) (v : DWord) : (x.setMask n v).yielding = x.yielding := by unfold Group.setMask; split <;> rfl
@[simp] theorem Group.setMask_parked (x : Group) (n : Nat) (v : DWord) : (x.setMask n v).parked = x.parked := by unfold Group.setMask; split <;> rfl
@[simp] theorem Group.setMask_readyAge (x : Group) (n : Nat) (v : DWord) : (x.setMask n v).readyAge = x.readyAge := by unfold Group.setMask; split <;> rfl
@[simp] theorem Group.setMask_parkedAt (x : Group) (n : Nat) (v : DWord) : (x.setMask n v).parkedAt = x.parkedAt := by unfold Group.setMask; split <;> rfl
@[simp] theorem Group.setMask_eligAt (x : Group) (n : Nat) (v : DWord) : (x.setMask n v).eligAt = x.eligAt := by unfold Group.setMask; split <;> rfl
@[simp] theorem Group.setMask_evHold (x : Group) (n : Nat) (v : DWord) : (x.setMask n v).evHold = x.evHold := by unfold Group.setMask; split <;> rfl
@[simp] theorem Group.setMask_dbgHold (x : Group) (n : Nat) (v : DWord) : (x.setMask n v).dbgHold = x.dbgHold := by unfold Group.setMask; split <;> rfl
@[simp] theorem Group.setMask_dbgPend (x : Group) (n : Nat) (v : DWord) : (x.setMask n v).dbgPend = x.dbgPend := by unfold Group.setMask; split <;> rfl
@[simp] theorem Group.setMask_trHold (x : Group) (n : Nat) (v : DWord) : (x.setMask n v).trHold = x.trHold := by unfold Group.setMask; split <;> rfl
@[simp] theorem Group.setMask_stop (x : Group) (n : Nat) (v : DWord) : (x.setMask n v).stop = x.stop := by unfold Group.setMask; split <;> rfl
@[simp] theorem Group.setMask_posted (x : Group) (n : Nat) (v : DWord) : (x.setMask n v).posted = x.posted := by unfold Group.setMask; split <;> rfl
@[simp] theorem Group.setMask_assist (x : Group) (n : Nat) (v : DWord) : (x.setMask n v).assist = x.assist := by unfold Group.setMask; split <;> rfl
@[simp] theorem Group.setMask_outerOf (x : Group) (n : Nat) (v : DWord) : (x.setMask n v).outerOf = x.outerOf := by unfold Group.setMask; split <;> rfl
@[simp] theorem Group.setMask_prods (x : Group) (n : Nat) (v : DWord) : (x.setMask n v).prods = x.prods := by unfold Group.setMask; split <;> rfl
@[simp] theorem Group.setMask_stepsEnd (x : Group) (n : Nat) (v : DWord) : (x.setMask n v).stepsEnd = x.stepsEnd := by unfold Group.setMask; split <;> rfl
@[simp] theorem Group.setMask_openBatch (x : Group) (n : Nat) (v : DWord) : (x.setMask n v).openBatch = x.openBatch := by unfold Group.setMask; split <;> rfl
@[simp] theorem Group.setMask_batches (x : Group) (n : Nat) (v : DWord) : (x.setMask n v).batches = x.batches := by unfold Group.setMask; split <;> rfl
@[simp] theorem Group.setMask_heldFor (x : Group) (n : Nat) (v : DWord) : (x.setMask n v).heldFor = x.heldFor := by unfold Group.setMask; split <;> rfl
@[simp] theorem Group.setMask_heldB (x : Group) (n : Nat) (v : DWord) : (x.setMask n v).heldB = x.heldB := by unfold Group.setMask; split <;> rfl
@[simp] theorem Group.setMask_heldSpilled (x : Group) (n : Nat) (v : DWord) : (x.setMask n v).heldSpilled = x.heldSpilled := by unfold Group.setMask; split <;> rfl
@[simp] theorem Group.setMask_heapUsed (x : Group) (n : Nat) (v : DWord) : (x.setMask n v).heapUsed = x.heapUsed := by unfold Group.setMask; split <;> rfl
@[simp] theorem Group.setMask_ordUsed (x : Group) (n : Nat) (v : DWord) : (x.setMask n v).ordUsed = x.ordUsed := by unfold Group.setMask; split <;> rfl
@[simp] theorem Group.setMask_evicted (x : Group) (n : Nat) (v : DWord) : (x.setMask n v).evicted = x.evicted := by unfold Group.setMask; split <;> rfl
@[simp] theorem Group.setMask_evictedAt (x : Group) (n : Nat) (v : DWord) : (x.setMask n v).evictedAt = x.evictedAt := by unfold Group.setMask; split <;> rfl
@[simp] theorem Group.setMask_cutStop (x : Group) (n : Nat) (v : DWord) : (x.setMask n v).cutStop = x.cutStop := by unfold Group.setMask; split <;> rfl
@[simp] theorem Group.setMask_issued (x : Group) (n : Nat) (v : DWord) : (x.setMask n v).issued = x.issued := by unfold Group.setMask; split <;> rfl
@[simp] theorem Group.setMask_compared (x : Group) (n : Nat) (v : DWord) : (x.setMask n v).compared = x.compared := by unfold Group.setMask; split <;> rfl
@[simp] theorem Group.setMask_events (x : Group) (n : Nat) (v : DWord) : (x.setMask n v).events = x.events := by unfold Group.setMask; split <;> rfl
@[simp] theorem Group.setMask_latent (x : Group) (n : Nat) (v : DWord) : (x.setMask n v).latent = x.latent := by unfold Group.setMask; split <;> rfl
@[simp] theorem Group.setMask_clk (x : Group) (n : Nat) (v : DWord) : (x.setMask n v).clk = x.clk := by unfold Group.setMask; split <;> rfl
@[simp] theorem Group.setMask_rels (x : Group) (n : Nat) (v : DWord) : (x.setMask n v).rels = x.rels := by unfold Group.setMask; split <;> rfl
@[simp] theorem Group.setMask_relFence (x : Group) (n : Nat) (v : DWord) : (x.setMask n v).relFence = x.relFence := by unfold Group.setMask; split <;> rfl
@[simp] theorem Group.setMask_relAt (x : Group) (n : Nat) (v : DWord) : (x.setMask n v).relAt = x.relAt := by unfold Group.setMask; split <;> rfl
@[simp] theorem Group.setMask_fence (x : Group) (n : Nat) (v : DWord) : (x.setMask n v).fence = x.fence := by unfold Group.setMask; split <;> rfl
@[simp] theorem Group.setMask_acqPend (x : Group) (n : Nat) (v : DWord) : (x.setMask n v).acqPend = x.acqPend := by unfold Group.setMask; split <;> rfl
@[simp] theorem Group.setMask_arrClk (x : Group) (n : Nat) (v : DWord) : (x.setMask n v).arrClk = x.arrClk := by unfold Group.setMask; split <;> rfl
@[simp] theorem Group.setMask_scClk (x : Group) (n : Nat) (v : DWord) : (x.setMask n v).scClk = x.scClk := by unfold Group.setMask; split <;> rfl

@[simp] theorem Group.setSlot_uid (x : Group) (b : Bool) (v : Slot) : (x.setSlot b v).uid = x.uid := by cases b <;> rfl
@[simp] theorem Group.setSlot_launch (x : Group) (b : Bool) (v : Slot) : (x.setSlot b v).launch = x.launch := by cases b <;> rfl
@[simp] theorem Group.setSlot_team (x : Group) (b : Bool) (v : Slot) : (x.setSlot b v).team = x.team := by cases b <;> rfl
@[simp] theorem Group.setSlot_index (x : Group) (b : Bool) (v : Slot) : (x.setSlot b v).index = x.index := by cases b <;> rfl
@[simp] theorem Group.setSlot_part (x : Group) (b : Bool) (v : Slot) : (x.setSlot b v).part = x.part := by cases b <;> rfl
@[simp] theorem Group.setSlot_cluster (x : Group) (b : Bool) (v : Slot) : (x.setSlot b v).cluster = x.cluster := by cases b <;> rfl
@[simp] theorem Group.setSlot_slice (x : Group) (b : Bool) (v : Slot) : (x.setSlot b v).slice = x.slice := by cases b <;> rfl
@[simp] theorem Group.setSlot_gslot (x : Group) (b : Bool) (v : Slot) : (x.setSlot b v).gslot = x.gslot := by cases b <;> rfl
@[simp] theorem Group.setSlot_half (x : Group) (b : Bool) (v : Slot) : (x.setSlot b v).half = x.half := by cases b <;> rfl
@[simp] theorem Group.setSlot_width (x : Group) (b : Bool) (v : Slot) : (x.setSlot b v).width = x.width := by cases b <;> rfl
@[simp] theorem Group.setSlot_extent (x : Group) (b : Bool) (v : Slot) : (x.setSlot b v).extent = x.extent := by cases b <;> rfl
@[simp] theorem Group.setSlot_nregs (x : Group) (b : Bool) (v : Slot) : (x.setSlot b v).nregs = x.nregs := by cases b <;> rfl
@[simp] theorem Group.setSlot_regs (x : Group) (b : Bool) (v : Slot) : (x.setSlot b v).regs = x.regs := by cases b <;> rfl
@[simp] theorem Group.setSlot_masks (x : Group) (b : Bool) (v : Slot) : (x.setSlot b v).masks = x.masks := by cases b <;> rfl
@[simp] theorem Group.setSlot_latches (x : Group) (b : Bool) (v : Slot) : (x.setSlot b v).latches = x.latches := by cases b <;> rfl
@[simp] theorem Group.setSlot_fpflags (x : Group) (b : Bool) (v : Slot) : (x.setSlot b v).fpflags = x.fpflags := by cases b <;> rfl
@[simp] theorem Group.setSlot_lbm (x : Group) (b : Bool) (v : Slot) : (x.setSlot b v).lbm = x.lbm := by cases b <;> rfl
@[simp] theorem Group.setSlot_deadMask (x : Group) (b : Bool) (v : Slot) : (x.setSlot b v).deadMask = x.deadMask := by cases b <;> rfl
@[simp] theorem Group.setSlot_deadRead (x : Group) (b : Bool) (v : Slot) : (x.setSlot b v).deadRead = x.deadRead := by cases b <;> rfl
@[simp] theorem Group.setSlot_arrivals (x : Group) (b : Bool) (v : Slot) : (x.setSlot b v).arrivals = x.arrivals := by cases b <;> rfl
@[simp] theorem Group.setSlot_cue (x : Group) (b : Bool) (v : Slot) : (x.setSlot b v).cue = x.cue := by cases b <;> rfl
@[simp] theorem Group.setSlot_stack (x : Group) (b : Bool) (v : Slot) : (x.setSlot b v).stack = x.stack := by cases b <;> rfl
@[simp] theorem Group.setSlot_nextTag (x : Group) (b : Bool) (v : Slot) : (x.setSlot b v).nextTag = x.nextTag := by cases b <;> rfl
@[simp] theorem Group.setSlot_started (x : Group) (b : Bool) (v : Slot) : (x.setSlot b v).started = x.started := by cases b <;> rfl
@[simp] theorem Group.setSlot_run (x : Group) (b : Bool) (v : Slot) : (x.setSlot b v).run = x.run := by cases b <;> rfl
@[simp] theorem Group.setSlot_onStage (x : Group) (b : Bool) (v : Slot) : (x.setSlot b v).onStage = x.onStage := by cases b <;> rfl
@[simp] theorem Group.setSlot_yielding (x : Group) (b : Bool) (v : Slot) : (x.setSlot b v).yielding = x.yielding := by cases b <;> rfl
@[simp] theorem Group.setSlot_parked (x : Group) (b : Bool) (v : Slot) : (x.setSlot b v).parked = x.parked := by cases b <;> rfl
@[simp] theorem Group.setSlot_readyAge (x : Group) (b : Bool) (v : Slot) : (x.setSlot b v).readyAge = x.readyAge := by cases b <;> rfl
@[simp] theorem Group.setSlot_parkedAt (x : Group) (b : Bool) (v : Slot) : (x.setSlot b v).parkedAt = x.parkedAt := by cases b <;> rfl
@[simp] theorem Group.setSlot_eligAt (x : Group) (b : Bool) (v : Slot) : (x.setSlot b v).eligAt = x.eligAt := by cases b <;> rfl
@[simp] theorem Group.setSlot_evHold (x : Group) (b : Bool) (v : Slot) : (x.setSlot b v).evHold = x.evHold := by cases b <;> rfl
@[simp] theorem Group.setSlot_dbgHold (x : Group) (b : Bool) (v : Slot) : (x.setSlot b v).dbgHold = x.dbgHold := by cases b <;> rfl
@[simp] theorem Group.setSlot_dbgPend (x : Group) (b : Bool) (v : Slot) : (x.setSlot b v).dbgPend = x.dbgPend := by cases b <;> rfl
@[simp] theorem Group.setSlot_trHold (x : Group) (b : Bool) (v : Slot) : (x.setSlot b v).trHold = x.trHold := by cases b <;> rfl
@[simp] theorem Group.setSlot_stop (x : Group) (b : Bool) (v : Slot) : (x.setSlot b v).stop = x.stop := by cases b <;> rfl
@[simp] theorem Group.setSlot_posted (x : Group) (b : Bool) (v : Slot) : (x.setSlot b v).posted = x.posted := by cases b <;> rfl
@[simp] theorem Group.setSlot_assist (x : Group) (b : Bool) (v : Slot) : (x.setSlot b v).assist = x.assist := by cases b <;> rfl
@[simp] theorem Group.setSlot_outerOf (x : Group) (b : Bool) (v : Slot) : (x.setSlot b v).outerOf = x.outerOf := by cases b <;> rfl
@[simp] theorem Group.setSlot_prods (x : Group) (b : Bool) (v : Slot) : (x.setSlot b v).prods = x.prods := by cases b <;> rfl
@[simp] theorem Group.setSlot_stepsEnd (x : Group) (b : Bool) (v : Slot) : (x.setSlot b v).stepsEnd = x.stepsEnd := by cases b <;> rfl
@[simp] theorem Group.setSlot_openBatch (x : Group) (b : Bool) (v : Slot) : (x.setSlot b v).openBatch = x.openBatch := by cases b <;> rfl
@[simp] theorem Group.setSlot_batches (x : Group) (b : Bool) (v : Slot) : (x.setSlot b v).batches = x.batches := by cases b <;> rfl
@[simp] theorem Group.setSlot_heldFor (x : Group) (b : Bool) (v : Slot) : (x.setSlot b v).heldFor = x.heldFor := by cases b <;> rfl
@[simp] theorem Group.setSlot_heldB (x : Group) (b : Bool) (v : Slot) : (x.setSlot b v).heldB = x.heldB := by cases b <;> rfl
@[simp] theorem Group.setSlot_heldSpilled (x : Group) (b : Bool) (v : Slot) : (x.setSlot b v).heldSpilled = x.heldSpilled := by cases b <;> rfl
@[simp] theorem Group.setSlot_heapUsed (x : Group) (b : Bool) (v : Slot) : (x.setSlot b v).heapUsed = x.heapUsed := by cases b <;> rfl
@[simp] theorem Group.setSlot_ordUsed (x : Group) (b : Bool) (v : Slot) : (x.setSlot b v).ordUsed = x.ordUsed := by cases b <;> rfl
@[simp] theorem Group.setSlot_evicted (x : Group) (b : Bool) (v : Slot) : (x.setSlot b v).evicted = x.evicted := by cases b <;> rfl
@[simp] theorem Group.setSlot_evictedAt (x : Group) (b : Bool) (v : Slot) : (x.setSlot b v).evictedAt = x.evictedAt := by cases b <;> rfl
@[simp] theorem Group.setSlot_cutStop (x : Group) (b : Bool) (v : Slot) : (x.setSlot b v).cutStop = x.cutStop := by cases b <;> rfl
@[simp] theorem Group.setSlot_issued (x : Group) (b : Bool) (v : Slot) : (x.setSlot b v).issued = x.issued := by cases b <;> rfl
@[simp] theorem Group.setSlot_compared (x : Group) (b : Bool) (v : Slot) : (x.setSlot b v).compared = x.compared := by cases b <;> rfl
@[simp] theorem Group.setSlot_events (x : Group) (b : Bool) (v : Slot) : (x.setSlot b v).events = x.events := by cases b <;> rfl
@[simp] theorem Group.setSlot_latent (x : Group) (b : Bool) (v : Slot) : (x.setSlot b v).latent = x.latent := by cases b <;> rfl
@[simp] theorem Group.setSlot_clk (x : Group) (b : Bool) (v : Slot) : (x.setSlot b v).clk = x.clk := by cases b <;> rfl
@[simp] theorem Group.setSlot_rels (x : Group) (b : Bool) (v : Slot) : (x.setSlot b v).rels = x.rels := by cases b <;> rfl
@[simp] theorem Group.setSlot_relFence (x : Group) (b : Bool) (v : Slot) : (x.setSlot b v).relFence = x.relFence := by cases b <;> rfl
@[simp] theorem Group.setSlot_relAt (x : Group) (b : Bool) (v : Slot) : (x.setSlot b v).relAt = x.relAt := by cases b <;> rfl
@[simp] theorem Group.setSlot_fence (x : Group) (b : Bool) (v : Slot) : (x.setSlot b v).fence = x.fence := by cases b <;> rfl
@[simp] theorem Group.setSlot_acqPend (x : Group) (b : Bool) (v : Slot) : (x.setSlot b v).acqPend = x.acqPend := by cases b <;> rfl
@[simp] theorem Group.setSlot_arrClk (x : Group) (b : Bool) (v : Slot) : (x.setSlot b v).arrClk = x.arrClk := by cases b <;> rfl
@[simp] theorem Group.setSlot_scClk (x : Group) (b : Bool) (v : Slot) : (x.setSlot b v).scClk = x.scClk := by cases b <;> rfl

@[simp] theorem Group.advance_uid (x : Group) (b : Bool) : (x.advance b).uid = x.uid := by cases b <;> rfl
@[simp] theorem Group.advance_launch (x : Group) (b : Bool) : (x.advance b).launch = x.launch := by cases b <;> rfl
@[simp] theorem Group.advance_team (x : Group) (b : Bool) : (x.advance b).team = x.team := by cases b <;> rfl
@[simp] theorem Group.advance_index (x : Group) (b : Bool) : (x.advance b).index = x.index := by cases b <;> rfl
@[simp] theorem Group.advance_part (x : Group) (b : Bool) : (x.advance b).part = x.part := by cases b <;> rfl
@[simp] theorem Group.advance_cluster (x : Group) (b : Bool) : (x.advance b).cluster = x.cluster := by cases b <;> rfl
@[simp] theorem Group.advance_slice (x : Group) (b : Bool) : (x.advance b).slice = x.slice := by cases b <;> rfl
@[simp] theorem Group.advance_gslot (x : Group) (b : Bool) : (x.advance b).gslot = x.gslot := by cases b <;> rfl
@[simp] theorem Group.advance_half (x : Group) (b : Bool) : (x.advance b).half = x.half := by cases b <;> rfl
@[simp] theorem Group.advance_width (x : Group) (b : Bool) : (x.advance b).width = x.width := by cases b <;> rfl
@[simp] theorem Group.advance_extent (x : Group) (b : Bool) : (x.advance b).extent = x.extent := by cases b <;> rfl
@[simp] theorem Group.advance_nregs (x : Group) (b : Bool) : (x.advance b).nregs = x.nregs := by cases b <;> rfl
@[simp] theorem Group.advance_regs (x : Group) (b : Bool) : (x.advance b).regs = x.regs := by cases b <;> rfl
@[simp] theorem Group.advance_masks (x : Group) (b : Bool) : (x.advance b).masks = x.masks := by cases b <;> rfl
@[simp] theorem Group.advance_latches (x : Group) (b : Bool) : (x.advance b).latches = x.latches := by cases b <;> rfl
@[simp] theorem Group.advance_fpflags (x : Group) (b : Bool) : (x.advance b).fpflags = x.fpflags := by cases b <;> rfl
@[simp] theorem Group.advance_lbm (x : Group) (b : Bool) : (x.advance b).lbm = x.lbm := by cases b <;> rfl
@[simp] theorem Group.advance_deadMask (x : Group) (b : Bool) : (x.advance b).deadMask = x.deadMask := by cases b <;> rfl
@[simp] theorem Group.advance_deadRead (x : Group) (b : Bool) : (x.advance b).deadRead = x.deadRead := by cases b <;> rfl
@[simp] theorem Group.advance_arrivals (x : Group) (b : Bool) : (x.advance b).arrivals = x.arrivals := by cases b <;> rfl
@[simp] theorem Group.advance_cue (x : Group) (b : Bool) : (x.advance b).cue = x.cue := by cases b <;> rfl
@[simp] theorem Group.advance_stack (x : Group) (b : Bool) : (x.advance b).stack = x.stack := by cases b <;> rfl
@[simp] theorem Group.advance_nextTag (x : Group) (b : Bool) : (x.advance b).nextTag = x.nextTag := by cases b <;> rfl
@[simp] theorem Group.advance_started (x : Group) (b : Bool) : (x.advance b).started = x.started := by cases b <;> rfl
@[simp] theorem Group.advance_run (x : Group) (b : Bool) : (x.advance b).run = x.run := by cases b <;> rfl
@[simp] theorem Group.advance_onStage (x : Group) (b : Bool) : (x.advance b).onStage = x.onStage := by cases b <;> rfl
@[simp] theorem Group.advance_yielding (x : Group) (b : Bool) : (x.advance b).yielding = x.yielding := by cases b <;> rfl
@[simp] theorem Group.advance_parked (x : Group) (b : Bool) : (x.advance b).parked = x.parked := by cases b <;> rfl
@[simp] theorem Group.advance_readyAge (x : Group) (b : Bool) : (x.advance b).readyAge = x.readyAge := by cases b <;> rfl
@[simp] theorem Group.advance_parkedAt (x : Group) (b : Bool) : (x.advance b).parkedAt = x.parkedAt := by cases b <;> rfl
@[simp] theorem Group.advance_eligAt (x : Group) (b : Bool) : (x.advance b).eligAt = x.eligAt := by cases b <;> rfl
@[simp] theorem Group.advance_evHold (x : Group) (b : Bool) : (x.advance b).evHold = x.evHold := by cases b <;> rfl
@[simp] theorem Group.advance_dbgHold (x : Group) (b : Bool) : (x.advance b).dbgHold = x.dbgHold := by cases b <;> rfl
@[simp] theorem Group.advance_dbgPend (x : Group) (b : Bool) : (x.advance b).dbgPend = x.dbgPend := by cases b <;> rfl
@[simp] theorem Group.advance_trHold (x : Group) (b : Bool) : (x.advance b).trHold = x.trHold := by cases b <;> rfl
@[simp] theorem Group.advance_stop (x : Group) (b : Bool) : (x.advance b).stop = x.stop := by cases b <;> rfl
@[simp] theorem Group.advance_posted (x : Group) (b : Bool) : (x.advance b).posted = x.posted := by cases b <;> rfl
@[simp] theorem Group.advance_assist (x : Group) (b : Bool) : (x.advance b).assist = x.assist := by cases b <;> rfl
@[simp] theorem Group.advance_outerOf (x : Group) (b : Bool) : (x.advance b).outerOf = x.outerOf := by cases b <;> rfl
@[simp] theorem Group.advance_prods (x : Group) (b : Bool) : (x.advance b).prods = x.prods := by cases b <;> rfl
@[simp] theorem Group.advance_stepsEnd (x : Group) (b : Bool) : (x.advance b).stepsEnd = x.stepsEnd := by cases b <;> rfl
@[simp] theorem Group.advance_openBatch (x : Group) (b : Bool) : (x.advance b).openBatch = x.openBatch := by cases b <;> rfl
@[simp] theorem Group.advance_batches (x : Group) (b : Bool) : (x.advance b).batches = x.batches := by cases b <;> rfl
@[simp] theorem Group.advance_heldFor (x : Group) (b : Bool) : (x.advance b).heldFor = x.heldFor := by cases b <;> rfl
@[simp] theorem Group.advance_heldB (x : Group) (b : Bool) : (x.advance b).heldB = x.heldB := by cases b <;> rfl
@[simp] theorem Group.advance_heldSpilled (x : Group) (b : Bool) : (x.advance b).heldSpilled = x.heldSpilled := by cases b <;> rfl
@[simp] theorem Group.advance_heapUsed (x : Group) (b : Bool) : (x.advance b).heapUsed = x.heapUsed := by cases b <;> rfl
@[simp] theorem Group.advance_ordUsed (x : Group) (b : Bool) : (x.advance b).ordUsed = x.ordUsed := by cases b <;> rfl
@[simp] theorem Group.advance_evicted (x : Group) (b : Bool) : (x.advance b).evicted = x.evicted := by cases b <;> rfl
@[simp] theorem Group.advance_evictedAt (x : Group) (b : Bool) : (x.advance b).evictedAt = x.evictedAt := by cases b <;> rfl
@[simp] theorem Group.advance_cutStop (x : Group) (b : Bool) : (x.advance b).cutStop = x.cutStop := by cases b <;> rfl
@[simp] theorem Group.advance_issued (x : Group) (b : Bool) : (x.advance b).issued = x.issued := by cases b <;> rfl
@[simp] theorem Group.advance_compared (x : Group) (b : Bool) : (x.advance b).compared = x.compared := by cases b <;> rfl
@[simp] theorem Group.advance_events (x : Group) (b : Bool) : (x.advance b).events = x.events := by cases b <;> rfl
@[simp] theorem Group.advance_latent (x : Group) (b : Bool) : (x.advance b).latent = x.latent := by cases b <;> rfl
@[simp] theorem Group.advance_clk (x : Group) (b : Bool) : (x.advance b).clk = x.clk := by cases b <;> rfl
@[simp] theorem Group.advance_rels (x : Group) (b : Bool) : (x.advance b).rels = x.rels := by cases b <;> rfl
@[simp] theorem Group.advance_relFence (x : Group) (b : Bool) : (x.advance b).relFence = x.relFence := by cases b <;> rfl
@[simp] theorem Group.advance_relAt (x : Group) (b : Bool) : (x.advance b).relAt = x.relAt := by cases b <;> rfl
@[simp] theorem Group.advance_fence (x : Group) (b : Bool) : (x.advance b).fence = x.fence := by cases b <;> rfl
@[simp] theorem Group.advance_acqPend (x : Group) (b : Bool) : (x.advance b).acqPend = x.acqPend := by cases b <;> rfl
@[simp] theorem Group.advance_arrClk (x : Group) (b : Bool) : (x.advance b).arrClk = x.arrClk := by cases b <;> rfl
@[simp] theorem Group.advance_scClk (x : Group) (b : Bool) : (x.advance b).scClk = x.scClk := by cases b <;> rfl

@[simp] theorem Group.goto_uid (x : Group) (b : Bool) (a : BitVec 20) : (x.goto b a).uid = x.uid := by cases b <;> rfl
@[simp] theorem Group.goto_launch (x : Group) (b : Bool) (a : BitVec 20) : (x.goto b a).launch = x.launch := by cases b <;> rfl
@[simp] theorem Group.goto_team (x : Group) (b : Bool) (a : BitVec 20) : (x.goto b a).team = x.team := by cases b <;> rfl
@[simp] theorem Group.goto_index (x : Group) (b : Bool) (a : BitVec 20) : (x.goto b a).index = x.index := by cases b <;> rfl
@[simp] theorem Group.goto_part (x : Group) (b : Bool) (a : BitVec 20) : (x.goto b a).part = x.part := by cases b <;> rfl
@[simp] theorem Group.goto_cluster (x : Group) (b : Bool) (a : BitVec 20) : (x.goto b a).cluster = x.cluster := by cases b <;> rfl
@[simp] theorem Group.goto_slice (x : Group) (b : Bool) (a : BitVec 20) : (x.goto b a).slice = x.slice := by cases b <;> rfl
@[simp] theorem Group.goto_gslot (x : Group) (b : Bool) (a : BitVec 20) : (x.goto b a).gslot = x.gslot := by cases b <;> rfl
@[simp] theorem Group.goto_half (x : Group) (b : Bool) (a : BitVec 20) : (x.goto b a).half = x.half := by cases b <;> rfl
@[simp] theorem Group.goto_width (x : Group) (b : Bool) (a : BitVec 20) : (x.goto b a).width = x.width := by cases b <;> rfl
@[simp] theorem Group.goto_extent (x : Group) (b : Bool) (a : BitVec 20) : (x.goto b a).extent = x.extent := by cases b <;> rfl
@[simp] theorem Group.goto_nregs (x : Group) (b : Bool) (a : BitVec 20) : (x.goto b a).nregs = x.nregs := by cases b <;> rfl
@[simp] theorem Group.goto_regs (x : Group) (b : Bool) (a : BitVec 20) : (x.goto b a).regs = x.regs := by cases b <;> rfl
@[simp] theorem Group.goto_masks (x : Group) (b : Bool) (a : BitVec 20) : (x.goto b a).masks = x.masks := by cases b <;> rfl
@[simp] theorem Group.goto_latches (x : Group) (b : Bool) (a : BitVec 20) : (x.goto b a).latches = x.latches := by cases b <;> rfl
@[simp] theorem Group.goto_fpflags (x : Group) (b : Bool) (a : BitVec 20) : (x.goto b a).fpflags = x.fpflags := by cases b <;> rfl
@[simp] theorem Group.goto_lbm (x : Group) (b : Bool) (a : BitVec 20) : (x.goto b a).lbm = x.lbm := by cases b <;> rfl
@[simp] theorem Group.goto_deadMask (x : Group) (b : Bool) (a : BitVec 20) : (x.goto b a).deadMask = x.deadMask := by cases b <;> rfl
@[simp] theorem Group.goto_deadRead (x : Group) (b : Bool) (a : BitVec 20) : (x.goto b a).deadRead = x.deadRead := by cases b <;> rfl
@[simp] theorem Group.goto_arrivals (x : Group) (b : Bool) (a : BitVec 20) : (x.goto b a).arrivals = x.arrivals := by cases b <;> rfl
@[simp] theorem Group.goto_cue (x : Group) (b : Bool) (a : BitVec 20) : (x.goto b a).cue = x.cue := by cases b <;> rfl
@[simp] theorem Group.goto_stack (x : Group) (b : Bool) (a : BitVec 20) : (x.goto b a).stack = x.stack := by cases b <;> rfl
@[simp] theorem Group.goto_nextTag (x : Group) (b : Bool) (a : BitVec 20) : (x.goto b a).nextTag = x.nextTag := by cases b <;> rfl
@[simp] theorem Group.goto_started (x : Group) (b : Bool) (a : BitVec 20) : (x.goto b a).started = x.started := by cases b <;> rfl
@[simp] theorem Group.goto_run (x : Group) (b : Bool) (a : BitVec 20) : (x.goto b a).run = x.run := by cases b <;> rfl
@[simp] theorem Group.goto_onStage (x : Group) (b : Bool) (a : BitVec 20) : (x.goto b a).onStage = x.onStage := by cases b <;> rfl
@[simp] theorem Group.goto_yielding (x : Group) (b : Bool) (a : BitVec 20) : (x.goto b a).yielding = x.yielding := by cases b <;> rfl
@[simp] theorem Group.goto_parked (x : Group) (b : Bool) (a : BitVec 20) : (x.goto b a).parked = x.parked := by cases b <;> rfl
@[simp] theorem Group.goto_readyAge (x : Group) (b : Bool) (a : BitVec 20) : (x.goto b a).readyAge = x.readyAge := by cases b <;> rfl
@[simp] theorem Group.goto_parkedAt (x : Group) (b : Bool) (a : BitVec 20) : (x.goto b a).parkedAt = x.parkedAt := by cases b <;> rfl
@[simp] theorem Group.goto_eligAt (x : Group) (b : Bool) (a : BitVec 20) : (x.goto b a).eligAt = x.eligAt := by cases b <;> rfl
@[simp] theorem Group.goto_evHold (x : Group) (b : Bool) (a : BitVec 20) : (x.goto b a).evHold = x.evHold := by cases b <;> rfl
@[simp] theorem Group.goto_dbgHold (x : Group) (b : Bool) (a : BitVec 20) : (x.goto b a).dbgHold = x.dbgHold := by cases b <;> rfl
@[simp] theorem Group.goto_dbgPend (x : Group) (b : Bool) (a : BitVec 20) : (x.goto b a).dbgPend = x.dbgPend := by cases b <;> rfl
@[simp] theorem Group.goto_trHold (x : Group) (b : Bool) (a : BitVec 20) : (x.goto b a).trHold = x.trHold := by cases b <;> rfl
@[simp] theorem Group.goto_stop (x : Group) (b : Bool) (a : BitVec 20) : (x.goto b a).stop = x.stop := by cases b <;> rfl
@[simp] theorem Group.goto_posted (x : Group) (b : Bool) (a : BitVec 20) : (x.goto b a).posted = x.posted := by cases b <;> rfl
@[simp] theorem Group.goto_assist (x : Group) (b : Bool) (a : BitVec 20) : (x.goto b a).assist = x.assist := by cases b <;> rfl
@[simp] theorem Group.goto_outerOf (x : Group) (b : Bool) (a : BitVec 20) : (x.goto b a).outerOf = x.outerOf := by cases b <;> rfl
@[simp] theorem Group.goto_prods (x : Group) (b : Bool) (a : BitVec 20) : (x.goto b a).prods = x.prods := by cases b <;> rfl
@[simp] theorem Group.goto_stepsEnd (x : Group) (b : Bool) (a : BitVec 20) : (x.goto b a).stepsEnd = x.stepsEnd := by cases b <;> rfl
@[simp] theorem Group.goto_openBatch (x : Group) (b : Bool) (a : BitVec 20) : (x.goto b a).openBatch = x.openBatch := by cases b <;> rfl
@[simp] theorem Group.goto_batches (x : Group) (b : Bool) (a : BitVec 20) : (x.goto b a).batches = x.batches := by cases b <;> rfl
@[simp] theorem Group.goto_heldFor (x : Group) (b : Bool) (a : BitVec 20) : (x.goto b a).heldFor = x.heldFor := by cases b <;> rfl
@[simp] theorem Group.goto_heldB (x : Group) (b : Bool) (a : BitVec 20) : (x.goto b a).heldB = x.heldB := by cases b <;> rfl
@[simp] theorem Group.goto_heldSpilled (x : Group) (b : Bool) (a : BitVec 20) : (x.goto b a).heldSpilled = x.heldSpilled := by cases b <;> rfl
@[simp] theorem Group.goto_heapUsed (x : Group) (b : Bool) (a : BitVec 20) : (x.goto b a).heapUsed = x.heapUsed := by cases b <;> rfl
@[simp] theorem Group.goto_ordUsed (x : Group) (b : Bool) (a : BitVec 20) : (x.goto b a).ordUsed = x.ordUsed := by cases b <;> rfl
@[simp] theorem Group.goto_evicted (x : Group) (b : Bool) (a : BitVec 20) : (x.goto b a).evicted = x.evicted := by cases b <;> rfl
@[simp] theorem Group.goto_evictedAt (x : Group) (b : Bool) (a : BitVec 20) : (x.goto b a).evictedAt = x.evictedAt := by cases b <;> rfl
@[simp] theorem Group.goto_cutStop (x : Group) (b : Bool) (a : BitVec 20) : (x.goto b a).cutStop = x.cutStop := by cases b <;> rfl
@[simp] theorem Group.goto_issued (x : Group) (b : Bool) (a : BitVec 20) : (x.goto b a).issued = x.issued := by cases b <;> rfl
@[simp] theorem Group.goto_compared (x : Group) (b : Bool) (a : BitVec 20) : (x.goto b a).compared = x.compared := by cases b <;> rfl
@[simp] theorem Group.goto_events (x : Group) (b : Bool) (a : BitVec 20) : (x.goto b a).events = x.events := by cases b <;> rfl
@[simp] theorem Group.goto_latent (x : Group) (b : Bool) (a : BitVec 20) : (x.goto b a).latent = x.latent := by cases b <;> rfl
@[simp] theorem Group.goto_clk (x : Group) (b : Bool) (a : BitVec 20) : (x.goto b a).clk = x.clk := by cases b <;> rfl
@[simp] theorem Group.goto_rels (x : Group) (b : Bool) (a : BitVec 20) : (x.goto b a).rels = x.rels := by cases b <;> rfl
@[simp] theorem Group.goto_relFence (x : Group) (b : Bool) (a : BitVec 20) : (x.goto b a).relFence = x.relFence := by cases b <;> rfl
@[simp] theorem Group.goto_relAt (x : Group) (b : Bool) (a : BitVec 20) : (x.goto b a).relAt = x.relAt := by cases b <;> rfl
@[simp] theorem Group.goto_fence (x : Group) (b : Bool) (a : BitVec 20) : (x.goto b a).fence = x.fence := by cases b <;> rfl
@[simp] theorem Group.goto_acqPend (x : Group) (b : Bool) (a : BitVec 20) : (x.goto b a).acqPend = x.acqPend := by cases b <;> rfl
@[simp] theorem Group.goto_arrClk (x : Group) (b : Bool) (a : BitVec 20) : (x.goto b a).arrClk = x.arrClk := by cases b <;> rfl
@[simp] theorem Group.goto_scClk (x : Group) (b : Bool) (a : BitVec 20) : (x.goto b a).scClk = x.scClk := by cases b <;> rfl

end Sys2Proof.Machine
end

