-- ==== Sys2Proof/Laws/Ops.lean ====
section
/-! SUPPORT. What the shared operations do, said once: reading after an update, the tests before an issue, the issue of a
lane word, the registers, masks and latches of a group. -/

namespace Sys2Proof.Machine

/-! ### Reading after an update -/

@[simp] theorem State.group?_setGroup (s : State) (g k : Nat) (x : Group) :
    (s.setGroup g x).group? k = if k = g then some x else s.group? k := Sp.get?_set _ _ _ _
@[simp] theorem State.team?_setTeam (s : State) (t k : Nat) (x : Team) :
    (s.setTeam t x).team? k = if k = t then some x else s.team? k := Sp.get?_set _ _ _ _
@[simp] theorem State.ctx?_setCtx (s : State) (c k : Nat) (x : Ctx) :
    (s.setCtx c x).ctx? k = if k = c then some x else s.ctx? k := Sp.get?_set _ _ _ _
@[simp] theorem State.launch?_setLaunch (s : State) (l k : Nat) (x : Launch) :
    (s.setLaunch l x).launch? k = if k = l then some x else s.launch? k := Sp.get?_set _ _ _ _
@[simp] theorem State.group?_modGroup (s : State) (g k : Nat) (f : Group → Group) :
    (s.modGroup g f).group? k = if k = g then (s.group? k).map f else s.group? k := Sp.get?_modify _ _ _ _
@[simp] theorem State.team?_modTeam (s : State) (t k : Nat) (f : Team → Team) :
    (s.modTeam t f).team? k = if k = t then (s.team? k).map f else s.team? k := Sp.get?_modify _ _ _ _
@[simp] theorem State.ctx?_modCtx (s : State) (c k : Nat) (f : Ctx → Ctx) :
    (s.modCtx c f).ctx? k = if k = c then (s.ctx? k).map f else s.ctx? k := Sp.get?_modify _ _ _ _
@[simp] theorem State.launch?_modLaunch (s : State) (l k : Nat) (f : Launch → Launch) :
    (s.modLaunch l f).launch? k = if k = l then (s.launch? k).map f else s.launch? k := Sp.get?_modify _ _ _ _

theorem Sp.getD_set {α : Type} (m : Sp α) (k i : Nat) (v d : α) :
    Sp.getD (Sp.set m k v) i d = if i = k then v else Sp.getD m i d := by
  unfold Sp.getD; rw [Sp.get?_set]; split <;> rfl

@[simp] theorem State.cluster_setCluster (s : State) (c k : Nat) (x : Cluster) :
    (s.setCluster c x).cluster k = if k = c then x else s.cluster k := Sp.getD_set _ _ _ _ _
@[simp] theorem State.part_setPart (s : State) (p k : Nat) (x : Part) :
    (s.setPart p x).part k = if k = p then x else s.part k := Sp.getD_set _ _ _ _ _
@[simp] theorem State.queue_setQueue (s : State) (q k : Nat) (x : Queue) :
    (s.setQueue q x).queue k = if k = q then x else s.queue k := Sp.getD_set _ _ _ _ _
@[simp] theorem State.port_setPort (s : State) (p k : Nat) (x : Port) :
    (s.setPort p x).port k = if k = p then x else s.port k := Sp.getD_set _ _ _ _ _
@[simp] theorem State.cluster_modCluster (s : State) (c k : Nat) (f : Cluster → Cluster) :
    (s.modCluster c f).cluster k = if k = c then f (s.cluster c) else s.cluster k := s.cluster_setCluster c k _
@[simp] theorem State.part_modPart (s : State) (p k : Nat) (f : Part → Part) :
    (s.modPart p f).part k = if k = p then f (s.part p) else s.part k := s.part_setPart p k _
@[simp] theorem State.queue_modQueue (s : State) (q k : Nat) (f : Queue → Queue) :
    (s.modQueue q f).queue k = if k = q then f (s.queue q) else s.queue k := s.queue_setQueue q k _
@[simp] theorem State.port_modPort (s : State) (p k : Nat) (f : Port → Port) :
    (s.modPort p f).port k = if k = p then f (s.port p) else s.port k := s.port_setPort p k _

/-! ### The slots of a group -/

@[simp] theorem Group.slot_setSlot (x : Group) (b c : Bool) (v : Slot) :
    (x.setSlot b v).slot c = if c = b then v else x.slot c := by cases b <;> cases c <;> rfl
@[simp] theorem Group.slot_modSlot (x : Group) (b c : Bool) (f : Slot → Slot) :
    (x.modSlot b f).slot c = if c = b then f (x.slot b) else x.slot c := x.slot_setSlot b c _
@[simp] theorem Group.slot_advance (x : Group) (b c : Bool) :
    (x.advance b).slot c =
      if c = b then { x.slot b with pc := (x.slot b).pc + 1, past := (x.slot b).past || offOf (x.slot b).pc == 4095, wait := .run, waitAt := 0, wants := [] }
      else x.slot c := x.slot_setSlot b c _
@[simp] theorem Group.slot_goto (x : Group) (b c : Bool) (a : BitVec 20) :
    (x.goto b a).slot c = if c = b then { x.slot b with pc := a, past := false, wait := .run, waitAt := 0, wants := [] } else x.slot c := x.slot_setSlot b c _

/-! ### The registers, masks and latches of a group -/

theorem Group.reg_congr {x y : Group} (h : y.regs = x.regs) (n lane : Nat) : y.reg n lane = x.reg n lane := by
  unfold Group.reg; rw [h]

/-- A register written, for lanes of a group (there are at most 64). -/
theorem Group.reg_setReg (x : Group) (n lane m j : Nat) (v : Word) (h : lane < 64) (hj : j < 64) :
    (x.setReg n lane v).reg m j = if m = n ∧ j = lane then v else x.reg m j := by
  unfold Group.reg Group.setReg
  simp only [Sp.getD_put]
  by_cases hc : m * 64 + j = n * 64 + lane
  · rw [if_pos hc, if_pos (by omega)]
  · rw [if_neg hc, if_neg (by omega)]

/-- Registers written one after the other, the least significant part first. -/
theorem Group.reg_setRegs (x : Group) (r lane v k m j : Nat) (h : lane < 64) (hj : j < 64) :
    (x.setRegs r lane v k).reg m j =
      if r ≤ m ∧ m < r + k ∧ j = lane then BitVec.ofNat 32 (v / 2 ^ (32 * (m - r))) else x.reg m j := by
  induction k generalizing x r v with
  | zero => rw [if_neg (by omega)]; rfl
  | succ k ih =>
    rw [Group.setRegs, ih, Group.reg_setReg _ _ _ _ _ _ h hj]
    by_cases h1 : r + 1 ≤ m ∧ m < r + 1 + k ∧ j = lane
    · rw [if_pos h1, if_pos (by omega), Nat.div_div_eq_div_mul, ← Nat.pow_add]
      congr 3; omega
    · rw [if_neg h1]
      by_cases h2 : m = r ∧ j = lane
      · rw [if_pos h2, if_pos (by omega), show m - r = 0 by omega]; simp
      · rw [if_neg h2, if_neg (by omega)]

/-- What registers written one after the other leave of a group. -/
theorem Group.setRegs_frame (x : Group) (r lane v k : Nat) :
    x.setRegs r lane v k = { x with regs := (x.setRegs r lane v k).regs, latent := (x.setRegs r lane v k).latent } := by
  induction k generalizing x r v with
  | zero => rfl
  | succ k ih => rw [Group.setRegs, ih]; rfl

@[simp] theorem Group.maskReg_zero (x : Group) : x.maskReg 0 = BitVec.allOnes 64 := rfl

theorem Group.maskReg_setMask (x : Group) (n m : Nat) (v : DWord) :
    (x.setMask n v).maskReg m = if m = n ∧ n ≠ 0 then v else x.maskReg m := by
  unfold Group.setMask Group.maskReg
  by_cases hn : n = 0
  · simp [hn]
  · by_cases hm : m = 0
    · simp [hm, hn]; omega
    · simp only [hn, hm, if_false, Sp.getD_put]
      by_cases h : m = n <;> simp [h, hn]

/-- One bit of a mask register written; m0 discards the write. -/
theorem Group.mask_setMaskBit (x : Group) (n lane m j : Nat) (v : Bool) (h : lane < 64) :
    ((x.setMaskBit n lane v).maskReg m).getLsbD j =
      if m = n ∧ n ≠ 0 ∧ j = lane then v else (x.maskReg m).getLsbD j := by
  unfold Group.setMaskBit
  rw [Group.maskReg_setMask]
  by_cases hm : m = n ∧ n ≠ 0
  · obtain ⟨rfl, hn⟩ := hm
    rw [if_pos ⟨rfl, hn⟩]
    by_cases hj : j = lane
    · subst hj
      cases v <;> simp [hn, h]
    · have hb : (1#64 <<< lane).getLsbD j = false := by
        rw [BitVec.getLsbD_shiftLeft]
        by_cases hl : j < lane
        · simp [hl]
        · have : j - lane ≠ 0 := by omega
          simp [this]
      rw [if_neg (show ¬ (m = m ∧ m ≠ 0 ∧ j = lane) by simp [hj])]
      by_cases hj64 : j < 64
      · cases v <;> simp only [if_true, if_false, Bool.false_eq_true, BitVec.getLsbD_or, BitVec.getLsbD_and, BitVec.getLsbD_not, hb, hj64] <;> simp
      · rw [BitVec.getLsbD_of_ge _ _ (by omega), BitVec.getLsbD_of_ge _ _ (by omega)]
  · rw [if_neg hm, if_neg (by tauto)]

@[simp] theorem Group.latch_setLatch (x : Group) (l lane k j : Nat) (v : DWord) (h : lane < 64) (hj : j < 64) :
    (x.setLatch l lane v).latch? k j = if k = l ∧ j = lane then some v else x.latch? k j := by
  unfold Group.latch? Group.setLatch
  rw [Sp.get?_set]
  by_cases hc : k * 64 + j = l * 64 + lane
  · rw [if_pos hc, if_pos (by omega)]
  · rw [if_neg hc, if_neg (by omega)]

@[simp] theorem Group.flags_raise (x : Group) (lane j : Nat) (f : Fl) :
    (x.raise lane f).flags j = if j = lane then x.flags lane ||| BitVec.ofNat 32 f.toNat else x.flags j := by
  unfold Group.flags Group.raise
  simp only [Sp.getD_put]; rfl

theorem Group.flags_setFlags (x : Group) (lane j : Nat) (v : Word) :
    (x.setFlags lane v).flags j = if j = lane then v &&& 0x1F else x.flags j := by
  unfold Group.flags Group.setFlags
  simp only [Sp.getD_put]

end Sys2Proof.Machine
end

