-- ==== Sys2Proof/Laws/Issue.lean ====
section
/-! SUPPORT. The issue of a lane word that computes in registers: what one lane's result writes, what a fold over the
writing lanes leaves, the chain of a linked word, and the issue as a whole. -/

namespace Sys2Proof.Machine

/-! ### One lane's result -/

theorem Group.writeDst_reg (x : Group) (k : FieldKind) (d lane v m j : Nat) (h : lane < 64) (hj : j < 64) :
    (x.writeDst k d lane v).reg m j =
      if d ≤ m ∧ m < d + fieldRegs k ∧ j = lane then BitVec.ofNat 32 (v / 2 ^ (32 * (m - d))) else x.reg m j := by
  cases k with
  | dstMask =>
    rw [if_neg (by simp [fieldRegs]; omega)]
    show (x.setMaskBit d lane _).reg m j = _
    unfold Group.setMaskBit Group.setMask Group.reg; split <;> rfl
  | _ => exact Group.reg_setRegs x d lane v _ m j h hj

theorem Group.writeDst_mask (x : Group) (k : FieldKind) (d lane v m j : Nat) (h : lane < 64) :
    ((x.writeDst k d lane v).maskReg m).getLsbD j =
      if k = .dstMask ∧ m = d ∧ d ≠ 0 ∧ j = lane then v % 2 == 1 else (x.maskReg m).getLsbD j := by
  cases k with
  | dstMask => simp only [true_and]; exact Group.mask_setMaskBit x d lane m j _ h
  | _ => rw [if_neg (by simp)]; show ((x.setRegs d lane v _).maskReg m).getLsbD j = _; rw [Group.setRegs_frame]; rfl

/-- What a destination leaves of a group. -/
theorem Group.writeDst_frame (x : Group) (k : FieldKind) (d lane v : Nat) :
    x.writeDst k d lane v =
      { x with regs := (x.writeDst k d lane v).regs, masks := (x.writeDst k d lane v).masks, latent := (x.writeDst k d lane v).latent } := by
  cases k with
  | dstMask => show x.setMaskBit d lane _ = _; unfold Group.writeDst Group.setMaskBit Group.setMask; split <;> rfl
  | _ => show x.setRegs d lane v _ = _; unfold Group.writeDst; simp only; rw [Group.setRegs_frame]

theorem Alu.put_reg (al : Alu) (o : Ops) (x : Group) (lane m j : Nat) (r : Nat × Fl) (h : lane < 64) (hj : j < 64) :
    (al.put o x lane r).reg m j =
      if o.k = true ∧ o.d ≤ m ∧ m < o.d + fieldRegs al.d ∧ j = lane then BitVec.ofNat 32 (r.1 / 2 ^ (32 * (m - o.d))) else x.reg m j := by
  unfold Alu.put
  cases o.k <;> cases al.latch <;> simp [Group.reg, Group.raise, Group.setLatch] <;> exact Group.writeDst_reg x _ _ _ _ _ _ h hj

theorem Alu.put_mask (al : Alu) (o : Ops) (x : Group) (lane m j : Nat) (r : Nat × Fl) (h : lane < 64) :
    ((al.put o x lane r).maskReg m).getLsbD j =
      if o.k = true ∧ al.d = .dstMask ∧ m = o.d ∧ o.d ≠ 0 ∧ j = lane then r.1 % 2 == 1 else (x.maskReg m).getLsbD j := by
  have hw := Group.writeDst_mask x al.d o.d lane r.1 m j h
  unfold Alu.put
  cases o.k <;> cases al.latch <;> simp [Group.raise, Group.setLatch] <;> simp [Group.maskReg] <;> exact hw

theorem Group.writeDst_latches (x : Group) (k : FieldKind) (d lane v : Nat) : (x.writeDst k d lane v).latches = x.latches := by
  rw [Group.writeDst_frame]
theorem Group.writeDst_fpflags (x : Group) (k : FieldKind) (d lane v : Nat) : (x.writeDst k d lane v).fpflags = x.fpflags := by
  rw [Group.writeDst_frame]

theorem Alu.put_latch (al : Alu) (o : Ops) (x : Group) (lane l j : Nat) (r : Nat × Fl) (h : lane < 64) (hj : j < 64) :
    (al.put o x lane r).latch? l j =
      if al.latch = true ∧ l = o.ld ∧ j = lane then some (BitVec.ofNat 64 r.1) else x.latch? l j := by
  unfold Alu.put
  have hw := Group.writeDst_latches x al.d o.d lane r.1
  cases o.k <;> cases al.latch <;> simp only [if_true, if_false, Bool.false_eq_true, false_and, true_and, Group.latch?, Group.raise, Group.setLatch, hw]
  all_goals
    rw [Sp.get?_set]
    by_cases hc : l * 64 + j = o.ld * 64 + lane
    · rw [if_pos hc, if_pos (by omega)]
    · rw [if_neg hc, if_neg (by omega)]

theorem Alu.put_flags (al : Alu) (o : Ops) (x : Group) (lane j : Nat) (r : Nat × Fl) :
    (al.put o x lane r).flags j = if j = lane then x.flags lane ||| BitVec.ofNat 32 r.2.toNat else x.flags j := by
  have hw := Group.writeDst_fpflags x al.d o.d lane r.1
  unfold Alu.put
  simp only [Group.flags_raise]
  cases o.k <;> cases al.latch <;> simp only [if_true, if_false, Bool.false_eq_true, Group.flags, Group.setLatch, hw]

/-- A result writes registers, masks, latches and flags, and clears a latent error. -/
theorem Alu.put_frame (al : Alu) (o : Ops) (x : Group) (lane : Nat) (r : Nat × Fl) :
    al.put o x lane r =
      { x with regs := (al.put o x lane r).regs, masks := (al.put o x lane r).masks, latches := (al.put o x lane r).latches,
               fpflags := (al.put o x lane r).fpflags, latent := (al.put o x lane r).latent } := by
  unfold Alu.put
  have hw := Group.writeDst_frame x al.d o.d lane r.1
  cases o.k <;> cases al.latch <;> simp only [if_true, if_false, Bool.false_eq_true]
  · rfl
  · rfl
  · rw [hw]; rfl
  · rw [hw]; rfl

/-! ### All writing lanes -/

/-- The results of some lanes written, one lane after the other. -/
theorem Alu.fold_reg (al : Alu) (o : Ops) (res : Nat → Nat × Fl) (ws : List Nat) (x : Group) (m j : Nat)
    (h : ∀ i ∈ ws, i < 64) (hj : j < 64) :
    (ws.foldl (fun y i => al.put o y i (res i)) x).reg m j =
      if o.k = true ∧ o.d ≤ m ∧ m < o.d + fieldRegs al.d ∧ j ∈ ws then BitVec.ofNat 32 ((res j).1 / 2 ^ (32 * (m - o.d))) else x.reg m j := by
  induction ws generalizing x with
  | nil => simp
  | cons i ws ih =>
    rw [List.foldl_cons, ih _ (fun k hk => h k (List.mem_cons_of_mem _ hk)), Alu.put_reg _ _ _ _ _ _ _ (h i (by simp)) hj]
    by_cases h1 : o.k = true ∧ o.d ≤ m ∧ m < o.d + fieldRegs al.d ∧ j ∈ ws
    · rw [if_pos h1, if_pos ⟨h1.1, h1.2.1, h1.2.2.1, List.mem_cons_of_mem _ h1.2.2.2⟩]
    · rw [if_neg h1]
      by_cases h2 : o.k = true ∧ o.d ≤ m ∧ m < o.d + fieldRegs al.d ∧ j = i
      · rw [if_pos h2, if_pos ⟨h2.1, h2.2.1, h2.2.2.1, by simp [h2.2.2.2]⟩, h2.2.2.2]
      · rw [if_neg h2, if_neg (by simp only [List.mem_cons]; tauto)]

theorem Alu.fold_mask (al : Alu) (o : Ops) (res : Nat → Nat × Fl) (ws : List Nat) (x : Group) (m j : Nat)
    (h : ∀ i ∈ ws, i < 64) :
    ((ws.foldl (fun y i => al.put o y i (res i)) x).maskReg m).getLsbD j =
      if o.k = true ∧ al.d = .dstMask ∧ m = o.d ∧ o.d ≠ 0 ∧ j ∈ ws then (res j).1 % 2 == 1 else (x.maskReg m).getLsbD j := by
  induction ws generalizing x with
  | nil => simp
  | cons i ws ih =>
    rw [List.foldl_cons, ih _ (fun k hk => h k (List.mem_cons_of_mem _ hk)), Alu.put_mask _ _ _ _ _ _ _ (h i (by simp))]
    by_cases h1 : o.k = true ∧ al.d = .dstMask ∧ m = o.d ∧ o.d ≠ 0 ∧ j ∈ ws
    · rw [if_pos h1, if_pos ⟨h1.1, h1.2.1, h1.2.2.1, h1.2.2.2.1, List.mem_cons_of_mem _ h1.2.2.2.2⟩]
    · rw [if_neg h1]
      by_cases h2 : o.k = true ∧ al.d = .dstMask ∧ m = o.d ∧ o.d ≠ 0 ∧ j = i
      · rw [if_pos h2, if_pos ⟨h2.1, h2.2.1, h2.2.2.1, h2.2.2.2.1, by simp [h2.2.2.2.2]⟩, h2.2.2.2.2]
      · rw [if_neg h2, if_neg (by simp only [List.mem_cons]; tauto)]

theorem Alu.fold_latch (al : Alu) (o : Ops) (res : Nat → Nat × Fl) (ws : List Nat) (x : Group) (l j : Nat)
    (h : ∀ i ∈ ws, i < 64) (hj : j < 64) :
    (ws.foldl (fun y i => al.put o y i (res i)) x).latch? l j =
      if al.latch = true ∧ l = o.ld ∧ j ∈ ws then some (BitVec.ofNat 64 (res j).1) else x.latch? l j := by
  induction ws generalizing x with
  | nil => simp
  | cons i ws ih =>
    rw [List.foldl_cons, ih _ (fun k hk => h k (List.mem_cons_of_mem _ hk)), Alu.put_latch _ _ _ _ _ _ _ (h i (by simp)) hj]
    by_cases h1 : al.latch = true ∧ l = o.ld ∧ j ∈ ws
    · rw [if_pos h1, if_pos ⟨h1.1, h1.2.1, List.mem_cons_of_mem _ h1.2.2⟩]
    · rw [if_neg h1]
      by_cases h2 : al.latch = true ∧ l = o.ld ∧ j = i
      · rw [if_pos h2, if_pos ⟨h2.1, h2.2.1, by simp [h2.2.2]⟩, h2.2.2]
      · rw [if_neg h2, if_neg (by simp only [List.mem_cons]; tauto)]

theorem Alu.fold_flags (al : Alu) (o : Ops) (res : Nat → Nat × Fl) (ws : List Nat) (x : Group) (j : Nat) :
    (ws.foldl (fun y i => al.put o y i (res i)) x).flags j =
      if j ∈ ws then x.flags j ||| BitVec.ofNat 32 (res j).2.toNat else x.flags j := by
  induction ws generalizing x with
  | nil => simp
  | cons i ws ih =>
    rw [List.foldl_cons, ih, Alu.put_flags]
    by_cases h1 : j ∈ ws
    · by_cases h2 : j = i
      · subst h2; simp [h1, BitVec.or_assoc]
      · simp [h1, h2]
    · by_cases h2 : j = i
      · subst h2; simp [h1]
      · simp [h1, h2]

theorem Alu.fold_frame (al : Alu) (o : Ops) (res : Nat → Nat × Fl) (ws : List Nat) (x : Group) :
    ws.foldl (fun y i => al.put o y i (res i)) x =
      let y := ws.foldl (fun y i => al.put o y i (res i)) x
      { x with regs := y.regs, masks := y.masks, latches := y.latches, fpflags := y.fpflags, latent := y.latent } := by
  induction ws generalizing x with
  | nil => rfl
  | cons i ws ih =>
    rw [List.foldl_cons, ih]
    have := Alu.put_frame al o x i (res i)
    simp only at this ⊢
    generalize al.put o x i (res i) = z at this ⊢
    rw [this]

/-- The lanes that write are lanes of the group, below 64. -/
theorem Group.writers_lt {x : Group} {b : Bool} {p : Nat} {pn : Bool} {j : Nat} (h : j ∈ x.writers b p pn) : j < 64 := by
  simp only [Group.writers, List.mem_filter, Group.writes, Bool.and_eq_true] at h
  by_contra hc
  have : laneBit (x.slot b).mask j = false := BitVec.getLsbD_of_ge _ _ (by omega)
  simp [this] at h

theorem Group.mem_writers {x : Group} {b : Bool} {p : Nat} {pn : Bool} {j : Nat} :
    j ∈ x.writers b p pn ↔ j < x.width ∧ x.writes b p pn j = true := by
  simp [Group.writers, List.mem_filter]

/-! ### The chain of a linked word -/

/-- The first n lanes of a chain: the results of the writing ones, each with the link value it meets, and what is left. -/
theorem Alu.chain_prefix (al : Alu) (o : Ops) (x : Group) (ws : List Nat) (carry : DWord) (restart : Bool) (n : Nat) :
    (List.range n).foldl (al.chainLane o x x.lbm ws) (x, carry, restart) =
      (((List.range n).filter (fun j => ws.contains j)).foldl
          (fun y j => al.put o y j (al.at_ o x j (Claims.linkValueAt al o x ws carry restart j))) x,
        Claims.linkAt al o x ws carry restart n) := by
  induction n with
  | zero => rfl
  | succ n ih =>
    rw [List.range_succ, List.foldl_append, List.filter_append, List.foldl_append, ih, List.foldl_cons, List.foldl_nil]
    by_cases hw : n ∈ ws
    · simp only [Alu.chainLane, List.filter_cons, List.filter_nil, List.contains_iff_mem.mpr hw, if_true, List.foldl_cons,
        List.foldl_nil, Claims.linkAt, hw, Claims.linkValueAt]
    · have hc : ws.contains n = false := by simpa using hw
      simp only [Alu.chainLane, List.filter_cons, List.filter_nil, hc, Bool.false_eq_true, if_false, List.foldl_nil, Claims.linkAt, hw]

/-- The writing lanes of a group are those of a range that pass the test. -/
theorem Group.filter_writers (x : Group) (b : Bool) (p : Nat) (pn : Bool) :
    (List.range x.width).filter (fun j => (x.writers b p pn).contains j) = x.writers b p pn := by
  have h : ∀ j ∈ List.range x.width, (x.writers b p pn).contains j = x.writes b p pn j := by
    intro j hj
    have hj : j < x.width := by simpa using hj
    rw [Bool.eq_iff_iff, List.contains_iff_mem, Group.mem_writers]
    simp [hj]
  rw [List.filter_congr h]; rfl

/-! ### The issue as a whole -/

theorem State.withLane_of {s : State} {g : Nat} {b : Bool} {x : Group} (hc : s.cur = .lane g b) (hg : s.group? g = some x)
    (f : Nat → Bool → Group → State) : s.withLane f = .next (f g b x) := by
  simp [State.withLane, hc, hg]

/-- The tests before an issue pass where the group may issue, its slot runs, no named register is outside the allocation
or awaits a reply, and no named latch is lost. -/
theorem State.gate_go {s : State} {g : Nat} {b : Bool} {x : Group} {ws : List Nat} {uni : Bool} {srcs dst : List Named}
    (hm : s.mayIssue g x = true) (hl : (x.slot b).mask ≠ 0) (hr : (x.slot b).wait = .run)
    (ho : ws = [] ∨ ∀ f ∈ srcs ++ dst, Named.outside x f = false)
    (ht : ∀ j ∈ (if uni then (if ws.isEmpty then [] else [x.uniformLane]) else ws), ∀ f ∈ srcs, Named.lost x j f = false)
    (ha : ∀ f ∈ srcs ++ dst, ∀ r ∈ Named.regs f, s.awaited g x r = false) :
    s.gate g b x ws uni srcs dst = .go := by
  unfold State.gate
  rw [if_neg (by simp [hm, Slot.live, hr]; exact hl)]
  rw [if_neg (by
    rcases ho with rfl | ho
    · simp
    · have : (srcs ++ dst).any (fun f => Named.outside x f) = false := by
        rw [List.any_eq_false]; intro f hf; simp [ho f hf]
      simp [this])]
  simp only
  have hlost : ((if uni then (if ws.isEmpty then [] else [x.uniformLane]) else ws).filter
      (fun j => srcs.any (fun f => Named.lost x j f))) = [] := by
    rw [List.filter_eq_nil_iff]
    intro j hj
    simp only [List.any_eq_true, not_exists, not_and, Bool.not_eq_true]
    exact fun f hf => ht j hj f hf
  rw [hlost, if_neg (by simp)]
  have hw : (((srcs ++ dst).flatMap Named.regs).filter (fun r => s.awaited g x r)) = [] := by
    rw [List.filter_eq_nil_iff]
    intro r hrr
    obtain ⟨f, hf, hr'⟩ := List.mem_flatMap.mp hrr
    simp [ha f hf r hr']
  rw [hw]

/-- One issue changes its own group, and the activity count of a context. -/
theorem State.noteIssue_group? {s : State} {g : Nat} {x : Group} (hg : s.group? g = some x) (b : Bool) (ps : List Producer) (k : Nat) :
    (s.noteIssue g b ps).group? k = if k = g then some (x.issuedAt b (s.sliceNow x) ps) else s.group? k := by
  unfold State.noteIssue
  rw [hg]
  simp only
  split <;> (show State.group? (State.setGroup s g (x.issuedAt b (s.sliceNow x) ps)) k = _; exact State.group?_setGroup _ _ _ _)

theorem Group.unpark_frame (x : Group) (n : Nat) :
    x.unpark n = { x with parked := (x.unpark n).parked, readyAge := (x.unpark n).readyAge } := by
  unfold Group.unpark; split <;> rfl

@[simp] theorem Group.unpark_slot (x : Group) (n : Nat) (c : Bool) : (x.unpark n).slot c = x.slot c := by
  rw [Group.unpark_frame]; cases c <;> rfl

theorem State.noteIssue_ctx? (s : State) (g : Nat) (b : Bool) (ps : List Producer) (c : Nat) :
    ((s.noteIssue g b ps).ctx? c).map (fun y => { y with laneSteps := 0 }) = (s.ctx? c).map (fun y => { y with laneSteps := 0 }) := by
  unfold State.noteIssue
  split
  · rfl
  · simp only
    split
    · rfl
    · rw [State.ctx?_modCtx]
      split
      · rw [Option.map_map]; rfl
      · rfl

theorem State.noteIssue_frame (s : State) (g : Nat) (b : Bool) (ps : List Producer) :
    s.noteIssue g b ps = { s with groups := (s.noteIssue g b ps).groups, ctxs := (s.noteIssue g b ps).ctxs } := by
  unfold State.noteIssue
  split
  · rfl
  · simp only
    split <;> rfl

/-- No lane consumes an error where no register that is read holds one (R453). -/
theorem Group.consumers_nil {x : Group} {lanes : List Nat} {srcs : List Named}
    (h : ∀ j ∈ lanes, ∀ f ∈ srcs, ∀ r ∈ Named.regs f, r * 64 + j ∉ x.latent) : x.consumers lanes srcs = [] := by
  unfold Group.consumers
  split
  · rfl
  · rw [List.filter_eq_nil_iff]
    intro j hj hc
    simp only [List.any_eq_true, List.mem_flatMap, List.contains_iff_mem] at hc
    obtain ⟨r, ⟨f, hf, hr⟩, hm⟩ := hc
    exact h j hj f hf r hr hm

/-- The end of an issue: a group that differs from x in registers, masks, latches and flags goes to the next word, one issue
later, and nothing else changes. -/
theorem State.issue_spec {s : State} {g : Nat} {x y : Group} (b : Bool) (ps : List Producer)
    (hy : y = { x with regs := y.regs, masks := y.masks, latches := y.latches, fpflags := y.fpflags, latent := y.latent }) :
    ∃ z, ((s.setGroup g (y.advance b)).noteIssue g b ps).group? g = some z
      ∧ z.regs = y.regs ∧ z.masks = y.masks ∧ z.latches = y.latches ∧ z.fpflags = y.fpflags
      ∧ Claims.IssuedAs x z b ∧ Claims.OnlyGroup s ((s.setGroup g (y.advance b)).noteIssue g b ps) g
      ∧ Claims.SameBytes s ((s.setGroup g (y.advance b)).noteIssue g b ps) := by
  have hgr := State.noteIssue_group? (s := s.setGroup g (y.advance b)) (g := g) (x := y.advance b) (by simp) b ps
  have hfr := State.noteIssue_frame (s.setGroup g (y.advance b)) g b ps
  generalize hz : (y.advance b).issuedAt b ((s.setGroup g (y.advance b)).sliceNow (y.advance b)) ps = z at hgr
  have hzf : z = { y with slotA := z.slotA, slotB := z.slotB, issued := y.issued + 1, prods := z.prods, stepsEnd := z.stepsEnd,
                          parked := z.parked, readyAge := z.readyAge } := by
    rw [← hz]; unfold Group.issuedAt; rw [Group.unpark_frame]; cases b <;> rfl
  have hs : ∀ c, y.slot c = x.slot c := by intro c; rw [hy]; cases c <;> rfl
  have hzs : z.slot b = { x.slot b with pc := (x.slot b).pc + 1, past := (x.slot b).past || offOf (x.slot b).pc == 4095, wait := .run, waitAt := 0,
                                        wants := [], age := (s.setGroup g (y.advance b)).sliceNow (y.advance b) } := by
    rw [← hz, ← hs b]; unfold Group.issuedAt; rw [Group.unpark_slot]; cases b <;> rfl
  have hzo : z.slot (!b) = x.slot (!b) := by
    rw [← hz, ← hs (!b)]; unfold Group.issuedAt; rw [Group.unpark_slot]; cases b <;> rfl
  refine ⟨z, by rw [hgr]; simp, by rw [hzf], by rw [hzf], by rw [hzf], by rw [hzf],
    ⟨?_, by rw [hzs], by rw [hzs], by rw [hzs], by rw [hzs], hzo⟩, ⟨by rw [hfr]; rfl, ?_, ?_⟩, ⟨?_, ?_⟩⟩
  · rw [hzf, hy]
  · intro k hk; rw [hgr, if_neg hk]; simp [hk]
  · intro c; rw [State.noteIssue_ctx?]; rfl
  · intro a; rw [hfr]; rfl
  · intro k a; rw [hfr]; rfl

/-- Results folded onto a group are written as `Claims.Wrote` says. -/
theorem Alu.fold_wrote (al : Alu) (o : Ops) (res : Nat → Nat × Fl) (ws : List Nat) (x z : Group) (h : ∀ i ∈ ws, i < 64)
    (hr : z.regs = (ws.foldl (fun y i => al.put o y i (res i)) x).regs) (hm : z.masks = (ws.foldl (fun y i => al.put o y i (res i)) x).masks)
    (hl : z.latches = (ws.foldl (fun y i => al.put o y i (res i)) x).latches)
    (hf : z.fpflags = (ws.foldl (fun y i => al.put o y i (res i)) x).fpflags) :
    Claims.Wrote x z o.k al.d o.d (if al.latch then some o.ld else none) ws res := by
  refine ⟨?_, ?_, ?_, ?_⟩
  · intro n j hj
    rw [Group.reg_congr hr, Alu.fold_reg al o res ws x n j h hj]
  · intro m j
    rw [show z.maskReg m = (ws.foldl (fun y i => al.put o y i (res i)) x).maskReg m by unfold Group.maskReg; rw [hm],
      Alu.fold_mask al o res ws x m j h]
  · intro l j hj
    rw [show z.latch? l j = (ws.foldl (fun y i => al.put o y i (res i)) x).latch? l j by unfold Group.latch?; rw [hl],
      Alu.fold_latch al o res ws x l j h hj]
    cases al.latch <;> simp [eq_comm]
  · intro j
    rw [show z.flags j = (ws.foldl (fun y i => al.put o y i (res i)) x).flags j by unfold Group.flags; rw [hf],
      Alu.fold_flags al o res ws x j]

end Sys2Proof.Machine
end

