-- ==== Sys2Proof/Laws/CrossLane.lean ====
section
/-! SUPPORT. The issue of a cross-lane word: what a fold that writes one lane after another leaves, and the issue as a whole. -/

namespace Sys2Proof.Claims

open Sys2Proof Sys2Proof.Machine

theorem Wrote.nil (x on k d latch r) : Wrote x x on k d latch [] r :=
  ⟨fun _ _ _ => by simp, fun _ _ => by simp, fun _ _ _ => by simp, fun _ => by simp⟩

theorem Wrote.cons {x y z on k d latch i ws r} (h1 : Wrote x y on k d latch [i] r) (h2 : Wrote y z on k d latch ws r) :
    Wrote x z on k d latch (i :: ws) r := by
  refine ⟨?_, ?_, ?_, ?_⟩
  · intro n j hj
    rw [h2.regs n j hj, h1.regs n j hj]
    rcases eq_or_ne j i with rfl | hi
    · by_cases hm : j ∈ ws <;> simp [hm]
      all_goals (intros; first | (simp_all; done) | (simp_all; omega))
    · by_cases hm : j ∈ ws <;> simp [hm, hi]
  · intro m j
    rw [h2.masks, h1.masks]
    rcases eq_or_ne j i with rfl | hi
    · by_cases hm : j ∈ ws <;> simp [hm]
      all_goals (intros; simp_all)
    · by_cases hm : j ∈ ws <;> simp [hm, hi]
  · intro l j hj
    rw [h2.latches _ _ hj, h1.latches _ _ hj]
    rcases eq_or_ne j i with rfl | hi
    · by_cases hm : j ∈ ws <;> simp [hm]
      all_goals (intros; simp_all)
    · by_cases hm : j ∈ ws <;> simp [hm, hi]
  · intro j
    rw [h2.flags, h1.flags]
    rcases eq_or_ne j i with rfl | hi
    · by_cases hm : j ∈ ws <;> simp [hm, BitVec.or_assoc]
    · by_cases hm : j ∈ ws <;> simp [hm, hi]

/-- A fold over the writing lanes that writes one lane at a time. -/
theorem Wrote.fold {step : Group → Nat → Group} {on k d latch r} (hs : ∀ x i, i < 64 → Wrote x (step x i) on k d latch [i] r)
   (ws : List Nat) (x) (h : ∀ i ∈ ws, i < 64) : Wrote x (ws.foldl step x) on k d latch ws r := by
  induction ws generalizing x with
  | nil => exact Wrote.nil ..
  | cons i ws ih => exact Wrote.cons (hs x i (h i (by simp))) (ih _ (fun j hj => h j (List.mem_cons_of_mem _ hj)))

theorem Wrote.congr {x y z on k d latch ws r} (h : Wrote x y on k d latch ws r) (hr : z.regs = y.regs) (hm : z.masks = y.masks) (hl : z.latches = y.latches)
   (hf : z.fpflags = y.fpflags) : Wrote x z on k d latch ws r := by
  refine ⟨?_, ?_, ?_, ?_⟩
  · intro n j hj; rw [Group.reg_congr hr, h.regs n j hj]
  · intro m j; rw [show z.maskReg m = y.maskReg m by unfold Group.maskReg; rw [hm], h.masks]
  · intro l j hj; rw [show z.latch? l j = y.latch? l j by unfold Group.latch?; rw [hl], h.latches _ _ hj]
  · intro j; rw [show z.flags j = y.flags j by unfold Group.flags; rw [hf], h.flags]

theorem Wrote.congr_left {x x' y on k d latch ws r} (h : Wrote x y on k d latch ws r) (hr : x'.regs = x.regs) (hm : x'.masks = x.masks) (hl : x'.latches = x.latches)
   (hf : x'.fpflags = x.fpflags) : Wrote x' y on k d latch ws r := by
  refine ⟨?_, ?_, ?_, ?_⟩
  · intro n j hj; rw [Group.reg_congr hr, h.regs n j hj]
  · intro m j; rw [show x'.maskReg m = x.maskReg m by unfold Group.maskReg; rw [hm], h.masks]
  · intro l j hj; rw [show x'.latch? l j = x.latch? l j by unfold Group.latch?; rw [hl], h.latches _ _ hj]
  · intro j; rw [show x'.flags j = x.flags j by unfold Group.flags; rw [hf], h.flags]

/-- One lane of a cross-lane word: what it writes, and that it raises no flag. -/
theorem crossStep_wrote (o : Ops) (dk : FieldKind) (val : Nat → Nat) (x : Group) (i : Nat) (hi : i < 64) :
    Wrote x (((if o.k then x.writeDst dk o.d i (val i) else x)).setLatch o.ld i (BitVec.ofNat 64 (val i))) o.k dk o.d (some o.ld) [i] (fun j => (val j, {})) := by
  refine ⟨?_, ?_, ?_, ?_⟩
  · intro n j hj
    show (if o.k then x.writeDst dk o.d i (val i) else x).reg n j = _
    cases o.k <;> simp
    rw [Group.writeDst_reg _ _ _ _ _ _ _ hi hj]
    by_cases h : j = i <;> simp [h]
  · intro m j
    show ((if o.k then x.writeDst dk o.d i (val i) else x).maskReg m).getLsbD j = _
    cases o.k <;> simp
    rw [Group.writeDst_mask _ _ _ _ _ _ _ hi]
    by_cases h : j = i <;> simp [h]
  · intro l j hj
    rw [Group.latch_setLatch _ _ _ _ _ _ hi hj]
    by_cases h : j = i
    · subst h; by_cases hl : l = o.ld <;> simp [hl, Group.latch?]
      rw [if_neg (show ¬ o.ld = l from fun h => hl h.symm)]
      cases o.k <;> simp [Group.writeDst_latches]
    · simp [h, Group.latch?]; cases o.k <;> simp [Group.writeDst_latches]
  · intro j
    show (if o.k then x.writeDst dk o.d i (val i) else x).flags j = _
    have : BitVec.ofNat 32 (Fl.toNat {}) = 0 := rfl
    simp only [this]; cases o.k <;> simp [Group.flags, Group.writeDst_fpflags]

/-- The last register of a field inside the allocation is inside it. -/
theorem outside_last {x : Group} {k a} (hk : fieldRegs k ≠ 0) (h : Named.outside x (k,a) = false) : Named.outside x (.dst32, if a < 240 then a + fieldRegs k - 1 else 241) = false := by
  unfold Named.outside at h ⊢
  split
  · rename_i ha
    simp only [Bool.and_eq_false_iff, bne_eq_false_iff_eq, decide_eq_false_iff_not] at h ⊢
    show (1 = 0 ∨ _) ∨ ¬ _ < _ + 1
    omega
  · simp [fieldRegs]

theorem regs_last {k : FieldKind} {a r : Nat} (h : r ∈ Named.regs (.dst32, if a < 240 then a + fieldRegs k - 1 else 241)) (hk : fieldRegs k ≠ 0) : r ∈ Named.regs (k,a) := by
  unfold Named.regs at h ⊢
  have h1 : fieldRegs .dst32 = 1 := rfl
  by_cases ha : a < 240
  · simp only [ha, if_true, h1] at h ⊢
    split at h
    · simp only [List.mem_map, List.mem_range] at h ⊢
      obtain ⟨i, hi, rfl⟩ := h
      exact ⟨fieldRegs k - 1, by omega, by omega⟩
    · simp at h
  · simp [ha] at h

/-- The issue of a cross-lane word whose fields nothing keeps from it: every writing lane holds its value, and the group goes on. -/
theorem crossIssue_spec {s : State} {g b x} {k dk : FieldKind} {o : Ops} {own : List Named} {readers ws : List Nat} {src val : Nat → Nat} {dead : Bool}
   (hm : MayIssue s g b x ws readers own (destOf o.k dk o.d)) (ht : TakesFrom s g x ws k o.a src) (hw : ∀ i ∈ ws, i < 64) :
   ∃ y, (s.crossIssue k dk o own readers g b x ws src val dead).group? g = some y ∧ IssuedAs { x with deadRead := x.deadRead || dead } y b ∧
     OnlyGroup s (s.crossIssue k dk o own readers g b x ws src val dead) g ∧ SameBytes s (s.crossIssue k dk o own readers g b x ws src val dead) ∧
     Wrote x y o.k dk o.d (some o.ld) ws (fun j => (val j, {})) := by
  have hgo : s.crossGate k dk o own readers g b x ws src = .go := by
    unfold State.crossGate
    rw [State.gate_go (s := s) (g := g) (b := b) (x := x) hm.runs hm.live hm.ready ?_ (by intro j _ f hf; cases hf) ?_]
    · have : ws.filter (fun j => (readers.contains j && own.any (fun f => Named.lost x j f)) || (x.supplies (src j) && Named.lost x (src j) (k, o.a))) = [] := by
        rw [List.filter_eq_nil_iff]
        intro j hj hc
        simp only [Bool.or_eq_true, Bool.and_eq_true, List.contains_iff_mem, List.any_eq_true, Group.supplies, decide_eq_true_eq, Bool.not_eq_true'] at hc
        rcases hc with ⟨h1, f, hf, h2⟩ | ⟨⟨h1, h2⟩, h3⟩
        · rw [hm.latched j h1 f hf] at h2; cases h2
        · rw [ht.latched j hj h1 h2] at h3; cases h3
      simp only [this]
    · rcases hm.inside with h | h
      · exact .inl h
      · rcases ht.inside with h' | h'
        · exact .inl h'
        · refine .inr (fun f hf => ?_)
          simp only [List.nil_append, List.mem_append, List.mem_cons] at hf
          rcases hf with hf | rfl | hf
          · exact h f (by simp [destOf, hf])
          · exact h'
          · exact h f (by simp [hf])
    · intro f hf r hr
      simp only [List.nil_append, List.mem_append, List.mem_cons] at hf
      rcases hf with hf | rfl | hf
      · exact hm.answered f (by simp [destOf, hf]) r hr
      · exact ht.answered r hr
      · exact hm.answered f (by simp [hf]) r hr
  have hdy : x.crossConsumers k o own readers ws src = [] := by
    unfold Group.crossConsumers
    rw [List.filter_eq_nil_iff]
    intro j hj hc
    simp only [Bool.or_eq_true, Bool.and_eq_true, List.contains_iff_mem, Group.supplies, decide_eq_true_eq, Bool.not_eq_true'] at hc
    rcases hc with ⟨h1, h2⟩ | ⟨⟨h1, h2⟩, h3⟩
    · rw [Group.consumers_nil (fun i hi f hf r hr => by obtain rfl := List.mem_singleton.1 hi; exact hm.clean _ h1 f hf r hr)] at h2; cases h2
    · rw [Group.consumers_nil (fun i hi f hf r hr => by obtain rfl := List.mem_singleton.1 hi; obtain rfl := List.mem_singleton.1 hf; exact ht.clean j hj h1 h2 r hr)] at h3; cases h3
  have hrun : s.crossIssue k dk o own readers g b x ws src val dead = ((s.setGroup g (Group.advance { (x.crossWrite dk o ws val) with deadRead := (x.crossWrite dk o ws val).deadRead || dead } b)).noteIssue g b (((if o.k then (List.range (fieldRegs dk)).map (fun i => o.d + i) else []) ++ [272 + o.ld]).map (fun r => { res := r, t0 := s.issueCycle x, cls := x.width, linked := false, every := true }))) := by
    unfold State.crossIssue
    simp only [hgo, hdy, State.gated]
  have hframe : ∀ (ws : List Nat) (x : Group), x.crossWrite dk o ws val = let y := x.crossWrite dk o ws val; { x with regs := y.regs, masks := y.masks, latches := y.latches, latent := y.latent } := by
    intro ws
    unfold Group.crossWrite
    induction ws with
    | nil => intro x; rfl
    | cons i ws ih =>
      intro x
      rw [List.foldl_cons, ih]
      have : (if o.k then x.writeDst dk o.d i (val i) else x).setLatch o.ld i (BitVec.ofNat 64 (val i)) = let y := (if o.k then x.writeDst dk o.d i (val i) else x).setLatch o.ld i (BitVec.ofNat 64 (val i)); { x with regs := y.regs, masks := y.masks, latches := y.latches, latent := y.latent } := by
        have := Group.writeDst_frame x dk o.d i (val i)
        cases o.k <;> simp only [if_true, if_false, Bool.false_eq_true]
        · rfl
        · rw [this]; rfl
      simp only at this ⊢
      generalize (if o.k then x.writeDst dk o.d i (val i) else x).setLatch o.ld i (BitVec.ofNat 64 (val i)) = w at this ⊢
      rw [this]
  have hwr : Wrote x (x.crossWrite dk o ws val) o.k dk o.d (some o.ld) ws (fun j => (val j, {})) := Wrote.fold (step := fun y j => (if o.k then y.writeDst dk o.d j (val j) else y).setLatch o.ld j (BitVec.ofNat 64 (val j))) (on := o.k) (k := dk) (d := o.d) (latch := some o.ld) (r := fun j => (val j, {})) (fun x i hi => crossStep_wrote o dk val x i hi) ws x hw
  rw [hrun]
  have hf := hframe ws x
  generalize x.crossWrite dk o ws val = Y at hwr hf ⊢
  simp only at hf
  obtain ⟨z, h1, h2, h3, h4, h5, h6, h7, h8⟩ := State.issue_spec (s := s) (g := g) (x := { x with deadRead := x.deadRead || dead }) (y := { Y with deadRead := Y.deadRead || dead }) b _ (by rw [hf])
  exact ⟨z, h1, h6, h7, h8, Wrote.congr hwr h2 h3 h4 h5⟩

end Sys2Proof.Claims
end

