-- ==== Sys2Proof/Tests/Slice0.lean ====
section
/-! SUPPORT. Tests: an ill-formed term for every check of well-formedness, words of every family as the spec writes them or
bit by bit from its encoding, small steps with expected values worked out from the spec, and for every statement a state and
operands that meet its hypotheses. -/

namespace Sys2Proof.Tests

open Sys2Proof Sys2Proof.Machine Sys2Proof.Claims

-- one theorem after another: hundreds of kernel evaluations at once need more memory than the check gives
set_option Elab.async false

/-! ### Well-formedness: what each check refuses -/

theorem test_wf_full : (Instr.add { d := 5, a := 4, b := 240, c := 6, k := true } .i32 false).wf = true := by decide
theorem test_wf_imm : (Instr.ldih { d := 4, imm := 0xFFFFFFFF, k := true }).wf = true := by decide
theorem test_wf_pair : (Instr.pairAdd { d := 5, a := 2 } { op := .fmul, h := { d := 11, a := 4, mod := 1 } }).wf = true := by decide
theorem test_wf_prompter : (Instr.prAdd { d := 31, a := 1, b := 2 }).wf = true := by decide
/-- A field of a full-form word beyond its width (R197). -/
theorem test_wf_bad_field : (Instr.add { d := 256, k := true } .i32 false).wf = false
    ∧ (Instr.add { a := 256, k := true } .i32 false).wf = false ∧ (Instr.add { b := 256, k := true } .i32 false).wf = false
    ∧ (Instr.add { c := 256, k := true } .i32 false).wf = false ∧ (Instr.add { p := 16, k := true } .i32 false).wf = false
    ∧ (Instr.add { ld := 4, k := true } .i32 false).wf = false := by decide
/-- A field of an I-form word beyond its width (R198). -/
theorem test_wf_bad_imm : (Instr.ldi { d := 256, k := true }).wf = false ∧ (Instr.addI { a := 256, k := true }).wf = false
    ∧ (Instr.ldi { p := 16, k := true }).wf = false ∧ (Instr.ldi { imm := 2 ^ 32, k := true }).wf = false := by decide
/-- A field of a pair half beyond its width (R199). -/
theorem test_wf_bad_half : (Instr.pairAdd { d := 256 } { op := .mov, h := { d := 8 } }).wf = false
    ∧ (Instr.pairAdd { a := 256 } { op := .mov, h := { d := 8 } }).wf = false ∧ (Instr.pairAdd { p := 8 } { op := .mov, h := { d := 8 } }).wf = false
    ∧ (Instr.pairAdd { mod := 8 } { op := .mov, h := { d := 8 } }).wf = false
    ∧ (Instr.pairAdd { d := 5 } { op := .mov, h := { d := 8, mod := 8 } }).wf = false := by decide
/-- A field of a prompter word beyond its width (R216). -/
theorem test_wf_bad_prompter : (Instr.prAdd { d := 32 }).wf = false ∧ (Instr.prAdd { a := 32 }).wf = false ∧ (Instr.prAdd { b := 32 }).wf = false
    ∧ (Instr.prAddi { imm := 2 ^ 32 }).wf = false := by decide
/-- The composition check (R214): a result without k that names a d, a constant as destination, an odd pair, a
number that is no source, a mask that there is not. -/
theorem test_wf_bad_row : (Instr.add { d := 5, a := 4, b := 6 } .i32 false).wf = false
    ∧ (Instr.add { d := 241, a := 4, b := 6, k := true } .i32 false).wf = false
    ∧ (Instr.add { d := 4, a := 5, b := 6, k := true } .i64 false).wf = false
    ∧ (Instr.add { d := 4, a := 245, b := 6, k := true } .i32 false).wf = false
    ∧ (Instr.mpop { d := 4, a := 16, k := true }).wf = false := by decide
/-- The check of an I-form word and of a pair word (R213, R231): LDIH to an odd pair; two halves with one destination. -/
theorem test_wf_bad_checks : (Instr.ldih { d := 5, imm := 1, k := true }).wf = false
    ∧ (Instr.pairAdd { d := 5 } { op := .mov, h := { d := 5 } }).wf = false ∧ (Instr.bra { d := 1, imm := 0 }).wf = false := by decide
/-- Numbers that are no modifier: an offset unit, a code, a special register, a tile, a dimension, a run count (R208, R248, R253,
R307, R317, R324). -/
theorem test_wf_bad_modifiers : (Instr.ld { d := 4, k := true } 4 .n32 .grp .plain).wf = false ∧ (Instr.trap {} (2 ^ 14)).wf = false
    ∧ (Instr.srd { d := 4, k := true } 255).wf = false ∧ (Instr.mxzero {} 32).wf = false ∧ (Instr.cvenc { d := 4, a := 8, k := true } 9).wf = false
    ∧ (Instr.cvenc { d := 4, a := 8, k := true } 0).wf = false ∧ (Instr.cvsplit { d := 20, a := 3, b := 8, c := 12, k := true } 2 65 true).wf = false := by decide
/-- The prompter's checks (R328, R347, R408): a field that its word has no use for, a control register that is a row of its own,
a type that a prompter access has not. -/
theorem test_wf_bad_row_prompter : (Instr.prNop { d := 1 }).wf = false ∧ (Instr.csrw { a := 8, imm := 0x110 }).wf = false
    ∧ (Instr.dhalt { a := 8, imm := 0x111 }).wf = false ∧ (Instr.sysresume { a := 8, imm := 0x105 }).wf = false
    ∧ (Instr.drelease { a := 8, imm := 0x110 }).wf = false ∧ (Instr.tlbinv { a := 8, imm := 1 }).wf = false ∧ (Instr.lkill { a := 8, imm := 1 }).wf = false
    ∧ (Instr.prLd { d := 1 } { ty := .f32 }).wf = false := by decide
/-- The numbers of events beyond the device (R9, R14, R19, R384, R410, R427). -/
theorem test_wf_bad_events : (Instr.sliceIssue 0 6).wf = false ∧ (Instr.queueKick 64 0 0).wf = false ∧ (Instr.queueKick 0 256 0).wf = false
    ∧ (Instr.queueKick 0 0 (2 ^ 16)).wf = false ∧ (Instr.eventWordSet 256).wf = false ∧ (Instr.syscLog 6).wf = false
    ∧ (Instr.compareConfirm 0 32).wf = false ∧ (Instr.segmentRelease 0 256).wf = false ∧ (Instr.walkComplete 2).wf = false
    ∧ (Instr.cutBlocked 8).wf = false ∧ (Instr.retire 144).wf = false ∧ (Instr.laneShed 64).wf = false ∧ (Instr.shed 0 5).wf = false := by decide
theorem test_wf_bad_events_more : (Instr.shed 64 1).wf = false ∧ (Instr.deviceUnreachable { dev := 2048 }).wf = false
    ∧ (Instr.fabricRequest { port := 64, source := 0, isHost := false, seq := 1, control := false, off := 0, op := .close 0 }).wf = false
    ∧ (Instr.scrubPass 64 0 0 false false).wf = false ∧ (Instr.rowSpare 48 0).wf = false ∧ (Instr.partcfg [] 0).wf = false
    ∧ (Instr.fiarm []).wf = false ∧ (Instr.attest []).wf = false ∧ (Instr.illegalInstruction 0).wf = false
    ∧ (Instr.prompterMemoryFault (2 ^ 20)).wf = false := by decide

/-! ### Decoding: words of the spec, and words written out from its encodings -/

/-- Exhibit 1, R238, R239, R242, chapter 14 and others: words the spec writes beside their assembly. -/
theorem test_decode_words : decodeLane 0x0002_8278_0301_0800 = .ok (.add { d := 5, a := 4, b := 240, c := 6, k := true } .i32 false)
    ∧ decodeLane 0x2180_0100_0000_0000 = .ok (.lkbrk { a := 2 } .set) ∧ decodeLane 0x6880_0100_0000_0005 = .ok (.brx { a := 2, imm := 5 })
    ∧ decodeLane 0x8005_0200_2416_0802 = .ok (.pairAdd { d := 5, a := 2 } { op := .fmul, h := { d := 11, a := 4, mod := 1 } })
    ∧ decodeLane 0x5A8A_0184_0601_0219 = .ok (.cvsplit { d := 20, a := 3, b := 8, c := 12, k := true } 2 4 true)
    ∧ decodePrompter 0x1040_0000_0000_0004 = .ok (.li { d := 8, imm := 4 }) := by decide
/-- `MANDN m3, m0, m2` by R197 and R234: op 0x23, d 3, a 0, b 2, k 1. -/
theorem test_decode_mandn : decodeLane (0x23 * 2 ^ 55 + 3 * 2 ^ 47 + 0 * 2 ^ 39 + 2 * 2 ^ 31 + 2 ^ 16) = .ok (.mandn { d := 3, a := 0, b := 2, k := true }) := by decide
/-- `LDI v6, 0xFFFFFFFF` by R198 and R210: op 0xC0, d 6, k bit 32, the number in bits 31:0. -/
theorem test_decode_imm : decodeLane (0xC0 * 2 ^ 55 + 6 * 2 ^ 47 + 2 ^ 32 + 0xFFFFFFFF) = .ok (.ldi { d := 6, k := true, imm := 0xFFFFFFFF }) := by decide
/-- The mailbox and system words of the prompter by R216 and R217: op 63:56, d 55:51, a 50:46, b 45:41, fn 40:32. -/
theorem test_decode_prompter : decodePrompter 0x6402_0000_0000_0001 = .ok (.csrw { a := 8, imm := 1 })
    ∧ decodePrompter 0x5603_0000_0000_0000 = .ok (.gctlResume { a := 12 }) ∧ decodePrompter 0x5438_0000_0000_0000 = .ok (.waitev { d := 7 } false) := by decide
/-- Reserved codes are refused by name (R209, R217). -/
theorem test_decode_reserved : decodeLane (0x1A * 2 ^ 55) = .error .reservedOpcode ∧ decodePrompter (0x12 * 2 ^ 56) = .error 1 := by decide
/-- `decodeTableWord` gives the decoder the word as the table numbers its bits. -/
theorem test_decode_table : decodeTableWord 64 0x0002_8278_0301_0800 = some (.add { d := 5, a := 4, b := 240, c := 6, k := true } .i32 false) := by decide

/-! ### A small machine -/

/-- A partition with one group of a launch that has one team on cluster 0, and the context 0 that serves it. -/
def lane0 (cur : Cur) (x : Group) (c : Ctx) : State :=
  { cur := cur, groups := [(0, x)],
    teams := [(0, { uid := 1, launch := 0, part := 0, cluster := 0, handle := 0, pair := false, ctx := 0, x := 0, y := 0, z := 0,
                    q := 0, ngroups := 1, width := 16, tiles := 32, started := true, alloc := { declared := 0x10000 } })],
    ctxs := [(0, c)], launches := [(0, { uid := 0, queue := 0, part := 0, desc := [], id := 0, phase := .placed, regs := 240, tiles := 32 })],
    parts := [(0, { on := true, pairs := [0] })] }

/-- A group of 16 lanes on the stage, lanes 0 and 1 in its slot A. -/
def grp : Group :=
  { uid := 2, launch := 0, team := 0, index := 0, part := 0, cluster := 0, slice := 0, gslot := 0, half := 0,
    width := 16, extent := 16, nregs := 240, slotA := { mask := 3 }, started := true, onStage := true, parked := false }

/-- A running generator context whose image has one word. -/
def ctx0 : Ctx := { part := 0, cluster := 0, num := 0, uid := 3, active := true, imageLen := 1, evmask := 0xFFE }

/-- The group with the values of these registers in lane 0. -/
def withRegs (rs : List (Nat × Nat)) : Group := rs.foldl (fun x r => x.setReg r.1 0 (BitVec.ofNat 32 r.2)) grp

/-- The state after an outcome. -/
def after (r : Host.Outcome State Fault Refusal) : State := match r with | .next t => t | _ => {}

/-- The group after one issue by its slot A. -/
def issue (x : Group) (i : Instr) : Group := ((after (exec i (lane0 (.lane 0 false) x ctx0))).group? 0).getD { grp with uid := 99 }

/-- A register of lane 0 after one issue, with these registers before. -/
def alu (rs : List (Nat × Nat)) (i : Instr) (n : Nat) : Nat := ((issue (withRegs rs) i).reg n 0).toNat

/-- The operands of most tests: v10 := v4, v6, v8. -/
def o3 : Ops := { d := 10, a := 4, b := 6, c := 8, k := true }

/-! ### Integer words (R227 to R231, and the table of edges there) -/

theorem test_add_sat : alu [(4, 0x7FFFFFFF), (6, 1)] (.add o3 .i32 true) 10 = 0x7FFFFFFF := by decide
theorem test_add_wraps : alu [(4, 0x7FFFFFFF), (6, 1)] (.add o3 .i32 false) 10 = 0x80000000 := by decide
theorem test_sub_sat : alu [(4, 3), (6, 5)] (.sub o3 .n32 true) 10 = 0 := by decide
theorem test_mul_wraps : alu [(4, 0x10001), (6, 0x10001)] (.mul o3 .i32) 10 = 0x20001 := by decide
theorem test_mulh_signed : alu [(4, 0xFFFFFFFD), (6, 0x40000000)] (.mulh o3 .i32) 10 = 0xFFFFFFFF := by decide
theorem test_mulh_unsigned : alu [(4, 0xFFFFFFFD), (6, 0x40000000)] (.mulh o3 .n32) 10 = 0x3FFFFFFF := by decide
theorem test_mad_pair : alu [(4, 0xFFFFFFFF), (6, 2), (8, 3)] (.mad o3 .n64) 11 = 2 := by decide
theorem test_abs_least : alu [(4, 0x80000000)] (.abs { d := 10, a := 4, k := true } .i32 false) 10 = 0x80000000 := by decide
theorem test_abs_sat : alu [(4, 0x80000000)] (.abs { d := 10, a := 4, k := true } .i32 true) 10 = 0x7FFFFFFF := by decide
theorem test_min_signed : alu [(4, 0xFFFFFFFF), (6, 1)] (.min o3 .i32) 10 = 0xFFFFFFFF := by decide
theorem test_max_unsigned : alu [(4, 0xFFFFFFFF), (6, 1)] (.max o3 .n32) 10 = 0xFFFFFFFF := by decide
theorem test_and : alu [(4, 0xFF00FF00), (6, 0x0FF00FF0)] (.and o3 .n32) 10 = 0x0F000F00 := by decide
theorem test_or : alu [(4, 0xFF00FF00), (6, 0x0FF00FF0)] (.or o3 .n32) 10 = 0xFFF0FFF0 := by decide
theorem test_xor : alu [(4, 0xFF00FF00), (6, 0x0FF00FF0)] (.xor o3 .n32) 10 = 0xF0F0F0F0 := by decide
theorem test_andn : alu [(4, 0xFF00FF00), (6, 0x0FF00FF0)] (.andn o3 .n32) 10 = 0xF000F000 := by decide
theorem test_shl_modulo : alu [(4, 1), (6, 33)] (.shl o3 .n32) 10 = 2 := by decide
theorem test_shr : alu [(4, 0x80000000), (6, 4)] (.shr o3 .n32) 10 = 0x08000000 := by decide
theorem test_sra : alu [(4, 0x80000000), (6, 4)] (.sra o3 .i32) 10 = 0xF8000000 := by decide
theorem test_rot : alu [(4, 0x80000001), (6, 4)] (.rot o3 .n32) 10 = 0x00000018 := by decide
theorem test_popc : alu [(4, 0xF0F0)] (.popc { d := 10, a := 4, k := true } .n32) 10 = 8 := by decide
theorem test_clz_zero : alu [] (.clz { d := 10, a := 4, k := true } .n64) 10 = 64 := by decide
theorem test_ctz : alu [(4, 8)] (.ctz { d := 10, a := 4, k := true } .n32) 10 = 3 := by decide
theorem test_brev : alu [(4, 1)] (.brev { d := 10, a := 4, k := true } .n32) 10 = 0x80000000 := by decide
theorem test_bfx_past_top : alu [(4, 0xF0000000), (6, 0x81C)] (.bfx o3 .i32 true) 10 = 0xFFFFFFFF := by decide
theorem test_bfi : alu [(4, 0xAB), (6, 0x808), (8, 0x11111111)] (.bfi o3 .n32) 10 = 0x1111AB11 := by decide
theorem test_sel : ((issue { withRegs [(4, 7), (6, 9)] with masks := [(3, 1)] } (.sel { d := 10, a := 4, b := 6, c := 3, k := true } .n32)).reg 10 0) = 7 := by decide
theorem test_cmp_mask : (issue (withRegs [(4, 0xFFFFFFFF), (6, 1)]) (.cmp { d := 2, a := 4, b := 6, k := true } .i32 .lt false)).maskReg 2 = 1 := by decide
theorem test_cmp_value : alu [(4, 0xFFFFFFFF), (6, 1)] (.cmp { d := 10, a := 4, b := 6, k := true } .n32 .gt true) 10 = 1 := by decide
theorem test_lea : alu [(4, 0x1000), (6, 3)] (.lea { d := 10, a := 4, b := 6, c := 2, k := true } .n64) 10 = 0x100C := by decide
theorem test_mov : alu [(4, 5)] (.mov { d := 10, a := 4, k := true } .n32) 10 = 5 := by decide
theorem test_ldi : alu [] (.ldi { d := 10, k := true, imm := 0xDEADBEEF }) 10 = 0xDEADBEEF := by decide
theorem test_ldih : alu [(10, 1)] (.ldih { d := 10, k := true, imm := 2 }) 11 = 2 ∧ alu [(10, 1)] (.ldih { d := 10, k := true, imm := 2 }) 10 = 1 := by decide
theorem test_add_imm : alu [(4, 7)] (.addI { d := 10, a := 4, k := true, imm := 0xFFFFFFFF }) 10 = 6 := by decide
theorem test_mul_imm : alu [(4, 7)] (.mulI { d := 10, a := 4, k := true, imm := 3 }) 10 = 21 := by decide
theorem test_logic_imm : alu [(4, 0xFC)] (.andI { d := 10, a := 4, k := true, imm := 0x3F }) 10 = 0x3C ∧ alu [(4, 0xF0)] (.orI { d := 10, a := 4, k := true, imm := 0x0F }) 10 = 0xFF
    ∧ alu [(4, 0xFF)] (.xorI { d := 10, a := 4, k := true, imm := 0x0F }) 10 = 0xF0 := by decide
theorem test_shift_imm : alu [(4, 1)] (.shlI { d := 10, a := 4, k := true, imm := 34 }) 10 = 4 ∧ alu [(4, 0x80000000)] (.shrI { d := 10, a := 4, k := true, imm := 31 }) 10 = 1
    ∧ alu [(4, 0x80000000)] (.sraI { d := 10, a := 4, k := true, imm := 31 }) 10 = 0xFFFFFFFF := by decide
theorem test_pick_imm : alu [(4, 0xFFFFFFFF)] (.minI { d := 10, a := 4, k := true, imm := 3 }) 10 = 0xFFFFFFFF ∧ alu [(4, 0xFFFFFFFF)] (.maxI { d := 10, a := 4, k := true, imm := 3 }) 10 = 3 := by decide
/-- A source that is also the destination; and a lane that is predicated off keeps its register (R34, R202). -/
theorem test_add_same : alu [(4, 3)] (.add { d := 4, a := 4, b := 4, k := true } .i32 false) 4 = 6 := by decide
theorem test_add_predicate : alu [(4, 3), (10, 8)] (.add { d := 10, a := 4, b := 4, p := 1, k := true } .i32 false) 10 = 8 := by decide
/-- Constants of R200: 242 is the lane, 244 all ones; with u = 1 lane 0 gives every lane its result (R49). -/
theorem test_constants : ((issue grp (.mov { d := 10, a := 242, k := true } .n32)).reg 10 1).toNat = 1
    ∧ ((issue grp (.mov { d := 10, a := 244, k := true } .n32)).reg 10 1).toNat = 0xFFFFFFFF := by decide
theorem test_uniform : ((issue grp (.mov { d := 10, a := 242, u := true, k := true } .n32)).reg 10 1).toNat = 0 := by decide

/-- Exhibit 11: the segmented sum of one linked ADD, the break mask as its LKBRK sets it. -/
def exhibit11 : Group :=
  { ([5, 1, 2, 7, 3, 3, 1, 4].zip (List.range 8)).foldl (fun x p => x.setReg 4 p.2 (BitVec.ofNat 32 p.1)) grp with
    extent := 8, slotA := { mask := 0xFF }, lbm := 0x49 }
theorem test_linked_add : (List.range 9).map (fun j => ((issue exhibit11 (.add { d := 5, a := 4, b := 240, c := 241, k := true } .i32 false)).reg 5 j).toNat)
    = [5, 6, 8, 7, 10, 13, 1, 5, 0] := by decide

/-! ### Masks, cross-lane words, links, special registers (R234 to R240, R253) -/

/-- The group with masks m1 = 5 and m2 = 6. -/
def masked : Group := { withRegs [(4, 7)] with masks := [(1, 5), (2, 6)] }
theorem test_mand : (issue masked (.mand { d := 3, a := 1, b := 2, k := true })).maskReg 3 = 0 := by decide
theorem test_mor : (issue masked (.mor { d := 3, a := 1, b := 2, k := true })).maskReg 3 = 3 := by decide
theorem test_mxor : (issue masked (.mxor { d := 3, a := 1, b := 2, k := true })).maskReg 3 = 3 := by decide
theorem test_mandn : (issue masked (.mandn { d := 3, a := 0, b := 2, k := true })).maskReg 3 = 1 := by decide
theorem test_mpop : ((issue masked (.mpop { d := 10, a := 1, k := true })).reg 10 0).toNat = 2 := by decide
theorem test_mfirst : ((issue masked (.mfirst { d := 10, a := 2, k := true })).reg 10 0).toNat = 1
    ∧ ((issue masked (.mfirst { d := 10, a := 3, k := true })).reg 10 0).toNat = 64 := by decide
theorem test_vtom : (issue masked (.vtom { d := 3, a := 4, k := true })).maskReg 3 = 1 := by decide
theorem test_vtom_whole : (issue masked (.vtomW { d := 3, a := 4, k := true })).maskReg 3 = 7 := by decide
theorem test_mtov : ((issue masked (.mtov { d := 10, a := 2, k := true })).reg 10 1).toNat = 1 := by decide
theorem test_mtov_whole : ((issue masked (.mtovW { d := 10, a := 2, k := true })).reg 10 0).toNat = 6 := by decide
theorem test_shfl_down : ((issue (withRegs [(10, 1)]) (.shfl { d := 10, a := 242, c := 3, k := true } .n32 true .dn)).reg 10 1).toNat = 4 := by decide
theorem test_shfl_from : ((issue (withRegs [(4, 7)]) (.shfl { d := 10, a := 4, c := 1, k := true } .n32 true .up)).reg 10 1).toNat = 7 := by decide
theorem test_vote_any : ((issue (withRegs [(4, 7)]) (.vote { d := 10, a := 4, k := true } .any)).reg 10 1).toNat = 1 := by decide
theorem test_vote_ballot : ((issue (withRegs [(4, 7)]) (.vote { d := 10, a := 4, k := true } .ballot)).reg 10 1).toNat = 1 := by decide
theorem test_bcast_first : ((issue (withRegs [(4, 7)]) (.bcast { d := 10, a := 4, k := true } .n32 false true)).reg 10 1).toNat = 7 := by decide
theorem test_lkbrk : (issue masked (.lkbrk { a := 1 } .set)).lbm = 5 := by decide
theorem test_lktail : ((issue grp (.lktail { d := 10, k := true } .n32)).reg 10 0).toNat = 0 := by decide
theorem test_srd : ((issue grp (.srd { d := 10, k := true } 4)).reg 10 0).toNat = 16 := by decide
theorem test_swr : (issue (withRegs [(4, 0x3F)]) (.swr { a := 4 } 13)).flags 0 = 0x1F := by decide

/-! ### Floating point (R255 to R268) -/

theorem test_fadd : alu [(4, 0x3F800000), (6, 0x3F800000)] (.fadd o3 .rn) 10 = 0x40000000 := by decide
theorem test_fsub : alu [(4, 0x40400000), (6, 0x3F800000)] (.fsub o3 .rn) 10 = 0x40000000 := by decide
theorem test_fmul : alu [(4, 0x40000000), (6, 0x40400000)] (.fmul o3 .rn) 10 = 0x40C00000 := by decide
theorem test_ffma : alu [(4, 0x40000000), (6, 0x40400000), (8, 0x3F800000)] (.ffma o3 .rn) 10 = 0x40E00000 := by decide
theorem test_fmin : alu [(4, 0xBF800000), (6, 0x3F800000)] (.fmin o3) 10 = 0xBF800000 := by decide
theorem test_fmax : alu [(4, 0xBF800000), (6, 0x3F800000)] (.fmax o3) 10 = 0x3F800000 := by decide
theorem test_fcmp : alu [(4, 0xBF800000), (6, 0x3F800000)] (.fcmp { d := 10, a := 4, b := 6, k := true } .f32 .lt true) 10 = 1 := by decide
theorem test_frnd : alu [(4, 0x40200000)] (.frnd { d := 10, a := 4, k := true } .rn false) 10 = 0x40000000 := by decide
theorem test_frcp : alu [(4, 0x40000000)] (.frcp { d := 10, a := 4, k := true } .rn) 10 = 0x3F000000 := by decide +kernel
theorem test_frsq : alu [(4, 0x40800000)] (.frsq { d := 10, a := 4, k := true } .rn) 10 = 0x3F000000 := by decide +kernel
theorem test_fsqrt : alu [(4, 0x40800000)] (.fsqrt { d := 10, a := 4, k := true } .rn) 10 = 0x40000000 := by decide +kernel
theorem test_fexp2 : alu [(4, 0x40400000)] (.fexp2 { d := 10, a := 4, k := true } .rn) 10 = 0x41000000 := by decide +kernel
theorem test_flog2 : alu [(4, 0x41000000)] (.flog2 { d := 10, a := 4, k := true } .rn) 10 = 0x40400000 := by decide +kernel
theorem test_ftanh : alu [(4, 0)] (.ftanh { d := 10, a := 4, k := true } .rn) 10 = 0 := by decide
theorem test_fcvt : alu [(4, 0x3F800000)] (.fcvt { d := 10, a := 4, k := true } .f16 .f32 .rn) 10 = 0x3C00 := by decide
theorem test_f2i : alu [(4, 0xC0200000)] (.f2i { d := 10, a := 4, k := true } .i32 .f32 .rz) 10 = 0xFFFFFFFE := by decide
theorem test_i2f : alu [(4, 0xFFFFFFFD)] (.i2f { d := 10, a := 4, k := true } .f32 .i32 .rn) 10 = 0xC0400000 := by decide
theorem test_hadd2 : alu [(4, 0x40003C00), (6, 0x3C003C00)] (.hadd2 o3 .f16 .rn) 10 = 0x42004000 := by decide
theorem test_hmul2 : alu [(4, 0x40003C00), (6, 0x40004000)] (.hmul2 o3 .f16 .rn) 10 = 0x44004000 := by decide
theorem test_hfma2 : alu [(4, 0x40003C00), (6, 0x40004000), (8, 0x3C003C00)] (.hfma2 o3 .f16 .rn) 10 = 0x45004200 := by decide
theorem test_hmax2 : alu [(4, 0x40003C00), (6, 0x3C004000)] (.hmax2 o3 .f16) 10 = 0x40004000 := by decide
theorem test_pack2 : alu [(4, 0x3F800000), (6, 0x40000000)] (.pack2 o3 .f16 .rn) 10 = 0x40003C00 := by decide
theorem test_unpk2 : alu [(4, 0x40003C00)] (.unpk2 { d := 10, a := 4, k := true } .f16) 11 = 0x40000000 := by decide
theorem test_fmaxx : alu [(4, 0x3F800000), (5, 7), (6, 0x40000000), (7, 3)] (.fmaxx { d := 10, a := 4, b := 6, k := true } .f32) 10 = 0x40000000
    ∧ alu [(4, 0x3F800000), (5, 7), (6, 0x40000000), (7, 3)] (.fmaxx { d := 10, a := 4, b := 6, k := true } .f32) 11 = 3 := by decide
theorem test_fminx : alu [(4, 0x3F800000), (5, 7), (6, 0x40000000), (7, 3)] (.fminx { d := 10, a := 4, b := 6, k := true } .f32) 11 = 7 := by decide

/-! ### Pair words (R199, R211 to R213) -/

/-- v5 and v11 of lane 0 after a pair word whose second half is `MOV v11, v5`: it reads the old v5. -/
def pair (mk : HalfOps → PairHalf → Instr) (x y : Nat) : Nat × Nat :=
  let z := issue (withRegs [(5, x), (2, y)]) (mk { d := 5, a := 2 } { op := .mov, h := { d := 11, a := 5 } })
  ((z.reg 5 0).toNat, (z.reg 11 0).toNat)
theorem test_pair_integer : pair .pairAdd 7 9 = (16, 7) ∧ pair .pairSub 7 9 = (0xFFFFFFFE, 7) ∧ pair .pairMul 7 9 = (63, 7)
    ∧ pair .pairMin 0xFFFFFFFF 1 = (0xFFFFFFFF, 0xFFFFFFFF) ∧ pair .pairMax 0xFFFFFFFF 1 = (1, 0xFFFFFFFF) := by decide
theorem test_pair_logic : pair .pairAnd 6 3 = (2, 6) ∧ pair .pairOr 6 3 = (7, 6) ∧ pair .pairXor 6 3 = (5, 6) ∧ pair .pairAndn 6 3 = (4, 6) := by decide
theorem test_pair_shifts : pair .pairShl 1 33 = (2, 1) ∧ pair .pairShr 0x80000000 4 = (0x08000000, 0x80000000)
    ∧ pair .pairSra 0x80000000 4 = (0xF8000000, 0x80000000) ∧ pair .pairRot 0x80000001 4 = (0x18, 0x80000001) ∧ pair .pairMov 7 9 = (9, 7) := by decide
theorem test_pair_float : pair .pairFadd 0x3F800000 0x3F800000 = (0x40000000, 0x3F800000) ∧ pair .pairFsub 0x40400000 0x3F800000 = (0x40000000, 0x40400000)
    ∧ pair .pairFmul 0x40000000 0x40400000 = (0x40C00000, 0x40000000) ∧ pair .pairFmin 0xBF800000 0x3F800000 = (0xBF800000, 0xBF800000)
    ∧ pair .pairFmax 0xBF800000 0x3F800000 = (0x3F800000, 0xBF800000) := by decide
theorem test_pair_halves : pair .pairHadd2 0x40003C00 0x3C003C00 = (0x42004000, 0x40003C00) ∧ pair .pairHmul2 0x40003C00 0x40004000 = (0x44004000, 0x40003C00)
    ∧ pair .pairHmax2 0x40003C00 0x3C004000 = (0x40004000, 0x40003C00) := by decide

/-! ### Curve words (R319 to R325, with their examples) -/

theorem test_cvenc : alu [(4, 3), (5, 2)] (.cvenc { d := 12, a := 4, c := 241, k := true } 2) 12 = 13 := by decide
theorem test_cvdec : alu [(4, 13)] (.cvdec { d := 12, a := 4, c := 241, k := true } 2) 13 = 2 := by decide
theorem test_cvadd_sat : alu [(4, 13), (8, 4), (9, 0xFFFFFFFD)] (.cvadd { d := 12, a := 4, b := 8, k := true } 2 true) 12 = 21
    ∧ alu [(4, 13), (8, 4), (9, 0xFFFFFFFD)] (.cvadd { d := 12, a := 4, b := 8, k := true } 2 true) 14 = 2 := by decide
theorem test_cvadd_wrap : alu [(4, 13), (8, 4), (9, 0xFFFFFFFD)] (.cvadd { d := 12, a := 4, b := 8, k := true } 2 false) 12 = 0xAAAAAABF := by decide
theorem test_cvcmp_in : alu [(4, 26), (6, 13), (8, 54)] (.cvcmp { d := 12, a := 4, b := 6, c := 8, k := true } 2 .c6 true) 12 = 1
    ∧ alu [(4, 29), (6, 13), (8, 54)] (.cvcmp { d := 12, a := 4, b := 6, c := 8, k := true } 2 .c6 true) 12 = 0 := by decide +kernel
theorem test_cvnext : alu [(4, 16), (6, 13), (8, 54)] (.cvnext { d := 12, a := 4, b := 6, c := 8, k := true } 2) 12 = 24
    ∧ alu [(4, 29), (6, 13), (8, 54)] (.cvnext { d := 12, a := 4, b := 6, c := 8, k := true } 2) 12 = 30 := by decide +kernel
theorem test_cvnext_none : alu [(4, 55), (6, 13), (8, 54)] (.cvnext { d := 12, a := 4, b := 6, c := 8, k := true } 2) 14 = 1 := by decide +kernel
theorem test_cvlvl : alu [(4, 24), (6, 28)] (.cvlvl { d := 12, a := 4, b := 6, k := true } 2) 12 = 30 := by decide
/-- Exhibit 19, call 2: the three runs and the resume word. -/
theorem test_cvsplit : curveSplit 2 4 13 54 30 = ([30 + 2 ^ 64 * 30, 37 + 2 ^ 64 * 37, 39 + 2 ^ 64 * 39, 3 + 2 ^ 32 + 2 ^ 64 * 48], 2 ^ 31 + 3) := by decide +kernel

/-! ### Control words (R242 to R252) -/

/-- The group with its slot A at an address, the lanes 0 and 1 in it, and m1 = lane 1. -/
def atPc (n : Nat) : Group := { grp with slotA := { pc := BitVec.ofNat 20 n, mask := 3 }, masks := [(1, 2)] }

theorem test_bra_back : (issue (atPc 10) (.bra { imm := 0x1FFFFD })).slotA.pc = 7 := by decide
theorem test_brx_splits : ((issue (atPc 10) (.brx { a := 1, imm := 5 })).slotA.pc, (issue (atPc 10) (.brx { a := 1, imm := 5 })).slotA.mask) = (11, 1)
    ∧ ((issue (atPc 10) (.brx { a := 1, imm := 5 })).slotB.pc, (issue (atPc 10) (.brx { a := 1, imm := 5 })).slotB.mask) = (15, 2) := by decide
theorem test_brx_none : (issue (atPc 10) (.brx { a := 2, imm := 5 })).slotA.pc = 11 := by decide
theorem test_call : (issue (atPc 10) (.call { imm := 5 })).slotA.calls = [{ ret := 11, split := false, base := 0 }] := by decide
theorem test_ret : (issue { atPc 10 with slotA := { pc := 10, mask := 3, calls := [{ ret := 7, split := false, base := 0 }] } } (.ret {})).slotA.pc = 7 := by decide
theorem test_calli : (issue { (atPc 10).setReg 4 0 9 with slotA := { pc := 10, mask := 1 } } (.calli { a := 4 })).slotA.pc = 9 := by decide
/-- The arrived part and the other slot, which waits at this JOIN, merge (R46, R243). -/
theorem test_join_merges : (issue { atPc 10 with slotA := { pc := 10, mask := 1, tag := 1 }, slotB := { pc := 10, mask := 2, tag := 1, wait := .atJoin } } (.join {})).slotA.mask = 3 := by decide
theorem test_exit_some : (issue (atPc 10) (.exit { p := 1 })).slotA.mask = 1 := by decide
theorem test_exit_all : (after (exec (.exit {}) (lane0 (.lane 0 false) grp ctx0))).groups = [] := by decide
theorem test_nop : (issue (atPc 10) (.nop {})).slotA.pc = 11 := by decide
theorem test_yield_alone : (issue (atPc 10) (.yield {})).onStage = true := by decide
theorem test_cuept : (issue ({ atPc 10 with slotA := { pc := 10, mask := 1 } }.setReg 6 0 4) (.cuept { a := 6 })).cue = 4 := by decide
theorem test_trap : ((issue (atPc 10) (.trap {} 7)).run, (issue (atPc 10) (.trap {} 7)).slotA.pc) = (.halted, 11) := by decide
theorem test_trap_record : ((issue (atPc 10) (.trap {} 7)).stop.map (fun r => (r.w0, r.w1, r.w3.toNat / 2 ^ 32)))
    = some (0x0200_0000_0000_000A, 3, 7) := by decide
theorem test_bkpt : ((issue (atPc 10) (.bkpt {} 7)).stop.map (fun r => r.w0.toNat / 2 ^ 56)) = some 3 := by decide
theorem test_bind : ((issue { atPc 10 with slotA := { pc := 10, mask := 3, calls := [{ ret := 7, split := false, base := 0 }] } } (.bind {} 1)).stop.map
    (fun r => (r.w0.toNat / 2 ^ 56, r.w4))) = some (10, 6) := by decide

/-! ### Memory words (R273 to R287), and what their homes do -/

/-- The state with the virtual page 1 of the partition at physical 0x5000, and rights there. -/
def mapped (s : State) : State :=
  { s with clusters := [(0, { tlb := [{ part := 0, page := 1, bits := 12, frame := 0x5000, w := true, nochk := false, far := false }] })],
           parts := [(0, { on := true, pairs := [0], grants := [(0, 0x100000)] })] }

/-- The group with one lane in its slot. -/
def one (rs : List (Nat × Nat)) : Group := { withRegs rs with slotA := { mask := 1 } }

/-- The place, size and data of the lanes of the access that one issue sends. -/
def sent (rs : List (Nat × Nat)) (i : Instr) : List (Place × Nat × Nat) :=
  ((after (exec i (mapped (lane0 (.lane 0 false) (one rs) ctx0)))).flight.flatMap MemOp.lanes).map (fun a => (a.place, a.size, a.data.toNat))

theorem test_ld : sent [(4, 0x1000)] (.ld { d := 10, a := 4, c := 8, k := true } 0 .n64 .grp .plain) = [(.dev 0x5008, 8, 0)] := by decide
theorem test_ld_back : sent [(4, 0x1040)] (.ld { d := 10, a := 4, c := 0xFF, k := true } 1 .n32 .grp .plain) = [(.dev 0x5030, 4, 0)] := by decide
theorem test_st : sent [(4, 0x1000), (6, 0xABCD)] (.st { a := 4, b := 6, c := 4 } 0 .n32 .grp .plain) = [(.dev 0x5004, 4, 0xABCD)] := by decide
theorem test_lds : sent [(4, 0x40)] (.lds { d := 10, a := 4, k := true } 0 .n32 .grp .plain .plain) = [(.spad 0 0x40, 4, 0)] := by decide
theorem test_sts : sent [(4, 0x40), (6, 9)] (.sts { a := 4, b := 6 } 0 .n8 .grp .plain false) = [(.spad 0 0x40, 1, 9)] := by decide
theorem test_pref : (after (exec (.pref { a := 4 } 0) (mapped (lane0 (.lane 0 false) (one [(4, 0x1000)]) ctx0)))).flight = [] := by decide
theorem test_atom : sent [(4, 0x1000), (6, 3)] (.atom { d := 10, a := 4, b := 6, c := 0, k := true } .i32 .grp .rlx false) = [(.dev 0x5000, 4, 3)] := by decide
theorem test_acas : sent [(4, 0x1000), (6, 3), (8, 5)] (.acas { d := 10, a := 4, b := 6, c := 8, k := true } .n32 .grp .rlx false) = [(.dev 0x5000, 4, 3)] := by decide
theorem test_abfi : sent [(4, 0x1000), (6, 3), (8, 5)] (.abfi { d := 10, a := 4, b := 6, c := 8, k := true } .n32 .grp .rlx false) = [(.dev 0x5000, 4, 3)] := by decide
theorem test_affcs : sent [(4, 0x1000)] (.affcs { d := 10, a := 4, k := true } .grp .rlx false) = [(.dev 0x5000, 8, 0)] := by decide
theorem test_aplset : sent [(4, 0x1000), (6, 3), (8, 2)] (.aplset { d := 12, a := 4, b := 6, c := 8, k := true } .grp .rlx false) = [(.dev 0x5000, 8, 3)] := by decide
theorem test_red : sent [(4, 0x1000), (6, 3)] (.red { a := 4, b := 6, c := 0 } .i32 .grp .rlx false false) = [(.dev 0x5000, 4, 3)] := by decide
theorem test_feset : sent [(4, 0x40), (6, 2)] (.feset { a := 4, b := 6 } 0) = [(.spad 0 0x40, 32, 0)] := by decide
theorem test_feclr : sent [(4, 0x40), (6, 2)] (.feclr { a := 4, b := 6 } 0) = [(.spad 0 0x40, 32, 0)] := by decide
theorem test_calli_memory : sent [(4, 0x1000)] (.calliM { a := 4 } 0) = [(.dev 0x5000, 4, 0)] := by decide
theorem test_misaligned : ((issue (one [(4, 0x1001)]) (.ld { d := 10, a := 4, k := true } 0 .n32 .grp .plain)).stop.map (fun r => (r.w0.toNat / 2 ^ 56, r.w4))) = some (1, 0x1001) := by decide
theorem test_fence : (issue (one []) (.fence {} .dev .ar)).slotA.pc = 1 := by decide
theorem test_pfence : (issue (one []) (.pfence { c := 8 })).slotA.pc = 1 := by decide

/-- An access in flight of group 0 with one lane's part. -/
def op1 (kind : AccKind) (place : Place) (size data data2 : Nat) (d : Option Nat) : MemOp :=
  { id := 5, agent := .group 0, uid := 2, launch := 0, part := 0, cluster := 0, team := 0, kind := kind, scope := .grp, order := .plain,
    atomic := false, d := d, judged := true,
    lanes := [{ lane := 0, addr := 0x1000, place := place, size := size, data := BitVec.ofNat 128 data, data2 := BitVec.ofNat 128 data2 }] }

/-- The small machine with an access in flight, and bytes 1, 2, 3, 4 at physical 0x5000 and in its scratchpad at 0x40. -/
def flying (m : MemOp) : State :=
  let s := mapped (lane0 .env (one []) ctx0)
  { s with flight := [m], mem := [(0x5000, 1), (0x5001, 2), (0x5002, 3), (0x5003, 4)],
           clusters := [(0, { s.cluster 0 with spad := [(0x40, 1), (0x41, 2), (0x42, 3), (0x43, 4)] })] }

/-- The word at physical 0x5000, and the results of lanes in flight. -/
def home (r : Host.Outcome State Fault Refusal) : Nat × List Nat :=
  ((after r).mem.read 0x5000 4, ((after r).flight.flatMap MemOp.lanes).map (fun a => a.result.toNat))

theorem test_home_load : home (exec (.homeAccess 5 1) (flying (op1 (.load .n32) (.dev 0x5000) 4 0 0 (some 10)))) = (0x04030201, [0x04030201]) := by decide
theorem test_home_load_signed : home (exec (.homeAccess 5 1) (flying (op1 (.load .i8) (.spad 0 0x43) 1 0 0 (some 10)))) = (0x04030201, [4]) := by decide
theorem test_home_store : home (exec (.homeAccess 5 1) (flying (op1 (.store 2) (.dev 0x5001) 2 0xBBAA 0 none))) = (0x04BBAA01, []) := by decide
theorem test_home_add : home (exec (.homeAccess 5 1) (flying (op1 (.atom 0 .i32) (.dev 0x5000) 4 0xFFFFFFFF 0 (some 10)))) = (0x04030200, [0x04030201]) := by decide
theorem test_home_cas : home (exec (.homeAccess 5 1) (flying (op1 (.cas .n32) (.dev 0x5000) 4 0x04030201 7 (some 10)))) = (7, [0x04030201]) := by decide
theorem test_home_bfi : home (exec (.homeAccess 5 1) (flying (op1 (.bfi .n32) (.dev 0x5000) 4 0xFFFFFFFF 0xFF00 (some 10)))) = (0x0403FF01, [0x04030201]) := by decide
/-- A performed load of 0x55. -/
def answered : MemOp :=
  { op1 (.load .n32) (.dev 0x5000) 4 0 0 (some 10) with
    performed := true, lanes := [{ lane := 0, addr := 0x1000, place := .dev 0x5000, size := 4, done := true, result := 0x55 }] }
theorem test_memory_reply : ((after (exec (.memoryReply 5) (flying answered))).group? 0).map (fun x => x.reg 10 0) = some 0x55 := by decide
theorem test_store_ack : (after (exec (.storeAck 5) (flying { op1 (.store 4) (.dev 0x5000) 4 0 0 none with performed := true }))).flight = [] := by decide
theorem test_barrier_arrives : (BarWord.ofNat (((after (exec (.homeAccess 5 1) { flying (op1 (.arrive 1) (.spad 0 0x80) 16 0 0 none) with
      clusters := [(0, { spad := [(0x8C, 2)] })] })).cluster 0).spad.read 0x80 16)).arrived = 1 := by decide

/-! ### Synchronisation words -/

/-- The team after one issue, and its requests. -/
def issueTeam (x : Group) (i : Instr) : Option Team := (after (exec i (mapped (lane0 (.lane 0 false) x ctx0)))).team? 0

/-- The kinds and data of the accesses that a props word sends; and what a table's home does: its entries and the lanes' results. -/
def propsSent (rs : List (Nat × Nat)) (i : Instr) : List (AccKind × Nat × Nat) :=
  ((after (exec i (mapped (lane0 (.lane 0 false) (one rs) ctx0)))).flight).flatMap (fun m => m.lanes.map (fun a => (m.kind, a.data.toNat, a.data2.toNat)))
def propsHome (i : Instr) (n data data2 : Nat) : List (Nat × DWord × Word) × List Nat :=
  let t := after (exec i (flying (op1 (.props n) (.spad 0 0) 0 data data2 (some 10))))
  (((t.cluster 0).props.map (fun e => (e.1 % 8, e.2.key, e.2.payload))), (t.flight.flatMap MemOp.lanes).map (fun a => a.result.toNat))
theorem test_plook : propsSent [(4, 9)] (.plook { d := 10, a := 4, k := true }) = [(.props 0, 9, 0)] ∧ propsHome (.homeAccess 5 1) 0 9 0 = ([], [0xFFFF]) := by decide
theorem test_pins : propsSent [(4, 9), (6, 77), (8, 3)] (.pins { d := 10, a := 4, b := 6, c := 8, k := true }) = [(.props 1, 9, 77 + 3 * 2 ^ 32)]
    ∧ (propsHome (.homeAccess 5 1) 1 9 (77 + 3 * 2 ^ 32)).1 = [(3, 9, 77)] := by decide
theorem test_pinv : propsSent [(4, 9)] (.pinv { d := 10, a := 4, k := true }) = [(.props 2, 9, 0)] ∧ propsHome (.homeAccess 5 1) 2 9 0 = ([], [0]) := by decide
theorem test_ejoin : ((issueTeam (one [(4, 5), (6, 2)]) (.ejoin { d := 10, a := 4, b := 6, k := true })).map Team.ensemble) = some (some (5, 2)) := by decide
theorem test_eleave : (issue (one []) (.eleave {})).slotA.pc = 1 := by decide
theorem test_mbput : ((issueTeam (one [(4, 5)]) (.mbput { a := 4, c := 2 })).map (fun t => t.requests.map (fun r => (r.mb, r.value)))) = some [(2, 5)] := by decide
theorem test_mbget : (issue (one []) (.mbget { d := 10, c := 2, k := true })).slotA.wait = .mailbox := by decide
theorem test_mbr : (issue (one []) (.mbr { d := 10, c := 2, k := true })).slotA.wait = .mailbox := by decide
theorem test_mbw : ((issueTeam (one [(4, 5)]) (.mbw { a := 4, c := 2 })).map (fun t => t.requests.map (fun r => r.op))) = some [.write] := by decide
/-- A request of slot A on mailbox 2 of its team, whose mailbox 2 stands as given. -/
def mailing (op : MbOp) (full : Bool) : State :=
  let s := lane0 .env { one [] with slotA := { mask := 1, wait := .mailbox } } ctx0
  s.modTeam 0 (fun t => { t with mailboxes := [(2, { value := 8, full := full })], requests := [{ agent := .group 0, order := 0, op := op, mb := 2, value := 5, d := 10, lanes := 1 }] })
theorem test_mailbox_put : (((after (exec (.mailboxCycle 0) (mailing .put false))).team? 0).map (fun t => (t.requests.length, (Sp.getD t.mailboxes 2 {}).value))) = some (0, 5) := by decide
theorem test_mailbox_waits : (((after (exec (.mailboxCycle 0) (mailing .put true))).team? 0).map (fun t => (t.requests.length, (Sp.getD t.mailboxes 2 {}).value))) = some (1, 8) := by decide
theorem test_rput : ((after (exec (.rput { a := 4, b := 6, c := 0x3 }) (lane0 (.lane 0 false) (one [(4, 5), (6, 0)]) ctx0))).rputs.map (fun r => (r.reg, r.values, r.target))) = [(227, [(0, 5)], some 2)] := by decide
theorem test_rput_arrival : (((after (exec (.rputArrival 4) { lane0 .env grp ctx0 with rputs := [{ id := 4, sender := 2, launch := 0, srcCluster := 0, target := some 2, reg := 227, values := [(0, 5)], clk := [], team := 0 }] })).group? 0).map
    (fun x => (x.reg 227 0, x.arrivals))) = some (5, 1) := by decide
theorem test_waita : (issue { one [(4, 2)] with arrivals := 3 } (.waita { a := 4 })).arrivals = 1 := by decide
theorem test_waita_waits : (issue { one [(4, 2)] with arrivals := 1 } (.waita { a := 4 })).slotA.wait = .arrivals := by decide
theorem test_binit : sent [(4, 0x40), (6, 3)] (.binit { a := 4, b := 6 } 0 true) = [(.spad 0 0x40, 16, 3)] := by decide
theorem test_arrive : sent [(4, 0x40), (6, 3)] (.arrive { a := 4, b := 6 } 0) = [(.spad 0 0x40, 16, 3)] := by decide
theorem test_bwait : (issue (one [(4, 0x40), (6, 1)]) (.bwait { a := 4, b := 6 } 0)).slotA.pc = 1
    ∧ (issue (one [(4, 0x40), (6, 0)]) (.bwait { a := 4, b := 6 } 0)).slotA.wait = .barrier := by decide
theorem test_kick : ((((after (exec (.kick { a := 4, c := 1 }) (lane0 (.lane 0 false) (one [(4, 0x40)]) ctx0))).cluster 0).reqQ.map (fun r => (r.group, r.words.length)))) = [(2, 4)] := by decide
theorem test_bclose : (issue { one [] with openBatch := { any := true } } (.bclose {})).openBatch.any = false := by decide
theorem test_waitb : (issue { one [] with batches := [{ open_ := [3], any := true }] } (.waitb { c := 0 })).slotA.wait = .batch := by decide
theorem test_rgrow : (issue { one [] with nregs := 16 } (.rgrow { c := 24 })).nregs = 24 := by decide
theorem test_rshrink : (issue (one [(20, 5)]) (.rshrink { c := 16 })).nregs = 16 := by decide +kernel
theorem test_dalloc_none : ((issue (one [(4, 16)]) (.dalloc { d := 10, a := 4, k := true })).reg 10 0).toNat = 0 := by decide

/-! ### Matrix words and the engine (R302 to R315) -/

/-- The instruction that one issue puts into the queue of the engine. -/
def queued (x : Group) (i : Instr) : List MxOp := (((after (exec i (lane0 (.lane 0 false) x ctx0))).cluster 0).mxQ).map MxReq.op

theorem test_mxzero : queued (one []) (.mxzero {} 1) = [.zero 1] := by decide
theorem test_mxdrain : queued (one [(4, 0x40)]) (.mxdrain { a := 4 } 1 .f32 true) = [.drain 1 .f32 true] := by decide
theorem test_mxfill : queued (one [(4, 0x40)]) (.mxfill { a := 4 } 1 .f32 true) = [.fill 1 .f32 true] := by decide
theorem test_mxchk : queued (one []) (.mxchk { d := 10, k := true } 1 true) = [.chk 1 true] := by decide
/-- Without a held B an MXMUL stops with detail 1 or its own; with a record of zeros MXLDB and MXPLANE fail their checks (R304). -/
theorem test_mxmul_checks : (issue (one []) (.mxmul { a := 4, b := 6, c := 8 } 0 true)).stop.isSome = true := by decide
theorem test_mxbat_checks : (issue { one [] with heldFor := none } (.mxbat { a := 4, b := 6, c := 8, p := 1 } 0)).slotA.pc = 1 := by decide
theorem test_mxldb_predicate : (issue (one []) (.mxldb { a := 4, c := 6, p := 1 })).slotA.pc = 1 := by decide
theorem test_mxplane_predicate : (issue (one []) (.mxplane { a := 4, b := 6, c := 8, p := 1 } .kt8 false)).slotA.pc = 1 := by decide

/-- The group whose slot A waits for the engine, and a request of it. -/
def atEngine : Group := { one [] with slotA := { mask := 1, wait := .engine } }
def enq (op : MxOp) : MxReq := { id := 7, op := op, agent := .group 0, uid := 2, team := 0, d := 10, rows := [{ lane := 0, addr := 0x40, off := 0x40 }] }
/-- The small machine with that request in the engine's queue, and element (0, 1) of tile 1 with image 5. -/
def engine (op : MxOp) : State :=
  let s := lane0 .env atEngine ctx0
  let s := s.modTeam 0 (fun t => { t with accTiles := [(1, { elems := [(1, 5)], corr := 2, uncorr := 3 })] })
  { s with clusters := [(0, { mxQ := [enq op] })] }

theorem test_engine_zero : (((after (exec (.matrixEngineStep 0) (engine (.zero 0)))).team? 0).map (fun t => (t.tile 0).elems)) = some [] := by decide
theorem test_engine_chk : (((after (exec (.matrixEngineStep 0) (engine (.chk 1 false)))).group? 0).map (fun x => x.slotA.pc)) = some 1 := by decide
theorem test_engine_queue : ((after (exec (.matrixEngineStep 0) (engine (.chk 1 false)))).cluster 0).mxQ = [] := by decide
/-- R162: the significands of a plane set, in two's complement and not. -/
theorem test_significand : mxSig 0 2 1 0b11 0 = -1 ∧ mxSig 1 2 1 0b11 0 = 3 := by decide
/-- R163: the partial of two blocks is their exact sum of products. -/
theorem test_partial : mxPartial { sig := [2, -3], ex := some 0 } { sig := [5, 7], ex := some 0 } = -11 := by decide

/-! ### Prompter words that compute (R330, R335) -/

/-- The context after one word of it. -/
def prom (x : Ctx) (i : Instr) : Ctx := ((after (exec i (lane0 (.prompter 0) grp x))).ctx? 0).getD { ctx0 with uid := 99 }

/-- The context with values in registers. -/
def withG (rs : List (Nat × Nat)) : Ctx := rs.foldl (fun x r => Ctx.put x r.1 (BitVec.ofNat 64 r.2)) ctx0

/-- g3 after a word on g1 and g2. -/
def pr (a b : Nat) (i : Instr) : Nat := (Ctx.val (prom (withG [(1, a), (2, b)]) i) 3).toNat

/-- The operands g3, g1, g2. -/
def p3 : POps := { d := 3, a := 1, b := 2 }

theorem test_pr_add : pr (2 ^ 64 - 1) 3 (.prAdd p3) = 2 := by decide
theorem test_pr_addi : pr 5 0 (.prAddi { d := 3, a := 1, imm := 0xFFFFFFFF }) = 4 := by decide
theorem test_pr_sub : pr 3 5 (.prSub p3) = 2 ^ 64 - 2 := by decide
theorem test_pr_mul : pr (2 ^ 63) 2 (.prMul p3) = 0 := by decide
theorem test_pr_mulh : pr (2 ^ 64 - 1) 2 (.prMulh p3 false) = 2 ^ 64 - 1 ∧ pr (2 ^ 64 - 1) 2 (.prMulh p3 true) = 1 := by decide
theorem test_pr_div : pr (2 ^ 64 - 7) 2 (.div p3 false) = 2 ^ 64 - 3 ∧ pr 7 0 (.div p3 true) = 2 ^ 64 - 1 := by decide
theorem test_pr_rem : pr (2 ^ 64 - 7) 2 (.rem p3 false) = 2 ^ 64 - 1 ∧ pr 7 0 (.rem p3 true) = 7 := by decide
theorem test_pr_logic : pr 6 3 (.prAnd p3) = 2 ∧ pr 6 3 (.prOr p3) = 7 ∧ pr 6 3 (.prXor p3) = 5 := by decide
theorem test_pr_shifts : pr 1 65 (.prShl p3) = 2 ∧ pr (2 ^ 63) 60 (.prShr p3) = 8 ∧ pr (2 ^ 63) 63 (.prSra p3) = 2 ^ 64 - 1 := by decide
theorem test_pr_slt : pr (2 ^ 64 - 1) 1 (.slt p3) = 1 ∧ pr (2 ^ 64 - 1) 1 (.sltn p3) = 0 := by decide
theorem test_li : pr 0 0 (.li { d := 3, imm := 0x80000000 }) = 0xFFFFFFFF80000000 := by decide
theorem test_lih : (Ctx.val (prom (withG [(3, 5)]) (.lih { d := 3, imm := 7 })) 3).toNat = 0x700000005 := by decide
theorem test_pr_g0 : Ctx.val (prom (withG [(1, 5)]) (.prAdd { d := 0, a := 1, b := 1 })) 0 = 0 := by decide
theorem test_b_back : (prom { ctx0 with pc := 2 } (.b { imm := 0xFFFFFFFF })).pc = 1 := by decide
theorem test_bc : (prom { withG [(1, 5), (2, 5)] with pc := 2 } (.bc { a := 1, b := 2, imm := 4 } .eq)).pc = 6 ∧ (prom { withG [(1, 5), (2, 5)] with pc := 2 } (.bc { a := 1, b := 2, imm := 4 } .ltn)).pc = 3 := by decide
theorem test_pr_call : (Ctx.val (prom { ctx0 with pc := 2 } (.prCall { imm := 4 })) 31) = 3 := by decide
theorem test_jr : (prom (withG [(1, 9)]) (.jr { a := 1, imm := 1 })).pc = 10 := by decide
theorem test_pr_nop : prom ctx0 (.prNop {}) = Ctx.after ctx0 := by decide
theorem test_pr_yield : (prom ctx0 (.prYield {})).wait = .yield := by decide

/-! ### The prompter's memory, registers and handler (R331 to R334, R347, R350) -/

/-- What the access that a context's word sends has: place, size, data. -/
def prSent (x : Ctx) (i : Instr) : List (Place × Nat × Nat) :=
  ((after (exec i (mapped (lane0 (.prompter 0) grp x)))).flight.flatMap MemOp.lanes).map (fun a => (a.place, a.size, a.data.toNat))

theorem test_pr_ld : prSent (withG [(1, 0x1000)]) (.prLd { d := 3, a := 1, imm := 8 } {}) = [(.dev 0x5008, 8, 0)] := by decide
theorem test_pr_st : prSent (withG [(1, 0x1000), (2, 7)]) (.prSt { a := 1, b := 2, imm := 8 } { ty := .n32 }) = [(.dev 0x5008, 4, 7)] := by decide
theorem test_pr_lds : prSent (withG [(1, 0x40)]) (.prLds { d := 3, a := 1, imm := 8 } {}) = [(.spad 0 0x48, 8, 0)] := by decide
theorem test_pr_sts : prSent (withG [(1, 0x40), (2, 7)]) (.prSts { a := 1, b := 2, imm := 8 } {}) = [(.spad 0 0x48, 8, 7)] := by decide
theorem test_pr_atom : prSent (withG [(1, 0x1000), (2, 7)]) (.prAtom { d := 3, a := 1, b := 2, imm := 0 } { order := .rlx, ty := .i64 }) = [(.dev 0x5000, 8, 7)] := by decide
theorem test_pr_fence : (prom ctx0 (.prFence {} .dev .ar)).pc = 1 := by decide
theorem test_csrr : Ctx.val (prom { ctx0 with evmask := 6 } (.csrr { d := 3, imm := 1 })) 3 = 6 := by decide
theorem test_csrw : (prom (withG [(1, 2 ^ 64 - 1)]) (.csrw { a := 1, imm := 1 })).evmask = 0xFFE := by decide

/-- The system context of the cluster. -/
def ctx7 : Ctx := { part := 0, cluster := 0, num := 7, uid := 8, active := true, imageLen := 1 }
/-- The small machine with its system context, which runs. -/
def sys (x : Ctx) : State := let s := lane0 (.prompter 7) grp ctx0; { s with ctxs := [(0, ctx0), (7, x)] }
/-- A context after one word of the system context. -/
def sysAt (x : Ctx) (k : Nat) (i : Instr) : Ctx := ((after (exec i (sys x))).ctx? k).getD { ctx0 with uid := 99 }

theorem test_illegal : ((sysAt { ctx7 with pc := 5, evec := 9 } 7 (.illegalInstruction 3)).pc, (sysAt { ctx7 with pc := 5, evec := 9 } 7 (.illegalInstruction 3)).epc,
    (sysAt { ctx7 with pc := 5, evec := 9 } 7 (.illegalInstruction 3)).ecause) = (9, 5, 0x301) := by decide
theorem test_memory_fault : ((sysAt { ctx7 with pc := 5, evec := 9 } 7 (.prompterMemoryFault 5)).ecause, (sysAt { ctx7 with pc := 5, evec := 9 } 7 (.prompterMemoryFault 5)).inHandler) = (2, true) := by decide
theorem test_eret : ((sysAt { ctx7 with epc := 5, inHandler := true } 7 (.eret {})).pc, (sysAt { ctx7 with epc := 5, inHandler := true } 7 (.eret {})).inHandler) = (5, false) := by decide
theorem test_eret_generator : exec (.eret {}) (lane0 (.prompter 0) grp ctx0) = exec (.illegalInstruction 4) (lane0 (.prompter 0) grp ctx0) := (rfl)

/-! ### Composition and segments (R59 to R70, R336 to R339) -/

/-- A context that composes into its open segment 0, with the word of `ADD v5, v4, v6` and one of `LDI` in its image. -/
def composing : Ctx :=
  { ctx0 with imageLen := 4, words := [(0, 0x0002_8278_0301_0800), (1, 0), (2, 0x6003_0001_0000_0000), (3, 0x1000_0000_0000_001F)], quota := 4,
              openSeg := some 0, segs := [(0, { state := .open_, cap := 8 })] }

theorem test_tmpl : (prom composing (.tmpl { a := 0, imm := 2 })).comp = 0x6003_0001_0000_0000 ∧ (prom composing (.tmpl { a := 0, imm := 2 })).holes = [(0, 31, false)] := by decide
theorem test_fld : (prom { composing with regs := [(1, 0xAB)] } (.fld { a := 1, imm := 8 * 256 + 4 })).comp = 0xAB0 := by decide
theorem test_emit : (prom { composing with comp := 0x0002_8278_0301_0800 } (.emit {})).emitQ = [{ seg := 0, off := 0, word := 0x0002_8278_0301_0800, prov := 0 }] := by decide
theorem test_emit_bad : (after (exec (.emit {}) (lane0 (.prompter 0) grp { composing with comp := 0x0D00_0000_0000_0000 }))).launches.map (fun l => (l.2.killed, l.2.status)) = [(true, 5)] := by decide
theorem test_emitx : (prom { composing with comp := 0x0002_8278_0301_0800, regs := [(2, 5)] } (.emitx { b := 2 })).emitQ.map EmitWord.off = [5] := by decide
theorem test_emitb : (prom composing (.emitb { a := 0, imm := 0 })).emitQ.map EmitWord.word = [0x0002_8278_0301_0800] := by decide
theorem test_segnew : Ctx.val (prom { ctx0 with segs := [(0, { state := .sealed, cap := 1 })] } (.segnew { d := 3, imm := 16 })) 3 = 4096 := by decide
theorem test_seal_waits : (prom composing (.seal { d := 3 })).wait = .seal := by decide
theorem test_seal_complete : (((after (exec (.sealComplete 0) (lane0 .env grp { composing with wait := .seal, replyReg := some 3, segs := [(0, { state := .open_, cap := 8, sealing := true })] }))).ctx? 0).map
    (fun x => (x.epoch, x.segs.map (fun e => e.2.state)))) = some (1, [.sealed]) := by decide
theorem test_segfree : (prom { ctx0 with segs := [(1, { state := .sealed, cap := 1 })], regs := [(1, 4096)] } (.segfree { a := 1 })).segs.map (fun e => e.2.state) = [.retiring] := by decide
theorem test_segment_release : (((after (exec (.segmentRelease 0 1) (lane0 .env grp { ctx0 with segs := [(1, { state := .retiring, cap := 1 })] }))).ctx? 0).map Ctx.segs) = some [] := by decide
theorem test_start : (((after (exec (.start { a := 1, b := 2 }) ((lane0 (.prompter 0) { grp with started := false, slotA := {} } { withG [(1, 0), (2, 5)] with
    segs := [(0, { state := .sealed, cap := 8, len := 8 })] }).modTeam 0 (fun t => { t with started := false })))).group? 0).map (fun x => (x.slotA.pc, x.slotA.mask))) = some (5, 0xFFFF) := by decide
theorem test_drain : (((after (exec (.scriptStoreDrain 0) (lane0 .env grp { composing with emitQ := [{ seg := 0, off := 2, word := 7, prov := 9 }] }))).ctx? 0).map
    (fun x => (x.store, x.emitQ))) = some ([(2, (7, 9))], []) := by decide
theorem test_stall_timeout : (((after (exec (.composeStallTimeout 0) { lane0 .env grp { composing with wait := .stall } with clusters := [(0, { compHolder := some 0 })] })).ctx? 0).map Ctx.wait) = some .chunk := by decide

/-! ### Services of the prompter (R340 to R349, R405 to R409) -/

/-- A record of a lane event of group 0, as its generator's queue holds it. -/
def trapRec : Rec := { w0 := 0x0200_0000_0000_000A, w1 := 3, w2 := 4, w3 := 5, w4 := 6 }
/-- The group, halted by that event, which is posted. -/
def stopped : Group := { grp with run := .halted, evHold := true, stop := some trapRec, posted := true, onStage := false }
/-- The machine at the turn of context 0 while that group stands halted, and after a word of it. -/
def over_0 (x : Ctx) : State := lane0 (.prompter 0) stopped x
def over_ (x : Ctx) (i : Instr) : State := after (exec i (over_0 x))

theorem test_waitev : (Ctx.val (prom { ctx0 with events := [(trapRec, [], 0)] } (.waitev { d := 3 } false)) 3, (prom { ctx0 with events := [(trapRec, [], 0)] } (.waitev { d := 3 } false)).current) = (0, some trapRec) := by decide
theorem test_waitev_none : Ctx.val (prom ctx0 (.waitev { d := 3 } true)) 3 = BitVec.allOnes 64 ∧ (prom ctx0 (.waitev { d := 3 } false)).wait = .event := by decide
theorem test_evinfo : Ctx.val (prom { ctx0 with current := some trapRec } (.evinfo { d := 3, imm := 4 })) 3 = 6 := by decide
theorem test_gctl_resume : (((over_ ctx0 (.gctlResume { d := 3, a := 1 })).group? 0).map (fun y => (y.run, y.evHold, y.slotA.pc))) = some (.active, false, 0) := by decide
theorem test_gctl_redirect : (((over_ (withG [(2, 9)]) (.gctlRedirect { d := 3, a := 1, b := 2 })).group? 0).map (fun y => (y.run, y.slotA.pc))) = some (.active, 9) := by decide
theorem test_gctl_kill : (over_ ctx0 (.gctlKill { d := 3, a := 1 })).groups = [] := by decide
theorem test_gctl_flags : (((over_ (withG [(2, 0x105)]) (.gctlFlags { d := 3, a := 1, b := 2 })).group? 0).map (fun y => (y.run, y.flags 1))) = some (.halted, 5) := by decide
theorem test_gctl_status : Ctx.val (prom (withG [(3, 7)]) (.gctlResume { d := 3, a := 1 })) 3 = 1 ∧ Ctx.val (prom (withG [(1, 5 * 2 ^ 48)]) (.gctlResume { d := 3, a := 1 })) 3 = 2 := by decide
theorem test_accrd : ((after (exec (.accrd { d := 3, a := 1 }) { lane0 (.prompter 6) grp ctx0 with ctxs := [(6, { ctx7 with num := 6 })] })).cluster 0).mxQ.map MxReq.op = [.accrd 0 0 0] := by decide
theorem test_accwr : ((after (exec (.accwr { a := 1, b := 2 }) { lane0 (.prompter 6) grp ctx0 with ctxs := [(6, { ctx7 with num := 6, regs := [(1, 0x100), (2, 5)] })] })).cluster 0).mxQ.map MxReq.op = [.accwr 1 0 0 5] := by decide
theorem test_pr_mbput : (((after (exec (.prMbput { a := 1, b := 2, imm := 4 }) (lane0 (.prompter 0) grp (withG [(1, 0), (2, 9)])))).team? 0).map (fun t => t.requests.map (fun r => (r.mb, r.value)))) = some [(4, 9)] := by decide
theorem test_pr_mbw : (((after (exec (.prMbw { a := 1, b := 2, imm := 4 }) (lane0 (.prompter 0) grp (withG [(1, 0), (2, 9)])))).team? 0).map (fun t => t.requests.map (fun r => r.op))) = some [.write] := by decide
theorem test_pr_mb_waits : (prom ctx0 (.prMbget { d := 3, a := 1, imm := 4 })).wait = .mailbox ∧ (prom ctx0 (.prMbr { d := 3, a := 1, imm := 4 })).wait = .mailbox := by decide
theorem test_pr_cuept : (prom (withG [(1, 4)]) (.prCuept { a := 1 })).cue = 4 := by decide
theorem test_sysc : (((after (exec (.sysc { imm := 2 }) { lane0 (.prompter 0) grp ctx0 with ctxs := [(0, { ctx0 with regs := [(10, 0x77)] }), (7, ctx7)] })).ctx? 7).map
    (fun x => x.events.map (fun e => (e.1.w0.toNat / 2 ^ 56, e.1.w3.toNat / 2 ^ 32, e.1.w4)))) = some [(0x26, 2, 0x77)] := by decide
theorem test_sysresume : (((after (exec (.sysresume { a := 1, imm := 0x104 }) { sys ctx7 with ctxs := [(0, { ctx0 with wait := .sysc }), (7, ctx7)] })).ctx? 0).map (fun x => (x.pc, x.wait))) = some (1, .run) := by decide
theorem test_dhalt : (((after (exec (.dhalt { a := 1, imm := 0x110 }) (sys ctx7))).group? 0).map Group.dbgPend) = some true := by decide
theorem test_debug_halt : (((after (exec (.debugHalt 0) { sys ctx7 with groups := [(0, { grp with dbgPend := true })] })).group? 0).map (fun y => (y.run, y.dbgHold))) = some (.halted, true)
    ∧ (((after (exec (.debugHalt 0) { sys ctx7 with groups := [(0, { grp with dbgPend := true })] })).ctx? 7).map (fun x => x.events.map (fun e => e.1.w0.toNat / 2 ^ 56))) = some [0x34] := by decide
theorem test_drelease : (((after (exec (.drelease { a := 1, imm := 0x111 }) { sys ctx7 with groups := [(0, { grp with run := .halted, dbgHold := true })] })).group? 0).map (fun y => (y.run, y.dbgHold))) = some (.active, false) := by decide
theorem test_tlbinv : ((after (exec (.tlbinv { a := 1, imm := 0x112 }) (mapped (sys { ctx7 with regs := [(1, 0x1000)] })))).cluster 0).tlb = [] := by decide
theorem test_tlbinv_other : ((after (exec (.tlbinv { a := 1, imm := 0x112 }) (mapped (sys { ctx7 with regs := [(1, 0x2000)] })))).cluster 0).tlb.length = 1 := by decide
theorem test_tlbinv_complete : ((after (exec (.tlbinvComplete 0) { sys ctx7 with clusters := [(0, { tlbBusy := [(0, 0)] })] })).cluster 0).tlbBusy = [] := by decide
theorem test_lkill : ((after (exec (.lkill { a := 1, imm := 0x115 }) (sys ctx7))).launches.map (fun l => (l.2.killed, l.2.status))) = [(true, 9)] := by decide

/-- A host on port 0 that may write every control register. -/
def host : State := { sys ctx7 with house := { step := 7, active := { words := (List.range 418).map (fun _ => BitVec.allOnes 64) } } }

/-! ### The dispatcher (R384 to R398) -/

/-- Queue 1 of the partition enabled for a host on port 3 that has every right. -/
def dispatch : State :=
  { lane0 .env grp ctx0 with queues := [(1, { en := true, head := 2, tail := 2 })],
                             house := { step := 7, active := { words := (List.range 418).map (fun _ => 0) } } }
theorem test_queue_kick_refused : ((after (exec (.queueKick 3 1 5) dispatch)).queue 1).tail = 2 ∧ ((after (exec (.queueKick 3 1 5) dispatch)).port 3).frozen = true := by decide
theorem test_register_write_refused : ((after (exec (.registerWrite (.host 3) 0x10048 0) dispatch)).queue 1).en = true := by decide
theorem test_descriptor_none : (after (exec (.descriptorTake 1) dispatch)).launches.length = 1 := by decide
theorem test_event_word : (after (exec (.eventWordSet 1) { dispatch with launches := [(0, { uid := 0, queue := 1, part := 0, desc := List.replicate 8 0, id := 0, phase := .waiting })] })).launches.map (fun l => l.2.phase) = [.waiting] := by decide
theorem test_placement_none : (after (exec .placementStep dispatch)).teams.length = 1 := by decide
/-- A launch with nothing resident, whose contributions of 2.0 and 1.0 to one place wait in the order of their arrival. -/
def closing : State :=
  { host with launches := [(4, { uid := 4, queue := 1, part := 0, desc := List.replicate 8 0, id := 6, phase := .placed, exited := 1 })],
              groups := [], teams := [], ctxs := [], mem := [],
              ordBuf := [{ launch := 4, phys := 0x5000, key := 2, value := 0x40000000 }, { launch := 4, phys := 0x5000, key := 1, value := 0x3F800000 }] }
theorem test_ord_close : (after (exec (.ordClose 4) closing)).mem.read 0x5000 4 = 0x40400000 := by decide +kernel
theorem test_launch_waits : ((after (exec (.launchComplete 0) dispatch)).launch? 0).isSome = true := by decide

/-! ### The slice and what waits (R20 to R24, R38) -/

theorem test_slice_issue : ((after (exec (.sliceIssue 0 0) (lane0 .env grp ctx0))).agenda, Sp.getD ((after (exec (.sliceIssue 0 0) (lane0 .env grp ctx0))).cluster 0).cycle 0 0) = ([.lane 0 false], 1) := by decide
theorem test_stage_swap : (((after (exec (.stageSwap 0 0) (lane0 .env { grp with onStage := false } ctx0))).group? 0).map (fun y => (y.onStage, y.eligAt))) = some (true, 4) := by decide
theorem test_stage_eligible : (((after (exec (.stageEligible 0) { lane0 .env { grp with eligAt := 4 } ctx0 with clusters := [(0, { cycle := [(0, 4)] })] })).group? 0).map Group.eligAt) = some 0 := by decide
theorem test_dependence : (((after (exec (.dependenceResolved 0) (lane0 .env { grp with arrivals := 3, slotA := { mask := 1, wait := .arrivals, wants := [3] } } ctx0))).group? 0).map (fun y => y.slotA.wait)) = some .run := by decide
theorem test_chain_end : (((after (exec (.linkedChainEnd 0 0) ((lane0 .env grp ctx0).modTeam 0 (fun t => { t with chains := [(0, [{ endCycle := 0, carry := 5, restart := false, last := true, discard := false }])] })))).team? 0).map Team.tail) = some 5 := by decide
theorem test_event_post : (((after (exec (.eventPostDeferred 0) (lane0 .env { stopped with posted := false } ctx0))).ctx? 0).map (fun x => x.events.map (fun e => e.1))) = some [trapRec] := by decide

/-! ### Requests and engines (R103 to R108) -/

/-- A copy of 16 bytes from virtual 0x1000 to 0x40 of the team's scratchpad would need its words; this one of zeros is taken
and judged by R103. -/
def request (ws : List DWord) : Request := { id := 5, group := 2, team := 0, launch := 0, part := 0, cluster := 0, words := ws, at_ := 0x40 }
theorem test_request_taken : ((after (exec (.requestEngineTake 0) { lane0 .env grp ctx0 with clusters := [(0, { reqQ := [request [0, 0, 0, 0]] })] })).cluster 0).reqQ = [] := by decide
theorem test_delivery_none : (after (exec (.copyDelivery 5 0 1) (lane0 .env grp ctx0))).mem = [] ∧ (after (exec (.sendDelivery 5 0 1) (lane0 .env grp ctx0))).mem = [] := by decide
theorem test_gather_none : (after (exec (.gatherRequest 5) (lane0 .env grp ctx0))).mem = [] := by decide

/-! ### Pairs, walks, swaps, cuts (R180 to R186, R410 to R425) -/

theorem test_confirm_none : (after (exec (.compareConfirm 0 0) (lane0 .env grp ctx0))).pairs = [] ∧ (after (exec (.cueConfirmed 0) (lane0 .env grp ctx0))).pairs = [] := by decide
/-- The walk of an address under an empty table faults with record 0x30 (R422). -/
theorem test_walk_faults : (((after (exec (.walkComplete 0) { sys ctx7 with walks := [(0, [{ part := 0, cluster := 0, va := 0x1000, write := false, agent := .group 0 }])] })).ctx? 7).map
    (fun x => x.events.map (fun e => (e.1.w0.toNat / 2 ^ 56, e.1.w4)))) = some [(0x30, 0x1000)] := by decide

theorem test_ptroot : ((after (exec (.ptrootWrite (.host 0) 0 0x7FFF) host)).part 0).root = 0x7000 := by decide
theorem test_queue_kick : ((after (exec (.queueKick 0 1 5) { host with queues := [(1, { en := true })] })).queue 1).tail = 5 := by decide
theorem test_register_write : ((after (exec (.registerWrite (.host 0) 0x10040 0xABCDE) host)).queue 1).base = 0xAB000 := by decide
/-- Two partitions that share a cluster pair, the one on, the other with a launch in its queue. -/
def sharing : State :=
  { host with parts := [(0, { on := true, pairs := [0], qnt := 1 }), (1, { pairs := [0] })], queues := [(1, { en := true, part := 1, tail := 1 })],
              groups := [], teams := [], launches := [] }
theorem test_pswap_yield : ((after (exec (.pswapYield (.host 0) 0) sharing)).part 0).yield = true ∧ ((after (exec (.pswapYield (.host 0) 0) sharing)).share 0).phase = .drain := by decide
theorem test_quantum : (after (exec (.swapQuantumExpiry 0) host)).shares = host.shares := by decide
theorem test_swap_exchange : ((after (exec (.swapExchangeDone 0) { host with shares := [(0, { phase := .exchange })] })).share 0) = { phase := .run, busy := true } := by decide
theorem test_swap_flip : ((after (exec (.swapFlip 0) { host with parts := [(0, { on := true, pairs := [0] }), (1, { pairs := [0] })], shares := [(0, { phase := .drain, bank := some 1 })] })).part 1).on = true := by decide
theorem test_swap_background : ((after (exec (.swapBackgroundDone 0 [] []) { host with parts := [(0, { on := true, pairs := [0] }), (1, { pairs := [0] })], shares := [(0, { busy := true, bank := some 1 })] })).share 0).busy = false := by decide
theorem test_timeslice : ((after (exec (.timesliceQuantum 0) { host with parts := [(0, { on := true, v128 := true, remap := [(1, 0)], pairs := List.range 64, sliced := [1] })] })).part 0).sliced = [0] := by decide +kernel
theorem test_cut_go : ((after (exec (.cutGo (.host 0) 0) host)).part 0).cutState = 1 := by decide
theorem test_cut_blocked : ((after (exec (.cutBlocked 0) { host with parts := [(0, { on := true, pairs := [0], cutState := 1 })] })).part 0).cutState = 3 := by decide
theorem test_cut_release : ((after (exec (.cutRelease (.host 0) 0) { host with parts := [(0, { on := true, pairs := [0], cutState := 2 })] })).part 0).cutState = 0 := by decide
theorem test_cut_complete : ((after (exec (.cutComplete 0) { host with parts := [(0, { on := true, pairs := [0], cutState := 1 })], groups := [], teams := [], ctxs := [(7, ctx7)] })).part 0).cutState = 2 := by decide
theorem test_energy : (((after (exec (.energyInterval 0) (lane0 .env grp { ctx0 with laneSteps := 5 }))).ctx? 0).map Ctx.laneSteps) = some 0 := by decide

/-! ### The fabric, errors, repairs, power and the house controller (R426 to R456) -/

/-- Port 2 up with four lanes, its partner in sequence 5. -/
def linked : State := { host with ports := [(2, { state := 2, lanes := 4, rxSeq := 5 })], mem := [(0x5000, 7)] }
theorem test_flit : ((after (exec (.flitReceive 2 5 (.arrives true)) linked)).port 2).rxSeq = 6 ∧ ((after (exec (.flitReceive 2 6 (.arrives true)) linked)).port 2).replays = 1
    ∧ ((after (exec (.flitReceive 2 9 .refused) linked)).port 2).replays = 1 := by decide
theorem test_lane_shed : (((after (exec (.laneShed 2) linked)).port 2).state, ((after (exec (.laneShed 2) linked)).port 2).newWidth) = (3, 3) := by decide
theorem test_retrained : ((after (exec (.portRetrained 2) { linked with ports := [(2, { state := 3, lanes := 4, newWidth := 2 })] })).port 2).lanes = 2 := by decide
theorem test_port_down : ((after (exec (.portDown 2) linked)).port 2).state = 0 := by decide
theorem test_unreachable : (after (exec (.deviceUnreachable { dev := 9 }) linked)).unreachable = [9] := by decide
theorem test_fabric_read : (after (exec (.fabricRequest { port := 2, source := 9, isHost := false, seq := 1, control := false, off := 0x5000, op := .read 4 false }) linked)).answers = [(2, true, 7)] := by decide +kernel
theorem test_fabric_again : (after (exec (.fabricRequest { port := 2, source := 9, isHost := false, seq := 2, control := false, off := 0x5000, op := .read 4 false }) linked)).answers = [] := by decide
theorem test_error_line : (after (exec (.uncorrectableError (.line 0x5000)) linked)).poisonLines = [0x140] := by decide
theorem test_error_context : ((after (exec (.uncorrectableError (.ctxState 0)) host)).launches.map (fun l => l.2.status)) = [9] := by decide
theorem test_corrected : (after (exec (.correctedError (.line 0x5000)) linked)).mem = [(0x5000, 7)] := by decide
theorem test_scrub : (after (exec (.scrubPass 1 2 0x5000 false true) linked)).poisonLines = [0x140] := by decide
theorem test_row_spare : (after (exec (.rowSpare 1 2) { linked with house := { step := 7, rowErrs := [(rowKey 1 2, [1, 2, 3, 4])], time := 10 } })).house.copying = [(1, 2)] := by decide
theorem test_row_switch : (after (exec (.rowSpareSwitch 1 2) { linked with house := { step := 7, copying := [(1, 2)] } })).house.spared = [(1, 2)] := by decide
theorem test_margin_window : (Sp.getD (after (exec (.marginWindow 3) linked)).house.margins 3 {}).setpoint = 745 := by decide
theorem test_margin_lockout : (Sp.getD (after (exec (.marginLockoutExpiry 3) { linked with house := { margins := [(3, { locked := some 5 })], time := 5 } })).house.margins 3 {}).locked = none := by decide
theorem test_retire : (after (exec (.retire 3) host)).house.retiring = [3] := by decide
theorem test_retire_complete : (after (exec (.retireComplete 9) { host with house := { step := 7, retiring := [9] } })).house.retired = [9] := by decide +kernel
theorem test_power_up_volts : (after (exec (.powerUp { milliVolts := 47999 }) State.reset)).house.step = 0 ∧ (after (exec (.powerUp { milliVolts := 48000 }) State.reset)).house.step = 1 := by decide
theorem test_power_sample : ((after (exec (.powerSample 1901 0 0 0) host)).cluster 0).limit = 184 ∧ ((after (exec (.powerSample 1900 0 38 100) host)).cluster 0).limit = 192 := by decide
theorem test_pressure_withdrawn : ((after (exec .pressureWithdraw { host with clusters := [(0, { limit := 184 })], house := { step := 7, steps := [[]], clearSince := some 0, time := 1000 } })).cluster 0).limit = 192 := by decide
theorem test_thermal_trip : (after (exec (.thermalTrip 40 115) host)).groups = [] ∧ (after (exec (.thermalTrip 40 114) host)).groups.length = 1 := by decide
theorem test_power_loss : (after (exec .powerLoss linked)).mem = [] := by decide
theorem test_partcfg_early : (after (exec (.partcfg [] 0) State.reset)).house.code = 4 := by decide
theorem test_shed : ((after (exec (.shed 2 1) linked)).port 2).newWidth = 1 := by decide
theorem test_restore : (after (exec (.restore 2) linked)).house.code = 0 := by decide
theorem test_thaw : ((after (exec (.thaw 2) { linked with ports := [(2, { frozen := true })] })).port 2).frozen = false := by decide
theorem test_resetcl : ((after (exec (.resetcl 0) { host with clusters := [(0, { frozen := true, tableauRead := true, spad := [(1, 1)] })] })).cluster 0).spad = [] := by decide
theorem test_tabtrig : (after (exec .tabtrig host)).house.tableau.isSome = true := by decide
theorem test_tabread : (after (exec .tabread { host with house := { host.house with tableau := some 5 } })).house.reply.headD 0 = 5 := by decide
theorem test_fiarm_disabled : (after (exec (.fiarm (List.replicate 5 0)) dispatch)).house.code = 2 := by decide
theorem test_injection_none : (after (exec (.faultInjectionFire 0) host)).groups = host.groups := by decide
theorem test_errread : (after (exec (.errread 0) { host with house := { step := 7, history := [{ w0 := 1, w1 := 2, w2 := 3, w3 := 4, time := 5 }] } })).house.reply.take 4 = [1, 2, 3, 4] := by decide
theorem test_attest : (after (exec (.attest (List.replicate 32 7)) host)).house.reply.take 4 = [0x0144, 0, 0, 7] := by decide
theorem test_base_discovery : (after (exec .baseDiscovery host)).house.reply = [0, 2, 5, 63] := by decide
theorem test_sensor : (after (exec (.sensorRead 151) host)).house.reply = [750] := by decide
theorem test_firmware : (after (exec (.firmwareUpdate { device := false, words := [1] } 2 3) host)).house.pendingFw = some ([1], 3, 2) := by decide

/-! ### Steps (the word at a slot, a round of turns) -/

theorem test_step_event : (after (step { State.reset with agenda := [.event (.powerUp {})] })).house.step = 1 := by decide
theorem test_step_lane : ((((after (step { lane0 .env { grp with slotA := { pc := 0, mask := 3 } } { ctx0 with
    segs := [(0, { state := .sealed, cap := 1, len := 1, chunks := [0] })], store := [(0, (0x0002_8278_0301_0800, 0))] } with agenda := [.lane 0 false] })).group? 0).map (fun x => x.slotA.pc))) = some 1 := by decide
theorem test_step_prompter : (((after (step { lane0 .env grp { ctx0 with words := [(0, 0x1040_0000_0000_0004)] } with agenda := [.prompter 0] })).ctx? 0).map (fun x => Ctx.val x 8)) = some 4 := by decide

/-! ### The hypotheses of the statements are met: lane words

For every statement a state and operands that meet the hypotheses of each of its clauses. -/

/-- What `MayIssue` asks beyond the turn and the group. -/
def mayB (s : State) (g : Nat) (b : Bool) (x : Group) (ws reads : List Nat) (srcs dst : List Named) : Bool :=
  s.mayIssue g x && decide ((x.slot b).mask ≠ 0) && decide ((x.slot b).wait = .run)
    && decide (ws = [] ∨ ∀ f ∈ srcs ++ dst, Named.outside x f = false)
    && decide (∀ j ∈ reads, ∀ f ∈ srcs, Named.lost x j f = false)
    && decide (∀ f ∈ srcs ++ dst, ∀ r ∈ Named.regs f, s.awaited g x r = false)
    && decide (∀ j ∈ reads, ∀ f ∈ srcs, ∀ r ∈ Named.regs f, r * 64 + j ∉ x.latent)

theorem mayIssue_of_mayB {s : State} {g : Nat} {b : Bool} {x : Group} {ws reads : List Nat} {srcs dst : List Named}
    (hc : s.cur = .lane g b) (hg : s.group? g = some x) (h : mayB s g b x ws reads srcs dst = true) : MayIssue s g b x ws reads srcs dst := by
  simp only [mayB, Bool.and_eq_true, decide_eq_true_eq] at h
  obtain ⟨⟨⟨⟨⟨⟨h1, h2⟩, h3⟩, h4⟩, h5⟩, h6⟩, h7⟩ := h
  exact ⟨hc, hg, h1, h2, h3, h4, h5, h6, h7⟩

/-- The small machine at the turn of slot A of its group. -/
def at_ (x : Group) : State := lane0 (.lane 0 false) x ctx0
/-- Slot A of its group may issue a word with these fields. -/
abbrev May (x : Group) (ws : List Nat) (srcs dst : List Named) : Prop := MayIssue (at_ x) 0 false x ws ws srcs dst
theorem may_of {x : Group} {ws : List Nat} {srcs dst : List Named} (h : mayB (at_ x) 0 false x ws ws srcs dst = true) : May x ws srcs dst :=
  mayIssue_of_mayB rfl rfl h

/-- A group with values in v4, v6 and v8 of lane 0. -/
def x1 : Group := withRegs [(4, 7), (6, 9), (8, 3)]

theorem wit_LaneResult : ∃ al o, aluOf (at_ x1) x1 (.add o3 .i32 false) = some (al, o) ∧ al.linked o = false
    ∧ MayIssue (at_ x1) 0 false x1 (x1.writers false o.p o.pn) (readLanes x1 o.u (x1.writers false o.p o.pn)) (al.named o false) (al.dest o) :=
  ⟨_, _, rfl, by decide, mayIssue_of_mayB rfl rfl (by decide)⟩
theorem wit_LaneResult_uniform : ∃ al o, aluOf (at_ x1) x1 (.mov { d := 10, a := 242, u := true, k := true } .n32) = some (al, o) ∧ al.linked o = false
    ∧ MayIssue (at_ x1) 0 false x1 (x1.writers false o.p o.pn) (readLanes x1 o.u (x1.writers false o.p o.pn)) (al.named o false) (al.dest o) :=
  ⟨_, _, rfl, by decide, mayIssue_of_mayB rfl rfl (by decide)⟩
theorem wit_LaneResult_special : ∃ al o, aluOf (at_ x1) x1 (.srd { d := 10, k := true } 4) = some (al, o) ∧ al.linked o = false
    ∧ MayIssue (at_ x1) 0 false x1 (x1.writers false o.p o.pn) (readLanes x1 o.u (x1.writers false o.p o.pn)) (al.named o false) (al.dest o) :=
  ⟨_, _, rfl, by decide, mayIssue_of_mayB rfl rfl (by decide)⟩
theorem wit_LinkedResult : ∃ al o tm, aluOf (at_ exhibit11) exhibit11 (.add { d := 5, a := 4, b := 240, c := 241, k := true } .i32 false) = some (al, o)
    ∧ al.linked o = true ∧ (at_ exhibit11).team? exhibit11.team = some tm ∧ tm.handIn exhibit11.index ((at_ exhibit11).issueCycle exhibit11) = .take 0 true ∧ tm.handFull exhibit11.index = false
    ∧ MayIssue (at_ exhibit11) 0 false exhibit11 (exhibit11.writers false o.p o.pn) (readLanes exhibit11 o.u (exhibit11.writers false o.p o.pn)) (al.named o true) (al.dest o) :=
  ⟨_, _, _, rfl, by decide, rfl, rfl, by decide, mayIssue_of_mayB rfl rfl (by decide)⟩
theorem wit_IntegerValues : isInt .i64 = true ∧ isInt .n32 = true ∧ isInt .i32 = true ∧ 63 < tyBits .i64 ∧ 0 < tyBits .n32 := by decide
theorem wit_ImmediatesAndPairs_imm :
    let o : IOps := { d := 10, k := true, imm := 7 }
    MayIssue (at_ x1) 0 false x1 (x1.writers false o.p o.pn) (readLanes x1 o.u (x1.writers false o.p o.pn)) [(.src32, o.d)] [(.dst64, o.d)] :=
  mayIssue_of_mayB rfl rfl (by decide)
theorem wit_ImmediatesAndPairs_pair : ∃ op h q, pairOf (.pairAdd { d := 5, a := 2 } { op := .fmul, h := { d := 11, a := 4, mod := 1 } }) = some (op, h, q)
    ∧ MayIssue (at_ x1) 0 false x1 (x1.writers false (halfOps op h).p (halfOps op h).pn) (readLanes x1 (halfOps op h).u (x1.writers false (halfOps op h).p (halfOps op h).pn))
        ((halfAlu op h.mod).named (halfOps op h) false) ((halfAlu op h.mod).dest (halfOps op h))
    ∧ MayIssue (at_ x1) 0 false x1 (x1.writers false (halfOps q.op q.h).p (halfOps q.op q.h).pn) (readLanes x1 (halfOps q.op q.h).u (x1.writers false (halfOps q.op q.h).p (halfOps q.op q.h).pn))
        ((halfAlu q.op q.h.mod).named (halfOps q.op q.h) false) ((halfAlu q.op q.h.mod).dest (halfOps q.op q.h)) :=
  ⟨_, _, _, rfl, mayIssue_of_mayB rfl rfl (by decide), mayIssue_of_mayB rfl rfl (by decide)⟩
theorem wit_CrossLaneResult_shfl :
    let o : Ops := { d := 10, a := 4, c := 1, k := true }
    let ws := x1.writers false o.p o.pn
    May x1 ws [] (destOf o.k (dstW false) o.d)
    ∧ TakesFrom (at_ x1) 0 x1 ws (srcW false) o.a (fun j => (shflSource .up x1.width j o.c).getD j) :=
  ⟨may_of (by decide), ⟨by decide, by decide, by decide, by decide⟩⟩
theorem wit_CrossLaneResult_shfl_reg :
    let o : Ops := { d := 10, a := 4, b := 6, k := true }
    let ws := x1.writers false o.p o.pn
    May x1 ws [(.src32, o.b)] (destOf o.k (dstW true) o.d)
    ∧ TakesFrom (at_ x1) 0 x1 ws (srcW true) o.a (fun j => (shflSource .idx x1.width j (x1.read .src32 o.b j 0)).getD j) :=
  ⟨may_of (by decide), ⟨by decide, by decide, by decide, by decide⟩⟩
theorem wit_CrossLaneResult_vote :
    May x1 (x1.writers false 0 false) [(.src32, 4)] (destOf true (dstW (VoteMode.ballot == .ballot)) 10) := may_of (by decide)
theorem wit_CrossLaneResult_bcast :
    let ws := x1.writers false 0 false
    let sel := if x1.read .src32 6 (ws.headD 0) 0 < x1.width then x1.read .src32 6 (ws.headD 0) 0 else 0
    MayIssue (at_ x1) 0 false x1 ws (ws.take 1) [(.src32, 6)] (destOf true (dstW false) 10) ∧ TakesFrom (at_ x1) 0 x1 ws (srcW false) 4 (fun _ => sel)
    ∧ x1.read .src32 6 (ws.headD 0) 0 < x1.width :=
  ⟨mayIssue_of_mayB rfl rfl (by decide), ⟨by decide, by decide, by decide, by decide⟩, by decide⟩
theorem wit_WholeMask :
    MayIssue (at_ x1) 0 false x1 ((x1.writers false 0 false).take 1) ((x1.writers false 0 false).take 1) [(.src64, 4)] []
    ∧ May x1 [] [] [] ∧ May x1 (x1.writers false 0 false) [(.src64, 4)] [] ∧ May x1 (x1.writers false 0 false) [(.src32, 4)] []
    ∧ (at_ x1).chainPending x1 = false :=
  ⟨mayIssue_of_mayB rfl rfl (by decide), may_of (by decide), may_of (by decide), may_of (by decide), by decide⟩

/-- The group at address 10, its lane 1 in m1, with one call open. -/
def called : Group := { atPc 10 with slotA := { pc := 10, mask := 3, calls := [{ ret := 7, split := false, base := 0 }] } }
theorem wit_PlainTransfers : May called [] [] [] ∧ called.items + 1 ≤ (at_ called).stackLimit called
    ∧ (called.slot false).calls = [{ ret := 7, split := false, base := 0 }] := ⟨may_of (by decide), by decide, rfl⟩
theorem wit_Divergence : May called [] [] [] ∧ (called.slot false).mask &&& called.maskReg 2 = 0
    ∧ ((called.slot false).mask &&& called.maskReg 0 ≠ 0 ∧ (called.slot false).mask &&& ~~~(called.maskReg 0) = 0)
    ∧ ((called.slot false).mask &&& called.maskReg 1 ≠ 0 ∧ (called.slot false).mask &&& ~~~(called.maskReg 1) ≠ 0)
    ∧ (∃ tag z, called.newTag = some (tag, z)) ∧ (called.slot true).live = false ∧ called.items + (called.slot false).calls.length ≤ (at_ called).stackLimit called :=
  ⟨may_of (by decide), by decide, by decide, by decide, ⟨_, _, rfl⟩, by decide, by decide⟩
/-- The same with the other slot in use. -/
def both : Group := { called with slotB := { pc := 30, mask := 4 } }
theorem wit_Divergence_stack : May both [] [] [] ∧ (both.slot false).mask &&& both.maskReg 1 ≠ 0 ∧ (both.slot false).mask &&& ~~~(both.maskReg 1) ≠ 0
    ∧ (∃ tag z, both.newTag = some (tag, z)) ∧ (both.slot true).live = true ∧ both.items + (1 + (both.slot false).calls.length) ≤ (at_ both).stackLimit both :=
  ⟨may_of (by decide), by decide, by decide, ⟨_, _, rfl⟩, by decide, by decide⟩
/-- A group at a JOIN under tag 1, its other part in slot B or on the stack. -/
def joining (other : Slot) (st : List StackEntry) : Group :=
  { grp with slotA := { pc := 10, mask := 1, tag := 1 }, slotB := other, stack := st }
theorem wit_Reconvergence_tag0 : May grp [] [] [] ∧ (grp.slot false).tag = 0 := ⟨may_of (by decide), rfl⟩
theorem wit_Reconvergence_merge :
    let x := joining { pc := 10, mask := 2, tag := 1, wait := .atJoin } []
    May x [] [] [] ∧ (x.slot false).tag ≠ 0 ∧ (x.slot true).live = true ∧ (x.slot true).tag = (x.slot false).tag ∧ (x.slot true).wait = .atJoin
    ∧ (x.slot true).pc = (x.slot false).pc := ⟨may_of (by decide), by decide, by decide, rfl, rfl, rfl⟩
theorem wit_Reconvergence_wait :
    let x := joining { pc := 12, mask := 2, tag := 1 } []
    May x [] [] [] ∧ (x.slot false).tag ≠ 0 ∧ (x.slot true).live = true ∧ (x.slot true).tag = (x.slot false).tag ∧ (x.slot true).wait = .run :=
  ⟨may_of (by decide), by decide, by decide, rfl, rfl⟩
theorem wit_Reconvergence_deferred :
    let e : StackEntry := { tag := 1, outer := 0, defPc := 20, defMask := 2, defCalls := [] }
    let x := joining {} [e]
    May x [] [] [] ∧ (x.slot false).tag ≠ 0 ∧ ¬((x.slot true).live = true ∧ (x.slot true).tag = (x.slot false).tag) ∧ x.stack = e :: [] ∧ e.tag = (x.slot false).tag
    ∧ e.defRun = false ∧ e.defMask ≠ 0 := ⟨may_of (by decide), by decide, by decide, rfl, rfl, rfl, by decide⟩
theorem wit_Reconvergence_pop :
    let e : StackEntry := { tag := 1, outer := 0, defPc := 20, defMask := 2, defCalls := [], defRun := true, arrPc := 11, arrMask := 2 }
    let x := joining {} [e]
    May x [] [] [] ∧ ¬((x.slot true).live = true ∧ (x.slot true).tag = (x.slot false).tag) ∧ x.stack = e :: [] ∧ e.tag = (x.slot false).tag ∧ e.defRun = true :=
  ⟨may_of (by decide), by decide, rfl, rfl, rfl⟩
theorem wit_Reconvergence_else :
    let x := joining {} []
    May x [] [] [] ∧ (x.slot false).tag ≠ 0 ∧ ¬((x.slot true).live = true ∧ (x.slot true).tag = (x.slot false).tag) ∧ ∀ e, x.stack.head? = some e → e.tag ≠ (x.slot false).tag :=
  ⟨may_of (by decide), by decide, by decide, by intro e h; cases h⟩
/-- Lanes 0 and 1 with targets in v4: of one and of two kinds. -/
def calls (a b : Nat) : Group := (grp.setReg 4 0 (BitVec.ofNat 32 a)).setReg 4 1 (BitVec.ofNat 32 b)
theorem wit_IndirectCalls_one :
    let x := calls 9 9
    let ws := x.writers false 0 false
    May x ws [(.src32, 4)] [] ∧ ws ≠ [] ∧ (∀ j ∈ ws, x.read .src32 4 j 0 < 2 ^ 20) ∧ (∀ j ∈ ws, x.read .src32 4 j 0 = 9) ∧ x.items + 1 ≤ (at_ x).stackLimit x :=
  ⟨may_of (by decide), by decide, by decide, by decide, by decide⟩
theorem wit_IndirectCalls_two :
    let x := calls 12 9
    let ws := x.writers false 0 false
    May x ws [(.src32, 4)] [] ∧ (∀ j ∈ ws, x.read .src32 4 j 0 = 9 ∨ x.read .src32 4 j 0 = 12) ∧ (∃ j ∈ ws, x.read .src32 4 j 0 = 9) ∧ (∃ j ∈ ws, x.read .src32 4 j 0 = 12)
    ∧ (x.slot true).live = false ∧ x.items + ((x.slot false).calls.length + 2) ≤ (at_ x).stackLimit x
    ∧ ∃ tag z, (x.modSlot false (fun w => { w with calls := { ret := (x.slot false).pc + 1, split := true, base := (x.slot false).tag } :: (x.slot false).calls, rebind := none })).newTag = some (tag, z) :=
  ⟨may_of (by decide), by decide, by decide, by decide, by decide, by decide, ⟨_, _, rfl⟩⟩
theorem wit_ExitsAndCues : May called [] [] [] ∧ (called.slot false).mask &&& ~~~(lanesMask (called.writers false 1 false)) ≠ 0
    ∧ (called.slot false).mask &&& ~~~(lanesMask (called.writers false 0 false)) = 0 ∧ called.stack = [] ∧ (called.slot true).live = false :=
  ⟨may_of (by decide), by decide, by decide, rfl, by decide⟩
theorem wit_ExitsAndCues_cue :
    let l := (lowestLane (x1.slot false).mask).getD 0
    May x1 [l] [(.src32, 6)] [] ∧ (at_ x1).allDone 0 x1 = true ∧ (x1.slot true).live = false ∧ x1.cue.toNat < x1.read .src32 6 l 0
    ∧ (at_ x1).pairOf? x1.team = none ∧ ((at_ x1).part x1.part).cutState ≠ 1 := ⟨may_of (by decide), by decide, by decide, by decide, rfl, by decide⟩

/-! ### Lane events -/

theorem wit_LaneEventEntry : ∃ tm, (at_ grp).group? 0 = some grp ∧ Postable (at_ grp) 0 grp tm ctx0 0x02 ∧ (0x02 : Nat) < 256 ∧ (0x02 : Nat) ≠ 0x0B ∧ grp.index < 32 ∧ grp.gslot < 32
    ∧ (at_ grp).recSlice grp < 16 := ⟨_, rfl, ⟨rfl, rfl, rfl, by decide, by decide, by decide⟩, by decide, by decide, by decide, by decide, by decide⟩
/-- The same with no evmask bit, with a full queue, and with an access on its way. -/
theorem wit_LaneEventElsewhere : ∃ tm c l, (lane0 (.lane 0 false) grp { ctx0 with evmask := 0 }).team? grp.team = some tm
    ∧ (lane0 (.lane 0 false) grp { ctx0 with evmask := 0 }).ctx? tm.ctx = some c ∧ tm.copy = .sole ∧ (lane0 (.lane 0 false) grp { ctx0 with evmask := 0 }).settled 0 grp = true
    ∧ c.evmask.getLsbD 2 = false ∧ c.inService = [] ∧ (lane0 (.lane 0 false) grp { ctx0 with evmask := 0 }).launch? c.launch = some l ∧ l.killed = false :=
  ⟨_, _, _, rfl, rfl, rfl, by decide, by decide, rfl, rfl, rfl⟩
/-- The small machine with an assist context. -/
def assisted : State := let s := at_ grp; { s with ctxs := [(0, ctx0), (6, { ctx7 with num := 6 })] }
theorem wit_LaneEventElsewhere_assist : (assisted.ctx? (ctxKey grp.ckey 6)).isSome = true ∧ assisted.settled 0 grp = true := by decide
theorem wit_LaneEventElsewhere_full : ∃ c, (lane0 (.lane 0 false) grp { ctx0 with events := List.replicate 64 (trapRec, [], 0) }).ctx? 0 = some c
    ∧ c.evmask.getLsbD 2 = true ∧ 64 ≤ c.events.length := ⟨_, rfl, rfl, by simp⟩
theorem wit_LaneEventReturn : (at_ stopped).group? 0 = some stopped ∧ stopped.run = .halted ∧ stopped.evHold = true := ⟨rfl, rfl, rfl⟩
theorem wit_TrapsAndBinds : ∃ tm, May grp [] [] [] ∧ grp.writers false 0 false ≠ [] ∧ grp.writers false 1 false = [] ∧ Postable (at_ grp) 0 grp tm ctx0 0x02
    ∧ Postable (at_ grp) 0 grp tm ctx0 0x03 ∧ Postable (at_ grp) 0 grp tm ctx0 0x0A :=
  ⟨_, may_of (by decide), by decide, by decide, ⟨rfl, rfl, rfl, by decide, by decide, by decide⟩, ⟨rfl, rfl, rfl, by decide, by decide, by decide⟩,
    ⟨rfl, rfl, rfl, by decide, by decide, by decide⟩⟩

/-! ### The hypotheses of the statements are met: memory -/

/-- The small machine at the turn of slot A, its page 1 mapped. -/
def mem_ (x : Group) : State := mapped (at_ x)
abbrev MayM (x : Group) (ws : List Nat) (srcs dst : List Named) : Prop := MayIssue (mem_ x) 0 false x ws ws srcs dst
theorem mayM_of {x : Group} {ws : List Nat} {srcs dst : List Named} (h : mayB (mem_ x) 0 false x ws ws srcs dst = true) : MayM x ws srcs dst :=
  mayIssue_of_mayB rfl rfl h

/-- What `Reaches` asks, lane by lane. -/
def reachesB (s : State) (x : Group) (p : MemPlan) (place : Nat → Place) : Bool :=
  p.lanes.all (fun a =>
    if p.spad then decide (s.spadCheck x a.addr a.size (Nat.min p.align a.size) p.whole = .inl (place a.lane))
    else decide (deviceCheck a.addr a.size = none) && decide ((s.part x.part).v128 = false) &&
      (match s.translate x.ckey a.addr a.write with
       | .hit phys _ => s.unitMay x.part phys a.write && decide (s.servedAt phys = place a.lane)
       | .miss => false))
  && p.lanes.all (fun a => match place a.lane with
      | .remote phys => s.unreachable.contains (fabricDevice phys) || !(s.portsTo (fabricDevice phys)).isEmpty
      | _ => true)

theorem reaches_of_reachesB {s : State} {x : Group} {p : MemPlan} {place : Nat → Place} (h : reachesB s x p place = true) : Reaches s x p place := by
  rw [reachesB, Bool.and_eq_true, List.all_eq_true, List.all_eq_true] at h
  obtain ⟨h, hr⟩ := h
  refine ⟨fun hp a ha => ?_, fun hp a ha => ?_, fun a ha phys hp => ?_⟩
  rotate_right
  · have := hr a ha
    rw [hp] at this
    simpa using this
  · simpa [hp] using h a ha
  · have := h a ha
    simp only [hp, Bool.false_eq_true, if_false, Bool.and_eq_true, decide_eq_true_eq] at this
    obtain ⟨⟨h1, h2⟩, h3⟩ := this
    refine ⟨h1, ?_⟩
    split at h3
    · rename_i phys chk ht
      simp only [Bool.and_eq_true, decide_eq_true_eq] at h3
      exact ⟨phys, chk, ht, h3.1, h3.2, fun hv => by simp [h2] at hv⟩
    · cases h3

/-- An access by a plan that passes its checks. -/
theorem wit_Accesses_issue : let x := one [(4, 0x1000)]
    ∃ p, planOf false x (.ld { d := 10, a := 4, c := 8, k := true } 0 .n64 .grp .plain) = some p ∧ MayM x p.writers p.srcs p.dst ∧ p.pre = none
      ∧ Unordered (mem_ x) 0 x p ∧ p.lanes ≠ [] ∧ Reaches (mem_ x) x p (fun _ => .dev 0x5008) :=
  ⟨_, rfl, mayM_of (by decide), rfl, ⟨by decide, rfl⟩, by decide, reaches_of_reachesB (by decide)⟩
theorem wit_Accesses_spad : let x := one [(4, 0x40), (6, 2)]
    ∃ p, planOf false x (.feset { a := 4, b := 6 } 0) = some p ∧ MayM x p.writers p.srcs p.dst ∧ p.pre = none
      ∧ Unordered (mem_ x) 0 x p ∧ p.lanes ≠ [] ∧ Reaches (mem_ x) x p (fun _ => .spad 0 0x40) :=
  ⟨_, rfl, mayM_of (by decide), rfl, ⟨by decide, rfl⟩, by decide, reaches_of_reachesB (by decide)⟩
theorem wit_Accesses_none : let x := one [(4, 0x1000)]
    ∃ p, planOf false x (.st { a := 4, b := 6, p := 1 } 0 .n32 .grp .plain) = some p ∧ MayM x p.writers p.srcs p.dst ∧ p.pre = none
      ∧ Unordered (mem_ x) 0 x p ∧ p.lanes = [] := ⟨_, rfl, mayM_of (by decide), rfl, ⟨by decide, rfl⟩, rfl⟩
theorem wit_Accesses_check : let x := one [(4, 0x1001)]
    ∃ p a c, planOf false x (.ld { d := 10, a := 4, k := true } 0 .n32 .grp .plain) = some p ∧ MayM x p.writers p.srcs p.dst ∧ p.pre = none
      ∧ Unordered (mem_ x) 0 x p ∧ p.spad = false ∧ p.lanes = [] ++ a :: [] ∧ deviceCheck a.addr a.size = some c :=
  ⟨_, _, _, rfl, mayM_of (by decide), rfl, ⟨by decide, rfl⟩, rfl, rfl, rfl⟩
theorem wit_Accesses_check_spad : let x := one [(4, 0x10000)]
    ∃ p a c, planOf false x (.lds { d := 10, a := 4, k := true } 0 .n32 .grp .plain .plain) = some p ∧ MayM x p.writers p.srcs p.dst ∧ p.pre = none
      ∧ p.spad = true ∧ p.lanes = [] ++ a :: [] ∧ (mem_ x).spadCheck x a.addr a.size (Nat.min p.align a.size) p.whole = .inr c :=
  ⟨_, _, _, rfl, mayM_of (by decide), rfl, rfl, rfl, rfl⟩
theorem wit_Accesses_split : let x := one [(3, 0x400), (8, 13), (10, 54)]
    let ws := x.writers false 0 false
    MayM x ws [(.src32, 3), (.src128, 8), (.src64, 12)] [(.dst32, 20)] ∧ ws ≠ [] ∧ (mem_ x).memHeld 0 x = false ∧ (mem_ x).pairOf? x.team = none
    ∧ ∀ j ∈ ws, (mem_ x).spadCheck x (x.address true 3 0 j) (16 * (4 + 1)) (Nat.min 16 (16 * (4 + 1))) false = .inl (.spad 0 0x400) :=
  ⟨mayM_of (by decide), by decide, by decide, rfl, by decide⟩

/-- Access 5 of group 0 takes its place. -/
theorem takes_of {m : MemOp} (h1 : m.id = 5) (h : (flying m).homeReady m = true ∧ (∀ a ∈ m.lanes, a.done = false) ∧ m.lanes ≠ []
      ∧ (m.judged = true → ∀ a ∈ m.lanes, laneBit 1 a.lane = true) ∧ m.judged = true ∧ (∀ a ∈ m.lanes, (flying m).placePoisoned a.place a.size = false) ∧ m.twin = none
      ∧ ((flying m).opGroup m).all (fun q => q.2.stop.isNone && q.2.run != .exited) = true) :
    TakesPlace (flying m) 5 m 1 := by
  obtain ⟨h2, h3, h4, h5, h6, h7, h8, h10⟩ := h
  refine ⟨?_, h2, h3, h4, h5, ?_, h7, h8, ?_, ?_, ?_⟩
  · simp [State.op?, flying, h1]
  · intro h; rw [h6] at h; cases h
  · intro p hp; simp [flying, mapped, lane0] at hp; subst hp; rfl
  · intro g x h; rw [h] at h10; simpa using h10
  · intro p hp he; simp [flying, mapped, lane0] at hp; subst hp; simp at he

theorem wit_HomePerforms_store : TakesPlace (flying (op1 (.store 2) (.dev 0x5001) 2 0xBBAA 0 none)) 5 (op1 (.store 2) (.dev 0x5001) 2 0xBBAA 0 none) 1
    ∧ ∀ a ∈ (op1 (.store 2) (.dev 0x5001) 2 0xBBAA 0 none).lanes, ∃ p, a.place = .dev p := ⟨takes_of rfl (by decide), by intro a h; simp [op1] at h; exact ⟨_, by rw [h]⟩⟩
theorem wit_HomePerforms_spad : TakesPlace (flying (op1 (.store 2) (.spad 0 0x42) 2 0xBBAA 0 none)) 5 (op1 (.store 2) (.spad 0 0x42) 2 0xBBAA 0 none) 1
    ∧ ∀ a ∈ (op1 (.store 2) (.spad 0 0x42) 2 0xBBAA 0 none).lanes, ∃ off, a.place = .spad 0 off := ⟨takes_of rfl (by decide), by intro a h; simp [op1] at h; exact ⟨_, by rw [h]⟩⟩
theorem wit_HomePerforms_load : TakesPlace (flying (op1 (.load .n32) (.dev 0x5000) 4 0 0 (some 10))) 5 (op1 (.load .n32) (.dev 0x5000) 4 0 0 (some 10)) 1
    ∧ (op1 (.load .n32) (.dev 0x5000) 4 0 0 (some 10)).d = some 10
    ∧ ∀ a ∈ (op1 (.load .n32) (.dev 0x5000) 4 0 0 (some 10)).lanes, (flying (op1 (.load .n32) (.dev 0x5000) 4 0 0 (some 10))).sees (op1 (.load .n32) (.dev 0x5000) 4 0 0 (some 10)).reader a.place a.size = true :=
  ⟨takes_of rfl (by decide), rfl, by decide⟩
/-- A store that is not yet judged, and an access of another group to its bytes that nothing orders before it. -/
def racing : MemOp := { op1 (.store 4) (.dev 0x5000) 4 1 0 none with judged := false }
def raced_ : State :=
  let s := flying racing
  { s with access := [{ uid := 77, time := 1, rel := 0, space := 0, addr := 0x5000, size := 4, write := true, atomic := false, scope := .grp, who := {}, handle := 0, cluster := 0, group := 1 }] }
theorem wit_HomePerforms_race : raced_.op? 5 = some racing ∧ raced_.homeReady racing = true ∧ racing.judged = false ∧ raced_.opGroup racing = some (0, one [])
    ∧ ∃ r rs, raced_.raced (one []) racing.accs = r :: rs := ⟨rfl, by decide, rfl, rfl, ⟨_, _, rfl⟩⟩
theorem test_race_event : ((((after (exec (.homeAccess 5 1) raced_)).group? 0).bind Group.stop).map (fun r => r.w0.toNat / 2 ^ 56)) = some 9 := by decide
theorem wit_AtomicOperations : TakesPlace (flying (op1 (.cas .n32) (.dev 0x5000) 4 0x04030201 7 (some 10))) 5 (op1 (.cas .n32) (.dev 0x5000) 4 0x04030201 7 (some 10)) 1
    ∧ (∃ a, (op1 (.cas .n32) (.dev 0x5000) 4 0x04030201 7 (some 10)).lanes = [a] ∧ a.place = .dev 0x5000) ∧ (op1 (.cas .n32) (.dev 0x5000) 4 0x04030201 7 (some 10)).ord = false
    ∧ (op1 (.cas .n32) (.dev 0x5000) 4 0x04030201 7 (some 10)).d = some 10 :=
  ⟨takes_of rfl (by decide), ⟨_, rfl, rfl⟩, rfl, rfl⟩
theorem wit_AtomicValues : (2 ^ 32 - 1 : Nat) < 2 ^ atomBits .i32 ∧ (2 ^ 64 - 1 : Nat) < 2 ^ atomBits .n64 ∧ (∀ k, k < 64 → (2 ^ 64 - 1 : Nat).testBit k = true)
    ∧ ((5 : Nat).testBit 1 = false ∧ ∀ n, n < 1 → (5 : Nat).testBit n = true) := by decide
theorem wit_Replies : (flying answered).op? 5 = some answered ∧ answered.d = some 10 ∧ answered.performed = true ∧ (flying answered).opGroup answered = some (0, one [])
    ∧ answered.agent = .group 0 ∧ (one []).stop = none ∧ (one []).run ≠ .exited ∧ (∀ a ∈ answered.lanes, a.poisoned = false ∧ a.lane < 64) ∧ (answered.lanes.map LaneAcc.lane).Nodup :=
  ⟨rfl, rfl, rfl, rfl, rfl, rfl, by decide, by decide, by decide⟩
/-- A store that is performed. -/
def stored : MemOp := { op1 (.store 4) (.dev 0x5000) 4 0 0 none with performed := true }
theorem wit_Replies_ack : (flying stored).op? 5 = some stored ∧ stored.performed = true ∧ stored.d = none := ⟨rfl, rfl, rfl⟩
/-- The state with a store of group 0 that is not performed: its fences and path fences wait. -/
def unperformed : State := { flying (op1 (.store 4) (.dev 0x5000) 4 0 0 none) with cur := .lane 0 false }
theorem wit_Synchronisation_fence : MayM (one []) [] [] [] ∧ (mem_ (one [])).memHeld 0 (one []) = false ∧ (one []).writers false 0 false ≠ []
    ∧ orderReleases .ar = true ∧ orderAcquires .ar = true ∧ scopeWide .dev = true := ⟨mayM_of (by decide), by decide, by decide, by decide, by decide, by decide⟩
/-- A group that an acquire fence holds. -/
def held : Group := { one [] with fence := some (.dev, .acq) }
theorem wit_Synchronisation_held : May held [] [] [] ∧ held.writers false 0 false ≠ [] ∧ (at_ held).memHeld 0 held = true := ⟨may_of (by decide), by decide, by decide⟩
theorem wit_Synchronisation_wait : MayIssue unperformed 0 false (one []) [] [] [] []
    ∧ unperformed.undone 0 (one []) = true ∧ unperformed.pathBusy 0 (one []) 0 = true ∧ (8 : Nat) % 8 ≠ 8 / 8 % 8 :=
  ⟨mayIssue_of_mayB rfl rfl (by decide), by decide, by decide, by decide⟩
/-- R285: with a store under way a fence goes on at once; an acquire fence with an atomic read under way then holds later accesses. -/
theorem test_fence_goes_on : ((after (exec (.fence {} .dev .ar) unperformed)).group? 0).map (fun y => (y.slotA.pc, y.slotA.wait, y.fence)) = some (1, .run, none)
    ∧ ((after (exec (.fence {} .dev .acq) { flying { op1 (.load .n32) (.dev 0x5000) 4 0 0 (some 10) with atomic := true } with cur := .lane 0 false })).group? 0).map
        (fun y => (y.slotA.pc, y.fence)) = some (1, some (.dev, .acq)) := by decide
theorem wit_Synchronisation_prefetch : MayM (one [(4, 0x1000)]) ((one [(4, 0x1000)]).writers false 0 false) [(.src64, 4)] [] := mayM_of (by decide)
/-- The small machine with granule 4 of the scratchpad full or not. -/
def fullEmpty (x : Group) (full : Bool) : State := { at_ x with clusters := [(0, { full := if full then [(4, [])] else [] })] }
theorem wit_Synchronisation_full (full : Bool) : let x := one [(4, 0x40)]
    let p := { loadPlan true { d := 10, a := 4, k := true } 0 .n32 .ens .plain false x with kind := .ldsFe .n32 true }
    MayIssue (fullEmpty x full) 0 false x p.writers p.writers p.srcs p.dst ∧ x.writers false 0 false = [0] ∧ (fullEmpty x full).memHeld 0 x = false
    ∧ (fullEmpty x full).placeSpad x p = .ok (p.lanes.map (fun a => { a with place := .spad 0 0x40 })) ∧ (0x40 : Nat) / 16 < 65536 ∧ 0x40 % Ty.n32.bytes = 0
    ∧ (fullEmpty x full).undoneAt 0 x (p.lanes.map (fun a => { a with place := .spad 0 0x40 })) = false ∧ (fullEmpty x full).late = []
    ∧ (fullEmpty x full).isFull (0 * 65536 + 0x40 / 16) = full ∧ (∀ a ∈ (fullEmpty x full).access, a.uid = x.uid) ∧ ((fullEmpty x full).cluster 0).poisoned 0x40 4 = false := by
  cases full
  · exact ⟨mayIssue_of_mayB rfl rfl (by decide), by decide, by decide, by decide, by decide, by decide, by decide, rfl, by decide, by decide, by decide⟩
  · exact ⟨mayIssue_of_mayB rfl rfl (by decide), by decide, by decide, by decide, by decide, by decide, by decide, rfl, by decide, by decide, by decide⟩
theorem wit_Barriers_words : let w : BarWord := { pending := 0, rejected := false, mode := true, phase := false, arrived := 3, expected := 3 }
    w.expected < 2 ^ 32 ∧ w.arrived < 2 ^ 32 ∧ -2 ^ 31 ≤ w.pending ∧ w.pending < 2 ^ 31 ∧ w.expected ≤ w.arrived ∧ w.pending = 0 ∧ 1 < w.expected := by decide
theorem wit_Barriers_init : let x := one [(4, 0x40), (6, 3)]
    let p := binitPlan { a := 4, b := 6 } 0 true false x
    ∃ tm, MayM x [0] p.srcs [] ∧ x.writers false 0 false = [0] ∧ 0 < x.read .src32 6 0 0 ∧ x.read .src32 6 0 0 < 2 ^ 31 ∧ Unordered (mem_ x) 0 x p
      ∧ Reaches (mem_ x) x p (fun _ => .spad 0 0x40) ∧ (mem_ x).team? x.team = some tm ∧ tm.bars0.length < 64 :=
  ⟨_, mayM_of (by decide), by decide, by decide, by decide, ⟨by decide, rfl⟩, reaches_of_reachesB (by decide), rfl, by decide⟩
theorem wit_Barriers_home : TakesPlace (flying (op1 (.binit true) (.spad 0 0x80) 16 3 0 none)) 5 (op1 (.binit true) (.spad 0 0x80) 16 3 0 none) 1
    ∧ TakesPlace (flying (op1 (.arrive 1) (.spad 0 0x80) 16 0 0 none)) 5 (op1 (.arrive 1) (.spad 0 0x80) 16 0 0 none) 1
    ∧ 0 < (BitVec.ofNat 128 3).toNat ∧ (BitVec.ofNat 128 3).toNat < 2 ^ 31 := ⟨takes_of rfl (by decide), takes_of rfl (by decide), by decide, by decide⟩
theorem wit_Barriers_wait (v : Bool) : let x := one [(4, 0x40), (6, v.toNat)]
    MayM x [0] [addrNamed true 4, (.src32, 6)] [] ∧ x.writers false 0 false = [0] ∧ (mem_ x).memHeld 0 x = false
    ∧ (mem_ x).undoneAt 0 x [{ lanePartOf 0 (x.address true 4 (memOffset 0 0) 0) 16 false 0 0 with place := .spad 0 0x40 }] = false
    ∧ (∀ a ∈ (mem_ x).access, a.uid = x.uid) ∧ (mem_ x).spadCheck x (x.address true 4 (memOffset 0 0) 0) 16 16 true = .inl (.spad 0 0x40)
    ∧ ((BarWord.ofNat (((mem_ x).cluster 0).spad.read 0x40 16)).phase.toNat = x.read .src32 6 0 0 % 2 ↔ v = false) := by
  cases v
  · exact ⟨mayM_of (by decide), by decide, by decide, by decide, by decide, by decide, by decide⟩
  · exact ⟨mayM_of (by decide), by decide, by decide, by decide, by decide, by decide, by decide⟩
theorem wit_OrderedReductions : let x := one [(4, 0x1000), (6, 0x3F800000)]
    let p := rmwPlan false { a := 4, b := 6, c := 9 } 4 (.red 9 .f32) .dev .rlx (srcW false) .unused .unused false x
    ∃ tm ln, MayM x p.writers p.srcs p.dst ∧ p.lanes ≠ [] ∧ Unordered (mem_ x) 0 x p ∧ Reaches (mem_ x) x { p with ord := true } (fun _ => .dev 0x5000)
      ∧ (mem_ x).team? x.team = some tm ∧ (mem_ x).launch? x.launch = some ln ∧ ln.ordCount + p.lanes.length ≤ 1048576 :=
  ⟨_, _, mayM_of (by decide), by decide, ⟨by decide, rfl⟩, reaches_of_reachesB (by decide), rfl, rfl, by decide⟩
/-- A `.ord` contribution on its way. -/
def ordOp : MemOp := { op1 (.red 9 .f32) (.dev 0x5000) 4 0x3F800000 9 none with ord := true }
theorem wit_OrderedReductions_home : TakesPlace (flying ordOp) 5 ordOp 1 ∧ ordOp.ord = true ∧ (∃ a, ordOp.lanes = [a] ∧ a.place = .dev 0x5000) :=
  ⟨takes_of rfl (by decide), rfl, ⟨_, rfl, rfl⟩⟩
theorem wit_IndirectCalls_memory : let x := one [(4, 0x1000)]
    let p := calliMPlan { a := 4 } 0 false x
    MayM x p.writers p.srcs [] ∧ p.lanes ≠ [] ∧ Unordered (mem_ x) 0 x p ∧ Reaches (mem_ x) x p (fun _ => .dev 0x5000) ∧ (∀ m ∈ (mem_ x).flight, m.kind = .target → m.uid ≠ x.uid) :=
  ⟨mayM_of (by decide), by decide, ⟨by decide, rfl⟩, reaches_of_reachesB (by decide), by decide⟩
/-- A target load that is answered. -/
def target : MemOp :=
  { op1 .target (.dev 0x5000) 4 0 0 (some 241) with
    performed := true, lanes := [{ lane := 0, addr := 0x1000, place := .dev 0x5000, size := 4, done := true, result := 9 }] }
theorem wit_IndirectCalls_reply : (flying target).op? 5 = some target ∧ target.kind = .target ∧ target.d = some 241 ∧ target.performed = true ∧ (flying target).opGroup target = some (0, one [])
    ∧ target.agent = .group 0 ∧ (one []).stop = none ∧ (one []).run ≠ .exited ∧ (∃ a ∈ target.lanes, laneBit ((one []).slot target.slot).mask a.lane = true)
    ∧ (∀ a ∈ target.lanes, a.poisoned = false ∧ a.lane < 64 ∧ a.result.toNat = 9) ∧ (one []).items + 1 ≤ (flying target).stackLimit (one []) :=
  ⟨rfl, rfl, rfl, rfl, rfl, rfl, rfl, by decide, by decide, by decide, by decide⟩
theorem test_call_reply : ((after (exec (.memoryReply 5) (flying target))).group? 0).map (fun x => x.slotA.pc) = some 9 := by decide

/-! ### The hypotheses of the statements are met: tables, mailboxes, requests, registers, matrices -/

theorem wit_PropsTables : let x := one [(4, 9), (6, 77), (8, 3)]
    let ws := x.writers false 0 false
    (at_ x).memHeld 0 x = false ∧ (at_ x).undone 0 x = false ∧ May x ws [(.src64, 4)] [(.dst64, 10)]
    ∧ (May x ws [(.src64, 4), (.src32, 6), (.src32, 8)] [(.dst64, 10)] ∧ ∀ j ∈ ws, x.read .src32 8 j 0 ≤ 8)
    ∧ (May x ws [(.src32, 4)] [(.dst64, 10)] ∧ ∀ j ∈ ws, x.read .src32 4 j 0 ≤ 4095) :=
  ⟨by decide, by decide, may_of (by decide), ⟨may_of (by decide), by decide⟩, may_of (by decide), by decide⟩
/-- The set of key 9 for context 0, full. -/
def fullSet : Sp Prop_ := (List.range 8).map (fun w => (propsSet 0 9 * 8 + w, { ctx := 0, key := BitVec.ofNat 64 (100 + w), payload := 1 }))
theorem wit_PropsTables_table : propsFind [] 0 9 = none ∧ (3 : Nat) < 8 ∧ propsFind fullSet 0 9 = none ∧ (∀ w, w < 8 → Sp.get? fullSet (propsSet 0 9 * 8 + w) ≠ none)
    ∧ propsFind [(propsSet 0 9 * 8 + 2, { ctx := 0, key := 9, payload := 5 })] 0 9 = some (propsSet 0 9 * 8 + 2) ∧ Sp.get? ([] : Sp Prop_) 4 = none := by decide
theorem wit_EnsembleInstructions : let x := one [(4, 5), (6, 2)]
    let ws := x.writers false 0 false
    ∃ tm, ws.head? = some 0 ∧ (at_ x).team? x.team = some tm ∧ May x [0] [(.src32, 4), (.src32, 6)] [(.dst32, 10)] ∧ x.read .src32 4 0 0 ≤ 255 ∧ x.read .src32 6 0 0 ≤ 7
      ∧ (at_ x).pairOf? x.team = none ∧ (at_ x).joinStatus x tm 5 2 = 0 ∧ May x [] [] [] ∧ tm.ensemble = none :=
  ⟨_, by decide, rfl, may_of (by decide), by decide, by decide, rfl, by decide, may_of (by decide), rfl⟩
/-- The team of the machine is a member, and an access of another team to its allocation is on its way. -/
def leaving : State :=
  let s := at_ (one [])
  { (s.modTeam 0 (fun t => { t with ensemble := some (5, 2) })) with
    flight := [{ op1 (.store 4) (.spad 0 0x40) 4 0 0 none with team := 9, uid := 40, agent := .group 9 }] }
theorem wit_EnsembleInstructions_leave : let x := one []
    ∃ tm, leaving.team? x.team = some tm ∧ x.writers false 0 false ≠ [] ∧ MayIssue leaving 0 false x [] [] [] [] ∧ tm.ensemble ≠ none
      ∧ leaving.allocBusy tm x.team = true := ⟨_, rfl, by decide, mayIssue_of_mayB rfl rfl (by decide), by decide, by decide⟩
theorem wit_EnsembleInstructions_refused : ∃ tm, ({ at_ (one [(4, 5), (6, 2)]) with ensembles := [{ launch := 0, e := 5, members := [(2, 9)] }] } : State).team? 0 = some tm
    ∧ ({ at_ (one [(4, 5), (6, 2)]) with ensembles := [{ launch := 0, e := 5, members := [(2, 9)] }] } : State).joinStatus (one [(4, 5), (6, 2)]) tm 5 2 ≠ 0 := ⟨_, rfl, by decide⟩
theorem wit_Mailboxes_issue : let x := one [(4, 5)]
    let ws := x.writers false 0 false
    ∃ tm, [(Instr.mbput { a := 4, c := 2 }, MbOp.put)].contains (Instr.mbput { a := 4, c := 2 }, MbOp.put) = true ∧ ws.head? = some 0 ∧ (at_ x).team? x.team = some tm
      ∧ (∀ r ∈ tm.requests, r.agent ≠ .group 0) ∧ May x [0] [(.src64, 4)] [] ∧ May x [0] [] [(.dst64, 10)] ∧ (at_ x).memHeld 0 x = false ∧ (at_ x).undone 0 x = false :=
  ⟨_, by decide, by decide, rfl, by decide, may_of (by decide), may_of (by decide), by decide, by decide⟩
theorem wit_Mailboxes_wait : MayIssue unperformed 0 false (one []) [0] [0] [(.src64, 4)] [] ∧ unperformed.undone 0 (one []) = true :=
  ⟨mayIssue_of_mayB rfl rfl (by decide), by decide⟩
theorem wit_Mailboxes_cycle (op : MbOp) (full : Bool) : ∃ tm r x, (mailing op full).team? 0 = some tm ∧ tm.requests = [r] ∧ r.agent = .group 0 ∧ (mailing op full).group? 0 = some x
    ∧ (mailing op full).mailActive r = true ∧ r.mb < 16 ∧ r.op = op ∧ (Sp.getD tm.mailboxes r.mb {}).full = full :=
  ⟨_, _, _, rfl, rfl, rfl, rfl, by cases op <;> rfl, (by decide : (2 : Nat) < 16), rfl, rfl⟩
theorem wit_RemotePut : let x := one [(4, 5), (6, 0)]
    let ws := x.writers false 0 false
    ∃ tm, May x ws [(.src32, 4)] [] ∧ May x [0] [(.src32, 6)] [] ∧ ws.head? = some 0 ∧ (at_ x).rputTeam x (3 / 16) = .inl tm ∧ x.read .src32 6 0 0 < tm.ngroups
      ∧ (at_ x).memHeld 0 x = false ∧ (at_ x).pairOf? x.team = none := ⟨_, may_of (by decide), may_of (by decide), by decide, rfl, by decide, by decide, rfl⟩
/-- A remote put on its way to group 0. -/
def putting : Rput := { id := 4, sender := 2, launch := 0, srcCluster := 0, target := some 2, reg := 227, values := [(0, 5)], clk := [], team := 0 }
theorem wit_RemotePut_arrival : let s : State := { at_ grp with rputs := [putting] }
    s.rputs = putting :: [] ∧ putting.id = 4 ∧ putting.waiting = false ∧ s.groups.find? (fun p => some p.2.uid == putting.target) = some (0, grp)
    ∧ (putting.values.map Prod.fst).Nodup ∧ (∀ p ∈ putting.values, p.1 < 64) ∧ s.flight = [] := ⟨rfl, rfl, rfl, rfl, by decide, by decide, rfl⟩
theorem wit_RemotePut_wait (n : Bool) : let x := { one [(4, 2)] with arrivals := if n then 2 else 1 }
    May x [0] [(.src32, 4)] [] ∧ (x.writers false 0 false).head? = some 0 ∧ 0 < x.read .src32 4 0 0 ∧ x.read .src32 4 0 0 ≤ 65535
    ∧ (x.read .src32 4 0 0 ≤ x.arrivals.toNat ↔ n = true) := by
  cases n <;> exact ⟨may_of (by decide), by decide, by decide, by decide, by decide⟩
theorem wit_EngineRequests_kick : let x := one [(4, 0x40)]
    let ws := x.writers false 0 false
    ws.head? = some 0 ∧ May x [0] [(.src32, 4)] [] ∧ (at_ x).memHeld 0 x = false ∧ (at_ x).undone 0 x = false ∧ (at_ x).pairOf? x.team = none
    ∧ (at_ x).spadCheck x (x.read .src32 4 0 0) (32 * 1) 32 false = .inl (.spad 0 0x40) ∧ (∀ a ∈ (at_ x).access, a.uid = x.uid)
    ∧ ∀ i, i < 4 * 1 → (at_ x).sees x.reader (.spad 0 (0x40 + 8 * i)) 8 = true :=
  ⟨by decide, may_of (by decide), by decide, by decide, rfl, by decide, by decide, by decide⟩
/-- A group with an open batch that holds a request, and n closed ones outstanding. -/
def batching (n : Nat) : Group := { one [] with openBatch := { open_ := [3], any := true }, batches := (List.range n).map (fun i => { open_ := [i + 10], any := true }) }
theorem wit_EngineRequests_batches : May (one []) [] [] [] ∧ (one []).openBatch.any = false
    ∧ May (batching 14) [] [] [] ∧ (batching 14).openBatch.any = true ∧ (batching 14).outstanding < 15
    ∧ May (batching 15) [] [] [] ∧ 15 ≤ (batching 15).outstanding
    ∧ (batching 14).closeBatch.outstanding ≤ 15 ∧ 0 < (batching 14).closeBatch.outstanding :=
  ⟨may_of (by decide), rfl, may_of (by decide), rfl, by decide, may_of (by decide), by decide, by decide, by decide⟩
/-- A copy of one byte from device address 0x1000 to 0x1010, with no barrier word; the kind goes in bits 55:52 of word 3. -/
def copying (kind : Nat) (bad : Bool) : Request :=
  request [0x1000, 0x1010, 1, BitVec.ofNat 64 ((if bad then 0 else 2 ^ 51) + 2 ^ 50 + kind * 2 ^ 52)]
/-- The machine with that request at the head of the queue, or taken. -/
def requesting (r : Request) (taken : Bool) : State :=
  let s := mapped (lane0 .env (one []) ctx0)
  { s with mem := [(0x5000, 0xAB)], clusters := [(0, { s.cluster 0 with reqQ := if taken then [] else [r], work := if taken then [r] else [] })] }
theorem wit_EngineRequests_take : ((requesting (copying 0 false) false).cluster 0).reqQ = copying 0 false :: [] ∧ (requesting (copying 0 false) false).enginesRun 0 = true
    ∧ (copying 0 false).ckey = 0 ∧ (copying 0 false).waiting = false ∧ (copying 0 false).standIn = false ∧ (copying 0 false).rejected = false := by decide
theorem wit_EngineRequests_reject : ((requesting (copying 0 true) false).cluster 0).reqQ = copying 0 true :: [] ∧ (copying 0 true).rejected = true ∧ (copying 0 true).nobar = true
    ∧ (copying 0 true).twin = none ∧ (∀ tm, (requesting (copying 0 true) false).team? (copying 0 true).team = some tm → tm.exited = false) :=
  ⟨rfl, by decide, by decide, rfl, by intro tm h; cases h; rfl⟩
theorem wit_EngineRequests_delivery (kind : Bool) : let r := copying (if kind then 2 else 0) false
    let s := requesting r true
    s.request? 5 = some r ∧ r.id = 5 ∧ r.standIn = false ∧ s.enginesRun r.ckey = true ∧ r.kind = (if kind then 2 else 0) ∧ r.nobar = true ∧ 0 < r.total ∧ r.has 0 = false
    ∧ s.engineByte r true 0 = .at_ (.dev 0x5000) ∧ s.engineByte r false 0 = .at_ (.dev 0x5010) ∧ s.linePoisoned 0x5000 1 = false ∧ s.sees r.reader (.dev 0x5000) 1 = true ∧ r.twin = none
    ∧ (∀ tm, s.team? r.team = some tm → tm.exited = false) ∧ r.count + 1 = r.total := by
  cases kind <;> exact ⟨by decide, by decide, by decide, by decide, by decide, by decide, by decide, by decide, by decide, by decide, by decide, by decide, by decide,
    (by intro tm h; cases h; rfl), by decide⟩
theorem test_copy_delivery : (after (exec (.copyDelivery 5 0 1) (requesting (copying 0 false) true))).mem = [(0x5000, 0xAB), (0x5010, 0xAB)] := by decide
theorem test_request_rejected : ((after (exec (.requestEngineTake 0) (requesting (copying 0 true) false))).cluster 0).copyCount = 1 := by decide
/-- A gather over two keys at device address 0x1000 with one range, its list at 0x40 and its results at 0x80 of the scratchpad. -/
def gathering : Request := request [0x1000, 0x40 * 2 ^ 24 + 0x80, 2 + 4 * 2 ^ 24, BitVec.ofNat 64 (2 ^ 51 + 2 ^ 50 + 2 ^ 52 + 2 ^ 40)]
/-- The machine with keys 3 and 8, and the range from 5 to 9 in its list. -/
def gathered : State :=
  let s := requesting gathering true
  { s with mem := [(0x5000, 3), (0x5008, 8)], clusters := [(0, { s.cluster 0 with spad := [(0x40, 5), (0x48, 9)] })] }
theorem wit_EngineRequests_find : (2 : Nat) < 2 ^ 24 ∧ (∀ i, i < 2 → gathered.readKey gathering i = .value (if i = 0 then 3 else 8)) := by decide +kernel
theorem wit_EngineRequests_gather : let g := (List.range (gathering.bits 3 40 7)).foldl (fun g k => gathered.gatherRange gathering g k) {}
    gathered.request? 5 = some gathering ∧ gathering.standIn = false ∧ gathering.kind = 1 ∧ gathered.enginesRun gathering.ckey = true ∧ gathering.nobar = true ∧ gathering.twin = none
    ∧ g.stop = none ∧ (∀ h ∈ g.hits, h.1 < 2 ^ 64 ∧ h.2 < 2 ^ 64) ∧ g.hits = [(8, 1)] ∧ g.resume < 2 ^ 64 ∧ g.hits.length < 2 ^ 32
    ∧ (∀ i, i ≤ g.hits.length → gathered.engineSpad gathering (gathering.bits 1 0 24) (16 * i) = .spad 0 (0x80 + 16 * i)) := by decide +kernel
theorem wit_RegistersAndHeap : let x := { one [] with nregs := 16 }
    let ws := x.writers false 0 false
    May x [] [] [] ∧ ws ≠ [] ∧ x.nregs < 24 ∧ 8 ≤ x.nregs ∧ x.evicted = false ∧ (at_ x).mayGrow x 24 = true ∧ 8 < x.nregs
    ∧ (∀ r, r < 240 → 8 ≤ r → (at_ x).awaited 0 x r = false) ∧ ((at_ x).cluster x.ckey).mxQ = [] ∧ (∀ tm, (at_ x).team? x.team = some tm → tm.requests = [])
    ∧ (at_ x).growers x.skey = [] :=
  ⟨may_of (by decide), by decide, by decide, by decide, rfl, by decide, by decide, by intro r _ _; rfl, rfl, (by intro tm h; cases h; rfl), rfl⟩
/-- R117: the first packing that gives back every lane; a register of one value, of a ramp, of small numbers, and of others. -/
theorem test_pack_register : packRegister [7, 7, 7, 7] = (1, [7, 0, 0, 0]) ∧ packRegister [0, 0] = (0, []) ∧ packRegister [5, 8, 11] = (2, [5, 0, 0, 0, 3, 0, 0, 0])
    ∧ packRegister [1, 0xFFFFFFFF, 3] = (3, [1, 0xFF, 3, 0]) ∧ packRegister [200, 1, 7] = (4, [200, 1, 7, 0]) ∧ (packRegister [0x12345678, 1, 0]).1 = 7 := by decide
theorem wit_RegistersAndHeap_saved : [1, 0xFFFFFFFF, 3] ≠ [] ∧ ∀ v ∈ [1, 0xFFFFFFFF, 3], v < 2 ^ 32 := by decide
/-- A group that was evicted while it waited for 24 registers. -/
def evicted_ : Group := { one [] with nregs := 16, evicted := true, slotA := { mask := 1, wait := .grow, wants := [24] } }
theorem wit_RegistersAndHeap_readmit : (at_ evicted_).group? 0 = some evicted_ ∧ evicted_.skey = 0 * 6 + 0 ∧ evicted_.evicted = true
    ∧ (at_ evicted_).growers evicted_.skey = [{ g := 0, slotB := false, x := evicted_, n := 24, at_ := (evicted_.slot false).waitAt }]
    ∧ (at_ evicted_).mayGrow evicted_ 24 = true := ⟨rfl, by decide, rfl, by decide, by decide⟩
theorem wit_RegistersAndHeap_heap : ∃ ln tm, May (one [(4, 16)]) ((one [(4, 16)]).writers false 0 false) [(.src32, 4)] [(.dst64, 10)]
    ∧ (at_ (one [(4, 16)])).launch? 0 = some ln ∧ (at_ (one [(4, 16)])).team? 0 = some tm ∧ (one [(4, 16)]).index < tm.ngroups ∧ 0 < (one [(4, 16)]).width :=
  ⟨_, _, may_of (by decide), rfl, rfl, by decide, by decide⟩
/-- A launch with a heap of 0x1000 bytes a team at 0x2000000 (R118, R387). -/
theorem wit_RegistersAndHeap_parts : ∃ (ln : Launch) (h sl : Nat), ln.heap = some (h, sl) ∧ 0 < sl :=
  ⟨{ uid := 0, queue := 0, part := 0, id := 0, desc := [BitVec.ofNat 64 (2 ^ 60), 0, 0, BitVec.ofNat 64 (0x100 * 2 ^ 24), 0, 0x2000000, 0, 0] }, 0x2000000, 0x1000, by decide, by decide⟩
theorem wit_MatrixIssue_next : ∃ o p, mxPlanOf false (one []) (.mxzero {} 1) = some (o, p) ∧ May (one []) ((one []).writers false o.p o.pn) p.srcs p.dst
    ∧ ((one []).writers false o.p o.pn).head? = some 0 ∧ (at_ (one [])).pairOf? 0 = none
    ∧ mxCheck (one []) 32 p.op (p.rec_ 0) (((one []).writers false o.p o.pn).map p.row) ((one []).writers false o.p o.pn) = none ∧ mxMoves p.op = none
    ∧ (∀ r ∈ ((at_ (one [])).cluster 0).mxQ, r.uid ≠ 2) ∧ ((at_ (one [])).cluster 0).mxQ.length < 16 :=
  ⟨_, _, rfl, may_of (by decide), by decide, rfl, by decide, rfl, by decide, by decide⟩
theorem wit_MatrixIssue_move : let x := one [(4, 0x40)]
    ∃ o p rows, mxPlanOf false x (.mxdrain { a := 4 } 1 .f32 true) = some (o, p) ∧ May x (x.writers false o.p o.pn) p.srcs p.dst
    ∧ mxCheck x 32 p.op (p.rec_ 0) ((x.writers false o.p o.pn).map p.row) (x.writers false o.p o.pn) = none ∧ mxMoves p.op = some 8
    ∧ (at_ x).mxPlace x (p.base 0) 8 ((x.writers false o.p o.pn).map p.row) (x.writers false o.p o.pn) = .inl rows ∧ (at_ x).memHeld 0 x = false ∧ (at_ x).undone 0 x = false :=
  ⟨_, _, _, rfl, may_of (by decide), by decide, by decide, rfl, by decide, by decide⟩
theorem wit_MatrixIssue_stop : ∃ o p d ls, mxPlanOf false (one []) (.mxmul { a := 4, b := 6, c := 8 } 0 true) = some (o, p)
    ∧ May (one []) ((one []).writers false o.p o.pn) p.srcs p.dst
    ∧ mxCheck (one []) 32 p.op (p.rec_ 0) (((one []).writers false o.p o.pn).map p.row) ((one []).writers false o.p o.pn) = some (d, ls) :=
  ⟨_, _, _, _, rfl, may_of (by decide), rfl⟩
/-- The team in it. -/
def engineTeam : Team :=
  { uid := 1, launch := 0, part := 0, cluster := 0, handle := 0, pair := false, ctx := 0, x := 0, y := 0, z := 0, q := 0, ngroups := 1, width := 16, tiles := 32,
    started := true, alloc := { declared := 0x10000 }, accTiles := [(1, { elems := [(1, 5)], corr := 2, uncorr := 3 })] }
theorem wit_MatrixEngine (op : MxOp) : EngineTurn (engine op) 0 (enq op) [] engineTeam where
  runs := rfl
  queue := rfl
  held := rfl
  here := by simp [MxReq.ckey, enq, clusterKey]
  once := by simp
  team := rfl
  stay := by intro p hp; simp [engine, lane0, State.modTeam, Sp.modify] at hp; subst hp; exact ⟨rfl, fun h => by simp at h⟩
theorem wit_MatrixEngine_row : (engine (.mul 0 false)).mxGroup (enq (.mul 0 false)) = some (0, atEngine) ∧ (enq (.mul 0 false)).rows = [{ lane := 0, addr := 0x40, off := 0x40 }]
    ∧ (enq (.chk 1 false)).logged = none ∧ (engine (.chk 1 false)).pairOf? 0 = none ∧ (engine (.drain 1 .f32 true)).access = []
    ∧ (0x40 + 512 : Nat) ≤ 2 ^ 20 ∧ ((engine (.fill 1 .f32 true)).cluster 0).poisoned 0x40 512 = false
    ∧ (engine (.fill 1 .f32 true)).sees { path := .lane } (.spad 0 0x40) 512 = true ∧ (engineTeam.tile ((enq (.mul 0 false)).tileOf 0 0).1).flaws = [] :=
  ⟨rfl, rfl, rfl, rfl, rfl, by decide, by decide, by decide, rfl⟩
theorem wit_MatrixEngine_arithmetic : (-254 : Int) ≤ 254 ∧ (0 : Nat) < 2 ∧ ([2, -3] : List Int).length = ([5, 7] : List Int).length
    ∧ ({ sig := [], ex := none } : MxBlk).ex = none ∧ (-2 ^ 63 : Int) ≤ 5 ∧ (5 : Int) < 2 ^ 63 ∧ (5 : Int) ≠ 0 ∧ 3 < 32 ∧ 4 < 64 := by decide
/-- R187: an error in one partial is taken away and counted once; two in one row that come again cost the row. -/
theorem test_checksums : (stepEnd [{ row := some 3, col := some 4, delta := 5, again := false }]).corr = 1
    ∧ (stepEnd [{ row := some 3, col := some 4, delta := 5, again := true }, { row := some 3, col := none, delta := 6, again := true }]).rows = [3] := by decide

/-! ### The hypotheses of the statements are met: the prompter -/

/-- What `MayExecute` asks beyond the turn and the context. -/
def mayExB (s : State) (c : Nat) (x : Ctx) (regs : List Nat) : Bool := s.ctxMay c x && decide (∀ r ∈ regs, s.ctxAwaits c x r = false)
theorem mayExecute_of {s : State} {c : Nat} {x : Ctx} {regs : List Nat} (hc : s.cur = .prompter c) (hx : s.ctx? c = some x) (h : mayExB s c x regs = true) :
    MayExecute s c x regs := by
  simp only [mayExB, Bool.and_eq_true, decide_eq_true_eq] at h
  exact ⟨hc, hx, h.1, h.2⟩

/-- The small machine at the turn of its context 0. -/
def turn (x : Ctx) : State := lane0 (.prompter 0) grp x
abbrev Exe (x : Ctx) (regs : List Nat) : Prop := MayExecute (turn x) 0 x regs
theorem exe_of {x : Ctx} {regs : List Nat} (h : mayExB (turn x) 0 x regs = true) : Exe x regs := mayExecute_of rfl rfl h

theorem wit_PrompterArithmetic : ∃ regs d v, prAluOf (withG [(1, 7), (2, 2)]) (.div p3 false) = some (regs, d, v) ∧ Exe (withG [(1, 7), (2, 2)]) (regs ++ [d]) :=
  ⟨_, _, _, rfl, exe_of (by decide)⟩
theorem wit_PrompterYields : Exe ctx0 [] ∧ (turn { ctx0 with wait := .yield }).ctx? 0 = some { ctx0 with wait := .yield } ∧ (turn { ctx0 with wait := .yield }).running (0 / 8) = true
    ∧ decodePrompter 0 = .ok (.prNop {}) ∧ decodePrompter (0x67 * 2 ^ 56) = .ok (.prYield {}) := ⟨exe_of (by decide), rfl, by decide, by decide, by decide⟩
theorem wit_PrompterBranches : Exe ctx0 [] ∧ Exe ctx0 [31] ∧ Exe ctx0 [1] ∧ Exe ctx0 [1, 2] := ⟨exe_of (by decide), exe_of (by decide), exe_of (by decide), exe_of (by decide)⟩
theorem wit_HandlerEntryAndReturn : MayExecute (sys ctx7) 7 ctx7 [] ∧ 6 ≤ ctx7.num ∧ ctx7.inHandler = false
    ∧ MayExecute (sys { ctx7 with inHandler := true }) 7 { ctx7 with inHandler := true } [] ∧ Exe ctx0 [] ∧ ctx0.num < 6 :=
  ⟨mayExecute_of rfl (by decide) (by decide), by decide, rfl, mayExecute_of rfl (by decide) (by decide), exe_of (by decide), by decide⟩
theorem wit_PrompterFaults : ∃ l, Exe ctx0 [] ∧ ctx0.num < 6 ∧ (turn ctx0).launch? ctx0.launch = some l ∧ l.killed = false ∧ csrPermitted (0x100 % 4096) ctx0 = false
    ∧ MayExecute (sys ctx7) 7 ctx7 [] ∧ 6 ≤ ctx7.num ∧ ctx0.num ≠ 7 := ⟨_, exe_of (by decide), by decide, rfl, rfl, by decide, mayExecute_of rfl (by decide) (by decide), by decide, by decide⟩
/-- The small machine at the turn of its context 0, its page 1 mapped. -/
def turnM (x : Ctx) : State := mapped (turn x)
theorem wit_PrompterMemory_dev : let x := withG [(1, 0x1000), (2, 7)]
    (turnM x).ctxHeld 0 x = false ∧ (turnM x).ctxUndone 0 x = false ∧ (turnM x).ctxDiscards 0 x = false
    ∧ deviceCheck ((Ctx.val x 1 + (BitVec.ofNat 32 8).signExtend 64).toNat) 8 = none ∧ (turnM x).servedAt 0x5008 = .dev 0x5008 ∧ MayExecute (turnM x) 0 x [1, 3]
    ∧ (turnM x).translate (0 / 8) 0x1008 false = .hit 0x5008 true ∧ (turnM x).unitMay x.part 0x5008 false = true ∧ MayExecute (turnM x) 0 x [1, 2]
    ∧ (turnM x).translate (0 / 8) 0x1008 true = .hit 0x5008 true ∧ (turnM x).unitMay x.part 0x5008 true = true ∧ MayExecute (turnM x) 0 x [1, 2, 3] :=
  ⟨by decide, by decide, by decide, by decide, by decide, mayExecute_of rfl rfl (by decide), by decide, by decide, mayExecute_of rfl rfl (by decide), by decide, by decide,
    mayExecute_of rfl rfl (by decide)⟩
theorem wit_PrompterMemory_spad : let x := withG [(1, 0x40), (2, 7)]
    ∃ tm, (turnM x).ctxTeam 0 x (field (Ctx.val x 1) 32 8) = some (0, tm) ∧ (turnM x).ctxSpadRef x tm 0x48 = .at_ 0 0x48 0x10000 0 ∧ 0x48 % 8 = 0 ∧ 0x48 + 8 ≤ 0x10000
      ∧ ((turnM x).cluster 0).poison.contains ((0 + 0x48) / 16) = false := ⟨_, rfl, rfl, by decide, by decide, by decide⟩
theorem wit_PrompterMemory_fence : Exe ctx0 [] ∧ (turn ctx0).ctxUndone 0 ctx0 = false ∧ (turn ctx0).flight = [] := ⟨exe_of (by decide), by decide, rfl⟩
theorem wit_PrompterMemory_fault : MayExecute (sys { ctx7 with regs := [(1, 1)] }) 7 { ctx7 with regs := [(1, 1)] } [1, 3] ∧ deviceCheck 1 8 ≠ none :=
  ⟨mayExecute_of rfl (by decide) (by decide), by decide⟩
theorem wit_ControlRegisters : csrPermitted 1 ctx0 = true ∧ Exe ctx0 [3] ∧ csrPermitted 0x102 ctx7 = true ∧ MayExecute (sys ctx7) 7 ctx7 [3] :=
  ⟨by decide, exe_of (by decide), by decide, mayExecute_of rfl (by decide) (by decide)⟩
theorem wit_Composition_template : let w : DWord := 0x1000_0000_0000_001F
    let holes := (List.range (w >>> 60).toNat).map (fun h => (w.toNat / 2 ^ (12 * h + 6) % 64, w.toNat / 2 ^ (12 * h) % 64, false))
    composing.num < 6 ∧ ((turn composing).cluster (0 / 8)).compHolder = none ∧ Exe composing [0] ∧ 2 + 1 < composing.imageLen ∧ Sp.getD composing.words 3 0 = w ∧ holes.length ≤ 5
    ∧ (∀ h ∈ holes, 1 ≤ h.2.1 ∧ h.2.1 ≤ 32 ∧ h.1 + h.2.1 ≤ 64) ∧ holes.Pairwise (fun p q => p.1 + p.2.1 ≤ q.1 ∨ q.1 + q.2.1 ≤ p.1) :=
  ⟨by decide, rfl, exe_of (by decide), by decide, rfl, by decide, by decide, by decide⟩
theorem wit_Composition_field : Exe composing [1] ∧ 1 ≤ (8 * 256 + 4) / 256 % 128 ∧ (8 * 256 + 4) % 64 + (8 * 256 + 4) / 256 % 128 ≤ 64 := ⟨exe_of (by decide), by decide, by decide⟩
/-- The composing context with a whole word in its register, or one of no meaning, and n words in its queue. -/
def emitting (w : DWord) (n : Nat) : Ctx := { composing with comp := w, emitQ := List.replicate n { seg := 0, off := 0, word := 0, prov := 0 } }
theorem wit_Composition_emit : let x := emitting 0x0002_8278_0301_0800 15
    ∃ e l, x.openSeg = some 0 ∧ Sp.get? x.segs 0 = some e ∧ (x.holes.filter (fun h => !h.2.2)).length = 0 ∧ (x.compose 0).2 = false ∧ Exe x [] ∧ Exe x [2]
      ∧ decodeLane (x.compose 0).1.toNat = .ok l ∧ x.nextOff < e.cap ∧ (Ctx.val x 2).toNat < e.cap ∧ x.emitQ.length < 16 :=
  ⟨_, _, rfl, rfl, rfl, rfl, exe_of (by decide), exe_of (by decide), rfl, by decide, by decide, by decide⟩
theorem wit_Composition_full : let x := emitting 0x0002_8278_0301_0800 16
    Exe x [] ∧ 16 ≤ x.emitQ.length ∧ x.starved = false ∧ (∃ l, (turn x).launch? x.launch = some l ∧ l.killed = false) ∧ x.inService = [] :=
  ⟨exe_of (by decide), by decide, by decide, ⟨_, rfl, rfl⟩, rfl⟩
theorem wit_Composition_bad : let x := emitting 0x0D00_0000_0000_0000 0
    Exe x [] ∧ (x.compose 0).2 = false ∧ ¬ ∃ l, decodeLane (x.compose 0).1.toNat = .ok l := ⟨exe_of (by decide), rfl, by
      have h : decodeLane ((emitting 0x0D00_0000_0000_0000 0).compose 0).1.toNat = .error .reservedOpcode := by decide
      rintro ⟨l, hl⟩; rw [h] at hl; cases hl⟩
theorem wit_Composition_starved : let x := { emitting 0x0002_8278_0301_0800 16 with quota := 0 }
    Exe x [] ∧ 16 ≤ x.emitQ.length ∧ x.starved = true ∧ (∀ p ∈ x.segs, p.2.state ≠ .retiring) := ⟨exe_of (by decide), by decide, by decide, by decide⟩
/-- The composing context with five words in its image. -/
def block : Ctx := { composing with imageLen := 5, words := (List.range 5).map (fun i => (i, 0x0002_8278_0301_0800)) }
theorem wit_Composition_block : block.openSeg = some 0 ∧ Exe block [0] ∧ block.emitQ.length < 16 ∧ block.emitted = 0
    ∧ (0 + 2 ≤ block.imageLen ∧ block.nextOff + 2 ≤ 8 ∧ ∀ j, j < 5 → decodeLane (Sp.getD block.words (0 + j) 0).toNat = .ok (.add { d := 5, a := 4, b := 240, c := 6, k := true } .i32 false))
    ∧ 0 + min (2 - 0) (min 2 (16 - block.emitQ.length)) = 2 ∧ 0 + min (5 - 0) (min 2 (16 - block.emitQ.length)) < 5 :=
  ⟨rfl, exe_of (by decide), by decide, rfl, by decide, by decide, by decide⟩
theorem wit_Segments_open : (turn ctx0).ctx? 0 = some ctx0 ∧ ctx0.num < 6 ∧ Sp.sorted (turn ctx0).groups = true ∧ Exe ctx0 [3] ∧ ctx0.openSeg = none ∧ Sp.get? ctx0.segs 0 = none
    ∧ (∀ m, m < 0 → (Sp.get? ctx0.segs m).isSome) := ⟨rfl, by decide, by decide, exe_of (by decide), rfl, rfl, by intro m h; cases h⟩
theorem wit_Segments_seal : Exe composing [3] ∧ composing.openSeg = some 0 := ⟨exe_of (by decide), rfl⟩
/-- A context whose open segment is sealing, with a word of it in the store and a team that starts there. -/
def sealing : Ctx :=
  { composing with wait := .seal, replyReg := some 3, store := [(0, (7, 0x20000005))],
                   segs := [(0, { state := .open_, cap := 8, len := 1, sealing := true, starts := [(0, 0)] })] }
/-- The machine with its team not started. -/
def unstarted (x : Ctx) : State := (lane0 (.prompter 0) { grp with started := false, slotA := {}, parked := true } x).modTeam 0 (fun t => { t with started := false })
theorem wit_Segments_sealed : ∃ e, sealing.openSeg = some 0 ∧ Sp.get? sealing.segs 0 = some e ∧ e.sealing = true ∧ sealing.replyReg = some 3 ∧ (∀ w ∈ sealing.emitQ, w.seg ≠ 0)
    ∧ (unstarted sealing).running (0 / 8) = true ∧ (unstarted sealing).ctxQuiet 0 sealing = true ∧ sealing.epoch ≤ 511 ∧ e.starts = [(0, 0)] ∧ Sp.get? sealing.store 0 = some (7, 0x20000005)
    ∧ StartedAt (unstarted sealing) (after (exec (.sealComplete 0) (unstarted sealing))) 0 0 :=
  ⟨_, rfl, rfl, rfl, rfl, by decide, by decide, by decide, by decide, rfl, rfl, by
    intro g x hg ht
    have : g = 0 := by
      rcases Nat.eq_zero_or_pos g with h | h
      · exact h
      · exfalso; obtain ⟨n, rfl⟩ : ∃ n, g = n + 1 := ⟨g - 1, by omega⟩
        simp [unstarted, lane0, State.group?, State.modTeam, Sp.get?] at hg
    subst this; cases hg
    exact ⟨_, rfl, rfl, rfl, ⟨rfl, rfl, rfl, rfl⟩, by decide, by decide⟩⟩
theorem wit_Segments_waits : let z := { grp with slotA := { pc := 0, mask := 1, wait := .segment 0 } }
    (lane0 (.prompter 0) z composing).group? 0 = some z ∧ (z.slot false).mask ≠ 0 ∧ (z.slot false).wait = .segment 0 := ⟨rfl, by decide, rfl⟩
theorem wit_Segments_free : let x := { withG [(1, 4096)] with segs := [(0, { state := .open_, cap := 8 }), (1, { state := .sealed, cap := 1 }), (2, { state := .retiring, cap := 1 })], openSeg := some 0 }
    Exe x [1] ∧ (Ctx.val x 1).toNat < 2 ^ 20 ∧ (Ctx.val x 1).toNat / 4096 = 1 ∧ (Sp.get? x.segs 1).map Segment.state = some .sealed ∧ (Sp.get? x.segs 2).map Segment.state = some .retiring
    ∧ (Sp.get? x.segs 0).map Segment.state = some .open_ ∧ (Sp.get? x.segs 0).map Segment.starts = some [] ∧ Sp.get? x.segs 3 = none
    ∧ (∀ p ∈ (turn x).groups, ∀ b, (p.2.slot b).wait ≠ .segment 0) := ⟨exe_of (by decide), by decide, by decide, by decide, by decide, by decide, by decide, rfl, by decide⟩
theorem wit_Segments_release : NoneStandsIn (turn { ctx0 with segs := [(2, { state := .retiring, cap := 1 })] }) 0 2 := by
  intro p hp tm _ _ b _ h
  simp [turn, lane0] at hp
  subst hp
  cases b <;> revert h <;> decide
theorem wit_Segments_start : let x := { withG [(1, 0), (2, 5)] with segs := [(0, { state := .sealed, cap := 8, len := 8 })] }
    ∃ tm e, MayExecute (unstarted x) 0 x [1, 2] ∧ (unstarted x).ctxTeam 0 x ((Ctx.val x 1).toNat % 256) = some (0, tm) ∧ (unstarted x).team? 0 = some tm ∧ tm.ctx = 0 ∧ tm.started = false
      ∧ (unstarted x).ctxQuiet 0 x = true ∧ Sp.get? x.segs (segOf (BitVec.ofNat 20 (Ctx.val x 2).toNat)) = some e ∧ e.state = .sealed :=
  ⟨_, _, mayExecute_of rfl rfl (by decide), rfl, rfl, rfl, rfl, by decide, rfl, rfl⟩
theorem wit_Segments_drain : let x := { composing with emitQ := [{ seg := 0, off := 2, word := 7, prov := 9 }] }
    ∃ e, (0 : Nat) = ctxKey 0 0 ∧ (turn x).running 0 = true ∧ x.emitQ = [{ seg := 0, off := 2, word := 7, prov := 9 }] ∧ Sp.get? x.segs 0 = some e ∧ x.chunks < x.quota
      ∧ (∀ m z, m ≠ 0 → (turn x).ctx? (ctxKey 0 m) = some z → z.emitQ = []) :=
  ⟨_, by decide, by decide, rfl, rfl, by decide, by intro m z hm h; exfalso; obtain ⟨n, rfl⟩ : ∃ n, m = n + 1 := ⟨m - 1, by omega⟩; simp [turn, lane0, State.ctx?, ctxKey, Sp.get?] at h⟩
theorem wit_Segments_stall : let x := { composing with wait := .stall }
    x.wait = .stall ∧ (({ turn x with clusters := [(0, { compHolder := some 0 })] } : State).cluster (0 / 8)).compHolder = some x.num := by decide
theorem wit_PrompterServices_mailbox : let x := withG [(1, 0), (2, 9)]
    ∃ tm, Exe x [1, 2] ∧ Exe x [1, 3] ∧ (turn x).ctxTeam 0 x ((Ctx.val x 1).toNat % 256) = some (0, tm) ∧ tm.ckey = 0 / 8 ∧ (turn x).ctxQuiet 0 x = true :=
  ⟨_, exe_of (by decide), exe_of (by decide), rfl, by decide, by decide⟩
theorem wit_PrompterServices_events : Exe ctx0 [3] ∧ ctx0.events = [] ∧ Exe { ctx0 with events := [(trapRec, [], 0)] } [3] ∧ 4 % 8 ≤ 4 ∧ Exe (withG [(1, 4)]) [1]
    ∧ (withG [(1, 4)]).cue.toNat < ((Ctx.val (withG [(1, 4)]) 1).setWidth 32).toNat ∧ ((turn (withG [(1, 4)])).part 0).cutState = 0 ∧ (turn (withG [(1, 4)])).ctxUndone 0 (withG [(1, 4)]) = false :=
  ⟨exe_of (by decide), rfl, exe_of (by decide), by decide, exe_of (by decide), by decide, by decide, by decide⟩
/-- The assist context of the cluster, and the machine at its turn. -/
def ctx6 : Ctx := { ctx7 with num := 6 }
def assist : State := let s := lane0 (.prompter 6) grp ctx0; { s with ctxs := [(6, ctx6)] }
theorem wit_PrompterServices_element : ∃ tm, 6 ≤ ctx6.num ∧ assist.ctxTeam 6 ctx6 ((Ctx.val ctx6 1).toNat % 256) = some (0, tm) ∧ (Ctx.val ctx6 1).toNat / 2 ^ 8 % 32 < tm.tiles
    ∧ (mxGoing (assist.cluster (6 / 8)).mxHeld (assist.cluster (6 / 8)).mxQ []).length < 16 ∧ MayExecute assist 6 ctx6 [1, 3] ∧ MayExecute assist 6 ctx6 [1, 2] :=
  ⟨_, by decide, rfl, by decide, by decide, mayExecute_of rfl (by decide) (by decide), mayExecute_of rfl (by decide) (by decide)⟩
/-- An element read of the assist context in the engine's queue. -/
def reading : MxReq := { enq (.accrd 1 0 1) with agent := .ctx 6, d := 3, rows := [] }
def assistEngine : State := { assist with clusters := [(0, { mxQ := [reading] })] }
theorem wit_PrompterServices_engine : ∃ tm, EngineTurn assistEngine 0 reading [] tm ∧ reading.agent = .ctx 6 ∧ (assistEngine.ctx? 6).isSome = true :=
  ⟨_, ⟨by decide, rfl, rfl, by simp, rfl, by decide, by decide⟩, rfl, by decide⟩
theorem test_accrd_read : (((after (exec (.matrixEngineStep 0) (assistEngine.modTeam 0 (fun t => { t with accTiles := [(1, { elems := [(1, 5)] })] })))).ctx? 6).map (fun x => Ctx.val x 3)) = some 5 := by decide
theorem wit_HandlerEntry_inside : ∃ l, MayExecute (sys { ctx7 with inHandler := true }) 7 { ctx7 with inHandler := true } [] ∧ ({ ctx7 with inHandler := true } : Ctx).inHandler = true
    ∧ (sys { ctx7 with inHandler := true }).launches = [(0, l)] ∧ l.part = ctx7.part ∧ l.killed = false := ⟨_, mayExecute_of rfl rfl (by decide), rfl, rfl, rfl, rfl⟩

/-! ### The hypotheses of the statements are met: services, launches, the slice -/

theorem wit_GroupControl : ∃ tm, Controlled (over_0 ctx0) 0 ctx0 0 0 stopped 0 tm ∧ MayExecute (over_0 ctx0) 0 ctx0 [1, 3] ∧ MayExecute (over_0 ctx0) 0 ctx0 [2, 1, 3]
    ∧ (0 : DWord).toNat < 2 ^ 20 ∧ MayExecute (over_0 ctx0) 0 ctx0 [1, 2, 3] ∧ (0x105 : Nat) / 2 ^ 14 = 0 ∧ (0x105 : Nat) / 2 ^ 5 % 8 = 0 ∧ (0x105 : Nat) / 2 ^ 8 % 64 < stopped.width
    ∧ (over_0 ctx0).ctxQuiet 0 ctx0 = true ∧ stopped.index < tm.ngroups :=
  ⟨_, ⟨rfl, rfl, rfl, rfl, ⟨rfl, rfl, Or.inl ⟨by decide, rfl⟩⟩, fun _ => rfl, fun h => by simp [ctx0] at h, rfl, rfl⟩, mayExecute_of rfl rfl (by decide), mayExecute_of rfl rfl (by decide),
    by decide, mayExecute_of rfl rfl (by decide), by decide, by decide, by decide, by decide, by decide⟩
theorem wit_GroupControl_status : ∃ tm, Exe ctx0 [1, 2, 3] ∧ (turn ctx0).teamAt (0 / 8) ((5 * 2 ^ 48 : Nat) / 2 ^ 48 % 256) = none ∧ (turn ctx0).teamAt (0 / 8) 0 = some (0, tm) ∧ tm.ctx = 0
    ∧ (turn ctx0).groupOf 0 0 = some 0 ∧ (turn ctx0).group? 0 = some grp ∧ grp.stop = none
    ∧ grp.run ≠ .exited ∧ 0x105 / 2 ^ 8 % 64 < grp.width := ⟨_, exe_of (by decide), rfl, rfl, rfl, rfl, rfl, rfl, by decide, by decide⟩
/-- The machine with its system context, at the turn of context 0. -/
def calling : State := let s := turn ctx0; { s with ctxs := [(0, ctx0), (7, ctx7)] }
theorem wit_SystemContext_call : ctx0.num < 6 ∧ MayExecute calling 0 ctx0 [10] ∧ calling.ctx? (ctxKey (0 / 8) 7) = some ctx7 ∧ 0 ≠ ctxKey (0 / 8) 7 :=
  ⟨by decide, mayExecute_of rfl rfl (by decide), by decide, by decide⟩
/-- The same at the turn of the system context, while context 0 waits in SYSC. -/
def resuming : State := let s := sys ctx7; { s with ctxs := [(0, { ctx0 with wait := .sysc }), (7, ctx7)] }
theorem wit_SystemContext_resume : ctx7.num = 7 ∧ MayExecute resuming 7 ctx7 [1] ∧ (0 : Nat) ≤ 5 ∧ ctxKey (7 / 8) 0 ≠ 7 ∧ resuming.ctx? (ctxKey (7 / 8) 0) = some { ctx0 with wait := .sysc }
    ∧ (resuming.launch? 0).isSome = true := ⟨rfl, mayExecute_of rfl (by decide) (by decide), by decide, by decide, by decide, by decide⟩
theorem wit_SystemContext_halt : ∃ tm, MayExecute (sys ctx7) 7 ctx7 [1] ∧ (sys ctx7).teamAt (7 / 8) 0 = some (0, tm) ∧ (sys ctx7).groupOf 0 0 = some 0 ∧ (sys ctx7).group? 0 = some grp
    ∧ grp.dbgHold = false := ⟨_, mayExecute_of rfl (by decide) (by decide), by rfl, by rfl, by rfl, rfl⟩
/-- The machine with a debug halt pending. -/
def pending : State := let s := sys ctx7; { s with groups := [(0, { grp with dbgPend := true })] }
theorem wit_SystemContext_debug : pending.group? 0 = some { grp with dbgPend := true } ∧ grp.run ≠ .exited ∧ pending.settled 0 { grp with dbgPend := true } = true
    ∧ pending.ctx? (ctxKey grp.ckey 7) = some ctx7 ∧ grp.index < 32 ∧ grp.slice < 6 ∧ grp.gslot < 32 := by decide
theorem wit_SystemContext_tlb : (0x1000 : DWord).toNat < 2 ^ 56 ∧ (0x1000 : DWord).toNat / 2 ^ 4 % 2 ^ 8 = 0 ∧ (0x1000 : DWord).toNat % 8 < 4 ∧ (mapped (sys ctx7)).faulted = []
    ∧ (({ sys ctx7 with clusters := [(0, { tlbBusy := [(0, 0)] })] } : State).cluster 0).tlbBusy = (0, 0) :: [] ∧ (sys ctx7).flight = [] := ⟨by decide, by decide, by decide, rfl, rfl, rfl⟩
theorem wit_SystemContext_kill : ∃ l, (sys ctx7).launch? 0 = some l ∧ l.part = ctx7.part ∧ l.id = (0 : DWord).setWidth 32 ∧ l.killed = false := ⟨_, rfl, rfl, rfl, rfl⟩

/-- A partition whose page table at 0x1000 maps its first gigabyte where it is; a descriptor at 0x4000, whose image's header is
at 0x8000 and whose context area is at 0xA000. -/
def tables (d : List (Nat × Byte)) : Memory :=
  [(0x1000, 1), (0x1001, 0x20), (0x2000, 1), (0x2001, 0x30), (0x3000, 7)] ++ d
    ++ [(0x8002, 1), (0x8004, 0x4D), (0x8005, 0x49), (0x8006, 0x58), (0x8007, 0x4B), (0x800B, 0x10), (0x8011, 0x10), (0x8014, 4)]
def good : Memory := tables [(0x4001, 0x80), (0x4007, 1), (0x4009, 0xA0), (0x401E, 0x40), (0x4020, 10)]
def bad : Memory := tables [(0x4001, 0x80), (0x4009, 0xA0), (0x401E, 0x40), (0x4020, 10)]
/-- The machine with such memory and nothing resident, queue 1 at the descriptor. -/
def paged (m : Memory) : State :=
  { cur := .env, mem := m, parts := [(0, { on := true, pairs := [0], root := 0x1000, grants := [(0, 0x100000)] })],
    queues := [(1, { en := true, base := 0x4000, head := 0, tail := 1 })], ctxs := [(7, ctx7)],
    house := { step := 7, active := { words := (List.range 418).map (fun _ => BitVec.allOnes 64) } } }

theorem read_of_bytes {m k : Memory} {a n : Nat} (h : ∀ b, a ≤ b → b < a + n → m.byte b = k.byte b) : m.read a n = k.read a n := by
  induction n generalizing a with
  | zero => rfl
  | succ n ih =>
    have hb := h a (Nat.le_refl a) (by omega)
    have hr := ih (a := a + 1) (fun b h1 h2 => h b (by omega) (by omega))
    simp only [Memory.read, hb, hr]

/-- Under those tables every place from 0x4000 on maps to itself. -/
theorem maps_self {s : State} {k n g : Nat} (hp : s.part 0 = { on := true, pairs := [0], root := 0x1000, grants := [(0, g)] })
    (h1 : s.mem.read 0x1000 8 = 0x2001) (h2 : s.mem.read 0x2000 8 = 0x3001) (h3 : s.mem.read 0x3000 8 = 7) (hk : 0x4000 ≤ k) (hg : g ≤ 0x10000000)
    (hn : k + n ≤ g) : MapsTo s 0 k n k := by
  intro j m hj hm
  have e (a : Nat) (ha : a + 8 ≤ 0x4000) : m.read a 8 = s.mem.read a 8 := read_of_bytes (fun b _ hb => hm b (Or.inl (by omega)))
  have hp' : ({ s with mem := m } : State).part 0 = s.part 0 := rfl
  have hw : ({ s with mem := m } : State).walk 0 (k + j) = .page 0 30 true false false := by
    have i4 : (k + j) / 281474976710656 % 256 = 0 := by omega
    have i3 : (k + j) / 549755813888 % 512 = 0 := by omega
    have i2 : (k + j) / 1073741824 % 512 = 0 := by omega
    have e4 := (e 4096 (by decide)).trans h1
    have e3 := (e 8192 (by decide)).trans h2
    have e2 := (e 12288 (by decide)).trans h3
    simp [State.walk, hp', hp, walkFrom, walkIndex, i4, i3, i2, e4, e3, e2, entryMalformed, Nat.testBit, Nat.shiftRight_eq_div_pow]
  have hd : (k + j) / 2 ^ 55 % 2 = 0 := by omega
  have hm' : (k + j) % 2 ^ 30 = k + j := Nat.mod_eq_of_lt (by omega)
  have hs : ({ s with mem := m } : State).servedAt (k + j) = .dev (k + j) := by
    show (if (k + j) / 2 ^ 55 % 2 = 0 then _ else _) = _
    rw [if_pos hd]
  have hx : memoryExists (k + j) = true := by unfold memoryExists; simp; omega
  simp only [State.physOf, hw, hm', Nat.zero_add, hs, State.unitMay, hp', hp, Part.granted, hx]
  simp; omega

theorem maps_paged {m : Memory} (h : m = good ∨ m = bad) {k n : Nat} (hk : 0x4000 ≤ k) (hn : k + n ≤ 0x100000) : MapsTo (paged m) 0 k n k := by
  rcases h with rfl | rfl <;> exact maps_self rfl (by decide) (by decide) (by decide) hk (by decide) hn

/-- The machine with context 0 in SYSC with a code, its g10 at 0xA000. -/
def serving (code : DWord) : State :=
  { paged good with ctxs := [(0, { ctx0 with wait := .sysc, words := [(0, code)], regs := [(10, 0xA000)] }), (7, ctx7)],
                    launches := [(0, { uid := 0, queue := 1, part := 0, desc := [], id := 0 })] }
theorem wit_SystemCalls (n : DWord) : ∃ kl, (serving n).ctx? 0 = some { ctx0 with wait := .sysc, words := [(0, n)], regs := [(10, 0xA000)] } ∧ ctx0.num < 6 ∧ (serving n).running (0 / 8) = true
    ∧ (serving n).launch? 0 = some kl ∧ MapsTo (serving n) 0 0xA000 32 0xA000 := ⟨_, rfl, by decide, rfl, rfl, maps_self rfl (show (paged good).mem.read _ _ = _ by decide) (show (paged good).mem.read _ _ = _ by decide) (show (paged good).mem.read _ _ = _ by decide) (by decide) (by decide) (by decide)⟩
theorem wit_SystemCalls_reads : ((serving 1).readVirtual 0 0xA000 8 = some (List.replicate 8 0)) ∧ (serving 1).readVirtual 0 0xA008 (min (bytesWord (List.replicate 8 0)) 4064) = some []
    ∧ ((Sp.getD ({ ctx0 with words := [(0, 0)] } : Ctx).words 0 0).toNat % 2 ^ 16 = 0 ∧ (Sp.getD ({ ctx0 with words := [(0, 9)] } : Ctx).words 0 0).toNat % 2 ^ 16 = 9)
    ∧ ((serving 3).readVirtual 0 0xA000 64).isSome = true ∧ (∀ i, i < 8 → (serving 3).servedAt (((serving 3).queue 1).note + 8 * i) = .dev (((serving 3).queue 1).note + 8 * i)) := by decide +kernel
theorem test_syscall_info : ((after (exec (.syscInfo 0) (serving 2))).mem.read 0xA008 8, ((after (exec (.syscInfo 0) (serving 2))).ctx? 0).map (fun x => (x.pc, x.wait))) = (1, some (1, .run)) := by decide +kernel
theorem test_syscall_log : ((after (exec (.syscLog 0) (serving 1))).part 0).log = [[]] := by decide +kernel
/-- R349, R409: code 0 resumes the context; a code beyond 3 ends its launch. -/
theorem test_syscall_plain : ((after (Own.run (.syscPlain 0) (serving 0))).ctx? 0).map (fun x => (x.pc, x.wait)) = some (1, .run)
    ∧ (after (Own.run (.syscPlain 0) (serving 9))).launches.map (fun l => (l.2.killed, l.2.status)) = [(true, 7)] := by decide +kernel
theorem test_syscall_notify : ((after (exec (.syscNotify 0) (serving 3))).ctx? 0).map (fun x => (x.pc, x.wait)) = some (1, .run) := by decide +kernel
theorem wit_LaunchQueues_registers : (1 : Nat) < 256 ∧ HostWrites (paged good) 0 (0x10000 + 0x40 * 1 + 0x10) ∧ HostWrites (paged good) 0 (0x10000 + 0x40 * 1 + 8) ∧ HostWrites (paged good) 0 (0x10000 + 0x40 * 1)
    ∧ HostWrites (paged good) 0 (0x10000 + 0x40 * 1 + 0x20) ∧ HostWrites (paged good) 0 (0x10000 + 0x40 * 1 + 0x28) ∧ ((paged good).queue 1).head < 2 ^ 16
    ∧ (dispatch.port 3).frozen = false ∧ (dispatch.portRights 3 (1 / 64)).testBit (1 % 64) = false := by
  refine ⟨by decide, ⟨by decide, ?_, rfl⟩, ⟨by decide, ?_, rfl⟩, ⟨by decide, ?_, rfl⟩, ⟨by decide, ?_, rfl⟩, ⟨by decide, ?_, rfl⟩, by decide, rfl, ?_⟩ <;> decide +kernel
/-- The descriptor's words, with its valid bit or without. -/
def words (w0 : DWord) : List DWord := [w0, 0xA000, 0, 2 ^ 54, 10, 0, 0, 0]
/-- What the dispatcher makes of the descriptor: a launch of width 16 and 8 registers, to be placed. -/
theorem test_descriptor_taken : ((paged good).readLaunch 1 (words (2 ^ 56 + 0x8000))).map (fun r => r.elim (fun l => some (l.width, l.regs, l.phase)) (fun _ => none))
    = some (some (16, 8, .placing)) := by decide +kernel
theorem wit_LaunchQueues_taken : ((paged good).queue 1).en = true ∧ ((paged good).queue 1).head ≠ ((paged good).queue 1).tail ∧ (paged good).launches = [] ∧ ((paged good).part 0).on = true
    ∧ (paged good).readWords 0 0x4000 8 = some (words (2 ^ 56 + 0x8000)) ∧ (∃ l, (paged good).readLaunch 1 (words (2 ^ 56 + 0x8000)) = some (.inl l)) := by
  refine ⟨rfl, by decide, rfl, rfl, by decide +kernel, ?_⟩
  have h := test_descriptor_taken
  match hr : (paged good).readLaunch 1 (words (2 ^ 56 + 0x8000)) with
  | none => rw [hr] at h; cases h
  | some (.inl l) => exact ⟨l, rfl⟩
  | some (.inr l) => rw [hr] at h; cases h
theorem wit_LaunchQueues_refused : (paged bad).readWords 0 0x4000 8 = some (words 0x8000) ∧ (∃ l, (paged bad).readLaunch 1 (words 0x8000) = some (.inr (l, 0x01)) ∧ l.part = 0 ∧ l.area = 0xA000)
    ∧ MapsTo (paged bad) 0 0xA000 32 0xA000 ∧ (words 0x8000)[0]? = some 0x8000 ∧ (0x8000 : DWord).getLsbD 58 = false ∧ (0x8000 : DWord).getLsbD 56 = false :=
  ⟨by decide +kernel, ⟨_, rfl, rfl, by decide⟩, maps_paged (Or.inr rfl) (by decide) (by decide), rfl, by decide, by decide⟩
theorem test_descriptor_refused : (after (exec (.descriptorTake 1) (paged bad))).mem.read 0xA000 8 = 2 ^ 63 + 2 ^ 48 := by decide +kernel
/-- A launch of queue 1 that waits for the event word at 0xB000. -/
def waiting (m : Memory) : State :=
  { paged m with launches := [(4, { uid := 4, queue := 1, part := 0, desc := [2 ^ 56 + 2 ^ 59 + 0x8000, 0xA000, 0, 2 ^ 54, 10, 0, 0xB000, 0], id := 0, phase := .waiting })] }
theorem wit_LaunchQueues_event : ((waiting good).launches.find? (fun p => p.2.queue == 1 && p.2.phase == .waiting)).isSome = true ∧ ((waiting good).part 0).on = true ∧ (waiting good).readsAt 0 0xB000 = .dev 0xB000
    ∧ (waiting good).mem.read 0xB000 8 / 2 ^ 63 = 0 ∧ (waiting (good ++ [(0xB007, 0x80)])).mem.read 0xB000 8 / 2 ^ 63 = 1 := by decide +kernel
theorem test_event_word_set : (after (exec (.eventWordSet 1) (waiting (good ++ [(0xB007, 0x80)])))).launches.map (fun l => l.2.phase) = [.placing] := by decide +kernel
/-- The one launch of the machine, being placed: one team of one group. -/
def placed : Launch := { uid := 4, queue := 1, part := 0, desc := words (2 ^ 56 + 0x8000), id := 6, phase := .placing }
def placing : State := { paged good with launches := [(4, placed)] }
theorem wit_Placement : placing.launches = [(placed.uid, placed)] ∧ placed.phase = .placing ∧ (placing.queue placed.queue).en = true ∧ placing.serves placed.part = true ∧ placed.allres = false
    ∧ placed.pair = false ∧ placed.slack = 0 ∧ placed.entry = 0xFFFFF ∧ placing.placeOf placed placed.next = some 0 ∧ (∀ p ∈ placing.ctxs, p.2.launch ≠ placed.uid) := by decide +kernel
theorem wit_Placement_images : ∃ u, (placing.placeTeam placed placed.next 0 true).2.takeImages placed = some u := by
  have n0 : Machine.bitsOf (wordNo placed.hdr 1) 24 21 = 0 := rfl
  unfold State.takeImages
  simp only [n0]
  split <;> exact ⟨_, rfl⟩
theorem test_placement : (placing.placeTeam placed 0 0 true).2.teams.map (fun p => (p.2.launch, p.2.cluster, p.2.q, p.2.ngroups, p.2.started)) = [(4, 0, 0, 1, false)] := by decide +kernel
/-- A launch whose teams have exited. -/
def ended : Launch := { uid := 4, queue := 1, part := 0, desc := words (2 ^ 56 + 0x8000), id := 6, phase := .placed, exited := 1 }
def ending (o : List OrdItem) : State := { paged good with launches := [(4, ended)], ordBuf := o }
theorem wit_Placement_completion : (ending []).launch? 4 = some ended ∧ ended.uid = 4 ∧ ended.phase = .placed ∧ ended.teams ≤ ended.exited ∧ (∀ c ∈ ended.counters, c.2 = {})
    ∧ (ending []).teams = [] ∧ (ending []).rputs = [] ∧ (∀ p ∈ (ending []).ctxs, p.2.launch = 4 → 6 ≤ p.2.num) ∧ MapsTo (ending []) 0 0xA000 32 0xA000 ∧ ended.area = 0xA000
    ∧ ((ended.desc[0]?).getD 0).getLsbD 58 = false :=
  ⟨rfl, rfl, rfl, by decide, by decide, rfl, rfl, by decide, maps_self rfl (by decide) (by decide) (by decide) (by decide) (by decide) (by decide), by decide, by decide⟩
theorem test_launch_complete : ((after (exec (.launchComplete 4) (ending []))).mem.read 0xA000 8, (after (exec (.launchComplete 4) (ending []))).launches) = (2 ^ 63 + 6, []) := by decide +kernel
theorem wit_Placement_close : let i : OrdItem := { launch := 4, phys := 0x5000, key := 2, value := 0x40000000 }
    let j : OrdItem := { launch := 4, phys := 0x5000, key := 1, value := 0x3F800000 }
    (ending [i, j]).ordBuf = [i, j] ∧ i.launch = 4 ∧ j.launch = 4 ∧ i.phys = j.phys ∧ (ending [i, j]).linePoisoned i.phys 4 = false := by decide
/-- Two width-16 groups of one slice and of both halves, each with a ready slot. -/
def slicing : State := let s := lane0 .env grp ctx0; { s with groups := [(0, grp), (1, { grp with uid := 4, gslot := 1, half := 1 })] }
theorem wit_SliceCycles_issue : (lane0 .env grp ctx0).running 0 = true ∧ (0, 0) ∉ ((lane0 .env grp ctx0).cluster 0).holds ∧ ((lane0 .env grp ctx0).readySlots 0 0 [] false).length = 1
    ∧ (slicing.readySlots 0 0 [] (((slicing.cluster 0).halfHolds).contains (0, 0))).map (fun r => (r.width, r.half)) = [(16, 0), (16, 1)] := by decide
theorem wit_SliceCycles_swap : let s := lane0 .env { grp with onStage := false } ctx0
    s.nextReady (0 * 6 + 0) = some (0, { grp with onStage := false }) ∧ (∀ p ∈ s.groups, p.2.gslot < 32)
    ∧ ((s.sliceGroups (0 * 6 + 0)).filter (fun p => p.2.onStage)).length < 8 := by decide
/-- A slice whose eight stage slots are taken by parked groups, and a ready group in the wings. -/
def crowded : State :=
  let s := lane0 .env grp ctx0
  { s with groups := (List.range 8).map (fun i => (i, { grp with uid := 10 + i, gslot := i, parked := true, slotA := { mask := 1, wait := .arrivals } })) ++ [(8, { grp with uid := 20, gslot := 8, onStage := false })] }
theorem wit_SliceCycles_leaver : (crowded.nextReady 0).map Prod.fst = some 8 ∧ 8 ≤ ((crowded.sliceGroups 0).filter (fun p => p.2.onStage)).length ∧ (crowded.leaver 0).map Prod.fst = some 0
    ∧ (crowded.leaver 0).map (fun p => (decide (p.2.stepsEnd ≤ crowded.sliceNow p.2), p.2.onStage && p.2.parked)) = some (true, true)
    ∧ crowded.sliceNow grp < ({ grp with stepsEnd := 9 } : Group).stepsEnd := by decide
theorem wit_SliceCycles_dependences : let x := { grp with onStage := true, eligAt := 0, parked := true, arrivals := 1, slotA := { mask := 1, wait := .arrivals, wants := [2] } }
    (lane0 .env x ctx0).group? 0 = some x ∧ x.onStage = true ∧ x.eligAt ≤ (lane0 .env x ctx0).sliceNow x ∧ (x.slot false).mask ≠ 0 ∧ (x.slot true).mask = 0
    ∧ (lane0 .env x ctx0).resolved 0 x false = false ∧ (x.slot false).wait = .arrivals
    ∧ (lane0 .env { x with arrivals := 2 } ctx0).resolved 0 { x with arrivals := 2 } false = true := by decide
/-- The team of the machine with a chain that has ended. -/
def chained : State :=
  (lane0 .env grp ctx0).modTeam 0 (fun t => { t with chains := [(0, [{ endCycle := 0, carry := 5, restart := false, last := false, discard := false }])], handOn := [(0, [({} : HandOn)])] })
theorem wit_SliceCycles_chain : ∃ tm, chained.team? 0 = some tm ∧ Sp.getD tm.chains grp.index [] = { endCycle := 0, carry := 5, restart := false, last := false, discard := false } :: []
    ∧ chained.groupOf 0 grp.index = some 0 ∧ grp.stop = none ∧ grp.run ≠ .exited ∧ (0 : Nat) ≤ chained.sliceNow grp
    ∧ Sp.getD tm.handOn grp.index [] = [] ++ ({} : HandOn) :: [] := ⟨_, rfl, rfl, rfl, rfl, by decide, by decide, rfl⟩

/-! ### The hypotheses of the statements are met: events, pairs, walks, swaps, cuts -/

/-- The group halted by an event that is not posted yet, with its generator's context c. -/
def unposted (c : Ctx) : State := lane0 .env { stopped with posted := false } c
theorem wit_EventsAndConfirmations_events :
    ∃ tm l, let x := { stopped with posted := false }
    (unposted ctx0).group? 0 = some x ∧ x.stop = some trapRec ∧ x.posted = false ∧ x.assist = false ∧ (unposted ctx0).settled 0 x = true
    ∧ (unposted ctx0).team? x.team = some tm ∧ tm.copy = .sole ∧ (unposted ctx0).pairOf? x.team = none ∧ (unposted ctx0).ctx? tm.ctx = some ctx0
    ∧ ctx0.evmask.getLsbD (trapRec.w0.toNat / 2 ^ 56) = true ∧ ctx0.events.length < 64
    ∧ 64 ≤ ({ ctx0 with events := List.replicate 64 (trapRec, [], 0) } : Ctx).events.length
    ∧ ({ ctx0 with evmask := 0 } : Ctx).evmask.getLsbD (trapRec.w0.toNat / 2 ^ 56) = false ∧ ctx0.inService = []
    ∧ (unposted { ctx0 with evmask := 0 }).launch? ctx0.launch = some l ∧ l.killed = false :=
  ⟨_, _, rfl, rfl, rfl, rfl, by decide, rfl, rfl, rfl, rfl, by decide, by decide, by decide, by decide, rfl, rfl, rfl⟩
/-- Two copies of a team, the lead's oldest operation beside the stand-in's. -/
def oneEntry (lead : Bool) (sig : DWord) : CmpEntry := { ordinal := 0, group := 0, kind := 1, sig := sig, op := if lead then 5 else 6, lead := lead }
def twoCopies (sig : DWord) : PairOf := { lead := 0, standIn := 1, slack := 4, entries := [oneEntry true 9, oneEntry false sig] }
def comparing (sig : DWord) : State := { lane0 .env grp ctx0 with pairs := [twoCopies sig] }
theorem wit_EventsAndConfirmations_compare : ∃ tm l, (comparing 9).pairOf? 0 = some (twoCopies 9) ∧ (twoCopies 9).mismatch = false ∧ (twoCopies 9).exitsAgree = true
    ∧ (twoCopies 9).oldest 0 true = some (oneEntry true 9) ∧ (twoCopies 9).oldest 0 false = some (oneEntry false 9)
    ∧ (oneEntry true 9).agrees (oneEntry false 9) = true ∧ (oneEntry true 9).kind < 8 ∧ (comparing 9).emptied (twoCopies 9).lead = false
    ∧ (comparing 9).team? (twoCopies 9).lead = some tm ∧ (comparing 9).launch? tm.launch = some l ∧ l.killed = false
    ∧ (comparing 9).pairOf? (twoCopies 9).lead = some (twoCopies 9) := ⟨_, _, by decide, rfl, by decide, by decide, by decide, by decide, by decide, by decide, rfl, rfl, rfl, by decide⟩
/-- The same with an operation of the lead still on its way. -/
def comparingBusy : State := { comparing 8 with flight := [{ op1 (.store 4) (.dev 0x5000) 4 0 0 none with team := 0, twin := some 6 }] }
theorem wit_EventsAndConfirmations_mismatch : comparingBusy.pairOf? 0 = some (twoCopies 8) ∧ (twoCopies 8).oldest 0 false = some (oneEntry false 8)
    ∧ (oneEntry true 9).agrees (oneEntry false 8) = false ∧ comparingBusy.pairBusy (twoCopies 8) = true := by decide
theorem test_compare_differs : ((after (exec (.compareConfirm 0 0) comparingBusy)).pairs.map PairOf.mismatch) = [true] := by decide
theorem test_compare_agrees : ((after (exec (.compareConfirm 0 0) (comparing 9))).pairs.map (fun p => p.entries)) = [[]] := by decide
/-- A checkpoint of team k at a cue point. -/
def ckpt (k : Nat) : Ckpt :=
  { cue := 3, groups := [], spad := [], full := [],
    team := { uid := 1, launch := 0, part := 0, cluster := 0, handle := k, pair := false, ctx := 0, x := 0, y := 0, z := 0, q := 0, ngroups := 1, width := 16, tiles := 0 } }
def cued : State := { lane0 .env grp ctx0 with pairs := [{ lead := 0, standIn := 1, slack := 4, pending := [ckpt 0, ckpt 1], rollbacks := 1 }] }
theorem wit_EventsAndConfirmations_cue : ∃ p, cued.pairOf? 0 = some p ∧ p.mismatch = false ∧ cued.teamWaits p.lead = none ∧ cued.teamWaits p.standIn = none
    ∧ p.pending.find? (fun q => q.key == p.lead) = some (ckpt 0) ∧ p.pending.find? (fun q => q.key == p.standIn) = some (ckpt 1) ∧ (ckpt 0).cue = (ckpt 1).cue
    ∧ (∀ r ∈ (ckpt 0).groups, ∀ y, (ckpt 1).at_ r.2.index = some y → y.events = r.2.events) ∧ p.settledAt (ckpt 0) = true ∧ p.settledAt (ckpt 1) = true := ⟨_, by rfl, rfl, by decide, by decide, by decide, by decide, rfl, by decide, by decide, by decide⟩
theorem test_cue_confirmed : ((after (exec (.cueConfirmed 0) cued)).pairs.map (fun p => (p.confirmed.length, p.pending.length, p.rollbacks))) = [(2, 0, 0)] := by decide

/-- A walk of a group's address, under the tables of `paged` and under none. -/
def wanted : WalkReq := { part := 0, cluster := 0, va := 0x5000, write := true, agent := .group 0, lanes := 1 }
theorem wit_WalksAndRoots : Sp.getD ({ paged good with walks := [(0, [wanted])] } : State).walks 0 [] = [wanted]
    ∧ ({ paged good with walks := [(0, [wanted])] } : State).walkEnds wanted
        = .inl { part := 0, page := 0, bits := 30, frame := 0, w := true, nochk := false, far := false } := by decide +kernel
theorem wit_WalksAndRoots_fault : let s : State := { sys ctx7 with walks := [(0, [wanted])] }
    Sp.getD s.walks 0 [] = [wanted] ∧ (s.walkEnds wanted).isRight = true ∧ wanted.agent = .group 0 ∧ s.group? 0 = some grp ∧ grp.trHold = false
    ∧ s.settled 0 grp = true ∧ s.ctx? (ctxKey (clusterKey wanted.part wanted.cluster) 7) = some ctx7 := by decide +kernel
theorem wit_WalksAndRoots_root : (0 : Nat) < 8 ∧ HostWrites host 0 (0x20000 + 0x100 * 0) := ⟨by decide, by decide, by decide, rfl⟩

theorem wit_Swaps : Sp.sorted sharing.parts = true ∧ Sp.sorted sharing.shares = true ∧ (sharing.part 0).on = true ∧ sharing.othersWork 0 = true
    ∧ (sharing.share (sharing.shareKey 0)).phase = .run ∧ (sharing.part 0).qnt < 2 ^ 16
    ∧ (∀ q ∈ sharing.shareMembers (sharing.shareKey 0), (sharing.part q).on = true → sharing.debugHeld q = false)
    ∧ (sharing.part 0).qnt ≠ 0 := by decide
theorem wit_Swaps_host : HostWrites sharing 0 (0x20000 + 0x100 * 0 + 8) := ⟨by decide, by decide, rfl⟩
theorem wit_Swaps_flip : let s : State := { sharing with shares := [(0, { phase := .drain, bank := some 1 })] }
    (s.share (s.shareKey 0)).phase = .drain ∧ (s.shareMembers (s.shareKey 0)).find? (fun q => (s.part q).on) = some 0
    ∧ (s.share (s.shareKey 0)).bank = some 1 ∧ (1 : Nat) ≠ 0 := by decide
theorem wit_Swaps_exchange : ({ sharing with shares := [(0, { phase := .exchange })] } : State).shareKey 0 = 0
    ∧ (({ sharing with shares := [(0, { phase := .exchange })] } : State).share 0).phase = .exchange := by decide
/-- The swap engine saves the launch of partition 0. -/
def saving : State :=
  { ending [] with parts := [(0, { on := true, pairs := [0], root := 0x1000, grants := [(0, 0x10000000)] })], shares := [(0, { busy := true, bank := some 0 })] }
theorem wit_Swaps_background : (saving.share (saving.shareKey 0)).busy = true ∧ (saving.share (saving.shareKey 0)).phase = .run
    ∧ (saving.share (saving.shareKey 0)).bank = some 0 ∧ saving.launchesOf 0 = [(4, ended)] ∧ saving.nextWithWork (saving.shareKey 0) = none ∧ saving.erEn = false
    ∧ MapsTo saving ended.part (ended.area + 0x20) 8 0xA020 ∧ saving.writeImages 4 ended 0 = some saving ∧ saving.writeImages 4 ended 1 = some saving :=
  ⟨by decide, by decide, by decide, by decide, by decide, rfl, maps_self rfl (by decide) (by decide) (by decide) (by decide) (by decide) (by decide), by decide +kernel,
    by decide +kernel⟩
/-- A fixed-shape partition whose logical cluster 1 shares physical cluster 0. -/
def slicedPart : Part := { on := true, v128 := true, remap := [(1, 0)], pairs := List.range 64, sliced := [1] }
def timeSliced : State := { host with parts := [(0, slicedPart)] }
theorem wit_Swaps_timeslice : timeSliced.parts.find? (fun p => p.2.on && p.2.v128) = some (0, slicedPart) ∧ (0 : Nat) ≠ 1 ∧ 0 < slicedPart.count ∧ 1 < slicedPart.count
    ∧ slicedPart.physical 0 = 0 ∧ slicedPart.physical 1 = 0 ∧ (∀ e, e < slicedPart.count → slicedPart.physical e = 0 → e = 0 ∨ e = 1)
    ∧ 0 ∉ slicedPart.sliced ∧ 1 ∈ slicedPart.sliced ∧ (∀ y ∈ timeSliced.groups, y.2.ckey = clusterKey 0 0 → y.2.dbgHold = false ∧ y.2.dbgPend = false) := by decide +kernel
theorem wit_Swaps_held : let s : State := { timeSliced with groups := [(0, { grp with dbgHold := true })] }
    ∃ y ∈ s.groups, y.2.ckey = clusterKey 0 0 ∧ y.2.dbgHold = true := by decide

theorem wit_Cuts : (0 : Nat) < 8 ∧ host.ctx? (ctxKey (clusterKey 0 (host.part 0).firstCluster) 7) = some ctx7 ∧ ctx7.part = 0 ∧ ctx7.num = 7
    ∧ 1 ≤ (host.part 0).tmo ∧ (host.part 0).tmo < 2 ^ 16 ∧ Sp.sorted host.groups = true ∧ Sp.sorted host.ctxs = true
    ∧ ((host.part 0).cutState = 0 ∨ (host.part 0).cutState = 3) := by decide
theorem wit_Cuts_host : HostWrites host 0 (0x20000 + 0x100 * 0 + 0x10) := ⟨by decide, by decide, rfl⟩
/-- A cut in a state, its group at a cue point, with or without an access on its way. -/
def cutting (n : Nat) (m : List MemOp) : State :=
  { host with parts := [(0, { on := true, pairs := [0], cutState := n, target := 4 })], groups := [(0, { grp with issued := 9, cue := 4, cutStop := true })], flight := m }
theorem wit_Cuts_states : ((cutting 1 []).part 0).cutState = 1 ∧ ((cutting 2 []).part 0).cutState = 2 ∧ ((cutting 1 []).part 0).cutFirst = false
    ∧ (∀ u ∈ (cutting 1 []).cutUnits 0, u = { stands := true, blocked := false, cue := ((cutting 1 []).part 0).target.toNat }) ∧ (cutting 1 []).cutQuiet 0 = true
    ∧ (cutting 1 []).cutUnits 0 ≠ [] ∧ (∀ u ∈ (cutting 1 []).cutUnits 0, u.cue ≤ ((cutting 1 []).part 0).target.toNat)
    ∧ (cutting 1 [{ op1 (.store 4) (.dev 0x5000) 4 0 0 none with counter := 1 }]).cutQuiet 0 = false := by decide
/-- The same with the group held by the debugger where it stands. -/
theorem wit_Cuts_blocked : let s : State := { cutting 1 [] with groups := [(0, { grp with issued := 9, cue := 4, cutStop := true, run := .halted, dbgHold := true })] }
    (∀ u ∈ s.cutUnits 0, u.cue ≤ (s.part 0).target.toNat) ∧ s.cutQuiet 0 = true
    ∧ ∃ y ∈ s.groups, y.2.part = 0 ∧ 0 < y.2.issued ∧ (∀ tm, s.team? y.2.team = some tm → tm.copy = .sole) ∧ y.2.dbgHold = true :=
  ⟨by decide, by decide, _, List.mem_singleton.mpr rfl, rfl, by decide, by intro tm h; cases h; rfl, rfl⟩
/-- A write that the group made before its cue, which no other path has seen. -/
theorem wit_Cuts_late : let e : Late := { path := .lane, uid := 2, time := 3, space := 0, addr := 0x5000, old := 0 }
    let s : State := { cutting 1 [] with groups := [(0, { grp with issued := 9, cue := 4, cutStop := true, clk := [(2, 5)] })], late := [e], nextId := 9 }
    s.late[(0 : Nat)]? = some e ∧ Clock.has [(2, 5)] e.uid e.time = true ∧ (∀ c ∈ e.crossed, c.2.1 ≤ s.nextId) ∧ (∀ u ∈ s.cutUnits 0, u.stands = true) := ⟨rfl, by decide, by decide, by decide⟩
theorem wit_EnergyShares : Sp.sorted (lane0 .env grp ctx0).ctxs = true ∧ (lane0 .env grp ctx0).ctx? 0 = some ctx0 ∧ 0 / 8 = 0 ∧ ctx0.num < 6 ∧ ctx0.active = true := by decide

/-! ### The fabric, errors, repairs, power and the house controller -/

theorem wit_Fabric : (linked.port 2).state = 2 ∧ 2 ≤ (linked.port 2).lanes ∧ (linked.port 2).rxSeq = 5 ∧ (linked.port 2).state ≠ 0 ∧ (∀ u ∈ linked.streams, u.dest ∉ linked.unreachable)
    ∧ (({ linked with ports := [(2, { state := 2, lanes := 1 })] } : State).port 2).lanes = 1 ∧ (({ linked with ports := [(2, { state := 3, newWidth := 1 })] } : State).port 2).state = 3 := by decide
/-- The first request of a source on that port. -/
def asks (isHost control : Bool) (off : Nat) (op : FabOp) : FabricReq := { port := 2, source := 9, isHost := isHost, seq := 1, control := control, off := off, op := op }
theorem wit_Fabric_request : let r := asks true false 0x5000 (.read 4 false)
    (linked.port r.port).state = 2 ∧ (linked.port r.port).frozen = false ∧ r.seq = Sp.getD linked.performed (reqKey r) 0 + 1 ∧ memoryExists r.off = true
    ∧ 4 ∈ [1, 2, 4, 8, 16] ∧ r.off % 4 = 0 ∧ linked.linePoisoned r.off 4 = false := by decide
theorem wit_Fabric_atomic : let r := asks false false 0x5000 (.atom 0 .i32 3 false)
    r.op = .atom 0 .i32 3 false ∧ r.off % Ty.i32.bytes = 0 ∧ linked.linePoisoned r.off Ty.i32.bytes = false := by decide
theorem wit_Fabric_control : let r := asks true true 0x10000 (.read 8 false)
    r.off % 8 = 0 ∧ linked.house.step = 7 ∧ linked.hostMay r.port r.off false = true
    ∧ ({ linked with house := dispatch.house } : State).hostMay r.port r.off false = false ∧ dispatch.house.step = 7 := by decide
theorem test_fabric_write : (after (exec (.fabricRequest (asks false false 0x5000 (.write 4 0xABCD0102 false))) linked)).mem.read 0x5000 4 = 0xABCD0102 := by decide +kernel
theorem test_fabric_atomic : (after (exec (.fabricRequest (asks false false 0x5000 (.atom 0 .i32 3 false))) linked)).mem.read 0x5000 4 = 10 := by decide

theorem wit_ErrorContainment : ∃ tm l, host.house.history.length < 65535 ∧ (∀ p, Sp.getD host.house.clusterErrs p [] = []) ∧ host.group? 0 = some grp ∧ 5 < grp.nregs
    ∧ host.team? grp.team = some tm ∧ host.pairOf? grp.team = none ∧ host.launch? tm.launch = some l ∧ l.killed = false ∧ host.ctx? 0 = some ctx0 ∧ ctx0.num < 6
    ∧ host.launch? ctx0.launch = some l ∧ (∀ d, (Sp.getD host.house.margins d {}).nominal ≤ (Sp.getD host.house.margins d {}).setpoint)
    ∧ (∀ q ∈ host.teams, q.2.ctx = 0 → host.pairOf? q.1 = none) :=
  ⟨_, _, by decide, fun _ => rfl, rfl, by decide, rfl, rfl, rfl, rfl, rfl, by decide, rfl, fun _ => Nat.le_refl _, by decide⟩
/-- R187: a corrected error of a partial waits for the next block step of its tile. -/
theorem test_error_partial : (((after (exec (.correctedError (.mxPartial 0 2 1 3 0)) host)).team? 0).map (fun t => (t.tile 2).flaws.map (fun q => (q.row, q.col, q.again))))
    = some [(some 1, some 3, false)] := by decide
/-- R176: a translation with a parity error is dropped, and fetched again. -/
theorem test_error_translation : ((after (exec (.correctedError (.tlbEntry 0 0x1000)) (mapped host))).cluster 0).tlb = [] := by decide
theorem test_error_element : (((after (exec (.uncorrectableError (.accElem 0 2 1 3)) host)).team? 0).map (fun t => ((t.tile 2).get 1 3 == extNan, (t.tile 2).uncorr))) = some (true, 1) := by decide

/-- R4: a reserved size of QCFG is ignored, and the queue is not enabled. -/
theorem test_reserved_size : (let q := (after (exec (.registerWrite (.host 0) 0x10048 (BitVec.ofNat 64 (2 ^ 63 + 11 * 2 ^ 16 + 5))) host)).queue 1; (q.size, q.prio, q.en)) = (0, 5, false) := by decide
/-- R41, R377: a group that ends leaves at once, its registers as they stood, though a reply is on its way. -/
theorem test_exit_leaves : (let s := after (exec (.exit {}) { flying (op1 (.load .n32) (.dev 0x5000) 4 0 0 (some 10)) with cur := .lane 0 false })
    ((s.group? 0).isNone, (Sp.get? s.oldGroups 0).map Group.run)) = (true, some .exited) := by decide

/-- Four corrected errors of a row in the last days, and a lockout that ends at 5. -/
def worn : State := { linked with house := { step := 7, rowErrs := [(rowKey 1 2, [1, 2, 3, 4])], time := 10, copying := [(3, 4)], margins := [(3, { locked := some 5 }), (4, { locked := some 50 })] } }
theorem wit_Repairs_rows : (1 : Nat) < 48 ∧ 4 ≤ ((Sp.getD worn.house.rowErrs (rowKey 1 2) []).filter (fun n => decide (worn.house.time < n + 2592000000))).length
    ∧ (1, 2) ∉ worn.house.copying ∧ (1, 2) ∉ worn.house.spared ∧ Sp.getD worn.house.remaps 1 0 < 1024 ∧ (3, 4) ∈ worn.house.copying
    ∧ (Sp.getD worn.house.margins 3 {}).locked = some 5 ∧ 5 ≤ worn.house.time ∧ (Sp.getD worn.house.margins 4 {}).locked = some 50 ∧ worn.house.time < 50
    ∧ (Sp.getD worn.house.margins 2 {}).locked = none := by decide
theorem wit_Repairs_retire : 2 ≤ host.house.step ∧ 1 ∉ host.house.retired ∧ 1 ∉ host.house.retiring ∧ (0, { on := true, pairs := [0] }) ∈ host.parts
    ∧ (1 / 2) ∈ ({ pairs := [0] } : Part).pairs ∧ (∀ p ∈ host.parts, p.2.v128 = false)
    ∧ (∀ p ∈ host.parts, 1 / 2 ∈ p.2.pairs → host.teamsOn (clusterKey p.1 1) = []) ∧ host.pinned (clusterKey 0 1) = false := by decide
/-- A fixed-shape partition with a cluster to retire, and in the swap that moves its logical cluster. -/
def moving (p : SwapPhase) : State :=
  { host with groups := [], teams := [], launches := [], parts := [(0, { on := true, v128 := true, pairs := List.range 64 })], shares := [(0, { phase := p })],
              house := { host.house with retiring := [3] } }
theorem wit_Repairs_move : 3 ∈ (moving .run).house.retiring ∧ (∀ q ∈ (moving .run).parts, q.2.v128 = true ∧ (moving .run).shareKey q.1 = 0 ∧ (moving .run).debugHeld q.1 = false)
    ∧ (moving .run).parts ≠ [] ∧ ((moving .run).share 0).phase = .run ∧ ((moving .run).share 0).busy = false
    ∧ ((moving (.move 3)).share ((moving (.move 3)).shareKey 0)).phase = .move 3 := by decide +kernel
theorem test_retire_moves : (((after (exec (.retireComplete 3) (moving .run))).share 0).phase, (after (exec (.swapBackgroundDone 0 [] []) (moving (.move 3)))).house.retired)
    = (.move 3, [3]) := by decide +kernel
/-- An injection of two bit flips into v5 of lane 1 of that group. -/
def armed : Injection := { words := [0x40, 5, 3, 0, 0] }
def injecting : State := { host with house := { host.house with armed := [armed] } }
theorem wit_Repairs_injection : ∃ tm, injecting.house.armed[0]? = some armed ∧ injecting.injectionTeam armed = some 0 ∧ injecting.team? 0 = some tm
    ∧ injecting.groupOf 0 ((armed.words[0]?.getD 0).toNat / 2 ^ 12 % 32) = some 0 ∧ injecting.group? 0 = some grp
    ∧ (armed.words[1]?.getD 0).toNat / 2 ^ 60 = 0 ∧ (armed.words[3]?.getD 0).toNat / 2 ^ 62 = 0 ∧ (armed.words[1]?.getD 0).toNat % 2 ^ 60 < grp.nregs
    ∧ (armed.words[0]?.getD 0).toNat / 2 ^ 6 % 64 < grp.width := ⟨_, rfl, by decide, rfl, by decide, rfl, by decide, by decide, by decide, by decide⟩
theorem test_injection : (((after (exec (.faultInjectionFire 0) injecting)).group? 0).map (fun x => (x.reg 5 1, x.reg 5 0))) = some (3, 0) := by decide

/-- Bring-up at a step, with no firmware pending. -/
def upTo (n : Nat) : State := { host with house := { host.house with step := n } }
theorem wit_Power_steps : (upTo 0).house.step = 0 ∧ 48000 ≤ ({} : BringUp).milliVolts ∧ ({} : BringUp).milliVolts ≤ 58000 ∧ ({} : BringUp).inlet ≤ 400 ∧ ({} : BringUp).flow = true
    ∧ (58000 < ({ milliVolts := 58001 } : BringUp).milliVolts) ∧ (upTo 1).house.pendingFw = none ∧ (upTo 6).house.step = 6 ∧ 2 ≤ workingPairs (upTo 4).house.working := by decide +kernel
/-- Whatever the signature check answers, one of its two clauses applies. -/
theorem wit_Power_signature (n : Nat) : (upTo n).house.accepts (upTo n).house.fw (upTo n).house.fwSig (upTo n).house.svn = true
    ∨ (upTo n).house.accepts (upTo n).house.fw (upTo n).house.fwSig (upTo n).house.svn = false := (Bool.eq_false_or_eq_true _)
theorem wit_Power_pressure : host.allClusters.Nodup ∧ (1900 : Nat) ≤ 1900 ∧ (38 : Nat) ≤ 38 ∧ (100 : Nat) ≤ 100 ∧ (1900 : Nat) < 1901 ∧ 0 ∈ host.pressured ∧ host.pinned 0 = false := by decide
theorem wit_Power_withdraw : let s : State := { host with house := { step := 7, steps := [[]], clearSince := some 0, time := 1000 } }
    s.house.steps = [] :: [] ∧ s.house.clearSince = some 0 ∧ 0 + 1000 ≤ s.house.time ∧ 0 ∈ s.pressured ∧ 0 ∉ ([] : List Nat) := by decide
theorem wit_HouseCommands : 2 ≤ linked.house.step ∧ (linked.port 2).state = 2 ∧ 0 < 1 ∧ 1 < (linked.port 2).lanes ∧ linked.erEn = false ∧ Sp.sorted linked.clusters = true
    ∧ ((linked.house.active.words[1]?).getD 0).getLsbD 63 = true ∧ injectionBad armed.words = false ∧ injectionBad [1, 0, 0, 0, 0] = true ∧ linked.house.tableau = none
    ∧ State.reset.house.step < 2 := by decide
/-- A configuration of one native partition on the first pair. -/
def layout : List DWord := [0x4B50_4346_0001_0000, 1, 5, 1] ++ List.replicate 414 0
theorem wit_HouseCommands_layout : configBad layout = false ∧ (linked.house.accepts layout 0 (((layout[0]?).getD 0).toNat % 2 ^ 16) = true
    ∨ linked.house.accepts layout 0 (((layout[0]?).getD 0).toNat % 2 ^ 16) = false) := ⟨by decide +kernel, Bool.eq_false_or_eq_true _⟩
def frozen0 : State := { host with clusters := [(0, { frozen := true, tableauRead := true })] }
theorem wit_HouseCommands_reset : Sp.get? frozen0.clusters 0 = some { frozen := true, tableauRead := true } ∧ frozen0.physOfKey 0 = 0
    ∧ (∀ p ∈ host.clusters, p.2.frozen = false ∨ p.2.tableauRead = false) := by decide

/-! ### Words, steps and memory -/

theorem wit_FormatSelection : (0x8005_0200_2416_0802 : Nat) < 2 ^ 64 ∧ (0x8005_0200_2416_0802 : Nat).testBit 63 = true ∧ (0x6880_0100_0000_0005 : Nat).testBit 63 = false
    ∧ (0x6880_0100_0000_0005 : Nat) / 2 ^ 55 % 2 ^ 8 = 0xD1 ∧ (0x0D00_0000_0000_0000 : Nat) / 2 ^ 55 % 2 ^ 8 = 0x1A ∧ (0x1200_0000_0000_0000 : Nat) / 2 ^ 56 = 0x12 := by decide
theorem wit_RoundTrip : (Instr.add { d := 5, a := 4, b := 240, c := 6, k := true } .i32 false).wf = true
    ∧ encodeLane (.add { d := 5, a := 4, b := 240, c := 6, k := true } .i32 false) = some 0x0002_8278_0301_0800
    ∧ (Instr.li { d := 8, imm := 4 }).wf = true ∧ encodePrompter (.li { d := 8, imm := 4 }) = some 0x1040_0000_0000_0004 := by decide
/-- A group at the one word of its segment, one beyond its words, and in a segment that is open. -/
def standing (pc n : Nat) : State :=
  lane0 .env { grp with slotA := { pc := BitVec.ofNat 20 pc, mask := 3 } } { ctx0 with
    segs := [(0, { state := .sealed, cap := 1, len := 1, chunks := [0] }), (1, { state := .open_, cap := 1, chunks := [1] })], store := [(0, (BitVec.ofNat 64 n, 0))] }
theorem wit_StepRuns : ∃ x c, let s := standing 0 0x0002_8278_0301_0800
    s.group? 0 = some x ∧ s.mayIssue 0 x = true ∧ (x.slot false).mask ≠ 0 ∧ (x.slot false).wait = .run ∧ (x.slot false).past = false ∧ s.ctxOf x = some c
    ∧ c.fetch (x.slot false).pc = .word 0x0002_8278_0301_0800 0 ∧ (decodeLane 0x0002_8278_0301_0800).toOption.isSome = true :=
  ⟨_, _, rfl, by decide, by decide, by decide, rfl, rfl, by decide, by decide⟩
theorem wit_StepRuns_elsewhere : ((standing 0 0).ctx? 0).map (fun c => (c.fetch 1, c.fetch 4096)) = some (.range, .parks 1) := by decide
theorem wit_StepRuns_prompter : ({ ctx0 with words := [(0, 0x1040_0000_0000_0004)] } : Ctx).pc.toNat < ctx0.imageLen
    ∧ decodePrompter 0x1040_0000_0000_0004 = .ok (.li { d := 8, imm := 4 }) ∧ decodePrompter 0x1200_0000_0000_0000 = .error 1 ∧ ctx0.imageLen ≤ ({ ctx0 with pc := 1 } : Ctx).pc.toNat := by decide
theorem test_step_beyond : (((after (step { (standing 1 0) with agenda := [.lane 0 false] })).group? 0).map (fun x => x.stop.map (fun r => r.w0.toNat / 2 ^ 56))) = some (some 8) := by decide
theorem test_step_round : (after (step { lane0 .env grp ctx0 with agenda := [] })).agenda ≠ [] := by decide
theorem wit_MemoryCanonical : State.reset.mem.wf = true ∧ linked.mem.wf = true ∧ (match step State.reset with | .next t => t.mem.wf | _ => false) = true := by decide
theorem wit_ReadAfterWrite : Memory.wf [] = true ∧ Memory.wf [(3, 1), (7, 2)] = true ∧ Memory.wf [(7, 1), (3, 2)] = false ∧ Memory.wf [(3, 0)] = false := by decide
theorem test_memory_order : (Memory.write [(9, 1)] 4 4 0x01020304, (Memory.write [(9, 1)] 9 1 0)) = ([(4, 4), (5, 3), (6, 2), (7, 1), (9, 1)], []) := by decide
theorem test_wf_split_carry : (Instr.cvsplit { d := 20, a := 3, b := 8, c := 12, k := true } 2 1 true).wf = false := by decide

/-! ### The hypotheses of the statements are met: values, and forms of the lane words -/

theorem wit_FloatingValues_images : isFloat .f32 = true ∧ tyTapered .f32 = false ∧ 255 < 2 ^ 8 ∧ 0 < 2 ^ 23 ∧ (15 : Nat) < 2 ^ 4 ∧ (7 : Nat) < 2 ^ 3
    ∧ tyTapered .kt8 = true ∧ (64 : Nat) < 128 ∧ (64 : Nat) ≠ 0 ∧ (∀ i, i < 1 → (64 : Nat).testBit (6 - i) = (64 : Nat).testBit 6) ∧ (64 : Nat).testBit 5 ≠ (64 : Nat).testBit 6
    ∧ (∀ i, i < 7 → (127 : Nat).testBit (6 - i) = (127 : Nat).testBit 6) := by decide
theorem wit_FloatingValues_rounding : isFloat .e4m3 = true ∧ (449 : Nat) ≠ 0 ∧ isFloat .kt8w = true ∧ Ty.f16 ≠ Ty.f32 ∧ fpValue .f32 0x7F800001 = .nan true ∧ fpValue .f32 0xFF800000 = .inf true
    ∧ fpValue .kt8 0x80 = .nv ∧ fpValue .f32 0x80000000 = .fin true 0 (-149) := by decide
theorem wit_FloatingValues_arithmetic : isBig .bf16 = true ∧ isBig .f16 = true ∧ Ty.f16 ≠ Ty.f32 ∧ (fpValue .f32 0x7FC00000).isNan = true ∧ fpValue .f32 0x7F800000 ≠ .nv
    ∧ ((fpValue .f32 0x3F800000).isNan || (fpValue .f32 0x7F800000).isNan) = false ∧ (7 : Nat) < 2 ^ 32 := by decide
/-- −0 is below +0 in the order of R151, though equal as a number. -/
theorem wit_FloatingValues_order : Below (fpValue .f32 0x80000000) (fpValue .f32 0) := by
  have h : fpValue .f32 0x80000000 = .fin true 0 (-149) ∧ fpValue .f32 0 = .fin false 0 (-149) := by decide
  rw [h.1, h.2]
  exact Or.inr ⟨by simp [ordered, finite], rfl, rfl⟩
theorem wit_FloatingValues_numbers : isAnyInt .i8 = true ∧ isFloat .kt8w = true ∧ isAnyInt .n64 = true ∧ (Ty.i32.signed = true ∧ -(2 ^ (8 * Ty.i32.bytes - 1)) ≤ (-3 : Int) ∧ (-3 : Int) < 2 ^ (8 * Ty.i32.bytes - 1))
    ∧ (2 : Int) ^ (8 * Ty.i32.bytes) ∣ 0xFFFFFFFD - (-3 : Int) ∧ (1 : Nat) < 2 := by decide
theorem wit_FloatingValues_functions : fpValue .f32 0 = .fin false 0 (-149) ∧ fpValue .f32 0x40800000 = .fin false (2 ^ 23) (-21) ∧ fpValue .f32 0x44000000 = .fin false (2 ^ 23) (-14)
    ∧ (2 ^ 23 : ℚ) * 2 ^ (-21 : Int) = 4 ∧ 128 ≤ (2 ^ 23 : ℚ) * 2 ^ (-14 : Int) ∧ (2 ^ 23 : ℚ) * 2 ^ (-40 : Int) < 2 ^ (-13 : Int) ∧ 16 < (2 ^ 23 : ℚ) * 2 ^ (-14 : Int) := by
  refine ⟨by decide, by decide, by decide, by norm_num, by norm_num, by norm_num, by norm_num⟩
/-- FTANH of 20 rounds to 1 from below; in mode rz it is the number before 1 (R263). -/
theorem test_ftanh_great : alu [(4, 0x41A00000)] (.ftanh { d := 10, a := 4, k := true } .rn) 10 = 0x3F800000
    ∧ alu [(4, 0x41A00000)] (.ftanh { d := 10, a := 4, k := true } .rz) 10 = 0x3F7FFFFF := by decide +kernel
theorem wit_CurveValues : (1 : Nat) ≤ 2 ∧ (2 : Nat) ≤ 8 ∧ (54 : Nat) < 2 ^ 64 ∧ (2 : Nat) ≤ 4 ∧ (4 : Nat) ≤ 64 := by decide
/-- In the box of the example, 24 is the first word from 16 on; a box whose lower corner lies past its upper one is empty. -/
theorem wit_CurveValues_next : InRange 2 13 54 16 24 ∧ (∀ v, InRange 2 13 54 16 v → 24 ≤ v) ∧ ∀ w, ¬ InRange 2 1 0 0 w := by
  refine ⟨⟨by decide, by decide, by decide⟩, ?_, ?_⟩
  · rintro v ⟨-, h2, h3⟩
    by_contra hc
    have h2 : 16 ≤ v := h2
    have : v < 24 := by omega
    interval_cases v <;> revert h3 <;> decide
  · rintro w ⟨-, -, h⟩
    obtain ⟨h1, h2⟩ := h 0 (by decide)
    have : axisOf 2 1 0 = 1 := by decide
    have : axisOf 2 0 0 = 0 := by decide
    omega
/-- BCAST of an immediate past the width, and of the first lane. -/
theorem wit_CrossLaneResult_past : let ws := x1.writers false 0 false
    MayIssue (at_ x1) 0 false x1 ws (ws.take 1) [] (destOf true (dstW false) 10) ∧ TakesFrom (at_ x1) 0 x1 ws (srcW false) 4 (fun _ => 20) ∧ ¬ 20 < x1.width
    ∧ TakesFrom (at_ x1) 0 x1 ws (srcW false) 4 (fun _ => ws.headD 0) ∧ (∀ j, x1.width ≤ j → x1.extent ≤ j ∧ laneBit x1.deadMask j = false) := by
  refine ⟨mayIssue_of_mayB rfl rfl (by decide), ⟨by decide, by decide, by decide, by decide⟩, by decide, ⟨by decide, by decide, by decide, by decide⟩, ?_⟩
  intro j hj
  exact ⟨hj, show laneBit 0 j = false by simp [laneBit]⟩
theorem test_bcast_past : ((issue (withRegs [(4, 7)]) (.bcast { d := 10, a := 4, c := 20, k := true } .n32 true false)).reg 10 1).toNat = 0 := by decide
/-- A stack of four entries whose oldest goes to the stack area; and one of five, at whose JOIN one comes back. -/
def entry (n : Nat) : StackEntry := { tag := n, outer := 0, defPc := 20, defMask := 4, defCalls := [], defRun := true, arrPc := 11, arrMask := 2 }
def deep (n : Nat) (other : Slot) : Group :=
  { atPc 10 with slotA := { pc := 10, mask := 3, tag := 1 }, slotB := other, stack := (List.range n).map (fun i => entry (i + 1)), nextTag := 9 }
/-- The machine at the turn of slot A of a group, under the tables, with a launch whose context area is at 0xA000. -/
def pagedAt (x : Group) : State :=
  { paged good with cur := .lane 0 false, groups := [(0, x)],
                    teams := (at_ x).teams, ctxs := [(0, ctx0)], launches := [(0, { uid := 0, queue := 1, part := 0, desc := words (2 ^ 56 + 0x8000), id := 6, phase := .placed, regs := 240, tiles := 32, stack := 8 })] }
theorem wit_Divergence_spill : let x := deep 4 { pc := 30, mask := 4 }
    ∃ l, MayIssue (pagedAt x) 0 false x [] [] [] [] ∧ (x.slot true).live = true ∧ (x.slot false).mask &&& x.maskReg 1 ≠ 0 ∧ (x.slot false).mask &&& ~~~(x.maskReg 1) ≠ 0
      ∧ (∃ tag z, x.newTag = some (tag, z)) ∧ x.items + (1 + (x.slot false).calls.length) ≤ (pagedAt x).stackLimit x ∧ 4 ≤ x.stack.length ∧ (pagedAt x).launch? x.launch = some l
      ∧ MapsTo (pagedAt x) x.part (stackPlace (pagedAt x) x l + 16 * (x.stack.length - 4)) 16 0xB000 :=
  ⟨_, mayIssue_of_mayB rfl rfl (by decide +kernel), by decide, by decide, by decide, ⟨_, _, rfl⟩, by decide +kernel, by decide, rfl,
    maps_self rfl (by decide) (by decide) (by decide) (by decide) (by decide) (by decide)⟩
theorem wit_Divergence_back : let x := deep 5 {}
    MayIssue (pagedAt x) 0 false x [] [] [] [] ∧ (x.slot false).tag ≠ 0 ∧ ¬((x.slot true).live = true ∧ (x.slot true).tag = (x.slot false).tag)
    ∧ (∃ e rest, x.stack = e :: rest ∧ e.tag = (x.slot false).tag ∧ e.defRun = true) ∧ StackBack (pagedAt x) x :=
  ⟨mayIssue_of_mayB rfl rfl (by decide +kernel), by decide, by decide, ⟨_, _, rfl, rfl, rfl⟩, Or.inr (by intro l h; cases h; decide +kernel)⟩
/-- An entry whose deferred lanes have all exited (R51). -/
theorem wit_Divergence_empty : let e : StackEntry := { tag := 1, outer := 0, defPc := 20, defMask := 0, defCalls := [] }
    let x := joining {} [e]
    May x [] [] [] ∧ (x.slot false).tag ≠ 0 ∧ ¬((x.slot true).live = true ∧ (x.slot true).tag = (x.slot false).tag) ∧ x.stack = e :: [] ∧ e.tag = (x.slot false).tag
    ∧ e.defMask = 0 ∧ StackBack (at_ x) x := ⟨may_of (by decide), by decide, by decide, rfl, rfl, rfl, Or.inl (by decide)⟩
theorem wit_ExitsAndCues_steps : x1.stepsDone ((at_ x1).issueCycle x1) = true := by decide

/-! ### The hypotheses of the statements are met: every form of an access -/

/-- What an access by a plan asks, for the small machine with its page mapped. -/
def goesB (x : Group) (p : MemPlan) (place : Place) : Bool :=
  mayB (mem_ x) 0 false x p.writers p.writers p.srcs p.dst && p.pre.isNone && !((mem_ x).memHeld 0 x) && decide ((mem_ x).pairOf? x.team = none) && !p.lanes.isEmpty
    && reachesB (mem_ x) x p (fun _ => place)
theorem goes_of {x : Group} {p : MemPlan} {place : Place} (h : goesB x p place = true) :
    MayM x p.writers p.srcs p.dst ∧ p.pre = none ∧ Unordered (mem_ x) 0 x p ∧ p.lanes ≠ [] ∧ Reaches (mem_ x) x p (fun _ => place) := by
  simp only [goesB, Bool.and_eq_true, Bool.not_eq_true', decide_eq_true_eq, Option.isNone_iff_eq_none] at h
  obtain ⟨⟨⟨⟨⟨h1, h2⟩, h3⟩, h4⟩, h5⟩, h6⟩ := h
  exact ⟨mayM_of h1, h2, ⟨h3, h4⟩, by intro e; simp [e] at h5, reaches_of_reachesB h6⟩
/-- A group with an address of device memory, or one of its scratchpad, and operands. -/
def xd : Group := one [(4, 0x1000), (6, 3), (8, 2)]
def xs : Group := one [(4, 0x40), (6, 3), (8, 2)]
/-- The plans of the fourteen forms, at operands that pass their checks. -/
def devicePlans : List MemPlan :=
  let o : Ops := { d := 12, a := 4, b := 6, c := 8, k := true }
  let u : Ops := { a := 4, b := 6 }
  [loadPlan false { d := 10, a := 4, k := true } 0 .n64 .grp .plain false xd, storePlan false u 0 .n32 .grp .plain false xd,
   rmwPlan false { o with c := 0 } 4 (.atom 0 .i32) .grp .rlx (srcW false) .unused (dstW false) false xd, rmwPlan false o 4 (.cas .n32) .grp .rlx (srcW false) (srcW false) (dstW false) false xd,
   rmwPlan false o 4 (.bfi .n32) .grp .rlx (srcW false) (srcW false) (dstW false) false xd, rmwPlan false { d := 10, a := 4, k := true } 8 .ffcs .grp .rlx .unused .unused .dst32 false xd,
   rmwPlan false o 8 .plset .grp .rlx .src64 .src32 .dst128 false xd, rmwPlan false u 4 (.red 0 .i32) .grp .rlx (srcW false) .unused .unused false xd]
def scratchPlans : List MemPlan :=
  let u : Ops := { a := 4, b := 6 }
  [loadPlan true { d := 10, a := 4, k := true } 0 .n32 .grp .plain false xs, storePlan true u 0 .n32 .grp .plain false xs, { storePlan true u 0 .n32 .ens .plain false xs with kind := .stsFe 4 },
   fePlan true u 0 false xs, fePlan false u 0 false xs, arrivePlan u 0 false xs, rmwPlan true { u with d := 12, k := true } 4 (.atom 0 .i32) .grp .rlx (srcW false) .unused (dstW false) false xs]
theorem wit_Accesses_forms : (∀ p ∈ devicePlans, MayM xd p.writers p.srcs p.dst ∧ p.pre = none ∧ Unordered (mem_ xd) 0 xd p ∧ p.lanes ≠ [] ∧ Reaches (mem_ xd) xd p (fun _ => .dev 0x5000))
    ∧ ∀ p ∈ scratchPlans, MayM xs p.writers p.srcs p.dst ∧ p.pre = none ∧ Unordered (mem_ xs) 0 xs p ∧ p.lanes ≠ [] ∧ Reaches (mem_ xs) xs p (fun _ => .spad 0 0x40) := by
  constructor
  · have h : ∀ p ∈ devicePlans, goesB xd p (.dev 0x5000) = true := by decide
    exact fun p hp => goes_of (h p hp)
  · have h : ∀ p ∈ scratchPlans, goesB xs p (.spad 0 0x40) = true := by decide
    exact fun p hp => goes_of (h p hp)
/-- The same page in device 9, which a port reaches, or which is unreachable. -/
def away (lost : Bool) : State :=
  { mem_ xd with clusters := [(0, { tlb := [{ part := 0, page := 1, bits := 12, frame := 2 ^ 55 + 9 * 2 ^ 44 + 0x5000, w := true, nochk := false, far := false }] })],
                 parts := [(0, { on := true, pairs := [0], grants := [(0, 2 ^ 56)] })],
                 ports := [(2, { state := 2, lanes := 4 })], routes := if lost then [] else [(9, [2])], unreachable := if lost then [9] else [] }
theorem wit_Accesses_away (lost : Bool) : let p := loadPlan false { d := 10, a := 4, k := true } 0 .n64 .grp .plain false xd
    MayIssue (away lost) 0 false xd p.writers p.writers p.srcs p.dst ∧ Reaches (away lost) xd p (fun _ => .remote (2 ^ 55 + 9 * 2 ^ 44 + 0x5000)) := by
  cases lost <;> exact ⟨mayIssue_of_mayB rfl rfl (by decide), reaches_of_reachesB (by decide)⟩
theorem wit_Accesses_split_device : let x := one [(4, 0x1000), (8, 13), (10, 54)]
    let ws := x.writers false 0 false
    MayM x ws [(.src64, 4), (.src128, 8), (.src64, 12)] [(.dst32, 20)] ∧ ws ≠ [] ∧ (mem_ x).memHeld 0 x = false ∧ (mem_ x).pairOf? x.team = none
    ∧ (∀ j ∈ ws, ∀ k, k ≤ 4 → deviceCheck (x.address false 4 0 j + 16 * k) 16 = none
        ∧ ∃ chk, (mem_ x).translate x.ckey (x.address false 4 0 j + 16 * k) true = .hit (0x5000 + 16 * k) chk ∧ (mem_ x).unitMay x.part (0x5000 + 16 * k) true = true
          ∧ (mem_ x).servedAt (0x5000 + 16 * k) = .dev (0x5000 + 16 * k))
    ∧ ∀ j ∈ ws, (curveSplit 2 4 (x.read .src128 8 j 0 % 2 ^ 64) (x.read .src128 8 j 0 / 2 ^ 64) (x.read .src64 12 j 0)).1.length ≤ 4 + 1 := by
  have h0 : ∀ j ∈ (one [(4, 0x1000), (8, 13), (10, 54)]).writers false 0 false, j = 0 := by decide
  refine ⟨mayM_of (by decide), by decide, by decide, rfl, ?_, by decide +kernel⟩
  intro j hj k hk
  obtain rfl := h0 j hj
  have hk : k = 0 ∨ k = 1 ∨ k = 2 ∨ k = 3 ∨ k = 4 := by omega
  rcases hk with rfl | rfl | rfl | rfl | rfl <;> exact ⟨by decide, true, by decide, by decide, by decide⟩

/-! ### The hypotheses of the statements are met: more clauses of memory, tables, requests and matrices -/

/-- A waiter of another group on granule 4 that is older than any word which has not waited. -/
theorem wit_Synchronisation_older : let s : State := { fullEmpty (one [(4, 0x40)]) true with
      nextId := 5
      groups := [(0, one [(4, 0x40)]), (1, { grp with uid := 7, slotA := { mask := 1, wait := .fullEmpty, waitAt := 1, wants := [4] } })] }
    s.olderWaiter (s.waitPlace ((one [(4, 0x40)]).slot false) [4]) [4] = true ∧ s.isFull 4 = true := by decide
/-- A path fence whose first path is quiet, one that waits for what happens before it, and a write of an engine that the group's clock holds. -/
theorem wit_Synchronisation_paths : (mem_ (one [])).undoneBefore 0 (one []) = false ∧ (mem_ (one [])).pathBusy 0 (one []) 2 = false ∧ unperformed.undoneBefore 0 (one []) = true
    ∧ ({ path := .coll, uid := 9, time := 3, space := 0, addr := 0x5000, old := 0 } : Late).before [(9, 4)] = true
    ∧ held.fence ≠ none ∧ (at_ held).memHeld 0 held = true := by decide
/-- Of two lanes the second fails the earlier check (R88): misaligned, and beyond the allocation. -/
theorem wit_HomePerforms_ranks : let s := mem_ grp
    ∃ c e, s.spadCheck grp 0x41 4 4 false = .inr c ∧ s.spadCheck grp 0x20000 4 4 false = .inr e ∧ c.rank ≠ e.rank := ⟨_, _, rfl, rfl, by decide⟩
theorem wit_Barriers_room : ∃ tm, (mem_ (one [])).team? 0 = some tm ∧ (mem_ (one [])).barsFull tm (.spad 0 0x40) = false
    ∧ (mem_ (one [])).barsFull { tm with bars0 := (List.range 64).map (fun i => 16 * i) } (.spad 0 0x4000) = true
    ∧ (mem_ (one [])).barsFull { tm with bars0 := (List.range 64).map (fun i => 16 * i) } (.spad 0 0x40) = false := ⟨_, rfl, by decide, by decide +kernel, by decide +kernel⟩
/-- An insertion that stands at its table. -/
def inserting : MemOp := op1 (.props 1) (.spad 0 0) 0 9 (77 + 3 * 2 ^ 32) (some 10)
theorem wit_PropsTables_home : TakesPlace (flying inserting) 5 inserting 1 ∧ inserting.kind = .props 1 ∧ inserting.d = some 10 := ⟨takes_of rfl (by decide), rfl, rfl⟩
/-- The set of key 9 with its first ways in use, one of them by another context. -/
theorem wit_PropsTables_partly : let t : Sp Prop_ := [(propsSet 0 9 * 8, { ctx := 0, key := 100, payload := 1 }), (propsSet 0 9 * 8 + 1, { ctx := 3, key := 9, payload := 1 })]
    propsFind t 0 9 = none ∧ Sp.get? t (propsSet 0 9 * 8 + 2) = none ∧ (∀ u, u < 2 → Sp.get? t (propsSet 0 9 * 8 + u) ≠ none) ∧ plook t 0 9 = 0xFFFF := by decide
/-- The statuses of EJOIN: a member already, a slot that another holds, and a member on the same cluster. -/
def joins (members : Sp Nat) : State := { at_ (one [(4, 5), (6, 2)]) with ensembles := [{ launch := 0, e := 5, members := members }] }
theorem wit_EnsembleInstructions_statuses : ∃ tm, (joins []).team? 0 = some tm ∧ tm.ensemble = none
    ∧ ((joins []).ensembles.find? (fun y => y.launch == 0 && y.e == 5)).isSome = true
    ∧ (joins [(2, 9)]).joinStatus (one []) tm 5 2 = 1 ∧ (joins [(3, 0)]).joinStatus (one []) tm 5 2 = 2 ∧ (joins [(3, 9)]).team? 9 = none ∧ (joins [(3, 9)]).joinStatus (one []) tm 5 2 = 0
    ∧ (joins []).joinStatus (one []) { tm with ensemble := some (5, 1) } 5 2 = 3 ∧ (∀ y ∈ (joins []).ensembles, y.launch ≠ 0 ∨ y.e ≠ 6) :=
  ⟨_, rfl, rfl, rfl, by decide, by decide, rfl, by decide, by decide, by decide⟩
theorem wit_Mailboxes_held : May held [0] [(.src64, 4)] [] ∧ (at_ held).memHeld 0 held = true := ⟨may_of (by decide), by decide⟩
theorem wit_RemotePut_quiet : let s : State := { at_ grp with rputs := [putting] }
    (∀ m ∈ s.flight, m.uid = putting.sender → m.id < 4 → m.performed = true) ∧ (∀ p ∈ s.teams, p.2.exited = false) ∧ (∀ p ∈ s.teams, p.2.ensemble.isSome = true → s.emptied p.1 = false) := by
  refine ⟨by decide, by decide, by decide⟩
theorem wit_EngineRequests_words : let x := one [(4, 0x40)]
    (at_ x).undoneBefore 0 x = false ∧ ∀ i, i < 2 * 1 → (at_ x).sees x.reader (.spad 0 (0x40 + 16 * i)) 16 = true := by decide
/-- A batch that was delivered before it is closed is no sixteenth outstanding one; a WAITB that has closed its batch. -/
theorem wit_EngineRequests_empty : let x := { batching 15 with openBatch := { any := true } }
    let y := { batching 14 with openBatch := {}, slotA := { mask := 1, wants := [13] } }
    May x [] [] [] ∧ x.openBatch.any = true ∧ x.openBatch.open_ = [] ∧ 15 ≤ x.outstanding ∧ (batching 15).openBatch.open_ ≠ []
    ∧ ((batching 14).slot false).wants = [] ∧ May y [] [] [] ∧ (y.slot false).wants = [13] ∧ 13 < y.outstanding ∧ y.outstanding ≤ 14 :=
  ⟨may_of (by decide), rfl, rfl, by decide, by decide, rfl, may_of (by decide), rfl, by decide, by decide⟩
/-- A copy that is rejected for its rows, with a barrier word at 0x80 or none; its cluster's system context is there. -/
def wrong : Request := request [0x1000, 0x1010, 0, BitVec.ofNat 64 (2 ^ 51)]
def wrongBar : Request := request [0x1000, 0x1010, BitVec.ofNat 64 (0x80 * 2 ^ 40), BitVec.ofNat 64 (2 ^ 51)]
theorem wit_EngineRequests_barrier : wrongBar.rejected = true ∧ wrongBar.nobar = false ∧ wrongBar.barGood = true ∧ (requesting wrongBar false).engineSpad wrongBar wrongBar.bar 0 = .spad 0 0x80
    ∧ ((({ requesting wrongBar false with ctxs := [(0, ctx0), (7, ctx7)] } : State).ctx? (ctxKey 0 7)).isSome) = true
    ∧ ((requesting wrongBar false).cluster 0).work = [] ∧ wrong.rejected = true := by decide +kernel
theorem test_request_record : (((after (exec (.requestEngineTake 0) { requesting (copying 0 true) false with ctxs := [(0, ctx0), (7, ctx7)] })).ctx? 7).map
    (fun x => x.events.map (fun e => (e.1.w0.toNat / 2 ^ 56, e.1.w4)))) = some [(0x31, 0x40)] := by decide +kernel
/-- The keys of the gather rise, and lie on this device. -/
theorem wit_EngineRequests_keys : (∀ i j, i ≤ j → j < 2 → (if i = 0 then 3 else 8) ≤ (if j = 0 then 3 else 8))
    ∧ (∀ i ∈ ((List.range (gathering.bits 3 40 7)).foldl (fun g k => gathered.gatherRange gathering g k) {}).read, ∀ a, gathered.engineDev gathering (gathering.keyAt i) false ≠ .at_ (.remote a)) := by
  constructor
  · intro i j h1 h2; split <;> split <;> omega
  · have h : (((List.range (gathering.bits 3 40 7)).foldl (fun g k => gathered.gatherRange gathering g k) {}).read).all
        (fun i => match gathered.engineDev gathering (gathering.keyAt i) false with | .at_ (.remote _) => false | _ => true) = true := by decide +kernel
    intro i hi a ha
    have := (List.all_eq_true.mp h) i hi
    rw [ha] at this
    cases this
/-- An evicted waiter under the tables, its spill slot mapped. -/
def readmitting : State := { pagedAt evicted_ with cur := .env }
theorem wit_RegistersAndHeap_mapped : readmitting.growers evicted_.skey = [{ g := 0, slotB := false, x := evicted_, n := 24, at_ := (evicted_.slot false).waitAt }] ∧ readmitting.mayGrow evicted_ 24 = true
    ∧ ∀ l, readmitting.launch? evicted_.launch = some l → (readmitting.readVirtual evicted_.part (l.area + readmitting.spillOffset evicted_ l) evicted_.spillSlot.length).isSome = true :=
  ⟨by decide, by decide, by intro l h; cases h; decide +kernel⟩
theorem test_readmit : (((after (exec (.rgrowReadmit 0 0) readmitting)).group? 0).map (fun y => (y.nregs, y.evicted))) = some (24, false) := by decide +kernel
theorem wit_RegistersAndHeap_used : let x := { one [(4, 16)] with heapUsed := [(0, 32)] }
    0 < 16 ∧ Sp.getD x.heapUsed 0 0 + (16 + 15) / 16 * 16 ≤ 0x1000 / (1 * 16) ∧ 0x1000 / (1 * 16) < Sp.getD x.heapUsed 0 0 + (240 + 15) / 16 * 16 := by decide
theorem wit_MatrixIssue_once : let x := one [(4, 0x40)]
    ∃ o p, mxPlanOf false x (.mxdrain { a := 4 } 1 .f32 true) = some (o, p) ∧ May x [0] p.once [] ∧ (at_ x).undone 0 x = false
      ∧ ∃ o' p', mxPlanOf false x (.mxldb { a := 8, c := 6 }) = some (o', p') ∧ May x [0] p'.once [] :=
  ⟨_, _, rfl, may_of (by decide), by decide, _, _, rfl, may_of (by decide)⟩
theorem wit_MatrixIssue_place : let x := one [(4, 0x10000)]
    ∃ o p c ls addr, mxPlanOf false x (.mxdrain { a := 4 } 1 .f32 true) = some (o, p) ∧ mxMoves p.op = some 8
      ∧ (at_ x).mxPlace x (p.base 0) 8 ((x.writers false o.p o.pn).map p.row) (x.writers false o.p o.pn) = .inr (c, ls, addr) := ⟨_, _, _, _, _, rfl, rfl, rfl⟩

/-! ### The hypotheses of the statements are met: the matrix engine -/

theorem wit_MatrixNumbers : extValue (extImage false 1023 0) = .inf false ∧ (extValue extNan).isNan = true ∧ (∃ n k z, extValue 0 = .fin n k z)
    ∧ (1 : Nat) < 2 ∧ (2 : Nat) ≤ 8 ∧ (-254 : Int) ≤ 0 ∧ (∀ v ∈ [FVal.fin false 3 0], ∃ s m e, v = .fin s m e) ∧ (∃ v ∈ [FVal.inf true], ∀ s m e, v ≠ .fin s m e) :=
  ⟨by decide, by decide, ⟨_, _, _, rfl⟩, by decide, by decide, by decide, by simp, by simp⟩
theorem wit_MatrixNumbers_great : (∃ v ∈ [FVal.fin false 1 255], (2 : ℚ) ^ (255 : Int) ≤ |finite v * 2 ^ (0 : Int)|) ∧ (∀ v ∈ [FVal.fin false 3 0], |finite v * 2 ^ (0 : Int)| < (2 : ℚ) ^ (255 : Int)) := by
  constructor <;> norm_num [finite]
/-- A record of form INT on both sides, 16 planes, blocks of 128 elements. -/
def rec16 : Nat := 4 * 2 ^ 8 + 4 * 2 ^ 11 + 3 * 2 ^ 14
/-- MXPLANE of one row of bytes at 0x40 to 0x1000. -/
def planing : MxReq := { enq (.plane .i8 false) with rec_ := rec16, rows := [{ lane := 0, addr := 0x40, off := 0x40, second := 0x1000 }] }
def planeTeam : Team := { engineTeam with alloc := { size := 0x10000, declared := 0x10000 } }
def planed : State := { engine (.plane .i8 false) with clusters := [(0, { mxQ := [planing] })], teams := [(0, planeTeam)] }
theorem wit_MatrixNumbers_plane : EngineTurn planed 0 planing [] planeTeam ∧ mxRecordCheck planing.rec_ = none ∧ (planed.mxRead planing 0x40 0 (mxK planing.rec_ * Ty.i8.bytes)).2 = []
    ∧ (mxUser (0x1000 / 2 ^ 32)).natAbs ≤ 254 ∧ planed.engineAlloc planing.req (0x1000 % 2 ^ 32 / 2 ^ 20 % 16) = some (0, planeTeam.alloc) ∧ (mxTarget planing.rec_ false).rowBytes (mxK planing.rec_) ≤ planeTeam.alloc.size
    ∧ 2 * mxNB planing.rec_ ≤ planeTeam.alloc.size
    ∧ (∀ i j, i < 512 → j < 2 * 2 → ((0, planeTeam.alloc.place (0x1000 % 2 ^ 20 + i)) : Nat × Nat) ≠ (0, planeTeam.alloc.place (0 + j))) := by
  refine ⟨⟨rfl, rfl, rfl, by simp, rfl, by decide, ?_⟩, by decide, by decide +kernel, by decide, rfl, by decide, by decide, ?_⟩
  · intro p hp; simp [planed] at hp; subst hp; exact ⟨rfl, fun h => by cases h⟩
  · intro i j hi hj; simp [planeTeam, Alloc.place]; omega
/-- A second group of the slice, which holds a B in the slice's buffer. -/
def holding : Group := { grp with uid := 9, gslot := 1, heldB := some { form := mxForm rec16, cols := [], scales := [] } }
theorem wit_MatrixEngine_buffer : HasBuffer (engine .ldb) (enq .ldb) ∧ (engine .ldb).mxGroup (enq .ldb) = some (0, atEngine) ∧ atEngine.heldSpilled = false := by
  refine ⟨?_, rfl, rfl⟩
  intro p hp h; simp [engine, lane0, State.modTeam] at hp; subst hp; simp [atEngine, one, withRegs, enq, grp, Group.setReg]
def spilling : State := { pagedAt atEngine with cur := .env, groups := [(0, atEngine), (1, holding)], clusters := [(0, { mxQ := [enq .ldb] })] }
theorem wit_MatrixEngine_spill : ∃ tm l, EngineTurn spilling 0 (enq .ldb) [] tm ∧ spilling.mxGroup (enq .ldb) = some (0, atEngine) ∧ spilling.group? 1 = some holding ∧ holding.uid ≠ (enq .ldb).uid
    ∧ holding.skey = atEngine.skey ∧ holding.heldB.isSome = true ∧ holding.heldSpilled = false
    ∧ (∀ p ∈ spilling.groups, p.2.skey = atEngine.skey → p.2.uid ≠ (enq .ldb).uid → p.2.heldB.isSome = true → p.2.heldSpilled = true ∨ p = (1, holding))
    ∧ spilling.launch? holding.launch = some l
    ∧ MapsTo spilling holding.part (l.area + spilling.spillOffset holding l) ({ holding with heldSpilled := true } : Group).spillSlot.length (l.area + spilling.spillOffset holding l) := by
  refine ⟨_, _, ⟨by decide +kernel, rfl, rfl, by simp, rfl, by decide, ?_⟩, rfl, rfl, by decide, by decide, rfl, rfl, ?_, rfl, maps_self rfl (by decide) (by decide) (by decide) (by decide +kernel) ?_ ?_⟩
  · intro p hp; simp [spilling, pagedAt, at_, lane0] at hp; subst hp; exact ⟨rfl, fun h => by simp at h⟩
  · intro p hp _ h3 _
    simp only [spilling, List.mem_cons, List.not_mem_nil, or_false] at hp
    rcases hp with rfl | rfl
    · exact absurd rfl h3
    · exact Or.inr rfl
  · exact show (0x100000 : Nat) ≤ 0x10000000 by decide
  · decide +kernel
/-- A team with an element that is too small for FP16. -/
theorem wit_MatrixEngine_moves : mxSubnormal .f16 false (extOf (.fin false 1 (-24))) = true ∧ mxSubnormal .f16 false 0 = false ∧ 0 < Ty.f16.bytes ∧ (0x40 + 64 * 8 : Nat) ≤ 2 ^ 20
    ∧ (engine (.drain 1 .f32 true)).mxGroup (enq (.drain 1 .f32 true)) = some (0, atEngine) ∧ atEngine.run = .active
    ∧ (engine (.fill 1 .f32 true)).sees ((enq (.fill 1 .f32 true)).reader .lane) (.spad 0 0x40) (64 * 8) = true := by decide +kernel

/-! ### The hypotheses of the statements are met: the prompter's far places, the launches, the slice -/

/-- The turn of context 0 whose page 1 is in device 9, which a port reaches, or which is unreachable. -/
def turnAway (lost : Bool) (x : Ctx) : State := { away lost with cur := .prompter 0, ctxs := [(0, x)] }
theorem wit_PrompterMemory_away (lost : Bool) : let x := withG [(1, 0x1000), (2, 7)]
    (turnAway lost x).ctxHeld 0 x = false ∧ MayExecute (turnAway lost x) 0 x [1, 3] ∧ (turnAway lost x).translate (0 / 8) 0x1008 false = .hit (2 ^ 55 + 9 * 2 ^ 44 + 0x5008) true
      ∧ (turnAway lost x).servedAt (2 ^ 55 + 9 * 2 ^ 44 + 0x5008) = .remote (2 ^ 55 + 9 * 2 ^ 44 + 0x5008) ∧ (turnAway lost x).unitMay x.part (2 ^ 55 + 9 * 2 ^ 44 + 0x5008) false = true
      ∧ ((turnAway lost x).unreachable.contains (fabricDevice (2 ^ 55 + 9 * 2 ^ 44 + 0x5008)) = true ∨ (turnAway lost x).portsTo (fabricDevice (2 ^ 55 + 9 * 2 ^ 44 + 0x5008)) ≠ []) := by
  cases lost <;> exact ⟨by decide, mayExecute_of rfl rfl (by decide), by decide, by decide, by decide, by decide⟩
/-- A group whose event is not posted yet is halted for the system context (R405); for no other. -/
def stoppedEarly : Group := { stopped with posted := false }
def overSystem : State := let s := sys ctx7; { s with groups := [(0, stoppedEarly)] }
theorem wit_GroupControl_system : ∃ tm, Controlled overSystem 7 ctx7 0 0 stoppedEarly 0 tm ∧ MayExecute overSystem 7 ctx7 [1, 2, 3] ∧ overSystem.ctxQuiet 7 ctx7 = true :=
  ⟨_, ⟨rfl, rfl, rfl, rfl, ⟨rfl, rfl, Or.inr rfl⟩, fun h => by simp [ctx7] at h, fun h => by simp [ctx7] at h, rfl, rfl⟩, mayExecute_of rfl (by decide) (by decide), by decide⟩
theorem wit_GroupControl_system_status : ∃ tm, tm.ctx = 7 ∧ let s : State := { sys ctx7 with teams := [(0, tm)] }
    s.teamAt (7 / 8) 0 = some (0, tm) ∧ s.groupOf 0 0 = some 0 ∧ s.group? 0 = some grp ∧ grp.stop = none ∧ (grp.evHold, grp.trHold, grp.dbgHold) = (false, false, false) :=
  ⟨{ uid := 1, launch := 0, part := 0, cluster := 0, handle := 0, pair := false, ctx := 7, x := 0, y := 0, z := 0, q := 0, ngroups := 1, width := 16, tiles := 32, started := true },
    rfl, rfl, rfl, rfl, rfl, rfl⟩
theorem wit_SystemContext_invalidate : MayExecute (sys ctx7) 7 ctx7 [1] ∧ (sys ctx7).ctxQuiet 7 ctx7 = true ∧ (Ctx.val ctx7 1).toNat % 8 < 4 ∧ (sys ctx7).faulted = [] :=
  ⟨mayExecute_of rfl (by decide) (by decide), by decide, by decide, rfl⟩
/-- A TLBINV that an older access still holds back, and that access performed. -/
theorem wit_SystemContext_invalidated : let m := op1 (.load .n32) (.dev 0x5000) 4 0 0 (some 10)
    (∀ k ∈ [{ m with performed := true }], k.part = 0 / 256 → k.id ≤ 7 → k.performed = true) ∧ ¬ (∀ k ∈ [m], k.part = 0 / 256 → k.id ≤ 7 → k.performed = true) := by decide
theorem wit_SystemContext_lkill : ∃ l, MayExecute (sys ctx7) 7 ctx7 [1] ∧ (sys ctx7).launch? 0 = some l ∧ l.part = ctx7.part ∧ l.id = (Ctx.val ctx7 1).setWidth 32 ∧ l.killed = false :=
  ⟨_, mayExecute_of rfl (by decide) (by decide), rfl, rfl, rfl, rfl⟩

/-- Kicks to 5 and then to 7 of a queue of head 2, after which the launches 2 to 6 are covered; and a write of the host that memory holds. -/
def kicked : State :=
  { host with queues := [(1, { en := true, head := 2, tail := 5, kicks := [(5, [(9, 1)])] })],
              late := [{ path := .coll, uid := 0, time := 4, space := 0, addr := 0x5000, old := 0 }] }
theorem wit_LaunchQueues_kicks : HostWrites kicked 0 (0x10000 + 0x40 * 1 + 0x10) ∧ (kicked.queue 1).head < 2 ^ 16 ∧ (7 % 2 ^ 16 + 2 ^ 16 - 2) % 2 ^ 16 = 5
    ∧ 5 ≤ 64 * 2 ^ (kicked.queue 1).size ∧ 64 * 2 ^ (kicked.queue 1).size < (100 % 2 ^ 16 + 2 ^ 16 - 2) % 2 ^ 16
    ∧ kicked.late[(0 : Nat)]? = some { path := .coll, uid := 0, time := 4, space := 0, addr := 0x5000, old := 0 } := ⟨⟨by decide, by decide, rfl⟩, by decide, by decide, by decide, by decide, rfl⟩
theorem test_kicks : ((after (exec (.queueKick 0 1 7) kicked)).queue 1).kicks.map Prod.fst = [5, 7] ∧ (((after (exec (.queueKick 0 1 3) kicked)).queue 1).kicks.map Prod.fst = [3])
    ∧ ((after (exec (.queueKick 0 1 100) kicked)).queue 1).overrun = true := by decide
theorem wit_LaunchQueues_rights : 7 ≤ dispatch.house.step ∧ (dispatch.port 3).frozen = false ∧ (dispatch.portRights 3 (1 / 64)).testBit (1 % 64) = false := by decide
/-- The launch before is placed, or was ended after its last team was. -/
theorem wit_LaunchQueues_before : (∀ p ∈ (ending []).launches, p.2.queue = 1 → p.2.phase = .placed ∧ (p.2.killed = false ∨ p.2.teams ≤ p.2.next))
    ∧ (∀ p ∈ [((4 : Nat), { ended with killed := true, next := 1 })], p.2.phase = .placed ∧ (p.2.killed = false ∨ p.2.teams ≤ p.2.next)) := by decide

/-- The first placement step of the launch, as it starts. -/
def begun : Launch × State := placing.launchStarts placed
theorem wit_Placement_first : ∃ u, (begun.2.placeTeam begun.1 0 0 true).2.takeImages begun.1 = some u := by
  have n0 : Machine.bitsOf (wordNo begun.1.hdr 1) 24 21 = 0 := rfl
  unfold State.takeImages
  simp only [n0]
  split <;> exact ⟨_, rfl⟩
/-- A partition of two pairs in native shape, its first cluster holding a group; one in fixed shape. -/
def twoPairs : State :=
  { paged good with parts := [(0, { on := true, pairs := [0, 1], root := 0x1000, grants := [(0, 0x100000)] })], groups := [(0, { grp with launch := 9 })],
                    teams := [(0, { planeTeam with launch := 9 })] }
def fixedShape : State :=
  { paged good with parts := [(0, { on := true, v128 := true, pairs := List.range 64, root := 0x1000, grants := [(0, 0x100000)] })] }
theorem wit_Placement_native : (twoPairs.part 0).v128 = false ∧ (twoPairs.part 0).pairs.Pairwise (· < ·) ∧ twoPairs.placeOf placed 0 = some 1 ∧ 2 ∈ twoPairs.offered placed.part
    ∧ twoPairs.roomAt placed 2 = true ∧ twoPairs.residents (clusterKey 0 1) = twoPairs.residents (clusterKey 0 2) ∧ twoPairs.residents (clusterKey 0 1) < twoPairs.residents (clusterKey 0 0)
    ∧ twoPairs.standInPlace placed 0 = some 2 := by decide +kernel
theorem wit_Placement_fixed : (fixedShape.part 0).v128 = true ∧ fixedShape.placeOf placed 3 = some 3 ∧ fixedShape.standInPlace placed 127 = some 2 := by decide +kernel
/-- The ended launch with a notify address, at 0xB000. -/
def notifying : State :=
  { ending [] with launches := [(4, { ended with desc := words (2 ^ 56 + 2 ^ 58 + 0x8000) })], queues := [(1, { en := true, base := 0x4000, head := 0, tail := 1, note := 0xB000 })] }
theorem wit_Placement_notify : ((words (2 ^ 56 + 2 ^ 58 + 0x8000))[0]?).getD 0 = 2 ^ 56 + 2 ^ 58 + 0x8000 ∧ (((words (2 ^ 56 + 2 ^ 58 + 0x8000))[0]?).getD 0).getLsbD 58 = true
    ∧ notifying.servedAt (notifying.queue 1).note = .dev 0xB000 ∧ 0xA000 + 32 ≤ 0xB000 ∧ (∀ r ∈ notifying.rputs, r.launch ≠ 4) := ⟨rfl, by decide, by decide, by decide, by decide⟩
theorem test_launch_notifies : ((after (exec (.launchComplete 4) notifying)).mem.read 0xB000 8, (after (exec (.launchComplete 4) notifying)).mem.read 0xA000 8) = (2 ^ 63 + 6, 2 ^ 63 + 6) := by decide +kernel
theorem wit_Placement_keys : let i : OrdItem := { launch := 4, phys := 0x5000, key := 2, value := 0x40000000 }
    let j : OrdItem := { launch := 4, phys := 0x5000, key := 1, value := 0x3F800000 }
    [j, i].Perm ((ending [i, j]).ordBuf.filter (fun k => k.launch == 4)) ∧ [j, i].Pairwise (fun a b => a.key < b.key) ∧ (∀ k ∈ [j, i], k.phys % 4 = 0 ∧ (ending [i, j]).linePoisoned k.phys 4 = false) :=
  ⟨.swap _ _ _, by decide, by decide⟩

theorem wit_SliceCycles_held : let s : State := { slicing with clusters := [(0, { holds := [(0, 0)] })] }
    s.running 0 = true ∧ (0, Sp.getD (s.cluster 0).cycle 0 0) ∈ (s.cluster 0).holds := by decide
/-- A group that stands at a segment that is open: its word parks it. -/
theorem wit_SliceCycles_parking : ((standing 4096 0).parkingSlots 0 0 []).length = 1 ∧ ((standing 0 0).parkingSlots 0 0 []).length = 0 := by decide
/-- A group on the stage that yielded, and one ready in the wings for longer. -/
def yielded : State :=
  let s := lane0 .env grp ctx0
  { s with clusters := [(0, { cycle := [(0, 9)] })], groups := [(0, { grp with yielding := true, stepsEnd := 5 }), (1, { grp with uid := 4, gslot := 1, onStage := false, readyAge := 3 })] }
theorem wit_SliceCycles_yield : let x := { grp with yielding := true, stepsEnd := 5 }
    let y := { grp with uid := 4, gslot := 1, onStage := false, readyAge := 3 }
    yielded.group? 0 = some x ∧ x.skey = 0 * 6 + 0 ∧ (∀ p ∈ yielded.groups, p.2.skey = 0 * 6 + 0 → p.2.yielding = true → p = (0, x))
    ∧ ((yielded.sliceGroups 0).filter (fun p => p.2.onStage)).length ≤ 8 ∧ yielded.nextReady 0 = some (1, y) ∧ y.gslot < 32 ∧ y.readyAge < yielded.sliceNow x ∧ x.stepsEnd ≤ yielded.sliceNow x := by decide
theorem test_yield_leaves : (after (exec (.stageSwap 0 0) yielded)).groups.map (fun p => (p.2.onStage, p.2.yielding)) = [(false, false), (true, false)] := by decide
theorem wit_SliceCycles_parked : let x := { grp with parked := true, slotA := { mask := 1, wait := .reply, wants := [10] } }
    (x.slot false).wait.long = true ∧ (x.slot true).mask = 0 ∧ (x.slot false).wants ≠ [] ∧ (lane0 .env x ctx0).awaited 0 x 10 = false
    ∧ (let s : State := { flying (op1 (.load .n32) (.dev 0x5000) 4 0 0 (some 10)) with groups := [(0, x)] }; s.resolved 0 x false = false) := by decide
/-- The chains of a group that fill an entry, the tail, or are thrown away. -/
theorem wit_SliceCycles_fates : ∃ tm, chained.team? 0 = some tm ∧ ∀ f ∈ [(true, false), (false, true), (false, false)],
    Sp.getD ({ tm with chains := [(0, [{ endCycle := 0, carry := 5, restart := false, last := f.1, discard := f.2 }])] } : Team).chains 0 []
      = [{ endCycle := 0, carry := 5, restart := false, last := f.1, discard := f.2 }] := ⟨_, rfl, by decide⟩

/-! ### The hypotheses of the statements are met: confirmations, walks, swaps, cuts, the fabric and the fleet -/

theorem wit_EventsAndConfirmations_kind : (oneEntry true 9).kind ≠ 8 ∧ (oneEntry true 9).kind ≠ 9 ∧ (oneEntry true 9).kind ≠ 10 ∧ (comparing 9).emptied (twoCopies 9).lead = false := by decide

/-- A walk for a generator context, with the tables and without. -/
def wantedCtx : WalkReq := { wanted with agent := .ctx 0 }
theorem wit_WalksAndRoots_context : let s : State := { sys { ctx7 with uid := 8 } with ctxs := [(0, { ctx0 with wait := .walk }), (7, ctx7)], walks := [(0, [wantedCtx])] }
    Sp.getD s.walks 0 [] = [wantedCtx] ∧ (s.walkEnds wantedCtx).isRight = true ∧ wantedCtx.agent = .ctx 0 ∧ s.ctx? 0 = some { ctx0 with wait := .walk } ∧ ctx0.num < 8
    ∧ s.ctx? (ctxKey (clusterKey wantedCtx.part wantedCtx.cluster) 7) = some ctx7 ∧ grp.index < 32 ∧ grp.gslot < 32 ∧ s.recSlice grp < 16 := by decide +kernel

/-- The exchange of a swap whose outgoing launch has nothing to save, and one whose save faults. -/
def exchanging (mapped_ : Bool) : State :=
  { saving with groups := if mapped_ then [] else [(0, { grp with launch := 4, team := 0, heldB := some { form := mxForm rec16, cols := [], scales := [] } })],
                teams := if mapped_ then [] else [(0, { planeTeam with launch := 4 })],
                parts := [(0, { on := true, pairs := [0], root := if mapped_ then 0x1000 else 0, grants := [(0, 0x10000000)] })],
                shares := [(0, { phase := .exchange, bank := some 0 })] }
theorem wit_Swaps_exchange_launch : ((exchanging true).share ((exchanging true).shareKey 0)).phase = .exchange ∧ ((exchanging true).share ((exchanging true).shareKey 0)).bank = some 0
    ∧ (exchanging true).launchesOf 0 = [(4, ended)] ∧ ((exchanging true).writeExchange 4 ended).isSome = true
    ∧ (exchanging false).launchesOf 0 = [(4, ended)] ∧ (exchanging false).writeExchange 4 ended = none ∧ ended.killed = false := by decide +kernel
theorem wit_Swaps_next : (∀ inc, saving.nextWithWork (saving.shareKey 0) = some inc → saving.launchesOf inc = []) ∧ 0 ∉ slicedPart.sliceDue := by
  have h : saving.nextWithWork (saving.shareKey 0) = none := by decide
  exact ⟨fun inc e => (Option.some_ne_none inc (e.symm.trans h)).elim, by decide⟩

/-- A lead that has begun, and its stand-in that has not: neither is held. -/
def cutPair : State :=
  { host with groups := [(0, { grp with issued := 9 }), (1, { grp with team := 1, gslot := 1 })],
              teams := [(0, { planeTeam with launch := 0, copy := .lead 1 }), (1, { planeTeam with launch := 0, copy := .standIn 0 })],
              pairs := [{ lead := 0, standIn := 1, slack := 4 }] }
theorem wit_Cuts_copies : ((cutPair.group? 1).bind cutPair.otherCopy).map (fun y => y.2.issued) = some 9 ∧ host.otherCopy grp = none := by decide
theorem wit_Cuts_go : HostWrites host 0 (0x20000 + 0x100 * 0 + 0x10) ∧ grp.issued = 0 ∧ ctx0.issuedCue = false ∧ host.ctx? 0 = some ctx0 ∧ ctx0.part = 0 ∧ ctx0.num < 6 :=
  ⟨⟨by decide, by decide, rfl⟩, rfl, rfl, rfl, rfl, by decide⟩

/-- Requests of every kind to the linked port, in place, misaligned, without memory or poisoned. -/
def slots (n : Nat) : State := { linked with ordSlots := (List.range n).map (fun i => 2 ^ 50 + i) }
theorem wit_Fabric_kinds : let rmws := [FabOp.atom 0 .i32 3 true, .cas .n64 7 9 true, .bfi .n32 5 0xFF true, .ffcs true, .plset 4 0x200000005 true]
    (∀ op ∈ rmws, let r := asks false false 0x5000 op
      (linked.port r.port).state = 2 ∧ r.seq = Sp.getD linked.performed (reqKey r) 0 + 1 ∧ memoryExists r.off = true ∧ r.off % 8 = 0 ∧ linked.linePoisoned r.off 8 = false
      ∧ linked.noSlot r = false)
    ∧ (∀ n ∈ [1, 2, 4, 8, 16, 64], 0x5000 % n = 0 ∧ linked.linePoisoned 0x5000 n = false) := by decide
theorem wit_Fabric_slots : linked.noSlot (asks false false 0x5000 (.ord 5 1 7)) = false ∧ (slots 16).noSlot (asks false false 0x5000 (.ord 5 1 7)) = true := by decide
theorem wit_Fabric_errors : (asks false false 0x5001 (.read 4 false)).off % opBytes (FabOp.read 4 false) ≠ 0 ∧ memoryExists (2 ^ 54) = false
    ∧ ({ linked with poisonLines := [0x140] } : State).linePoisoned 0x5000 4 = true ∧ linked.noSlot (asks true false 0x5001 (.read 4 false)) = false
    ∧ (({ linked with ports := [(2, { state := 2, lanes := 4, frozen := true })] } : State).port 2).frozen = true := by decide
theorem wit_Fabric_registers : let r := asks true true 0x20000 (.write 8 0x7000 false)
    (linked.port r.port).state = 2 ∧ (linked.port r.port).frozen = false ∧ r.off % 8 = 0 ∧ 7 ≤ linked.house.step ∧ linked.hostMay r.port r.off true = true
    ∧ r.off = 0x20000 + 0x100 * (r.off / 0x100 % 8) ∧ ({ linked with house := dispatch.house } : State).hostMay r.port r.off true = false := by decide
/-- The linked machine with a stream to device 9 by port 2, and what a source and the host wrote there. -/
def streaming : State :=
  { linked with streams := [{ source := 0, dest := 9, port := 2 }], routes := [(9, [2])],
                late := [{ path := .coll, uid := 2 ^ 40 + 2 * 9, time := 4, space := 0, addr := 0x5000, old := 0 }],
                published := [{ space := 0, addr := 0x5000, size := 4, scope := .sys, who := {}, clk := [(2, 5)] }] }
theorem wit_Fabric_streams : (∀ u ∈ streaming.streams, u.dest ∉ streaming.unreachable) ∧ (∀ u ∈ streaming.streams, u.dest ≠ 5 → u.port ∈ streaming.portsTo u.dest)
    ∧ (streaming.port 2).state ≠ 0 ∧ streaming.late[(0 : Nat)]? = some { path := .coll, uid := 2 ^ 40 + 2 * 9, time := 4, space := 0, addr := 0x5000, old := 0 }
    ∧ (∀ e ∈ streaming.published, e.space = 0 ∧ e.addr < 0x5000 + 4 ∧ 0x5000 < e.addr + e.size ∧ e.scope = .sys ∧ Clock.has e.clk 2 5 = true) := by decide
theorem test_fabric_field : (after (exec (.fabricRequest (asks false false 0x5000 (.bfi .n32 5 0xF false))) linked)).mem.read 0x5000 4 = 5 := by decide +kernel
theorem test_fabric_line : ((after (exec (.fabricRequest (asks false false 0x5000 (.read 64 false))) linked)).answers.map (fun r => (r.1, r.2.1))) = [(2, true)] := by decide +kernel
theorem test_fabric_brings : ((after (exec (.fabricRequest (asks false false 0x5000 (.write 4 1 true))) streaming)).late.any
    (fun e => e.uid == 2 ^ 40 + 18 && e.crossed.any (fun c => c.1 == .lane))) = true := by decide +kernel

/-- The error ring of four pages at 0x8000, with room, full, and disabled. -/
def ring (en : Bool) (head : Nat) : State := { host with erEn := en, erBase := 0x8000, erHead := head }
theorem wit_ErrorReports : (0x0B : Nat) < 256 ∧ host.house.history.length < 65536 ∧ (ring true 0).erHead < (ring true 0).erTail + 128 * 2 ^ (ring true 0).erSize
    ∧ ¬ (ring true 128).erHead < (ring true 128).erTail + 128 * 2 ^ (ring true 128).erSize ∧ (ring false 0).erEn = false
    ∧ HostWrites host 0 0x60000 ∧ HostWrites host 0 0x60008 ∧ HostWrites host 0 0x60018 := ⟨by decide, by decide, by decide, by decide, rfl, ⟨by decide, by decide, rfl⟩, ⟨by decide, by decide, rfl⟩, ⟨by decide, by decide, rfl⟩⟩
theorem test_report_words : ((ring true 0).report 0x0B 0 5 7).mem.read 0x8000 8 = 0x0B * 2 ^ 56 + 5 ∧ ((ring true 0).report 0x0B 0 5 7).mem.read 0x8010 8 = 1 ∧ ((ring true 128).report 0x0B 0 5 7).erLost = 1 := by decide +kernel
theorem wit_ErrorContainment_rest : host.house.history.length < 65535 ∧ (∀ p, Sp.getD host.house.clusterErrs p [] = []) ∧ (lane0 .env grp ctx0).pairOf? 0 = none
    ∧ ((mapped host).cluster 0).tlb ≠ [] := ⟨by decide, fun _ => rfl, by decide, by decide⟩

/-- A trimmed domain of cluster 0. -/
def trimmed : State := { host with house := { host.house with margins := [(1, { setpoint := 700, nominal := 750, lastClean := 705 })] } }
theorem wit_Repairs_margin : let m := Sp.getD trimmed.house.margins (2 * trimmed.physOfKey 0 + 1) {}
    m.setpoint < m.nominal ∧ m.restored ≠ some trimmed.house.time ∧ m.locked = none ∧ Sp.getD trimmed.house.clusterErrs (trimmed.physOfKey 0) [] = [] ∧ trimmed.house.history.length < 65534 := by decide
theorem test_margin_restored : (Sp.getD (after (exec (.uncorrectableError (.granule 0 0x40)) trimmed)).house.margins 1 {}).setpoint = 710 := by decide +kernel
theorem wit_Repairs_bad_row : let s : State := { host with house := { host.house with rowBad := [rowKey 1 2] } }
    rowKey 1 2 ∈ s.house.rowBad ∧ (1, 2) ∉ s.house.copying ∧ (1, 2) ∉ s.house.spared ∧ Sp.getD s.house.remaps 1 0 < 1024 := by decide
theorem wit_Repairs_retired : let s : State := { host with groups := [], teams := [], house := { host.house with retiring := [1] } }
    1 ∈ s.house.retiring ∧ (∀ p ∈ s.parts, p.2.v128 = false) ∧ (∀ p ∈ s.parts, 1 / 2 ∈ p.2.pairs → s.teamsOn (clusterKey p.1 1) = []) ∧ 2 ≤ s.house.step := by decide
/-- R55: an ALLRES launch with teams on a cluster pins its limit. -/
theorem wit_Repairs_pinned : let s : State := { host with clusters := [(0, { limit := 100 })], launches := host.launches.map (fun l => (l.1, { l.2 with allres := true })) }
    s.pinned (clusterKey 0 0) = true ∧ 0 ∉ s.house.retired ∧ 0 ∉ s.house.retiring ∧ (0, { on := true, pairs := [0] }) ∈ s.parts := by decide

/-- Bring-up at a step with the firmware that is stored, or that is pending. -/
def upWith (n : Nat) (fw dev : Option (List DWord × Nat × Nat)) : State := { host with house := { host.house with step := n, pendingFw := fw, pendingDev := dev } }
theorem wit_Power_firmware : (upWith 1 (some ([], 0, 1)) none).house.pendingFw = some ([], 0, 1) ∧ (upWith 3 none none).house.pendingDev = none ∧ (upWith 2 none none).house.step = 2
    ∧ (upWith 4 none none).house.step = 4 := ⟨rfl, rfl, rfl, rfl⟩
theorem wit_Power_signatures (n : Nat) (w : List DWord) (g v : Nat) : ((upTo n).house.accepts w g v = true ∨ (upTo n).house.accepts w g v = false) := Bool.eq_false_or_eq_true _
theorem wit_Power_samples : let s : State := { host with clusters := [(0, { ratio := 0x3FFFF })], launches := host.launches.map (fun l => (l.1, { l.2 with allres := true })) }
    s.allClusters.Nodup ∧ 0 ∈ s.pressured ∧ s.pinned 0 = true ∧ (2000 : Nat) < 2001 ∧ 0 ∈ s.allClusters.filter s.pinned := by decide
theorem wit_Power_trip : (40 : Nat) < 41 ∧ (115 : Nat) ≤ 115 ∧ (40 : Nat) ≤ 40 ∧ (114 : Nat) < 115 := by decide
theorem wit_HouseCommands_steps : 2 ≤ (upTo 2).house.step ∧ (upTo 2).house.step < 6 ∧ 6 ≤ linked.house.step ∧ linked.erEn = false ∧ State.reset.house.step < 2
    ∧ (∀ u ∈ linked.streams, u.dest ∉ linked.unreachable) ∧ (linked.port 2).state ≠ 0 ∧ (linked.port 5).state = 0
    ∧ ({ linked.house with tableau := some 7 } : House).tableau = some 7 ∧ 7 ≤ 150 ∧ 151 ≤ 440 := by decide
theorem test_command_refused : (after (exec (.thaw 2) (upTo 1))).house.code = 4 ∧ (after (exec (.thaw 2) (upTo 2))).house.code = 0 ∧ (after (exec (.restore 2) (upTo 5))).house.code = 2 := by decide
theorem wit_StepRuns_own : ((Ctx.val ctx7 1).toNat % 8 < 4) ∧ (serving 0).running (0 / 8) = true := ⟨by decide, rfl⟩

end Sys2Proof.Tests
end

section
/-! Memory: what a write leaves to be read (R6), and why the canonical form has one memory for each reading. Settles O60. -/

namespace Sys2Proof.Machine

/-! ### The number that a read returns after a write -/

/-- R6: the byte at distance i of a number written at a place is its byte i, counted from the least significant. -/
theorem Memory.byte_write_at (m : Memory) (a v : Nat) {n i : Nat} (h : i < n) :
    (m.write a n v).byte (a + i) = BitVec.ofNat 8 (v / 2 ^ (8 * i)) := by
  rw [Memory.byte_write, if_pos (by omega), Nat.add_sub_cancel_left, Nat.pow_mul]

/-- A read inside the range of a write returns the part of the number that stands there. -/
theorem Memory.read_write_within (m : Memory) (a v : Nat) {n i k : Nat} (h : i + k ≤ n) :
    (m.write a n v).read (a + i) k = v / 2 ^ (8 * i) % 2 ^ (8 * k) := by
  induction k generalizing i with
  | zero => simp [Memory.read, Nat.mod_one]
  | succ k ih =>
    have hlow : ((m.write a n v).byte (a + i)).toNat = v / 2 ^ (8 * i) % 2 ^ 8 := by
      rw [Memory.byte_write_at m a v (by omega), BitVec.toNat_ofNat]
    have hhigh : (m.write a n v).read (a + i + 1) k = v / 2 ^ (8 * i) / 2 ^ 8 % 2 ^ (8 * k) := by
      rw [Nat.add_assoc, ih (by omega), Nat.mul_succ, Nat.pow_add, Nat.div_div_eq_div_mul]
    calc (m.write a n v).read (a + i) (k + 1)
        = v / 2 ^ (8 * i) % 2 ^ 8 + 2 ^ 8 * (v / 2 ^ (8 * i) / 2 ^ 8 % 2 ^ (8 * k)) := by
          rw [Memory.read, hlow, hhigh]; rfl
      _ = v / 2 ^ (8 * i) % 2 ^ (8 * (k + 1)) := by
          rw [← Nat.mod_mul, ← Nat.pow_add, Nat.mul_succ, Nat.add_comm 8]

/-- A number written reads back, cut to the bytes written. -/
theorem Memory.read_write_self (m : Memory) (a n v : Nat) : (m.write a n v).read a n = v % 2 ^ (8 * n) := by
  simpa using Memory.read_write_within m a v (i := 0) (k := n) (by omega)

/-! ### Canonical memories that read alike are one

The head of a canonical memory is the lowest address that does not read as an unlisted one, so the bytes fix the head;
below and at the head the rest reads as unlisted, so the bytes fix the rest too. -/

@[simp] theorem Memory.byte_nil (a : Nat) : Memory.byte [] a = Memory.unlisted := rfl

theorem Memory.byte_cons (j a : Nat) (w : Byte) (t : Memory) :
    Memory.byte ((j, w) :: t) a = if a = j then w else Memory.byte t a := by
  by_cases h : a = j <;> simp [Memory.byte, Sp.getD, Sp.get?, h]

/-- An address that reads as something is listed. -/
theorem Memory.exists_mem_of_byte_ne {m : Memory} {a : Nat} (h : m.byte a ≠ Memory.unlisted) : ∃ p ∈ m, p.1 = a := by
  induction m with
  | nil => exact absurd (Memory.byte_nil a) h
  | cons p t ih =>
    obtain ⟨j, w⟩ := p
    by_cases haj : a = j
    · exact ⟨(j, w), List.mem_cons_self, haj.symm⟩
    · rw [Memory.byte_cons, if_neg haj] at h
      obtain ⟨q, hq, hqa⟩ := ih h
      exact ⟨q, List.mem_cons_of_mem _ hq, hqa⟩

theorem Memory.wf_tail {p : Host.Cell} {t : Memory} (h : Memory.wf (p :: t)) : t.wf := by
  simp only [Memory.wf, Bool.and_eq_true, List.all_cons] at h ⊢
  exact ⟨Sp.sorted_tail h.1, h.2.2⟩

/-- The head of a canonical memory does not read as an unlisted address. -/
theorem Memory.byte_head_ne {j : Nat} {w : Byte} {t : Memory} (h : Memory.wf ((j, w) :: t)) :
    Memory.byte ((j, w) :: t) j ≠ Memory.unlisted := by
  rw [Memory.byte_cons, if_pos rfl]
  simp only [Memory.wf, Bool.and_eq_true, List.all_cons, bne_iff_ne] at h
  exact h.2.1

/-- No address of the tail is at or below the head. -/
theorem Memory.byte_tail_head {j : Nat} {w : Byte} {t : Memory} (h : Memory.wf ((j, w) :: t)) {a : Nat} (ha : a ≤ j) :
    Memory.byte t a = Memory.unlisted := by
  by_contra hne
  obtain ⟨p, hp, rfl⟩ := Memory.exists_mem_of_byte_ne hne
  have hlt : j < p.1 := Sp.head_lt (Bool.and_eq_true _ _ ▸ h).1 hp
  omega

/-- The head of a canonical memory is its lowest address that reads as something. -/
theorem Memory.head_le_of_byte_ne {j : Nat} {w : Byte} {t : Memory} (h : Memory.wf ((j, w) :: t)) {a : Nat}
    (ha : Memory.byte ((j, w) :: t) a ≠ Memory.unlisted) : j ≤ a := by
  by_contra hlt
  rw [Memory.byte_cons, if_neg (by omega)] at ha
  exact ha (Memory.byte_tail_head h (by omega))

theorem Memory.eq_of_byte_eq {m k : Memory} (hm : m.wf) (hk : k.wf) (h : ∀ a, m.byte a = k.byte a) : m = k := by
  induction m generalizing k with
  | nil =>
    cases k with
    | nil => rfl
    | cons q u => exact absurd (h q.1).symm (Memory.byte_head_ne hk)
  | cons p t ih =>
    obtain ⟨j, w⟩ := p
    cases k with
    | nil => exact absurd (h j) (Memory.byte_head_ne hm)
    | cons q u =>
      obtain ⟨i, z⟩ := q
      have hij : i ≤ j := Memory.head_le_of_byte_ne hk (h j ▸ Memory.byte_head_ne hm)
      have hji : j ≤ i := Memory.head_le_of_byte_ne hm ((h i).symm ▸ Memory.byte_head_ne hk)
      obtain rfl : i = j := Nat.le_antisymm hij hji
      have hwz : w = z := by simpa [Memory.byte_cons] using h i
      have htail : ∀ a, Memory.byte t a = Memory.byte u a := by
        intro a
        by_cases ha : a = i
        · rw [Memory.byte_tail_head hm ha.le, Memory.byte_tail_head hk ha.le]
        · simpa [Memory.byte_cons, ha] using h a
      rw [hwz, ih (Memory.wf_tail hm) (Memory.wf_tail hk) htail]

/-- Settles O60: the byte-wise law of a write gives the reads, and a canonical memory is fixed by its bytes. -/
theorem readAfterWrite : Obligations.ReadAfterWrite := by
  unfold Obligations.ReadAfterWrite
  refine ⟨fun m a n v => ⟨?readBack, ?outside, ?eachByte, ?within, ?canonical⟩, ?unique⟩
  case readBack => exact Memory.read_write_self m a n v
  case outside => exact fun _ hb => Memory.byte_write_of_outside m v hb
  case eachByte => exact fun _ hi => Memory.byte_write_at m a v hi
  case within => exact fun _ _ hik => Memory.read_write_within m a v hik
  case canonical => exact Memory.wf_write m a n v
  case unique => exact fun _ _ => Memory.eq_of_byte_eq

end Sys2Proof.Machine
end

section
/-! Lane words that compute in registers: the word is one issue of its entry, unlinked or along a chain. Settles O1 and O2. -/

namespace Sys2Proof.Claims
open Sys2Proof Sys2Proof.Machine

/-- A lane word that computes in registers is one issue of its entry. -/
theorem exec_of_aluOf {s : State} {g : Nat} {b : Bool} {x : Group} {i : Instr} {al : Alu} {o : Ops}
    (hc : s.cur = .lane g b) (hg : s.group? g = some x) (h : aluOf s x i = some (al, o)) :
    exec i s = .next (s.aluLane al o g b x) := by
  cases i
  case lktail o' ty =>
    by_cases hp : s.tailPending x = true
    · cases (show aluOf s x (.lktail o' ty) = none from if_pos hp).symm.trans h
    · cases (show aluOf s x (.lktail o' ty) = some _ from if_neg hp).symm.trans h
      exact (State.withLane_of hc hg _).trans (congrArg _ (if_neg hp))
  case srd o' num =>
    by_cases hp : s.chainPending x = true
    · cases (show aluOf s x (.srd o' num) = none from if_pos hp).symm.trans h
    · cases (show aluOf s x (.srd o' num) = some _ from if_neg hp).symm.trans h
      exact (State.withLane_of hc hg _).trans (congrArg _ (if_neg hp))
  case cvcmp o' dim cond v =>
    cases h
    cases cond <;> exact State.withLane_of hc hg _
  all_goals cases h <;> exact State.withLane_of hc hg _

/-- The lanes that a lane word reads, as its issue counts them. -/
theorem readLanes_eq (x : Group) (uni : Bool) (ws : List Nat) :
    (if uni && !ws.isEmpty then [x.uniformLane] else ws) = readLanes x uni ws := by
  cases uni <;> cases ws <;> rfl

/-- The tests before an issue pass under `MayIssue`. -/
theorem MayIssue.gate_go {s : State} {g : Nat} {b : Bool} {x : Group} {ws : List Nat} {uni : Bool} {srcs dst : List Named}
    (h : MayIssue s g b x ws (readLanes x uni ws) srcs dst) : s.gate g b x ws uni srcs dst = .go :=
  State.gate_go h.runs h.live h.ready h.inside h.latched h.answered

/-- Under `MayIssue` a lane word that computes in registers is carried out. -/
theorem MayIssue.aluLane_run {s : State} {g : Nat} {b : Bool} {x : Group} {al : Alu} {o : Ops}
    (h : MayIssue s g b x (x.writers b o.p o.pn) (readLanes x o.u (x.writers b o.p o.pn)) (al.named o (al.linked o)) (al.dest o)) :
    s.aluLane al o g b x = s.aluRun al o g b x (x.writers b o.p o.pn) := by
  simp only [State.aluLane, h.gate_go, State.gated, readLanes_eq, Group.consumers_nil h.clean]

/-- The group with the results of an unlinked word: each writing lane those of the lane it reads. -/
theorem aluRun_unlinked {s : State} {al : Alu} {o : Ops} (hl : al.linked o = false) (g : Nat) (b : Bool) (x : Group) (ws : List Nat) :
    s.aluRun al o g b x ws =
      (s.setGroup g ((ws.foldl (fun y j => al.put o y j (al.at_ o x (if o.u then x.uniformLane else j) 0)) x).advance b)).noteIssue g b
        (al.producers o (s.issueCycle x) false) := by
  have hy : (if o.u then (if ws.isEmpty then x else al.uniform o x ws) else al.plain o x ws)
      = ws.foldl (fun y j => al.put o y j (al.at_ o x (if o.u then x.uniformLane else j) 0)) x := by
    cases o.u <;> cases ws <;> rfl
  simp only [State.aluRun, hl, hy, Bool.false_eq_true, if_false]

/-- Settles O1: the issue writes what the fold over the writing lanes writes, and goes on. -/
theorem laneResult : Obligations.LaneResult := by
  intro s g b x i al o ha hl hm
  have hrun := exec_of_aluOf hm.turn hm.group ha
  rw [MayIssue.aluLane_run (by rw [hl]; exact hm), aluRun_unlinked hl] at hrun
  obtain ⟨z, hz, hr, hmk, hla, hf, hi, ho, hb⟩ :=
    State.issue_spec (s := s) (g := g) b (al.producers o (s.issueCycle x) false)
      (Alu.fold_frame al o (fun j => al.at_ o x (if o.u then x.uniformLane else j) 0) (x.writers b o.p o.pn) x)
  exact ⟨_, z, hrun, hz, Alu.fold_wrote al o _ _ x z (fun _ h => Group.writers_lt h) hr hmk hla hf, hi, ho, hb⟩

/-- The group with the results of a linked word that takes its carry, and the queues of its team. -/
theorem aluRun_linked {s : State} {al : Alu} {o : Ops} {g : Nat} {b : Bool} {x : Group} {tm : Team} {carry : DWord} {restart : Bool}
    (hl : al.linked o = true) (ht : s.team? x.team = some tm) (hi : tm.handIn x.index (s.issueCycle x) = .take carry restart)
    (hf : tm.handFull x.index = false) :
    let ws := x.writers b o.p o.pn
    let last := linkAt al o x ws carry restart x.width
    s.aluRun al o g b x ws =
      ((s.setTeam x.team (tm.linkIssue x.index (s.issueCycle x + x.width * al.cls) last.1 last.2)).setGroup g
        ((ws.foldl (fun y j => al.put o y j (al.at_ o x j (linkValueAt al o x ws carry restart j))) x).advance b)).noteIssue g b
        (al.producers o (s.issueCycle x) true) := by
  simp only [State.aluRun, hl, ht, hi, hf, Alu.chain, Alu.chain_prefix, Group.filter_writers, if_true, Bool.false_eq_true, if_false]

/-- Settles O2: the chain writes what the fold over the writing lanes writes with the link value of each, and its outcome goes into
the queues of the team. -/
theorem linkedResult : Obligations.LinkedResult := by
  intro s g b x i al o tm carry restart ha hl ht hin hfull hm
  have hrun := exec_of_aluOf hm.turn hm.group ha
  rw [MayIssue.aluLane_run (by rw [hl]; exact hm), aluRun_linked hl ht hin hfull] at hrun
  obtain ⟨z, hz, hr, hmk, hla, hf, hi, ho, hb⟩ :=
    State.issue_spec (s := s.setTeam x.team _) (g := g) b (al.producers o (s.issueCycle x) true)
      (Alu.fold_frame al o (fun j => al.at_ o x j (linkValueAt al o x (x.writers b o.p o.pn) carry restart j)) (x.writers b o.p o.pn) x)
  have hteams := congrArg State.teams ho.state
  refine ⟨_, z, hrun, hz, Alu.fold_wrote al o _ _ x z (fun _ h => Group.writers_lt h) hr hmk hla hf, hi, ?_, ?_, ?_, hb⟩
  · intro k hk
    rw [State.team?, hteams]
    exact (State.team?_setTeam ..).trans (if_neg hk)
  · rw [State.team?, hteams]
    exact (State.team?_setTeam ..).trans (if_pos rfl)
  · rw [hteams]
    exact ⟨ho.state, ho.groups, ho.ctxs⟩

end Sys2Proof.Claims
end

section
/-! Cross-lane words, and the words whose issue has one effect on the group. Settles O7. -/

namespace Sys2Proof.Claims

open Sys2Proof Sys2Proof.Machine

/-! ### One issue with one effect on the group -/

/-- A word whose issue leaves y of the group, at the next word: y differs from x in registers, masks, latches and flags alone. -/
theorem laneStep_of_issue {i : Instr} {s : State} {g : Nat} {b : Bool} {ps : List Producer} {x y : Group}
    (he : exec i s = .next ((s.setGroup g (y.advance b)).noteIssue g b ps))
    (hy : y = { x with regs := y.regs, masks := y.masks, latches := y.latches, fpflags := y.fpflags, latent := y.latent }) :
    ∃ t z, LaneStep i s t g b x z ∧ z.regs = y.regs ∧ z.masks = y.masks ∧ z.latches = y.latches ∧ z.fpflags = y.fpflags := by
  obtain ⟨z, hz, hr, hm, hl, hf, hi, ho, hb⟩ := State.issue_spec (s := s) (g := g) b ps hy
  exact ⟨_, z, ⟨he, hz, hi, ho, hb⟩, hr, hm, hl, hf⟩

/-- The same, where the effect of the issue leaves registers, masks, latches and flags alone. -/
theorem laneStep_same {i : Instr} {s : State} {g : Nat} {b : Bool} {ps : List Producer} {x : Group}
    (he : exec i s = .next ((s.setGroup g (x.advance b)).noteIssue g b ps)) :
    ∃ t z, SameRegisters x z ∧ LaneStep i s t g b x z := by
  obtain ⟨t, z, h, hr, hm, hl, hf⟩ := laneStep_of_issue (x := x) he rfl
  exact ⟨t, z, ⟨hr, hm, hl, hf⟩, h⟩

/-- A word that may issue with fields read in each of these lanes is carried out. -/
theorem MayIssue.groupIssue_run {s : State} {g : Nat} {b : Bool} {x : Group} {ws : List Nat} {srcs dst : List Named}
    (h : MayIssue s g b x ws ws srcs dst) (ps : List Producer) (f : Group → Group) :
    s.groupIssue ps ws srcs dst g b x f = (s.setGroup g ((f x).advance b)).noteIssue g b ps := by
  simp only [State.groupIssue, MayIssue.gate_go (uni := false) h, State.gated, Group.consumers_nil h.clean]

/-- Fewer lanes and fewer fields read keep a word from issuing no more than more of them. -/
theorem MayIssue.mono {s : State} {g : Nat} {b : Bool} {x : Group} {ws reads reads' : List Nat} {srcs srcs' dst : List Named}
    (h : MayIssue s g b x ws reads srcs dst) (hr : reads' ⊆ reads) (hs : srcs' ⊆ srcs) : MayIssue s g b x ws reads' srcs' dst where
  turn := h.turn
  group := h.group
  runs := h.runs
  live := h.live
  ready := h.ready
  inside := h.inside.imp_right fun hi f hf => hi f (List.append_subset.2 ⟨fun _ h => List.mem_append_left _ (hs h), List.subset_append_right _ _⟩ hf)
  latched := fun j hj f hf => h.latched j (hr hj) f (hs hf)
  answered := fun f hf => h.answered f (List.append_subset.2 ⟨fun _ h => List.mem_append_left _ (hs h), List.subset_append_right _ _⟩ hf)
  clean := fun j hj f hf => h.clean j (hr hj) f (hs hf)

/-- A field that every writing lane reads in itself may be taken from there. -/
theorem MayIssue.takesFrom_self {s : State} {g : Nat} {b : Bool} {x : Group} {ws : List Nat} {srcs dst : List Named} {k : FieldKind} {a : Nat}
    (h : MayIssue s g b x ws ws srcs dst) (ha : (k, a) ∈ srcs) : TakesFrom s g x ws k a (fun j => j) where
  inside := h.inside.imp_right fun hi => hi _ (List.mem_append_left _ ha)
  latched := fun j hj _ _ => h.latched j hj _ ha
  answered := h.answered _ (List.mem_append_left _ ha)
  clean := fun j hj _ _ => h.clean j hj _ ha

/-! ### SHFL, VOTE, BCAST -/

/-- A word that is one cross-lane issue, carried out. -/
theorem laneStep_of_crossIssue {i : Instr} {s : State} {g : Nat} {b : Bool} {x : Group} {k dk : FieldKind} {o : Ops} {own : List Named}
    {readers ws : List Nat} {src val : Nat → Nat} {dead : Bool}
    (he : exec i s = .next (s.crossIssue k dk o own readers g b x ws src val dead))
    (hm : MayIssue s g b x ws readers own (destOf o.k dk o.d)) (ht : TakesFrom s g x ws k o.a src) (hw : ∀ j ∈ ws, j < 64) :
    ∃ t y, LaneStep i s t g b { x with deadRead := x.deadRead || dead } y ∧ Wrote x y o.k dk o.d (some o.ld) ws (fun j => (val j, {})) := by
  obtain ⟨y, hy, hi, ho, hb, hwr⟩ := crossIssue_spec (val := val) (dead := dead) hm ht hw
  exact ⟨_, y, ⟨he, hy, hi, ho, hb⟩, hwr⟩

theorem shfl_spec {s : State} {g : Nat} {b : Bool} {x : Group} {o : Ops} {ty : Ty} {imm : Bool} {m : ShflMode}
    {ws : List Nat} (hws : ws = x.writers b o.p o.pn) {src : Nat → Option Nat}
    (hsrc : src = fun j => shflSource m x.width j (if imm then o.c else x.read .src32 o.b j 0))
    (hm : MayIssue s g b x ws ws (if imm then [] else [(.src32, o.b)]) (destOf o.k (dstW ty.wide) o.d))
    (ht : TakesFrom s g x ws (srcW ty.wide) o.a (fun j => (src j).getD j)) :
    ∃ t y, LaneStep (.shfl o ty imm m) s t g b
        { x with deadRead := x.deadRead || ws.any (fun j => (src j).any (fun l => laneBit x.deadMask l)) } y
      ∧ Wrote x y o.k (dstW ty.wide) o.d (some o.ld) ws
          (fun j => (match src j with | some l => taken x (srcW ty.wide) o.a l | none => x.read (srcW ty.wide) o.a j 0, {})) := by
  have hfrom : ∀ j, x.shflFrom o imm m j = match src j with | some l => (l, true) | none => (j, false) := by
    intro j; rw [hsrc]; rfl
  have hone : (fun j => (x.shflFrom o imm m j).1) = fun j => (src j).getD j := by
    funext j; rw [hfrom]; cases src j <;> rfl
  have hval : (fun j => if (x.shflFrom o imm m j).2 then x.fromLane (srcW ty.wide) o.a (x.shflFrom o imm m j).1 else x.read (srcW ty.wide) o.a j 0)
      = fun j => match src j with | some l => taken x (srcW ty.wide) o.a l | none => x.read (srcW ty.wide) o.a j 0 := by
    funext j; rw [hfrom]; cases src j <;> rfl
  have hdead : (fun j => (x.shflFrom o imm m j).2 && laneBit x.deadMask (x.shflFrom o imm m j).1)
      = fun j => (src j).any (fun l => laneBit x.deadMask l) := by
    funext j; rw [hfrom]; cases src j <;> rfl
  have he : exec (.shfl o ty imm m) s = .next _ := State.withLane_of hm.turn hm.group _
  dsimp only at he
  rw [hone, hval, hdead, ← hws] at he
  exact laneStep_of_crossIssue he hm ht (fun _ h => Group.writers_lt (hws ▸ h))

theorem vote_spec {s : State} {g : Nat} {b : Bool} {x : Group} {o : Ops} {m : VoteMode} {ws : List Nat} (hws : ws = x.writers b o.p o.pn)
    (hm : MayIssue s g b x ws ws [(.src32, o.a)] (destOf o.k (dstW (m == .ballot)) o.d)) :
    ∃ t y, LaneStep (.vote o m) s t g b x y
      ∧ Wrote x y o.k (dstW (m == .ballot)) o.d (some o.ld) ws (fun _ => (x.vote m o.a ws, {})) := by
  have he : exec (.vote o m) s = .next _ := State.withLane_of hm.turn hm.group _
  rw [← hws] at he
  obtain ⟨t, y, hs, hwr⟩ := laneStep_of_crossIssue he (hm.mono (List.nil_subset _) (List.nil_subset _))
    (hm.takesFrom_self (List.mem_singleton.2 rfl)) (fun _ h => Group.writers_lt (hws ▸ h))
  rw [Bool.or_false] at hs
  exact ⟨t, y, hs, hwr⟩

theorem bcast_spec {s : State} {g : Nat} {b : Bool} {x : Group} {o : Ops} {ty : Ty} {imm first : Bool}
    {ws : List Nat} (hws : ws = x.writers b o.p o.pn) {src : Nat}
    (hsrc : src = if imm then o.c else if first then ws.headD 0 else x.read .src32 o.b (ws.headD 0) 0)
    (hm : MayIssue s g b x ws (ws.take 1) (if imm || first then [] else [(.src32, o.b)]) (destOf o.k (dstW ty.wide) o.d))
    (ht : TakesFrom s g x ws (srcW ty.wide) o.a (fun _ => src)) (hin : imm = true ∨ ws = [] ∨ src < x.width)
    (hout : ∀ j, x.width ≤ j → x.extent ≤ j ∧ laneBit x.deadMask j = false) :
    ∃ t y, LaneStep (.bcast o ty imm first) s t g b { x with deadRead := x.deadRead || (!ws.isEmpty && laneBit x.deadMask src) } y
      ∧ Wrote x y o.k (dstW ty.wide) o.d (some o.ld) ws (fun _ => (if src < x.width then taken x (srcW ty.wide) o.a src else 0, {})) := by
  have hval : x.fromLane (srcW ty.wide) o.a src = if src < x.width then taken x (srcW ty.wide) o.a src else 0 := by
    split
    · rfl
    · next h =>
      obtain ⟨he, hd⟩ := hout src (by omega)
      simp [Group.fromLane, he, hd]
  have hlegal : ∀ q : Bool, (q && !ws.isEmpty && decide (x.width ≤ src) && !imm) = false := by
    intro q
    rcases hin with h | h | h
    · simp [h]
    · simp [h]
    · simp [h]
  have he : exec (.bcast o ty imm first) s = .next _ := State.withLane_of hm.turn hm.group _
  dsimp only at he
  rw [← hws, ← hsrc, hlegal, if_neg (by simp), hval] at he
  exact laneStep_of_crossIssue he hm ht (fun _ h => Group.writers_lt (hws ▸ h))

/-! ### VTOM.w, LKBRK, SWR -/

/-- What a mask register written whole leaves of a group. -/
theorem setMask_frame (x : Group) (n : Nat) (v : DWord) : x.setMask n v = { x with masks := (x.setMask n v).masks } := by
  by_cases h : n = 0 <;> simp only [Group.setMask, h, if_true, if_false]

theorem vtomW_spec {s : State} {g : Nat} {b : Bool} {x : Group} {o : Ops} {ws : List Nat} (hws : ws = x.writers b o.p o.pn)
    (hm : MayIssue s g b x (ws.take 1) (ws.take 1) [(.src64, o.a)] []) :
    ∃ t y, LaneStep (.vtomW o) s t g b x y ∧ y.regs = x.regs ∧ y.latches = x.latches ∧ y.fpflags = x.fpflags
      ∧ ∀ m, y.maskReg m = if m = o.d ∧ m ≠ 0 ∧ ws ≠ [] then BitVec.ofNat 64 (x.read .src64 o.a (ws.headD 0) 0) else x.maskReg m := by
  have he : exec (.vtomW o) s = .next _ := State.withLane_of hm.turn hm.group _
  dsimp only at he
  rw [← hws, hm.groupIssue_run] at he
  cases ws with
  | nil =>
    obtain ⟨t, z, ⟨hr, hmk, hl, hf⟩, hs⟩ := laneStep_same he
    refine ⟨t, z, hs, hr, hl, hf, fun m => ?_⟩
    rw [if_neg (by simp), Group.maskReg, hmk]; rfl
  | cons l ws =>
    dsimp only at he
    obtain ⟨t, z, hs, hr, hmk, hl, hf⟩ := laneStep_of_issue (x := x) he (by rw [setMask_frame])
    refine ⟨t, z, hs, by simpa using hr, by simpa using hl, by simpa using hf, fun m => ?_⟩
    rw [show z.maskReg m = (x.setMask o.d _).maskReg m by unfold Group.maskReg; rw [hmk], Group.maskReg_setMask]
    exact if_congr ⟨fun ⟨h, h0⟩ => ⟨h, h ▸ h0, List.cons_ne_nil _ _⟩, fun ⟨h, h0, _⟩ => ⟨h, h ▸ h0⟩⟩ rfl rfl

theorem lkbrk_spec {s : State} {g : Nat} {b : Bool} {x : Group} (o : Ops) (m : BrkMode) (hm : MayIssue s g b x [] [] [] []) :
    ∃ t y, SameRegisters x y ∧ LaneStep (.lkbrk o m) s t g b { x with lbm := breakMask m x.lbm (x.maskReg o.a) } y := by
  have he : exec (.lkbrk o m) s = .next _ := State.withLane_of hm.turn hm.group _
  rw [hm.groupIssue_run] at he
  exact laneStep_same he

/-- SWR of a register, with the lanes that read its source: its effect on the group, and the next word. -/
theorem exec_swr {s : State} {g : Nat} {b : Bool} {x : Group} {o : Ops} {num : Nat} {ws : List Nat} (hws : ws = x.writers b o.p o.pn)
    (hm : MayIssue s g b x (if num = 6 then ws.take 1 else ws) (if num = 6 then ws.take 1 else ws) [(swrSrc num, o.a)] [])
    (hc : s.chainPending x = false) :
    exec (.swr o num) s = .next ((s.setGroup g ((x.swr num o.a ws).advance b)).noteIssue g b []) := by
  have he : exec (.swr o num) s = .next _ := State.withLane_of hm.turn hm.group _
  dsimp only at he
  rwa [hc, if_neg (by simp), ← hws, hm.groupIssue_run] at he

theorem swr_lbm_spec {s : State} {g : Nat} {b : Bool} {x : Group} {o : Ops} {ws : List Nat} (hws : ws = x.writers b o.p o.pn)
    (hm : MayIssue s g b x (ws.take 1) (ws.take 1) [(.src64, o.a)] []) (hc : s.chainPending x = false) :
    ∃ t y, SameRegisters x y ∧ LaneStep (.swr o 6) s t g b
      { x with lbm := if ws = [] then x.lbm else BitVec.ofNat 64 (x.read .src64 o.a (ws.headD 0) 0) } y := by
  have he := exec_swr (num := 6) hws hm hc
  cases ws with
  | nil => exact laneStep_same he
  | cons l ws => exact laneStep_same he

/-- The flags of a fold that writes them lane by lane, and what the fold leaves of the group. -/
theorem foldl_setFlags (ws : List Nat) (f : Nat → Word) (x : Group) :
    let y := ws.foldl (fun y j => y.setFlags j (f j)) x
    y = { x with fpflags := y.fpflags } ∧ ∀ j, y.flags j = if j ∈ ws then f j &&& 0x1F else x.flags j := by
  induction ws generalizing x with
  | nil => exact ⟨rfl, fun j => by simp⟩
  | cons i ws ih =>
    obtain ⟨hf, hv⟩ := ih (x.setFlags i (f i))
    refine ⟨hf.trans rfl, fun j => ?_⟩
    rw [List.foldl_cons, hv, Group.flags_setFlags]
    by_cases hj : j ∈ ws
    · simp [hj]
    · by_cases hi : j = i <;> simp [hj, hi]

theorem swr_fpflags_spec {s : State} {g : Nat} {b : Bool} {x : Group} {o : Ops} {ws : List Nat} (hws : ws = x.writers b o.p o.pn)
    (hm : MayIssue s g b x ws ws [(.src32, o.a)] []) (hc : s.chainPending x = false) :
    ∃ t y, LaneStep (.swr o 13) s t g b x y ∧ y.regs = x.regs ∧ y.masks = x.masks ∧ y.latches = x.latches
      ∧ ∀ j, y.flags j = if j ∈ ws then BitVec.ofNat 32 (x.read .src32 o.a j 0) &&& 0x1F else x.flags j := by
  obtain ⟨hf, hv⟩ : x.swr 13 o.a ws = { x with fpflags := (x.swr 13 o.a ws).fpflags } ∧ _ :=
    foldl_setFlags ws (fun j => BitVec.ofNat 32 (x.read .src32 o.a j 0)) x
  obtain ⟨t, z, hs, hr, hmk, hl, hfl⟩ := laneStep_of_issue (x := x) (exec_swr (num := 13) hws hm hc) (by rw [hf])
  refine ⟨t, z, hs, by rw [hr, hf], by rw [hmk, hf], by rw [hl, hf], fun j => ?_⟩
  rw [Group.flags, hfl]; exact hv j

/-- Settles O7: SHFL, VOTE and BCAST are cross-lane issues, VTOM.w, LKBRK and SWR issues with one effect on the group. -/
theorem crossLaneResult : Obligations.CrossLaneResult := by
  refine ⟨fun s g b x o => ⟨?shfl, ?vote, ?bcast⟩, fun s g b x o => ⟨?vtomW, ?lkbrk, ?lbm, fun hm hc => ⟨?dead, ?flags⟩⟩⟩
  case shfl => exact fun ty imm m hm ht => shfl_spec rfl rfl hm ht
  case vote =>
    intro m ws v r hm
    have hr : r = x.vote m o.a ws := by
      cases m with
      | eq => cases hw : ws with
        | nil => simp only [r, hw]; rfl
        | cons l ws' => simp only [r, hw]; rfl
      | _ => rfl
    rw [hr]
    exact vote_spec rfl hm
  case bcast => exact fun ty imm first hm ht hin hout => bcast_spec rfl rfl hm ht hin hout
  case vtomW => exact fun hm => vtomW_spec rfl hm
  case lkbrk =>
    intro m hm
    cases m <;> exact lkbrk_spec o _ hm
  case lbm => exact fun hm hc => swr_lbm_spec rfl hm hc
  case dead => exact laneStep_same (exec_swr (num := 7) rfl hm hc)
  case flags => exact swr_fpflags_spec rfl hm hc

end Sys2Proof.Claims
end

section
/-! Control words: where a slot stands after it was moved, and the step of a word whose issue changes slots, stack and tags. -/

namespace Sys2Proof.Claims

open Sys2Proof Sys2Proof.Machine

/-! ### A slot that was moved -/

/-- The slot c of a group that stood as x, after it was moved to where v stands: in a segment that is barred to it, it is past the
end (R64). -/
def landedSlot (s : State) (x : Group) (c : Bool) (v : Slot) : Slot :=
  { v with past := v.past || (v.live && if (x.slot c).live then barred s x c v.pc else barred s x (!c) v.pc) }

theorem landSlot_slot (k : Ctx) (old x : Group) (b c : Bool) :
    (Group.landSlot k old x b).slot c =
      if c = b then { x.slot b with past := (x.slot b).past || ((x.slot b).live &&
        (segOf (if (old.slot b).live then old.slot b else old.slot (!b)).pc != segOf (x.slot b).pc && k.badTransfer (x.slot b).pc)) }
      else x.slot c := by
  unfold Group.landSlot
  simp only [Bool.and_assoc]
  generalize (if (old.slot b).live then old.slot b else old.slot (!b)) = o
  split
  · next h => rw [Group.slot_setSlot, h, Bool.or_true]
  · next h =>
    rw [Bool.not_eq_true] at h
    rw [h, Bool.or_false]
    split
    · next hc => rw [hc]
    · rfl

theorem ageSlot_slot (now : Nat) (old x : Group) (b c : Bool) :
    (Group.ageSlot now old x b).slot c = if c = b ∧ x.slot b ≠ old.slot b then { x.slot b with age := now } else x.slot c := by
  unfold Group.ageSlot
  by_cases h : x.slot b = old.slot b
  · simp [h]
  · simp [h]

/-- Both slots dated: one that was moved dates from now. -/
theorem ageSlot_both_slot (now : Nat) (old x : Group) (c : Bool) :
    (Group.ageSlot now old (Group.ageSlot now old x false) true).slot c =
      if x.slot c = old.slot c then x.slot c else { x.slot c with age := now } := by
  rw [ageSlot_slot, ageSlot_slot, ageSlot_slot]
  cases c
  · by_cases h : x.slot false = old.slot false <;> simp [h]
  · by_cases h : x.slot true = old.slot true <;> simp [h]

/-- From x to y nothing but the slots of the group differs. -/
def SlotsOnly (x y : Group) : Prop := y = { x with slotA := y.slotA, slotB := y.slotB }

theorem SlotsOnly.refl (x : Group) : SlotsOnly x x := rfl
theorem SlotsOnly.trans {x y z : Group} (h : SlotsOnly x y) (k : SlotsOnly y z) : SlotsOnly x z := by
  unfold SlotsOnly at h k ⊢; rw [k, h]
theorem SlotsOnly.setSlot (x : Group) (b : Bool) (v : Slot) : SlotsOnly x (x.setSlot b v) := by cases b <;> rfl
theorem SlotsOnly.ite {p : Prop} [Decidable p] {x y z : Group} (h : SlotsOnly x y) (k : SlotsOnly x z) : SlotsOnly x (if p then y else z) := by
  split <;> assumption

theorem slotsOnly_landSlot (k : Ctx) (old x : Group) (b : Bool) : SlotsOnly x (Group.landSlot k old x b) :=
  SlotsOnly.ite (.setSlot x b _) (.refl x)

theorem slotsOnly_ageSlot (now : Nat) (old x : Group) (b : Bool) : SlotsOnly x (Group.ageSlot now old x b) :=
  SlotsOnly.ite (.refl x) (.setSlot x b _)

/-- The group y with both slots landed, before they are dated. -/
def landings (s : State) (x y : Group) : Group := match s.ctxOf x with | none => y | some k => Group.land k x y

theorem landed_eq (s : State) (x y : Group) :
    s.landed x y = Group.ageSlot (s.sliceNow x) x (Group.ageSlot (s.sliceNow x) x (landings s x y) false) true := rfl

theorem landings_slot (s : State) (x y : Group) (c : Bool) : (landings s x y).slot c = landedSlot s x c (y.slot c) := by
  unfold landings landedSlot barred
  cases s.ctxOf x with
  | none => simp
  | some k =>
    simp only [Group.land, landSlot_slot]
    cases c <;> simp <;> split <;> rfl

theorem landed_slot (s : State) (x y : Group) (c : Bool) :
    (s.landed x y).slot c = if landedSlot s x c (y.slot c) = x.slot c then landedSlot s x c (y.slot c) else { landedSlot s x c (y.slot c) with age := s.sliceNow x } := by
  rw [landed_eq, ageSlot_both_slot, landings_slot]

/-- Landing changes slots alone. -/
theorem slotsOnly_landed (s : State) (x y : Group) : SlotsOnly y (s.landed x y) := by
  have hl : SlotsOnly y (landings s x y) := by
    unfold landings
    cases s.ctxOf x with
    | none => exact .refl y
    | some k => exact (slotsOnly_landSlot k x y false).trans (slotsOnly_landSlot k x _ true)
  exact hl.trans ((slotsOnly_ageSlot _ x _ false).trans (slotsOnly_ageSlot _ x _ true))

/-- A slot that was not moved stays as it is. -/
theorem landedSlot_self (s : State) (x : Group) (c : Bool) : landedSlot s x c (x.slot c) = x.slot c := by
  have h : ((x.slot c).live && if (x.slot c).live then barred s x c (x.slot c).pc else barred s x (!c) (x.slot c).pc) = false := by
    cases hl : (x.slot c).live with
    | false => rfl
    | true =>
      simp only [barred, if_true, Bool.true_and]
      cases s.ctxOf x <;> simp
  unfold landedSlot
  rw [h, Bool.or_false]

/-! ### The issue of a control word -/

/-- The group z after an issue of slot b that has moved the slots, the stack and the tags of x' to those of y, where the group was x:
the slots have landed. -/
structure Moved (s : State) (b : Bool) (x x' y z : Group) : Prop where
  rest : z = { x' with slotA := z.slotA, slotB := z.slotB, stack := y.stack, nextTag := y.nextTag, outerOf := y.outerOf,
                       issued := x'.issued + 1, prods := z.prods, stepsEnd := z.stepsEnd, parked := z.parked, readyAge := z.readyAge }
  slot : z.slot b = { landedSlot s x b (y.slot b) with age := (z.slot b).age }
  other : z.slot (!b) = { landedSlot s x (!b) (y.slot (!b)) with age := (z.slot (!b)).age }
  kept : y.slot (!b) = x.slot (!b) → z.slot (!b) = x.slot (!b)

/-- The end of the issue of a control word: the slots of the group land, it is one issue later, and nothing else changes. -/
theorem control_spec {s : State} {g : Nat} (b : Bool) {x x' y : Group}
    (hy : y = { x' with slotA := y.slotA, slotB := y.slotB, stack := y.stack, nextTag := y.nextTag, outerOf := y.outerOf, readyAge := y.readyAge }) :
    ∃ z, ((s.setGroup g (s.landed x y)).noteIssue g b []).group? g = some z ∧ Moved s b x x' y z
      ∧ OnlyGroup s ((s.setGroup g (s.landed x y)).noteIssue g b []) g ∧ SameBytes s ((s.setGroup g (s.landed x y)).noteIssue g b []) := by
  have hgr := State.noteIssue_group? (s := s.setGroup g (s.landed x y)) (g := g) (x := s.landed x y) (by simp) b []
  have hfr := State.noteIssue_frame (s.setGroup g (s.landed x y)) g b []
  have hl := slotsOnly_landed s x y
  generalize hn : (s.setGroup g (s.landed x y)).sliceNow (s.landed x y) = n at hgr
  generalize hz : (s.landed x y).issuedAt b n [] = z at hgr
  have hzf : z = { s.landed x y with slotA := z.slotA, slotB := z.slotB, issued := (s.landed x y).issued + 1, prods := z.prods,
                                     stepsEnd := z.stepsEnd, parked := z.parked, readyAge := z.readyAge } := by
    rw [← hz]; unfold Group.issuedAt; rw [Group.unpark_frame]; cases b <;> rfl
  have hslot : ∀ c, z.slot c = if c = b then { (s.landed x y).slot c with age := n } else (s.landed x y).slot c := by
    intro c
    rw [← hz]; unfold Group.issuedAt; rw [Group.unpark_slot]; cases b <;> cases c <;> rfl
  refine ⟨z, by rw [hgr, if_pos rfl], ⟨?_, ?_, ?_, ?_⟩, ⟨by rw [hfr]; rfl, ?_, ?_⟩, ?_, ?_⟩
  · rw [hzf, hl, hy]
  · rw [hslot, if_pos rfl, landed_slot]
    split <;> rfl
  · rw [hslot, if_neg (by simp), landed_slot]
    split <;> rfl
  · intro h
    rw [hslot, if_neg (by simp), landed_slot, h, landedSlot_self, if_pos rfl]
  · intro k hk; rw [hgr, if_neg hk]; simp [hk]
  · intro c; rw [State.noteIssue_ctx?]; rfl
  · intro a; rw [hfr]; rfl
  · intro k a; rw [hfr]; rfl

/-- A change of the stack that neither spills nor refills leaves the stack area alone. -/
theorem stackMoves_same (s : State) {x y : Group} (h : y.stack.length - 4 = x.stack.length - 4) : s.stackMoves x y = s := by
  unfold State.stackMoves
  cases s.launch? y.launch <;> simp [h]

/-- The tests before a control word that names no register pass. -/
theorem MayIssue.gate_control {s : State} {g : Nat} {b : Bool} {x : Group} (h : MayIssue s g b x [] [] [] []) (ws : List Nat) :
    s.gate g b x ws false [] [] = .go :=
  State.gate_go h.runs h.live h.ready (.inr (by simp)) (by simp) (by simp)

/-- A control word that goes through, with a change of the stack on the chip. -/
theorem MayIssue.controlIssue_run {s : State} {g : Nat} {b : Bool} {x : Group} (h : MayIssue s g b x [] [] [] []) {y : Group}
    (hst : y.stack.length - 4 = x.stack.length - 4) :
    s.controlIssue g b x [] (some y) = (s.setGroup g (s.landed x y)).noteIssue g b [] := by
  simp only [State.controlIssue, h.gate_control, State.gated, stackMoves_same _ hst]

/-- The step of a control word: what it moves, and that nothing else changes. -/
theorem controlStep_of_issue {i : Instr} {s : State} {g : Nat} {b : Bool} {x y : Group}
    (he : exec i s = .next ((s.setGroup g (s.landed x y)).noteIssue g b []))
    (hy : y = { x with slotA := y.slotA, slotB := y.slotB, stack := y.stack, nextTag := y.nextTag, outerOf := y.outerOf }) :
    ∃ t z, ControlStep i s t g x z ∧ Moved s b x x y z := by
  obtain ⟨z, hz, hm, ho, hb⟩ := control_spec (s := s) (g := g) b (x := x) (x' := x) (y := y) (by rw [hy])
  refine ⟨_, z, ⟨he, hz, ?_, ho, hb⟩, hm⟩
  rw [hm.rest]

/-! ### Where the slot goes -/

/-- A live slot brought to an address arrives there. -/
theorem arrives_of_landed {s : State} {x : Group} {b c : Bool} {v w z : Slot} {a : BitVec 20}
    (hz : z = { landedSlot s x c v with age := z.age }) (hv : v = { w with pc := a, past := false, wait := .run, waitAt := v.waitAt, wants := v.wants, age := v.age })
    (hl : v.live = true) (hc : (if (x.slot c).live then c else !c) = b) : Arrives s x b z w a := by
  have hp : (landedSlot s x c v).past = barred s x b a := by
    unfold landedSlot
    rw [hl, ← hc, hv]
    cases (x.slot c).live <;> simp
  unfold Arrives
  rw [hz, ← hp]
  unfold landedSlot
  rw [hv]

/-- The word after an address lies in another segment only past the last word of its own. -/
theorem offOf_of_segOf_succ {a : BitVec 20} (h : segOf a ≠ segOf (a + 1)) : offOf a = 4095 := by
  unfold segOf at h
  unfold offOf
  have : (a + 1).toNat = (a.toNat + 1) % 2 ^ 20 := BitVec.toNat_add _ _
  have := a.isLt
  omega

/-- The slot of a live group slot that goes on at the next word. -/
theorem goesOn_of_landed {s : State} {x : Group} {b : Bool} {v w z : Slot} (hz : z = { landedSlot s x b v with age := z.age })
    (hv : v = { w with pc := w.pc + 1, past := w.past || offOf w.pc == 4095, wait := .run, waitAt := v.waitAt, wants := v.wants, age := v.age })
    (hw : w.pc = (x.slot b).pc) (hb : (x.slot b).live = true) : GoesOn z w := by
  have hp : (landedSlot s x b v).past = (w.past || offOf w.pc == 4095) := by
    unfold landedSlot
    rw [hv, hb]
    by_cases h : offOf w.pc = 4095
    · simp [h]
    · have : barred s x b (w.pc + 1) = false := by
        have hseg : segOf w.pc = segOf (w.pc + 1) := not_ne_iff.1 (fun hne => h (offOf_of_segOf_succ hne))
        unfold barred
        cases s.ctxOf x <;> simp [← hw, hseg]
      simp only [if_true, this, Bool.and_false, Bool.or_false]
  unfold GoesOn
  rw [hz, ← hp]
  unfold landedSlot
  rw [hv]

end Sys2Proof.Claims
end

section
/-! BRA, CALL, RET, NOP and YIELD: each carried out by the landing of the slot that it moves. -/

namespace Sys2Proof.Claims

open Sys2Proof Sys2Proof.Machine

theorem MayIssue.slot_live {s : State} {g : Nat} {b : Bool} {x : Group} {ws reads : List Nat} {srcs dst : List Named}
    (h : MayIssue s g b x ws reads srcs dst) : (x.slot b).live = true := by
  unfold Slot.live
  exact bne_iff_ne.2 h.live

/-- The step of a transfer: slot b arrives at the address, nothing else of the group moves. -/
theorem transfer_step {i : Instr} {s : State} {g : Nat} {b : Bool} {x y : Group} {w : Slot} {a : BitVec 20}
    (he : exec i s = .next ((s.setGroup g (s.landed x y)).noteIssue g b [])) (hy : SlotsOnly x y) (ho : y.slot (!b) = x.slot (!b))
    (hv : y.slot b = { w with pc := a, past := false, wait := .run, waitAt := (y.slot b).waitAt, wants := (y.slot b).wants, age := (y.slot b).age })
    (hb : (x.slot b).live = true) (hw : w.live = true) :
    ∃ t z, ControlStep i s t g x z ∧ SameStack x z ∧ z.slot (!b) = x.slot (!b) ∧ Arrives s x b (z.slot b) w a := by
  obtain ⟨t, z, hs, hm⟩ := controlStep_of_issue he (by rw [hy])
  refine ⟨t, z, hs, ?_, hm.kept ho, arrives_of_landed hm.slot hv ?_ (by rw [hb]; rfl)⟩
  · unfold SameStack
    rw [hm.rest, hy]
    exact ⟨rfl, rfl, rfl⟩
  · rw [hv]; exact hw

theorem bra_spec {s : State} {g : Nat} {b : Bool} {x : Group} (hm : MayIssue s g b x [] [] [] []) (o : IOps) :
    ∃ t y, ControlStep (.bra o) s t g x y ∧ SameStack x y ∧ y.slot (!b) = x.slot (!b)
      ∧ Arrives s x b (y.slot b) (x.slot b) (branchTarget (x.slot b).pc o.imm) := by
  have he : exec (.bra o) s = .next _ := State.withLane_of hm.turn hm.group _
  rw [hm.controlIssue_run (by simp)] at he
  exact transfer_step he (.setSlot x b _) (by simp) (by rw [Group.slot_goto, if_pos rfl]) hm.slot_live hm.slot_live

/-- The slot of a call with one target: the record takes the rebind state. -/
def calledSlot (v : Slot) : Slot :=
  { v with rebind := none, calls := { ret := v.pc + 1, split := (v.rebind.getD (false, 0)).1, base := (v.rebind.getD (false, 0)).2 } :: v.calls }

/-- The group after a call with one target, where the stack area has room for the record. -/
theorem callOne_eq {x : Group} {b : Bool} {a : BitVec 20} {limit : Nat} (h : x.items + 1 ≤ limit) :
    x.callOne b a limit = some (x.modSlot b (fun v => { calledSlot v with pc := a, past := false, wait := .run })) := by
  unfold Group.callOne
  rw [if_neg (by omega)]
  rfl

/-- A call with one target carried out. -/
theorem callOne_step {i : Instr} {s : State} {g : Nat} {b : Bool} {x : Group} {a : BitVec 20}
    (he : exec i s = .next ((s.setGroup g (s.landed x (x.modSlot b (fun v => { calledSlot v with pc := a, past := false, wait := .run })))).noteIssue g b []))
    (hb : (x.slot b).live = true) :
    ∃ t y, ControlStep i s t g x y ∧ SameStack x y ∧ y.slot (!b) = x.slot (!b) ∧ Arrives s x b (y.slot b) (calledSlot (x.slot b)) a :=
  transfer_step he (.setSlot x b _) (by simp) (by rw [Group.slot_modSlot, if_pos rfl]) hb hb

theorem call_spec {s : State} {g : Nat} {b : Bool} {x : Group} (hm : MayIssue s g b x [] [] [] []) (o : IOps) (hi : x.items + 1 ≤ s.stackLimit x) :
    ∃ t y, ControlStep (.call o) s t g x y ∧ SameStack x y ∧ y.slot (!b) = x.slot (!b)
      ∧ Arrives s x b (y.slot b) (calledSlot (x.slot b)) (branchTarget (x.slot b).pc o.imm) := by
  have he : exec (.call o) s = .next _ := State.withLane_of hm.turn hm.group _
  rw [callOne_eq hi, hm.controlIssue_run (by cases b <;> rfl)] at he
  exact callOne_step he hm.slot_live

/-- RET whose record asks for no repetition of JOIN (R247). -/
theorem ret_eq {x : Group} {b : Bool} {r : CallRec} {rest : List CallRec} (hc : (x.slot b).calls = r :: rest)
    (h : r.split = false ∨ (x.slot b).tag = r.base) :
    x.ret b = some (x.setSlot b { x.slot b with calls := rest, pc := r.ret, past := false, wait := .run }) := by
  unfold Group.ret
  simp only [hc]
  cases hs : r.split with
  | false => rfl
  | true =>
    have ht : (x.slot b).tag = r.base := h.resolve_left (by simp [hs])
    simp only [if_true, Group.nesting, Group.repeatJoin, Group.slot_setSlot, ht]

theorem ret_spec {s : State} {g : Nat} {b : Bool} {x : Group} (hm : MayIssue s g b x [] [] [] []) (o : Ops) {r : CallRec} {rest : List CallRec}
    (hc : (x.slot b).calls = r :: rest) (h : r.split = false ∨ (x.slot b).tag = r.base) :
    ∃ t y, ControlStep (.ret o) s t g x y ∧ SameStack x y ∧ y.slot (!b) = x.slot (!b)
      ∧ Arrives s x b (y.slot b) { x.slot b with calls := rest } r.ret := by
  have he : exec (.ret o) s = .next _ := State.withLane_of hm.turn hm.group _
  rw [ret_eq hc h] at he
  dsimp only at he
  rw [hm.controlIssue_run (by simp)] at he
  exact transfer_step he (.setSlot x b _) (by simp) (by rw [Group.slot_setSlot, if_pos rfl]) hm.slot_live hm.slot_live

/-! ### NOP and YIELD -/

/-- A control word that goes on at the next word, with another effect on the group than on its slots. -/
theorem laneStep_of_advance {i : Instr} {s : State} {g : Nat} {b : Bool} {x x' y : Group}
    (he : exec i s = .next ((s.setGroup g (s.landed x y)).noteIssue g b []))
    (hy : y = { x'.advance b with readyAge := y.readyAge }) (hx : ∀ c, x'.slot c = x.slot c) (hb : (x.slot b).live = true) :
    ∃ t z, LaneStep i s t g b x' z ∧ SameRegisters x' z := by
  have hs : ∀ c, y.slot c = (x'.advance b).slot c := by intro c; rw [hy]; cases c <;> rfl
  have hfr : x'.advance b = { x' with slotA := (x'.advance b).slotA, slotB := (x'.advance b).slotB } := SlotsOnly.setSlot x' b _
  obtain ⟨z, hz, hm, ho, hbytes⟩ := control_spec (s := s) (g := g) b (x := x) (x' := x') (y := y) (by rw [hy, hfr])
  have hgo : GoesOn (z.slot b) (x.slot b) := by
    refine goesOn_of_landed hm.slot ?_ rfl hb
    rw [hs, Group.slot_advance, if_pos rfl, hx]
  have hst : y.stack = x'.stack ∧ y.nextTag = x'.nextTag ∧ y.outerOf = x'.outerOf := by rw [hy, hfr]; exact ⟨rfl, rfl, rfl⟩
  obtain ⟨hst, hnt, hou⟩ := hst
  have hrest := hm.rest
  rw [hst, hnt, hou] at hrest
  unfold GoesOn at hgo
  refine ⟨_, z, ⟨he, hz, ⟨?_, ?_, ?_, ?_, ?_, ?_⟩, ho, hbytes⟩, ?_⟩
  · rw [hrest]
  · rw [hgo, hx]
  · rw [hgo, hx]
  · rw [hgo]
  · rw [hgo, hx]
  · rw [hm.kept (by rw [hs, Group.slot_advance, if_neg (by simp), hx]), hx]
  · unfold SameRegisters
    rw [hrest]
    exact ⟨rfl, rfl, rfl, rfl⟩

/-- A word whose issue only goes on. -/
theorem goOn_spec {i : Instr} {s : State} {g : Nat} {b : Bool} {x : Group} (hm : MayIssue s g b x [] [] [] [])
    (he : exec i s = .next (s.controlIssue g b x [] (some (x.advance b)))) : ∃ t y, SameRegisters x y ∧ LaneStep i s t g b x y := by
  rw [hm.controlIssue_run (by simp)] at he
  obtain ⟨t, z, hs, hr⟩ := laneStep_of_advance (x' := x) he (by rfl) (fun _ => rfl) hm.slot_live
  exact ⟨t, z, hr, hs⟩

theorem yield_spec {s : State} {g : Nat} {b : Bool} {x : Group} (hm : MayIssue s g b x [] [] [] []) (o : Ops) :
    ∃ t y, LaneStep (.yield o) s t g b
        (if x.onStage && s.wingsReady x.skey then
          (if x.stepsDone (s.issueCycle x) then { x with onStage := false, yielding := false, latches := [] } else { x with yielding := true })
        else x) y
      ∧ SameRegisters (if x.onStage && s.wingsReady x.skey && x.stepsDone (s.issueCycle x) then { x with latches := [] } else x) y := by
  have he : exec (.yield o) s = .next _ := State.withLane_of hm.turn hm.group _
  cases hw : x.onStage && s.wingsReady x.skey with
  | false =>
    rw [hw, if_neg (by simp)] at he
    simp only [Bool.false_and, Bool.false_eq_true, if_false]
    obtain ⟨t, z, hr, hs⟩ := goOn_spec hm he
    exact ⟨t, z, hs, hr⟩
  | true =>
    rw [hw, if_pos rfl] at he
    simp only [Bool.true_and, if_true]
    cases hd : x.stepsDone (s.issueCycle x) with
    | false =>
      rw [hd, if_neg (by simp), hm.controlIssue_run (by simp)] at he
      simp only [Bool.false_eq_true, if_false]
      exact laneStep_of_advance (x' := { x with yielding := true }) he (by cases b <;> rfl) (by intro c; cases c <;> rfl) hm.slot_live
    | true =>
      rw [hd, if_pos rfl, hm.controlIssue_run (by cases b <;> rfl)] at he
      simp only [if_true]
      exact laneStep_of_advance (x' := { x with onStage := false, yielding := false, latches := [] }) he (by cases b <;> rfl)
        (by intro c; cases c <;> rfl) hm.slot_live

end Sys2Proof.Claims
end

section
/-! CALLI (R246): its lanes grouped by target, one group a call, two groups parts of a split. -/

namespace Sys2Proof.Claims

open Sys2Proof Sys2Proof.Machine

/-! ### The parts of a slot by target -/

theorem lanesMask_concat (l : List Nat) (j : Nat) : lanesMask (l ++ [j]) = lanesMask l ||| (1#64 <<< j) := by
  unfold lanesMask
  rw [List.foldl_append]
  rfl

theorem laneBit_lanesMask (l : List Nat) {j : Nat} (hj : j < 64) : laneBit (lanesMask l) j = decide (j ∈ l) := by
  induction l using List.reverseRecOn with
  | nil => simp [lanesMask, laneBit]
  | append_singleton l i ih =>
    have hb : laneBit (1#64 <<< i) j = decide (j = i) := by
      unfold laneBit
      rw [BitVec.getLsbD_shiftLeft, BitVec.getLsbD_one]
      rcases Nat.lt_trichotomy j i with h | rfl | h
      · simp [h, h.ne]
      · simp [hj]
      · simp [hj, h.ne', Nat.sub_ne_zero_of_lt h]
    rw [lanesMask_concat, laneBit, BitVec.getLsbD_or, ← laneBit, ← laneBit, ih, hb]
    simp [List.mem_append]

theorem lanesMask_ne_zero {l : List Nat} {j : Nat} (h : j ∈ l) (hj : j < 64) : lanesMask l ≠ 0 := by
  intro h0
  have := laneBit_lanesMask l hj
  rw [h0] at this
  simp [laneBit, h] at this

/-- The mask of the lanes that go to n, where there are any. -/
def maskTo (ts : List (Nat × Nat)) (n : Nat) : Option DWord :=
  match (ts.filter (fun p => p.2 == n)).map Prod.fst with | [] => none | l => some (lanesMask l)

theorem maskTo_getD (ts : List (Nat × Nat)) (n : Nat) : (maskTo ts n).getD 0 = lanesMask ((ts.filter (fun p => p.2 == n)).map Prod.fst) := by
  unfold maskTo
  split
  · next h => rw [h]; rfl
  · rfl

theorem maskTo_concat (ts : List (Nat × Nat)) (j k n : Nat) :
    maskTo (ts ++ [(j, k)]) n = if k = n then some ((maskTo ts n).getD 0 ||| (1#64 <<< j)) else maskTo ts n := by
  rw [maskTo_getD]
  unfold maskTo
  by_cases h : k = n
  · simp only [List.filter_append, List.map_append, List.filter_cons, h, beq_self_eq_true, if_true, List.filter_nil, List.map_cons, List.map_nil]
    split
    · next h0 => exact absurd h0 (by simp)
    · next l h0 => rw [lanesMask_concat]
  · simp [List.filter_append, h]

/-- The parts to two targets. -/
def twoParts (n m : Nat) (a b : Option DWord) : Sp DWord := (a.map (fun v => (n, v))).toList ++ (b.map (fun v => (m, v))).toList

theorem twoParts_get (n m : Nat) (hnm : n < m) (a b : Option DWord) :
    Sp.getD (twoParts n m a b) n 0 = a.getD 0 ∧ Sp.getD (twoParts n m a b) m 0 = b.getD 0 := by
  cases a <;> cases b <;> simp [twoParts, Sp.getD, Sp.get?, hnm.ne, hnm.ne']

theorem twoParts_set (n m : Nat) (hnm : n < m) (a b : Option DWord) (v : DWord) :
    Sp.set (twoParts n m a b) n v = twoParts n m (some v) b ∧ Sp.set (twoParts n m a b) m v = twoParts n m a (some v) := by
  cases a <;> cases b <;> simp [twoParts, Sp.set, hnm, hnm.ne', hnm.le]

/-- Where no lane goes elsewhere than to n and m, the parts are those two, in this order. -/
theorem calliParts_two {ts : List (Nat × Nat)} {n m : Nat} (hnm : n < m) (h : ∀ p ∈ ts, p.2 = n ∨ p.2 = m) :
    calliParts ts = twoParts n m (maskTo ts n) (maskTo ts m) := by
  induction ts using List.reverseRecOn with
  | nil => rfl
  | append_singleton ts p ih =>
    obtain ⟨j, k⟩ := p
    have ih := ih (fun q hq => h q (List.mem_append_left _ hq))
    unfold calliParts at ih ⊢
    rw [List.foldl_append, ih, maskTo_concat, maskTo_concat]
    obtain ⟨hgn, hgm⟩ := twoParts_get n m hnm (maskTo ts n) (maskTo ts m)
    rcases h (j, k) (by simp) with rfl | rfl
    · rw [if_pos rfl, if_neg hnm.ne, ← hgn]
      exact (twoParts_set k m hnm _ _ _).1
    · rw [if_neg hnm.ne', if_pos rfl, ← hgm]
      exact (twoParts_set n k hnm _ _ _).2

/-! ### CALLI -/

theorem maskTo_map (ws : List Nat) (tgt : Nat → Nat) (n : Nat) (h : ∃ j ∈ ws, tgt j = n) :
    maskTo (ws.map (fun j => (j, tgt j))) n = some (lanesMask (ws.filter (fun j => tgt j == n))) := by
  have hl : ((ws.map (fun j => (j, tgt j))).filter (fun p => p.2 == n)).map Prod.fst = ws.filter (fun j => tgt j == n) := by
    rw [List.filter_map, List.map_map]
    exact List.map_id _
  obtain ⟨j, hj, hn⟩ := h
  unfold maskTo
  rw [hl]
  split
  · next h0 => exact absurd h0 (List.ne_nil_of_mem (List.mem_filter.2 ⟨hj, by simp [hn]⟩))
  · rfl

theorem maskTo_map_none (ws : List Nat) (tgt : Nat → Nat) (n : Nat) (h : ∀ j ∈ ws, tgt j ≠ n) :
    maskTo (ws.map (fun j => (j, tgt j))) n = none := by
  have hl : (ws.map (fun j => (j, tgt j))).filter (fun p => p.2 == n) = [] := by
    rw [List.filter_eq_nil_iff]
    simpa using h
  unfold maskTo
  rw [hl]
  rfl

theorem badTargets_zero {ts : List (Nat × Nat)} (h : ∀ p ∈ ts, p.2 < 2 ^ 20) : badTargets ts = 0 := by
  have : ts.filter (fun p => decide (2 ^ 20 ≤ p.2)) = [] := by
    rw [List.filter_eq_nil_iff]
    simpa using h
  unfold badTargets
  rw [this]
  rfl

/-- CALLI whose lanes all name one target is a call. -/
theorem calli_one {x : Group} {b : Bool} {ws : List Nat} {tgt : Nat → Nat} {n limit : Nat} (hne : ws ≠ []) (h : ∀ j ∈ ws, tgt j = n) :
    x.calli b (ws.map (fun j => (j, tgt j))) limit = x.callOne b (BitVec.ofNat 20 n) limit := by
  obtain ⟨j, hj⟩ := List.exists_mem_of_ne_nil ws hne
  have hp : calliParts (ws.map (fun j => (j, tgt j))) = [(n, lanesMask (ws.filter (fun j => tgt j == n)))] := by
    rw [calliParts_two (Nat.lt_succ_self n) (fun p hp => .inl ?_), maskTo_map ws tgt n ⟨j, hj, h j hj⟩,
      maskTo_map_none ws tgt (n + 1) (fun j hj => by rw [h j hj]; omega)]
    · rfl
    · obtain ⟨j, hj, rfl⟩ := List.mem_map.1 hp
      exact h j hj
  unfold Group.calli
  rw [hp]

theorem newTag_frame {x z : Group} {tag : Nat} (h : x.newTag = some (tag, z)) : z = { x with nextTag := z.nextTag } := by
  unfold Group.newTag at h
  simp only at h
  split at h
  · cases h
  · cases h; rfl

/-- The group after CALLI to two targets with the other slot free: the lower target stays in slot b, the higher one goes to the other
slot, with the new tag that z has drawn. -/
def calledTwice (z : Group) (b : Bool) (v : Slot) (tag n m : Nat) (ln lm : DWord) : Group :=
  let calls := { ret := v.pc + 1, split := true, base := v.tag } :: v.calls
  (({ z with outerOf := Sp.set z.outerOf tag v.tag } : Group).modSlot b (fun w =>
      { w with pc := BitVec.ofNat 20 n, mask := ln, past := false, wait := .run, tag := tag, outer := v.tag })).setSlot (!b)
    { pc := BitVec.ofNat 20 m, mask := lm, tag := tag, outer := v.tag, calls := calls, age := v.age }

theorem calli_two {x z : Group} {b : Bool} {ws : List Nat} {tgt : Nat → Nat} {n m limit tag : Nat} (hnm : n < m)
    (h : ∀ j ∈ ws, tgt j = n ∨ tgt j = m) (hn : ∃ j ∈ ws, tgt j = n) (hm : ∃ j ∈ ws, tgt j = m) (hfree : (x.slot (!b)).live = false)
    (hl : x.items + ((x.slot b).calls.length + 2) ≤ limit)
    (hz : (x.modSlot b (fun w => { w with calls := { ret := (x.slot b).pc + 1, split := true, base := (x.slot b).tag } :: (x.slot b).calls, rebind := none })).newTag
      = some (tag, z)) :
    x.calli b (ws.map (fun j => (j, tgt j))) limit =
      some (calledTwice z b (x.slot b) tag n m (lanesMask (ws.filter (fun j => tgt j == n))) (lanesMask (ws.filter (fun j => tgt j == m)))) := by
  have hp : calliParts (ws.map (fun j => (j, tgt j)))
      = [(n, lanesMask (ws.filter (fun j => tgt j == n))), (m, lanesMask (ws.filter (fun j => tgt j == m)))] := by
    rw [calliParts_two hnm ?_, maskTo_map ws tgt n hn, maskTo_map ws tgt m hm]
    · rfl
    · intro p hp
      obtain ⟨j, hj, rfl⟩ := List.mem_map.1 hp
      exact h j hj
  unfold Group.calli
  rw [hp]
  simp only [hfree, Bool.not_false, if_true, List.length_nil, Nat.zero_mul, Nat.add_zero, List.length_cons]
  rw [if_neg (by omega)]
  simp only [Group.calliStack, hz]
  rfl

theorem calliTo_run {s : State} {g : Nat} {b : Bool} {x y : Group} {ts : List (Nat × Nat)} (hb : ∀ p ∈ ts, p.2 < 2 ^ 20)
    (hc : x.calli b ts (s.stackLimit x) = some y) (hst : y.stack.length - 4 = x.stack.length - 4) :
    s.calliTo g b x ts true = (s.setGroup g (s.landed x y)).noteIssue g b []
    ∧ s.calliTo g b x ts false = s.setGroup g (s.landed x y) := by
  unfold State.calliTo
  rw [badTargets_zero hb, hc]
  simp [stackMoves_same _ hst]

theorem exec_calli {s : State} {g : Nat} {b : Bool} {x : Group} {o : Ops} {ws : List Nat} (hws : ws = x.writers b 0 false)
    (hm : MayIssue s g b x ws ws [(.src32, o.a)] []) :
    exec (.calli o) s = .next (s.calliTo g b x (ws.map (fun j => (j, x.read .src32 o.a j 0))) true) := by
  have he : exec (.calli o) s = .next _ := State.withLane_of hm.turn hm.group _
  dsimp only at he
  rw [← hws, MayIssue.gate_go (uni := false) hm, Group.consumers_nil hm.clean] at he
  exact he

theorem calli_one_spec {s : State} {g : Nat} {b : Bool} {x : Group} {o : Ops} {ws : List Nat} (hws : ws = x.writers b 0 false)
    (hm : MayIssue s g b x ws ws [(.src32, o.a)] []) (hne : ws ≠ []) (hlt : ∀ j ∈ ws, x.read .src32 o.a j 0 < 2 ^ 20)
    {n : Nat} (hn : ∀ j ∈ ws, x.read .src32 o.a j 0 = n) (hi : x.items + 1 ≤ s.stackLimit x) :
    ∃ t y, ControlStep (.calli o) s t g x y ∧ SameStack x y ∧ y.slot (!b) = x.slot (!b)
      ∧ Arrives s x b (y.slot b) (calledSlot (x.slot b)) (BitVec.ofNat 20 n) := by
  have he := exec_calli hws hm
  rw [(calliTo_run (by simpa using hlt) ((calli_one hne hn).trans (callOne_eq hi)) (by cases b <;> rfl)).1] at he
  exact callOne_step he hm.slot_live

theorem calli_two_spec {s : State} {g : Nat} {b : Bool} {x : Group} {o : Ops} {ws : List Nat} (hws : ws = x.writers b 0 false)
    (hm : MayIssue s g b x ws ws [(.src32, o.a)] []) (hlt : ∀ j ∈ ws, x.read .src32 o.a j 0 < 2 ^ 20)
    {n m : Nat} (hnm : n < m) (h : ∀ j ∈ ws, x.read .src32 o.a j 0 = n ∨ x.read .src32 o.a j 0 = m)
    (hn : ∃ j ∈ ws, x.read .src32 o.a j 0 = n) (hmm : ∃ j ∈ ws, x.read .src32 o.a j 0 = m) (hfree : (x.slot (!b)).live = false)
    (hi : x.items + ((x.slot b).calls.length + 2) ≤ s.stackLimit x) {tag : Nat} {z : Group}
    (hz : (x.modSlot b (fun w => { w with calls := { ret := (x.slot b).pc + 1, split := true, base := (x.slot b).tag } :: (x.slot b).calls, rebind := none })).newTag
      = some (tag, z)) :
    ∃ t y, ControlStep (.calli o) s t g x y ∧ y.stack = x.stack ∧ y.nextTag = z.nextTag
      ∧ Arrives s x b (y.slot b)
          { x.slot b with
            mask := lanesMask (ws.filter (fun j => x.read .src32 o.a j 0 == n)), tag := tag, outer := (x.slot b).tag, rebind := none,
            calls := { ret := (x.slot b).pc + 1, split := true, base := (x.slot b).tag } :: (x.slot b).calls }
          (BitVec.ofNat 20 n)
      ∧ Arrives s x b (y.slot (!b))
          { pc := BitVec.ofNat 20 m, mask := lanesMask (ws.filter (fun j => x.read .src32 o.a j 0 == m)), tag := tag, outer := (x.slot b).tag,
            calls := { ret := (x.slot b).pc + 1, split := true, base := (x.slot b).tag } :: (x.slot b).calls }
          (BitVec.ofNat 20 m) := by
  have hzf := newTag_frame hz
  have he := exec_calli hws hm
  have hlive : ∀ k, (∃ j ∈ ws, x.read .src32 o.a j 0 = k) → lanesMask (ws.filter (fun j => x.read .src32 o.a j 0 == k)) ≠ 0 := by
    rintro k ⟨j, hj, hk⟩
    exact lanesMask_ne_zero (List.mem_filter.2 ⟨hj, beq_iff_eq.2 hk⟩) (Group.writers_lt (hws ▸ hj))
  rw [(calliTo_run (by simpa using hlt) (calli_two hnm h hn hmm hfree hi hz) (by rw [hzf]; cases b <;> rfl)).1] at he
  obtain ⟨t, y, hs, hmv⟩ := controlStep_of_issue he (by rw [hzf]; cases b <;> rfl)
  refine ⟨t, y, hs, ?_, ?_, arrives_of_landed hmv.slot ?_ ?_ (by rw [hm.slot_live]; rfl), arrives_of_landed hmv.other ?_ ?_ (by rw [hfree]; simp)⟩
  · rw [hmv.rest, hzf]; cases b <;> rfl
  · rw [hmv.rest]; cases b <;> rfl
  · rw [hzf]; cases b <;> rfl
  · rw [hzf]; cases b <;> exact bne_iff_ne.2 (hlive n hn)
  · rw [hzf]; cases b <;> rfl
  · cases b <;> exact bne_iff_ne.2 (hlive m hmm)

end Sys2Proof.Claims
end

section
/-! CALLI.m (R246), and the statement of the plain transfers of control. Settles O8. -/

namespace Sys2Proof.Claims

open Sys2Proof Sys2Proof.Machine

theorem SameRegisters.trans {x y z : Group} (h : SameRegisters x y) (k : SameRegisters y z) : SameRegisters x z := by
  obtain ⟨h₁, h₂, h₃, h₄⟩ := h
  obtain ⟨k₁, k₂, k₃, k₄⟩ := k
  exact ⟨k₁.trans h₁, k₂.trans h₂, k₃.trans h₃, k₄.trans h₄⟩

/-! ### An access to device memory that reaches its places -/

/-- The checks of an access that reaches its places pass: every lane's part has its place. -/
theorem placeDev_of_reaches {s : State} {x : Group} {p : MemPlan} {place : Nat → Place} (h : Reaches s x p place) (hp : p.spad = false) :
    ∃ chk : LaneAcc → Bool, s.placeDev x p = .ok (p.lanes.map (fun a => { a with place := place a.lane, check := chk a })) := by
  have hd := h.dev hp
  have hform : p.lanes.filterMap (fun a => (deviceCheck a.addr a.size).map (fun c => (a.lane, c))) = [] := by
    rw [List.filterMap_eq_nil_iff]
    intro a ha
    rw [(hd a ha).1]
    rfl
  choose! phys chk hit may served win using (fun a ha => (hd a ha).2)
  have hhit : p.lanes.map (fun a => (a, s.translate x.ckey a.addr a.write)) = p.lanes.map (fun a => (a, .hit (phys a) (chk a))) :=
    List.map_congr_left (fun a ha => by rw [hit a ha])
  have hmay : (p.lanes.map (fun a => (a, phys a, chk a))).find? (fun r => !s.unitMay x.part r.2.1 r.1.write) = none := by
    rw [List.find?_eq_none]
    intro r hr
    obtain ⟨a, ha, rfl⟩ := List.mem_map.1 hr
    simp [may a ha]
  unfold State.placeDev
  rw [hform]
  simp only [firstCheck, leastBy, Option.map_none, hhit, List.filterMap_map, List.map_map, Function.comp_def]
  rw [List.filterMap_eq_nil_iff.2 (fun _ _ => rfl)]
  simp only [hmay]
  rw [if_neg ?_]
  · refine ⟨fun a => chk a && (match place a.lane with | .dev _ => true | _ => false), congrArg Placed.ok ?_⟩
    refine List.map_congr_left (fun a ha => ?_)
    have hs := served a ha
    dsimp only
    generalize s.servedAt (phys a) = q at hs ⊢
    subst hs
    cases place a.lane <;> rfl
  · rw [Bool.not_eq_true, Bool.not_eq_false', List.isEmpty_iff]
    split
    · next op ty hk =>
      split
      · next hf =>
        simp only [Bool.and_eq_true, beq_iff_eq, Bool.not_eq_true'] at hf
        obtain ⟨⟨rfl, hord⟩, hv⟩ := hf
        rw [List.filter_eq_nil_iff]
        intro r hr
        obtain ⟨a, ha, rfl⟩ := List.mem_map.1 hr
        simp [win a ha hv ⟨ty, hk⟩ hord]
      · rfl
    · rfl

theorem leastBy_ne_none {α : Type} (rank : α → Nat) {l : List α} (h : l ≠ []) : leastBy rank l ≠ none := by
  cases l with
  | nil => exact absurd rfl h
  | cons a l =>
    unfold leastBy
    split
    · simp
    · split <;> simp

/-- From s to t nothing but the streams to other devices differs. -/
def StreamsOnly (s t : State) : Prop := t = { s with streams := t.streams }

theorem StreamsOnly.trans {s t u : State} (h : StreamsOnly s t) (k : StreamsOnly t u) : StreamsOnly s u := by
  unfold StreamsOnly at h k ⊢; rw [k, h]

/-- A request to the device finds a port, or the device is known to be unreachable (R435). -/
def Ported (s : State) (dev : Nat) : Prop := s.unreachable.contains dev = true ∨ s.portsTo dev ≠ []

theorem StreamsOnly.ported {s t : State} (h : StreamsOnly s t) (dev : Nat) : Ported t dev ↔ Ported s dev := by
  rw [h]; rfl

theorem send_streamsOnly {s : State} {dev : Nat} (h : Ported s dev) (ck id : Nat) : StreamsOnly s (s.send ck dev id) := by
  unfold State.send
  split
  · rfl
  · next hu =>
    split
    · rfl
    · split
      · next hl => exact absurd hl (leastBy_ne_none _ (h.resolve_left hu))
      · rfl

/-- The parts of an operation whose remote ones find a port. -/
def PartsPorted (s : State) (as : List LaneAcc) : Prop := ∀ a ∈ as, ∀ phys, a.place = .remote phys → Ported s (fabricDevice phys)

theorem foldl_streamsOnly {f : State → LaneAcc → State} (as : List LaneAcc) (s : State)
    (hf : ∀ t, ∀ a, (∀ phys, a.place = .remote phys → Ported t (fabricDevice phys)) → StreamsOnly t (f t a)) (h : PartsPorted s as) :
    StreamsOnly s (as.foldl f s) := by
  induction as generalizing s with
  | nil => rfl
  | cons a as ih =>
    have ha := hf s a (h a List.mem_cons_self)
    exact ha.trans (ih _ (fun a' ha' phys hp => (ha.ported _).2 (h a' (List.mem_cons_of_mem _ ha') phys hp)))

/-- A counter of a launch raised or lowered changes that launch alone. -/
theorem count_frame (s : State) (l ck which n : Nat) (up : Bool) :
    s.count l ck which n up = { s with launches := (s.count l ck which n up).launches } := by
  unfold State.count
  split <;> rfl

/-- An operation in flight and counted, its requests to other devices not yet sent. -/
def counted (s : State) (op : MemOp) : State :=
  let s := { s with flight := s.flight ++ [op] }
  if op.standIn then s else s.count op.launch (clusterKey op.part op.cluster) op.counter op.away true

theorem counted_frame (s : State) (op : MemOp) : counted s op = { s with flight := s.flight ++ [op], launches := (counted s op).launches } := by
  unfold counted
  dsimp only
  split
  · rfl
  · rw [count_frame]

theorem launchOp_streamsOnly {s : State} {op : MemOp} (h : PartsPorted s op.lanes) : StreamsOnly (counted s op) (s.launchOp op) := by
  refine foldl_streamsOnly op.lanes _ (fun t a ha => ?_) (by rw [counted_frame]; exact h)
  split
  · next phys hp => exact send_streamsOnly (ha phys hp) _ _
  · rfl

/-- An operation sent stands last in flight; beside that, counters of its launch and streams change. -/
theorem launchOp_frame {s : State} {op : MemOp} (h : PartsPorted s op.lanes) :
    s.launchOp op = { s with flight := s.flight ++ [op], launches := (s.launchOp op).launches, streams := (s.launchOp op).streams } := by
  rw [launchOp_streamsOnly h, counted_frame]

/-! ### CALLI.m -/

/-- The group after an issue of slot b: registers and the stack stay as they are. -/
theorem issuedAt_frame (x : Group) (b : Bool) (n : Nat) (ps : List Producer) :
    x.issuedAt b n ps = { x with slotA := (x.issuedAt b n ps).slotA, slotB := (x.issuedAt b n ps).slotB, issued := x.issued + 1,
                                 prods := (x.issuedAt b n ps).prods, stepsEnd := (x.issuedAt b n ps).stepsEnd,
                                 parked := (x.issuedAt b n ps).parked, readyAge := (x.issuedAt b n ps).readyAge } := by
  unfold Group.issuedAt; rw [Group.unpark_frame]; cases b <;> rfl

/-- A slot that waits stays where it is; no register changes. -/
theorem park_group? {s : State} {g : Nat} {x : Group} (hg : s.group? g = some x) (b : Bool) (w : Wait) (l : List Nat) :
    ∃ y, (s.park g b w l).group? g = some y ∧ SameRegisters x y ∧ y.slot b = { x.slot b with wait := w, wants := l }
      ∧ y.slot (!b) = x.slot (!b) := by
  unfold State.park
  rw [State.group?_modGroup, if_pos rfl, hg]
  refine ⟨_, rfl, ?_⟩
  dsimp only
  split <;> cases b <;> exact ⟨⟨rfl, rfl, rfl, rfl⟩, rfl, rfl⟩

theorem park_sameBytes (s : State) (g : Nat) (b : Bool) (w : Wait) (l : List Nat) : SameBytes s (s.park g b w l) := ⟨fun _ => rfl, fun _ _ => rfl⟩

/-- An access whose checks have passed, and that nothing holds, is sent. -/
theorem memLaneAt_ok {s : State} {g : Nat} {b : Bool} {x : Group} {p : MemPlan} (hm : MayIssue s g b x p.writers p.writers p.srcs p.dst)
    (hw : p.writers ≠ []) (hl : p.lanes ≠ []) (hpre : p.pre = none) (hh : s.memHeld g x = false) (lanes : List LaneAcc) :
    s.memLaneAt p (.ok lanes) g b x = s.memSend p g b x lanes := by
  unfold State.memLaneAt
  dsimp only
  rw [MayIssue.gate_go (uni := false) hm, Group.consumers_nil hm.clean]
  simp only [State.gated, hh, hpre, List.isEmpty_iff, hw, hl, Bool.false_eq_true, if_false]

/-- An access that releases nothing and is compared with no second copy, after its issue: it stands last in flight; its group is one
issue later; no register and no byte has changed. -/
theorem memSend_spec {s : State} {g : Nat} {b : Bool} {x : Group} {p : MemPlan} {lanes : List LaneAcc} (hc : p.compared = false)
    (hr : p.kind.releases p.sc p.od = false) (hp : PartsPorted s lanes) :
    ∃ y op, (s.memSend p g b x lanes).group? g = some y ∧ SameRegisters x y ∧ op.kind = p.kind ∧ op.lanes = lanes
      ∧ (s.memSend p g b x lanes).flight = s.flight ++ [op] ∧ SameBytes s (s.memSend p g b x lanes) := by
  unfold State.memSend
  simp only [hc, Bool.false_and, Bool.false_eq_true, if_false]
  generalize hop : s.memOp p g b x lanes (s.nextId + 1) = op
  have hi : ({ s with nextId := s.nextId + 1 } : State).memIssued p op.judged g b x
      = (({ s with nextId := s.nextId + 1 } : State).setGroup g ({ x with clk := Clock.tick x.clk x.uid }.advance b)).noteIssue g b [] := by
    unfold State.memIssued
    simp only [hr, Bool.and_false, Bool.false_eq_true, if_false]
  have hk : op.kind = p.kind := by rw [← hop]; rfl
  have hol : op.lanes = lanes := by rw [← hop]; rfl
  rw [hi]
  generalize hz : { x with clk := Clock.tick x.clk x.uid }.advance b = z
  have hzr : SameRegisters x z := by rw [← hz]; cases b <;> exact ⟨rfl, rfl, rfl, rfl⟩
  have hg := State.noteIssue_group? (s := ({ s with nextId := s.nextId + 1 } : State).setGroup g z) (g := g) (x := z) (by simp) b [] g
  have hf := State.noteIssue_frame (({ s with nextId := s.nextId + 1 } : State).setGroup g z) g b []
  generalize (({ s with nextId := s.nextId + 1 } : State).setGroup g z).noteIssue g b [] = t at hg hf
  have hl := launchOp_frame (s := t) (op := op) (by rw [hol, hf]; exact hp)
  rw [if_pos rfl] at hg
  refine ⟨_, op, (by rw [hl]; exact hg), ?_, hk, hol, ?_, ?_, ?_⟩
  · rw [issuedAt_frame]; exact hzr
  · rw [hl, hf]; rfl
  · intro a; rw [hl, hf]; rfl
  · intro k a; rw [hl, hf]; rfl

/-- The group at its CALLI.m again, waiting for the reply. -/
def atCalliM (x : Group) (b : Bool) (y : Group) : Group := y.modSlot b (fun v => { v with pc := (x.slot b).pc, past := (x.slot b).past })

theorem exec_calliM {s : State} {g : Nat} {b : Bool} {x : Group} {o : Ops} {unit : Nat} (hc : s.cur = .lane g b) (hg : s.group? g = some x)
    (hone : ∀ m ∈ s.flight, m.kind = .target → m.uid ≠ x.uid) (hsent : (s.memLane (calliMPlan o unit b x) g b x).flight.length ≠ s.flight.length) :
    exec (.calliM o unit) s = .next (((s.memLane (calliMPlan o unit b x) g b x).modGroup g (atCalliM x b)).park g b .reply) := by
  have hfirst : s.flight.any (fun m => m.agent == Agent.group g && m.uid == x.uid && m.slot == b && m.kind == .target) = false := by
    rw [List.any_eq_false]
    intro m hmem hc
    simp only [Bool.and_eq_true, beq_iff_eq] at hc
    exact hone m hmem hc.2 hc.1.1.2
  have he : exec (.calliM o unit) s = .next _ := State.withLane_of hc hg _
  dsimp only at he
  rw [hfirst, if_neg (by simp)] at he
  exact he.trans (congrArg _ (if_neg hsent))

/-- CALLI.m: its access leaves, and the slot waits at its word for the targets (R246). -/
theorem calliM_spec {s : State} {g : Nat} {b : Bool} {x : Group} {o : Ops} {unit : Nat} {place : Nat → Place} {p : MemPlan}
    (hp : p = calliMPlan o unit b x) (hm : MayIssue s g b x p.writers p.writers p.srcs []) (hl : p.lanes ≠ []) (hu : Unordered s g x p)
    (hr : Reaches s x p place) (hone : ∀ m ∈ s.flight, m.kind = .target → m.uid ≠ x.uid) :
    ∃ t y op, exec (.calliM o unit) s = .next t ∧ t.group? g = some y ∧ (y.slot b).pc = (x.slot b).pc ∧ (y.slot b).wait = .reply
      ∧ SameRegisters x y ∧ SameBytes s t ∧ t.flight = s.flight ++ [op] ∧ op.kind = .target
      ∧ op.lanes.map (fun a => (a.lane, a.addr, a.place)) = p.lanes.map (fun a => (a.lane, a.addr, place a.lane)) := by
  obtain ⟨chk, hplaced⟩ := placeDev_of_reaches hr (by rw [hp]; rfl)
  have hport : PartsPorted s (p.lanes.map (fun a => { a with place := place a.lane, check := chk a })) := by
    intro a ha
    obtain ⟨a', ha', rfl⟩ := List.mem_map.1 ha
    exact hr.ports a' ha'
  obtain ⟨y, op, hg, hregs, hk, hlanes, hfl, hbytes⟩ := memSend_spec (g := g) (b := b) (x := x) (p := p) (by rw [hp]; rfl) (by rw [hp]; rfl) hport
  have hws : p.writers ≠ [] := by
    rw [hp] at hl ⊢
    exact fun h => hl (List.map_eq_nil_iff.1 h)
  have hsend := memLaneAt_ok (p := p) (by rw [hp] at hm ⊢; exact hm) hws hl (by rw [hp]; rfl) hu.held (p.lanes.map (fun a => { a with place := place a.lane, check := chk a }))
  generalize ht : s.memSend p g b x _ = t at hg hfl hbytes hsend
  have hlane : s.memLane p g b x = t := by
    unfold State.memLane
    rw [if_neg (by rw [hp]; simp [calliMPlan]), hplaced, hsend]
  have he := exec_calliM (unit := unit) (o := o) hm.turn hm.group hone (by rw [← hp, hlane, hfl]; simp)
  rw [← hp, hlane] at he
  have hg' : (t.modGroup g (atCalliM x b)).group? g = some (atCalliM x b y) := by rw [State.group?_modGroup, if_pos rfl, hg]; rfl
  obtain ⟨z, hz, hzr, hzs, -⟩ := park_group? hg' b .reply []
  refine ⟨_, z, op, he, hz, by rw [hzs]; cases b <;> rfl, by rw [hzs], ?_, ?_, hfl, by rw [hk, hp]; rfl, ?_⟩
  · have : SameRegisters x (atCalliM x b y) := by cases b <;> exact hregs
    exact this.trans hzr
  · exact ⟨hbytes.1, hbytes.2⟩
  · rw [hlanes, List.map_map]; rfl

/-! ### The reply of CALLI.m -/

/-- What an acquiring fence that is done leaves: clocks of its group, and the sc order. -/
theorem fenceSettle_group? {s : State} {g : Nat} {x : Group} (hg : s.group? g = some x) :
    ∃ y, (s.fenceSettle g).group? g = some y ∧ y = { x with fence := y.fence, clk := y.clk, scClk := y.scClk, relFence := y.relFence } := by
  unfold State.fenceSettle
  rw [hg]
  dsimp only
  split
  · exact ⟨x, hg, rfl⟩
  · split
    · exact ⟨x, hg, rfl⟩
    · exact ⟨_, by rw [State.group?_setGroup, if_pos rfl], rfl⟩

theorem fenceSettle_frame (s : State) (g : Nat) :
    s.fenceSettle g = { s with groups := (s.fenceSettle g).groups, scClk := (s.fenceSettle g).scClk } := by
  unfold State.fenceSettle
  split
  · rfl
  · split
    · rfl
    · dsimp only
      split <;> rfl

theorem tryPost_none {s : State} {g : Nat} {x : Group} (hg : s.group? g = some x) (h : x.stop = none) : s.tryPost g = s := by
  unfold State.tryPost
  rw [hg]
  simp only [h]

/-- The state when a reply has left the flight and is counted. -/
def replied (s : State) (id : Nat) (op : MemOp) : State :=
  let s := (s.dropOp id).acked id
  if op.standIn then s else s.count op.launch (clusterKey op.part op.cluster) op.counter op.away false

theorem replied_frame (s : State) (id : Nat) (op : MemOp) :
    replied s id op = { s with flight := s.flight.filter (fun m => m.id != id), streams := (replied s id op).streams, launches := (replied s id op).launches } := by
  unfold replied
  dsimp only
  split
  · rfl
  · rw [count_frame]; rfl

theorem count_stackLimit (s : State) (l ck which n : Nat) (up : Bool) (x : Group) : (s.count l ck which n up).stackLimit x = s.stackLimit x := by
  unfold State.count
  split
  · rfl
  · unfold State.stackLimit
    rw [State.launch?_modLaunch]
    by_cases h : x.launch = l
    · rw [if_pos h]; cases s.launch? x.launch <;> rfl
    · rw [if_neg h]

theorem exec_memoryReply_group {s : State} {id d g : Nat} {x : Group} {op : MemOp} (hop : s.op? id = some op) (hd : op.d = some d)
    (hp : op.performed = true) (hgr : s.opGroup op = some (g, x)) (ha : op.agent = .group g) :
    exec (.memoryReply id) s = .next ((replied s id op).replyGroup op g x d) := by
  have hgr' : (replied s id op).opGroup op = some (g, x) := by
    rw [← hgr, replied_frame]; rfl
  have he : exec (.memoryReply id) s = execMemoryReply id s := rfl
  rw [he]
  unfold execMemoryReply
  simp only [hop, hd, hp, ha]
  simp only [Bool.not_true, Bool.false_eq_true, if_false, Host.Outcome.next.injEq]
  show (match (replied s id op).opGroup op with | none => _ | some (g, x) => _) = _
  rw [hgr']
  rfl

/-- The lanes of a CALLI.m that are still in its slot, in a group whose slots stand as those of x. -/
theorem targets_same {op : MemOp} {x : Group} {n : Nat} (h : ∀ a ∈ op.lanes, a.poisoned = false ∧ a.lane < 64 ∧ a.result.toNat = n) :
    op.targets x = ((op.lanes.filter (fun a => laneBit (x.slot op.slot).mask a.lane && !a.poisoned)).map LaneAcc.lane).map (fun j => (j, n)) := by
  unfold MemOp.targets
  rw [List.map_map]
  exact List.map_congr_left (fun a ha => by rw [(h a (List.mem_filter.1 ha).1).2.2]; rfl)

/-- A landed slot stands where it was moved to. -/
theorem landed_slot_eq (s : State) (x y : Group) (c : Bool) : ∃ p n, (s.landed x y).slot c = { y.slot c with past := p, age := n } := by
  rw [landed_slot]
  split
  · exact ⟨_, _, rfl⟩
  · exact ⟨_, _, rfl⟩

theorem sp_set_set {α : Type} (m : Sp α) (k : Nat) (v w : α) : Sp.set (Sp.set m k v) k w = Sp.set m k w := by
  induction m with
  | nil => simp [Sp.set]
  | cons e m ih =>
    obtain ⟨j, u⟩ := e
    unfold Sp.set
    by_cases hlt : k < j
    · simp [hlt, Sp.set]
    · by_cases heq : k = j
      · simp [heq, Sp.set]
      · simp [hlt, heq, Sp.set, ih]

theorem setGroup_setGroup (s : State) (g : Nat) (x y : Group) : (s.setGroup g x).setGroup g y = s.setGroup g y := by
  unfold State.setGroup
  simp only [sp_set_set]

/-- The targets of a CALLI.m, all the same, have come: it is a call (R246). -/
theorem calliReply_one {s : State} {op : MemOp} {g n : Nat} {x : Group} (hg : s.group? g = some x)
    (hin : ∃ a ∈ op.lanes, laneBit (x.slot op.slot).mask a.lane = true)
    (hl : ∀ a ∈ op.lanes, a.poisoned = false ∧ a.lane < 64 ∧ a.result.toNat = n) (hn : n < 2 ^ 20) (hi : x.items + 1 ≤ s.stackLimit x) :
    ∃ y, s.calliReply op g = s.setGroup g y ∧ SameRegisters x y ∧ y.stop = x.stop ∧ y.slot (!op.slot) = x.slot (!op.slot)
      ∧ (y.slot op.slot).pc = BitVec.ofNat 20 n ∧ (y.slot op.slot).wait = .run ∧ (y.slot op.slot).rebind = none
      ∧ (y.slot op.slot).calls = (calledSlot (x.slot op.slot)).calls := by
  obtain ⟨a, ha, hbit⟩ := hin
  generalize hws : (op.lanes.filter (fun a => laneBit (x.slot op.slot).mask a.lane && !a.poisoned)).map LaneAcc.lane = ws
  have hne : ws ≠ [] := by
    rw [← hws]
    exact List.ne_nil_of_mem (List.mem_map_of_mem (List.mem_filter.2 ⟨ha, by simp [hbit, (hl a ha).1]⟩))
  have hts := targets_same (x := x) hl
  rw [hws] at hts
  generalize hx0 : (x.modSlot op.slot (fun v => { v with wait := .run })).unpark (s.sliceNow x) = x0
  have hrun : s.calliReply op g = (s.setGroup g x0).calliTo g op.slot x0 (ws.map (fun j => (j, n))) false := by
    unfold State.calliReply
    rw [hg]
    dsimp only
    rw [hts, hx0]
    cases ws with
    | nil => exact absurd rfl hne
    | cons j js => rfl
  have hslot : ∀ c, x0.slot c = if c = op.slot then { x.slot c with wait := .run } else x.slot c := by
    intro c
    rw [← hx0, Group.unpark_slot, Group.slot_modSlot]
    split
    · next h => rw [h]
    · rfl
  have hframe : x0 = { x with slotA := x0.slotA, slotB := x0.slotB, parked := x0.parked, readyAge := x0.readyAge } := by
    rw [← hx0, Group.unpark_frame]
    cases op.slot <;> rfl
  have hlim : x0.items + 1 ≤ (s.setGroup g x0).stackLimit x0 := by
    have hitems : x0.items = x.items := by
      rw [← hx0, Group.unpark_frame]; cases op.slot <;> rfl
    rw [hitems, show (s.setGroup g x0).stackLimit x0 = s.stackLimit x by rw [hframe]; rfl]
    exact hi
  generalize hx1 : x0.modSlot op.slot (fun v => { calledSlot v with pc := BitVec.ofNat 20 n, past := false, wait := .run }) = x1
  have hx1o : x1.slot (!op.slot) = x0.slot (!op.slot) := by rw [← hx1]; simp
  have hcall : x0.calli op.slot (ws.map (fun j => (j, n))) ((s.setGroup g x0).stackLimit x0) = some x1 := by
    rw [calli_one (tgt := fun _ => n) hne (fun _ _ => rfl), callOne_eq hlim, hx1]
  rw [hrun, (calliTo_run (by intro p hp; obtain ⟨j, -, rfl⟩ := List.mem_map.1 hp; exact hn) hcall (by rw [← hx1]; cases op.slot <;> rfl)).2]
  have hland := slotsOnly_landed (s.setGroup g x0) x0 x1
  have hx1f : x1 = { x0 with slotA := x1.slotA, slotB := x1.slotB } := by rw [← hx1]; exact SlotsOnly.setSlot x0 _ _
  have hx1b : x1.slot op.slot = { calledSlot (x.slot op.slot) with pc := BitVec.ofNat 20 n, past := false, wait := .run } := by
    rw [← hx1, Group.slot_modSlot, if_pos rfl, hslot, if_pos rfl]; rfl
  obtain ⟨p, k, hb⟩ := landed_slot_eq (s.setGroup g x0) x0 x1 op.slot
  refine ⟨(s.setGroup g x0).landed x0 x1, setGroup_setGroup .., ?_, ?_, ?_, ?_, ?_, ?_, ?_⟩
  · rw [hland, hx1f, hframe]; exact ⟨rfl, rfl, rfl, rfl⟩
  · rw [hland, hx1f, hframe]
  · rw [landed_slot, hx1o, landedSlot_self, if_pos rfl, hslot, if_neg (by simp)]
  · rw [hb, hx1b]
  · rw [hb, hx1b]
  · rw [hb, hx1b]; rfl
  · rw [hb, hx1b]

/-- The reply of CALLI.m, with one target below 2^20 in the lanes that are still in its slot: the slot is called there (R246). -/
theorem calliM_reply_spec {s : State} {id d g n : Nat} {x : Group} {op : MemOp} (hop : s.op? id = some op) (hk : op.kind = .target)
    (hd : op.d = some d) (hp : op.performed = true) (hgr : s.opGroup op = some (g, x)) (ha : op.agent = .group g) (hs : x.stop = none)
    (hin : ∃ a ∈ op.lanes, laneBit (x.slot op.slot).mask a.lane = true)
    (hl : ∀ a ∈ op.lanes, a.poisoned = false ∧ a.lane < 64 ∧ a.result.toNat = n) (hn : n < 2 ^ 20) (hi : x.items + 1 ≤ s.stackLimit x) :
    ∃ t y, exec (.memoryReply id) s = .next t ∧ t.group? g = some y ∧ t.op? id = none ∧ SameBytes s t ∧ SameRegisters x y
      ∧ (y.slot op.slot).pc = BitVec.ofNat 20 n ∧ (y.slot op.slot).wait = .run ∧ (y.slot op.slot).rebind = none
      ∧ (y.slot op.slot).calls = (calledSlot (x.slot op.slot)).calls ∧ y.slot (!op.slot) = x.slot (!op.slot) := by
  have hg : s.group? g = some x := by
    unfold State.opGroup at hgr
    rw [ha] at hgr
    obtain ⟨z, hz, hzx⟩ := Option.bind_eq_some_iff.1 hgr
    split at hzx
    · cases hzx; exact hz
    · cases hzx
  have hf := replied_frame s id op
  have hg' : (replied s id op).group? g = some x := by rw [hf]; exact hg
  have hlim : (replied s id op).stackLimit x = s.stackLimit x := by
    unfold replied
    dsimp only
    split
    · rfl
    · rw [count_stackLimit]; rfl
  obtain ⟨y, hy, hregs, hstop, hother, hpc, hw, hrb, hcalls⟩ := calliReply_one hg' hin hl hn (by rw [hlim]; exact hi)
  have hdead : op.deadLanes = [] := by
    unfold MemOp.deadLanes
    rw [List.map_eq_nil_iff, List.filter_eq_nil_iff]
    intro a ha
    simp [(hl a ha).1]
  obtain ⟨z, hz, hzf⟩ := fenceSettle_group? (s := (replied s id op).setGroup g y) (g := g) (x := y) (by simp)
  have hff := fenceSettle_frame ((replied s id op).setGroup g y) g
  have he := exec_memoryReply_group hop hd hp hgr ha
  have hreply : (replied s id op).replyGroup op g x d = ((replied s id op).setGroup g y).fenceSettle g := by
    unfold State.replyGroup State.settles
    simp only [hk, hdead, List.foldl_nil, hy]
    exact tryPost_none hz (by rw [hzf, hstop, hs])
  rw [hreply] at he
  have hslot : ∀ c, z.slot c = y.slot c := by intro c; rw [hzf]; cases c <;> rfl
  refine ⟨_, z, he, hz, ?_, ⟨?_, ?_⟩, hregs.trans (by rw [hzf]; exact ⟨rfl, rfl, rfl, rfl⟩), by rw [hslot, hpc], by rw [hslot, hw], by rw [hslot, hrb],
    by rw [hslot, hcalls], by rw [hslot, hother]⟩
  · rw [hff]
    unfold State.op?
    rw [State.setGroup_flight, hf, List.find?_eq_none]
    intro m hm
    simpa using (List.mem_filter.1 hm).2
  · intro a; rw [hff, State.setGroup_mem, hf]
  · intro k a; rw [hff, hf]; rfl

/-! ### The statement -/

/-- Settles O8: BRA, CALL, RET, NOP and YIELD by the landing of the slot they move, CALLI by the grouping of its targets, CALLI.m by the
load it sends and by its reply. -/
theorem plainTransfers : Obligations.PlainTransfers := by
  unfold Obligations.PlainTransfers
  refine ⟨fun s g b x hm => ⟨fun o => bra_spec hm o, fun o hi => call_spec hm o hi, fun o r rest hc h => ret_spec hm o hc h,
      fun o => goOn_spec hm (State.withLane_of hm.turn hm.group _), fun o => yield_spec hm o⟩, ?_, ?_, ?_⟩
  · intro s g b x o v ws tgt hm hne hlt
    exact ⟨fun n hn hi => calli_one_spec rfl hm hne hlt hn hi,
      fun n m hnm h hn hmm hfree hi tag z hz => calli_two_spec rfl hm hlt hnm h hn hmm hfree hi hz⟩
  · intro s g b x o unit place p hm hl hu hr hone
    exact calliM_spec rfl hm hl hu hr hone
  · intro s id d g n x op hop hk hd hp hgr ha hs _ hin hl hn hi
    exact calliM_reply_spec hop hk hd hp hgr ha hs hin hl hn hi

end Sys2Proof.Claims
end

section
/-! BRX and JOIN (R242, R243), and the stack area of a group (R48). Settles O9. -/

namespace Sys2Proof.Claims

open Sys2Proof Sys2Proof.Machine

/-! ### The stack area -/

/-- Bytes written into a window of device memory that no table of the walk lies in: only the window changes. -/
theorem writeVirtual_window {part va k lo hi : Nat} (bs : List Byte) {s : State} (hlo : lo ≤ k) (hhi : k + bs.length ≤ hi)
    (h : ∀ j m, j < bs.length → (∀ b, (b < lo ∨ hi ≤ b) → m.byte b = s.mem.byte b) → ({ s with mem := m } : State).physOf part (va + j) true = some (k + j)) :
    ∃ t, s.writeVirtual part va bs = some t ∧ t = { s with mem := t.mem, late := t.late } ∧ ∀ a, (a < lo ∨ hi ≤ a) → t.mem.byte a = s.mem.byte a := by
  induction bs generalizing s va k with
  | nil => exact ⟨s, rfl, rfl, fun _ _ => rfl⟩
  | cons b bs ih =>
    rw [List.length_cons] at hhi
    have h0 : s.physOf part va true = some k := h 0 s.mem (by simp) (fun _ _ => rfl)
    have hset : ∀ a, (a < lo ∨ hi ≤ a) → (s.mem.setByte k b).byte a = s.mem.byte a := by
      intro a ha
      rw [Memory.byte_setByte, if_neg (by omega)]
    obtain ⟨t, ht, hf, hm⟩ := ih (va := va + 1) (k := k + 1) (s := { s.plain 0 k 1 with mem := s.mem.setByte k b }) (by omega) (by omega) (by
      intro j m hj hmem
      have := h (j + 1) m (by simpa using hj) (fun a ha => (hmem a ha).trans (hset a ha))
      rw [show va + 1 + j = va + (j + 1) by omega, show k + 1 + j = k + (j + 1) by omega]
      exact this)
    refine ⟨t, ?_, ?_, fun a ha => (hm a ha).trans (hset a ha)⟩
    · unfold State.writeVirtual
      rw [h0]
      exact ht
    · rw [hf]; rfl

theorem readVirtual_congr {s t : State} (part n va : Nat) (hp : ∀ va, t.physOf part va false = s.physOf part va false) (hm : t.mem = s.mem) :
    t.readVirtual part va n = s.readVirtual part va n := by
  induction n generalizing va with
  | zero => rfl
  | succ n ih =>
    unfold State.readVirtual
    rw [hp, hm, ih]

/-- An entry that leaves the stack comes back from the stack area where more than four were held. -/
theorem stackMoves_refill {s : State} {x y : Group} (hy : y = { x with slotA := y.slotA, slotB := y.slotB, stack := y.stack, nextTag := y.nextTag, outerOf := y.outerOf })
    (hl : y.stack.length + 1 = x.stack.length) (hb : StackBack s x) : s.stackMoves x y = s := by
  unfold State.stackMoves
  have hlaunch : y.launch = x.launch := by rw [hy]
  have hpart : y.part = x.part := by rw [hy]
  have hidx : s.slotIndex y = s.slotIndex x := by rw [hy]; rfl
  rw [hlaunch, hpart, hidx]
  cases hla : s.launch? x.launch with
  | none => rfl
  | some l =>
    dsimp only
    rw [if_neg (by omega)]
    split
    · next h =>
      have hr := (hb.resolve_left (by omega)) l hla
      rw [show y.stack.length - 4 = x.stack.length - 5 by omega, show 16 * (x.stack.length - 4 - (x.stack.length - 5)) = 16 by omega]
      obtain ⟨r, hr⟩ := Option.isSome_iff_exists.1 hr
      unfold stackPlace at hr
      rw [hr]
      rfl
    · rfl

/-- An entry past the fourth goes to its 16 bytes of the stack area. -/
theorem stackMoves_spill {s : State} {x y : Group} {l : Launch} {k : Nat}
    (hy : y = { x with slotA := y.slotA, slotB := y.slotB, stack := y.stack, nextTag := y.nextTag, outerOf := y.outerOf })
    (hl : y.stack.length = x.stack.length + 1) (h4 : 4 ≤ x.stack.length) (hla : s.launch? x.launch = some l)
    (hm : MapsTo s x.part (stackPlace s x l + 16 * (x.stack.length - 4)) 16 k) :
    s.stackMoves x y = { s with mem := (s.stackMoves x y).mem, late := (s.stackMoves x y).late }
      ∧ ∀ a, (a < k ∨ k + 16 ≤ a) → (s.stackMoves x y).mem.byte a = s.mem.byte a := by
  unfold State.stackMoves
  have hlaunch : y.launch = x.launch := by rw [hy]
  have hpart : y.part = x.part := by rw [hy]
  have hidx : s.slotIndex y = s.slotIndex x := by rw [hy]; rfl
  rw [hlaunch, hpart, hidx, hla]
  dsimp only
  rw [if_pos (by omega), show 16 * (y.stack.length - 4 - (x.stack.length - 4)) = 16 by omega]
  generalize hbs : (List.range 16).map (fun i => Config.freeBody 0x100 y.uid (16 * (x.stack.length - 4) + i)) = bs
  have hlen : bs.length = 16 := by rw [← hbs]; simp
  obtain ⟨t, ht, hf, hmem⟩ := writeVirtual_window (part := x.part) (va := stackPlace s x l + 16 * (x.stack.length - 4)) (k := k) (lo := k) (hi := k + 16)
    bs (s := s) (Nat.le_refl k) (by omega) (by rw [hlen]; exact hm)
  unfold stackPlace at ht
  rw [ht]
  exact ⟨hf, hmem⟩

/-! ### BRX -/

/-- Slot b of a group whose lanes `left` go on with a new tag. -/
def leftOf (z : Group) (b : Bool) (left : DWord) (tag outer : Nat) : Group :=
  (({ z with outerOf := Sp.set z.outerOf tag outer } : Group).modSlot b (fun w => { w with mask := left, tag := tag, outer := outer })).advance b

/-- BRX of some lanes with the other slot free: they go there. -/
def brxOver (z : Group) (b : Bool) (v : Slot) (taken left : DWord) (target : BitVec 20) (tag : Nat) : Group :=
  (leftOf z b left tag v.tag).setSlot (!b) { pc := target, mask := taken, tag := tag, outer := v.tag, calls := v.calls, age := v.age }

/-- BRX of some lanes with the other slot live: they go onto the stack. -/
def brxOnto (z : Group) (b : Bool) (v : Slot) (taken left : DWord) (target : BitVec 20) (tag : Nat) : Group :=
  let y := leftOf z b left tag v.outer
  { y with stack := { tag := tag, outer := v.tag, defPc := target, defMask := taken, defCalls := v.calls } :: y.stack }

section
variable {x z : Group} {b : Bool} {cond : DWord} {target : BitVec 20} {limit tag : Nat}

theorem brx_none (h : (x.slot b).mask &&& cond = 0) : x.brx b cond target limit = some (x.advance b) := by
  unfold Group.brx
  dsimp only
  rw [if_pos h]

theorem brx_all (h : (x.slot b).mask &&& cond ≠ 0) (hn : (x.slot b).mask &&& ~~~cond = 0) : x.brx b cond target limit = some (x.goto b target) := by
  unfold Group.brx
  dsimp only
  rw [if_neg h, if_pos hn]

theorem brx_over (h : (x.slot b).mask &&& cond ≠ 0) (hn : (x.slot b).mask &&& ~~~cond ≠ 0) (hz : x.newTag = some (tag, z))
    (hf : (x.slot (!b)).live = false) (hl : x.items + (x.slot b).calls.length ≤ limit) :
    x.brx b cond target limit = some (brxOver z b (x.slot b) ((x.slot b).mask &&& cond) ((x.slot b).mask &&& ~~~cond) target tag) := by
  unfold Group.brx
  dsimp only
  rw [if_neg h, if_neg hn, hz]
  simp only [hf, Bool.not_false, if_true]
  rw [if_neg (by omega)]
  rfl

theorem brx_onto (h : (x.slot b).mask &&& cond ≠ 0) (hn : (x.slot b).mask &&& ~~~cond ≠ 0) (hz : x.newTag = some (tag, z))
    (hf : (x.slot (!b)).live = true) (hl : x.items + (1 + (x.slot b).calls.length) ≤ limit) :
    x.brx b cond target limit = some (brxOnto z b (x.slot b) ((x.slot b).mask &&& cond) ((x.slot b).mask &&& ~~~cond) target tag) := by
  unfold Group.brx
  dsimp only
  rw [if_neg h, if_neg hn, hz]
  simp only [hf, Bool.not_true, Bool.false_eq_true, if_false]
  rw [if_neg (by omega)]
  rfl

/-- The parts of a BRX that splits: of the group only slots, stack and tags move; the lanes left go on under the new tag. -/
theorem leftOf_frame (hz : x.newTag = some (tag, z)) (left : DWord) (outer : Nat) :
    leftOf z b left tag outer = { x with slotA := (leftOf z b left tag outer).slotA, slotB := (leftOf z b left tag outer).slotB,
                                         nextTag := z.nextTag, outerOf := (leftOf z b left tag outer).outerOf } := by
  rw [newTag_frame hz]; cases b <;> rfl

theorem leftOf_slot (hz : x.newTag = some (tag, z)) (left : DWord) (outer : Nat) :
    (leftOf z b left tag outer).slot b =
      { x.slot b with
        mask := left, tag := tag, outer := outer, pc := (x.slot b).pc + 1
        past := (x.slot b).past || offOf (x.slot b).pc == 4095, wait := .run, waitAt := 0, wants := [] } := by
  rw [newTag_frame hz]; cases b <;> rfl

theorem leftOf_other (hz : x.newTag = some (tag, z)) (left : DWord) (outer : Nat) : (leftOf z b left tag outer).slot (!b) = x.slot (!b) := by
  rw [newTag_frame hz]; cases b <;> rfl

end

theorem brx_none_spec {s : State} {g : Nat} {b : Bool} {x : Group} (hm : MayIssue s g b x [] [] [] []) (o : IOps)
    (h : (x.slot b).mask &&& x.maskReg o.a = 0) : ∃ t y, SameRegisters x y ∧ LaneStep (.brx o) s t g b x y := by
  have he : exec (.brx o) s = .next _ := State.withLane_of hm.turn hm.group _
  rw [brx_none h] at he
  exact goOn_spec hm he

theorem brx_all_spec {s : State} {g : Nat} {b : Bool} {x : Group} (hm : MayIssue s g b x [] [] [] []) (o : IOps)
    (h : (x.slot b).mask &&& x.maskReg o.a ≠ 0) (hn : (x.slot b).mask &&& ~~~(x.maskReg o.a) = 0) :
    ∃ t y, ControlStep (.brx o) s t g x y ∧ SameStack x y ∧ y.slot (!b) = x.slot (!b)
      ∧ Arrives s x b (y.slot b) (x.slot b) (branchTarget (x.slot b).pc o.imm) := by
  have he : exec (.brx o) s = .next _ := State.withLane_of hm.turn hm.group _
  rw [brx_all h hn, hm.controlIssue_run (by simp)] at he
  exact transfer_step he (.setSlot x b _) (by simp) (by rw [Group.slot_goto, if_pos rfl]) hm.slot_live hm.slot_live

theorem brx_over_spec {s : State} {g : Nat} {b : Bool} {x z : Group} {tag : Nat} (hm : MayIssue s g b x [] [] [] []) (o : IOps)
    (h : (x.slot b).mask &&& x.maskReg o.a ≠ 0) (hn : (x.slot b).mask &&& ~~~(x.maskReg o.a) ≠ 0) (hz : x.newTag = some (tag, z))
    (hf : (x.slot (!b)).live = false) (hl : x.items + (x.slot b).calls.length ≤ s.stackLimit x) :
    ∃ t y, ControlStep (.brx o) s t g x y ∧ y.stack = x.stack ∧ y.nextTag = z.nextTag
      ∧ GoesOn (y.slot b) { x.slot b with mask := (x.slot b).mask &&& ~~~(x.maskReg o.a), tag := tag, outer := (x.slot b).tag }
      ∧ Arrives s x b (y.slot (!b))
          { pc := branchTarget (x.slot b).pc o.imm, mask := (x.slot b).mask &&& x.maskReg o.a, tag := tag, outer := (x.slot b).tag,
            calls := (x.slot b).calls } (branchTarget (x.slot b).pc o.imm) := by
  have he : exec (.brx o) s = .next _ := State.withLane_of hm.turn hm.group _
  rw [brx_over h hn hz hf hl] at he
  unfold brxOver at he
  have hfr := leftOf_frame (b := b) hz ((x.slot b).mask &&& ~~~(x.maskReg o.a)) (x.slot b).tag
  have hsl := leftOf_slot (b := b) hz ((x.slot b).mask &&& ~~~(x.maskReg o.a)) (x.slot b).tag
  generalize leftOf z b ((x.slot b).mask &&& ~~~(x.maskReg o.a)) tag (x.slot b).tag = y0 at he hfr hsl
  rw [hm.controlIssue_run (by rw [hfr]; cases b <;> rfl)] at he
  obtain ⟨t, y, hs, hmv⟩ := controlStep_of_issue he (by rw [hfr]; cases b <;> rfl)
  refine ⟨t, y, hs, ?_, ?_, goesOn_of_landed hmv.slot ?_ rfl hm.slot_live, arrives_of_landed hmv.other ?_ ?_ (by rw [hf]; simp)⟩
  · rw [hmv.rest, hfr]; cases b <;> rfl
  · rw [hmv.rest, hfr]; cases b <;> rfl
  · rw [Group.slot_setSlot, if_neg (by simp), hsl]
  · rw [Group.slot_setSlot, if_pos rfl]
  · rw [Group.slot_setSlot, if_pos rfl]; exact bne_iff_ne.2 h

/-- The group after BRX of some lanes with the other slot live, its slots landed. -/
theorem brxOnto_moved {s : State} {g : Nat} {b : Bool} {x z y0 : Group} {tag : Nat} {left taken : DWord} {target : BitVec 20}
    (hy : y0 = brxOnto z b (x.slot b) taken left target tag) (hz : x.newTag = some (tag, z)) (hlive : (x.slot b).live = true) :
    ∃ y, ((s.setGroup g (s.landed x y0)).noteIssue g b []).group? g = some y
      ∧ y = { x with slotA := y.slotA, slotB := y.slotB, stack := y.stack, nextTag := y.nextTag, outerOf := y.outerOf, issued := x.issued + 1,
                     prods := y.prods, stepsEnd := y.stepsEnd, parked := y.parked, readyAge := y.readyAge }
      ∧ y.nextTag = z.nextTag ∧ y.slot (!b) = x.slot (!b)
      ∧ y.stack = { tag := tag, outer := (x.slot b).tag, defPc := target, defMask := taken, defCalls := (x.slot b).calls } :: x.stack
      ∧ GoesOn (y.slot b) { x.slot b with mask := left, tag := tag }
      ∧ OnlyGroup s ((s.setGroup g (s.landed x y0)).noteIssue g b []) g ∧ SameBytes s ((s.setGroup g (s.landed x y0)).noteIssue g b []) := by
  have hfr := leftOf_frame (b := b) hz left (x.slot b).outer
  have hsl := leftOf_slot (b := b) hz left (x.slot b).outer
  have hot := leftOf_other (b := b) hz left (x.slot b).outer
  unfold brxOnto at hy
  generalize leftOf z b left tag (x.slot b).outer = y1 at hy hfr hsl hot
  have hs : ∀ c, y0.slot c = y1.slot c := by intro c; rw [hy]; cases c <;> rfl
  have hyf : y0 = { x with slotA := y0.slotA, slotB := y0.slotB, stack := y0.stack, nextTag := y0.nextTag, outerOf := y0.outerOf } := by
    rw [hy, hfr]
  obtain ⟨y, hg, hmv, ho, hb⟩ := control_spec (s := s) (g := g) b (x := x) (x' := x) (y := y0) (by rw [hyf])
  refine ⟨y, hg, ?_, ?_, hmv.kept (by rw [hs, hot]), ?_, goesOn_of_landed hmv.slot ?_ rfl hlive, ho, hb⟩
  · rw [hmv.rest]
  · rw [hmv.rest, hy, hfr]
  · rw [hmv.rest, hy, hfr]
  · rw [hs, hsl]

theorem brx_onto_spec {s : State} {g : Nat} {b : Bool} {x z : Group} {tag : Nat} (hm : MayIssue s g b x [] [] [] []) (o : IOps)
    (h : (x.slot b).mask &&& x.maskReg o.a ≠ 0) (hn : (x.slot b).mask &&& ~~~(x.maskReg o.a) ≠ 0) (hz : x.newTag = some (tag, z))
    (hf : (x.slot (!b)).live = true) (hl : x.items + (1 + (x.slot b).calls.length) ≤ s.stackLimit x) (h4 : x.stack.length < 4) :
    ∃ t y, ControlStep (.brx o) s t g x y ∧ y.nextTag = z.nextTag ∧ y.slot (!b) = x.slot (!b)
      ∧ y.stack = { tag := tag, outer := (x.slot b).tag, defPc := branchTarget (x.slot b).pc o.imm,
                    defMask := (x.slot b).mask &&& x.maskReg o.a, defCalls := (x.slot b).calls } :: x.stack
      ∧ GoesOn (y.slot b) { x.slot b with mask := (x.slot b).mask &&& ~~~(x.maskReg o.a), tag := tag } := by
  have he : exec (.brx o) s = .next _ := State.withLane_of hm.turn hm.group _
  rw [brx_onto h hn hz hf hl] at he
  generalize hy0 : brxOnto z b (x.slot b) _ _ _ tag = y0 at he
  obtain ⟨y, hg, hfr, htag, hot, hst, hgo, ho, hb⟩ := brxOnto_moved (s := s) (g := g) hy0.symm hz hm.slot_live
  rw [hm.controlIssue_run (by
    have : y0.stack.length = x.stack.length + 1 := by rw [← hy0, newTag_frame hz]; cases b <;> rfl
    omega)] at he
  exact ⟨_, y, ⟨he, hg, hfr, ho, hb⟩, htag, hot, hst, hgo⟩

theorem brx_spill_spec {s : State} {g : Nat} {b : Bool} {x z : Group} {tag k : Nat} {l : Launch} (hm : MayIssue s g b x [] [] [] []) (o : IOps)
    (h : (x.slot b).mask &&& x.maskReg o.a ≠ 0) (hn : (x.slot b).mask &&& ~~~(x.maskReg o.a) ≠ 0) (hz : x.newTag = some (tag, z))
    (hf : (x.slot (!b)).live = true) (hl : x.items + (1 + (x.slot b).calls.length) ≤ s.stackLimit x) (h4 : 4 ≤ x.stack.length)
    (hla : s.launch? x.launch = some l) (hmap : MapsTo s x.part (stackPlace s x l + 16 * (x.stack.length - 4)) 16 k) :
    ∃ t y, exec (.brx o) s = .next t ∧ t.group? g = some y ∧ y.nextTag = z.nextTag ∧ y.slot (!b) = x.slot (!b)
      ∧ y.stack = { tag := tag, outer := (x.slot b).tag, defPc := branchTarget (x.slot b).pc o.imm,
                    defMask := (x.slot b).mask &&& x.maskReg o.a, defCalls := (x.slot b).calls } :: x.stack
      ∧ GoesOn (y.slot b) { x.slot b with mask := (x.slot b).mask &&& ~~~(x.maskReg o.a), tag := tag } ∧ SameRegisters x y
      ∧ (∀ a, (a < k ∨ k + 16 ≤ a) → t.mem.byte a = s.mem.byte a) ∧ t.clusters = s.clusters := by
  have he : exec (.brx o) s = .next _ := State.withLane_of hm.turn hm.group _
  rw [brx_onto h hn hz hf hl] at he
  generalize hy0 : brxOnto z b (x.slot b) _ _ _ tag = y0 at he
  obtain ⟨y, hg, hfr, htag, hot, hst, hgo, ho, hb⟩ := brxOnto_moved (s := s) (g := g) hy0.symm hz hm.slot_live
  have hnf := State.noteIssue_frame (s.setGroup g (s.landed x y0)) g b []
  unfold State.controlIssue at he
  simp only [hm.gate_control, State.gated] at he
  generalize (s.setGroup g (s.landed x y0)).noteIssue g b [] = t at he hg hnf
  have hlen : y0.stack.length = x.stack.length + 1 := by rw [← hy0, newTag_frame hz]; cases b <;> rfl
  obtain ⟨hmf, hmem⟩ := stackMoves_spill (s := t) (x := x) (y := y0) (l := l) (k := k) (by rw [← hy0, newTag_frame hz]; cases b <;> rfl) hlen h4
    (by rw [hnf]; exact hla) (by rw [hnf]; exact hmap)
  refine ⟨_, y, he, ?_, htag, hot, hst, hgo, ?_, fun a ha => (hmem a ha).trans (by rw [hnf]; rfl), ?_⟩
  · rw [hmf]; exact hg
  · rw [hfr]; exact ⟨rfl, rfl, rfl, rfl⟩
  · rw [hmf, hnf]; rfl

/-! ### JOIN -/

/-- JOIN merges slot b with the other one, and goes on. -/
def joinMerged (x : Group) (b : Bool) : Group :=
  ((x.setSlot b { x.slot b with mask := (x.slot b).mask ||| (x.slot (!b)).mask, tag := (x.slot b).outer,
                                outer := x.outerTag (x.slot b).outer }).freeSlot (!b)).advance b

/-- JOIN lets the deferred part of the top entry run. -/
def joinDeferred (x : Group) (b : Bool) (e : StackEntry) (rest : List StackEntry) : Group :=
  { (x.setSlot b { x.slot b with pc := e.defPc, mask := e.defMask, calls := e.defCalls, past := false }) with
    stack := { e with defRun := true, defCalls := [], arrPc := (x.slot b).pc, arrMask := (x.slot b).mask, arrCalls := (x.slot b).calls,
                      arrBase := none } :: rest }

/-- JOIN pops the top entry, and goes on. -/
def joinPopped (x : Group) (b : Bool) (e : StackEntry) (rest : List StackEntry) : Group :=
  Group.advance { (x.setSlot b { x.slot b with mask := (x.slot b).mask ||| e.arrMask, tag := e.outer, outer := x.outerTag e.outer }) with
                  stack := rest } b

section
variable {x : Group} {b : Bool}

theorem joinWord_outside (h : (x.slot b).tag = 0) : x.joinWord b = x.advance b := by
  unfold Group.joinWord Group.join
  dsimp only
  rw [if_pos h]

theorem joinWord_merged (ht : (x.slot b).tag ≠ 0) (hl : (x.slot (!b)).live = true) (hw : (x.slot (!b)).tag = (x.slot b).tag)
    (hj : (x.slot (!b)).wait = .atJoin) (hp : (x.slot (!b)).pc = (x.slot b).pc) : x.joinWord b = joinMerged x b := by
  unfold Group.joinWord Group.join
  simp [ht, hl, hw, hj, hp, joinMerged]

theorem joinWord_waits (ht : (x.slot b).tag ≠ 0) (hl : (x.slot (!b)).live = true) (hw : (x.slot (!b)).tag = (x.slot b).tag)
    (hj : (x.slot (!b)).wait = .run) : x.joinWord b = x.setSlot b { x.slot b with wait := .atJoin } := by
  unfold Group.joinWord Group.join
  simp [ht, hl, hw, hj]

variable (hw : ¬((x.slot (!b)).live = true ∧ (x.slot (!b)).tag = (x.slot b).tag)) {e : StackEntry} {rest : List StackEntry}
include hw

theorem joinWord_deferred (ht : (x.slot b).tag ≠ 0) (hs : x.stack = e :: rest) (he : e.tag = (x.slot b).tag)
    (hr : e.defRun = false) (hm : e.defMask ≠ 0) : x.joinWord b = joinDeferred x b e rest := by
  have hm' : ¬ e.defMask = 0#64 := hm
  unfold Group.joinWord Group.join
  simp [ht, hw, hs, he, hr, hm', joinDeferred]

theorem joinWord_popped (ht : (x.slot b).tag ≠ 0) (hs : x.stack = e :: rest) (he : e.tag = (x.slot b).tag)
    (hr : e.defRun = true ∨ e.defMask = 0) : x.joinWord b = joinPopped x b e rest := by
  have hc : ¬(e.defRun = false ∧ ¬e.defMask = 0#64) := fun ⟨hd, hm⟩ => hr.elim (by simp [hd]) hm
  unfold Group.joinWord Group.join
  simp [ht, hw, hs, he, hc, joinPopped]

theorem join_unnested (hs : ∀ e, x.stack.head? = some e → e.tag ≠ (x.slot b).tag) : x.join b none = (x, .noEffect) := by
  unfold Group.join
  simp only [Bool.and_eq_true, decide_eq_true_eq, if_neg hw]
  split
  · rfl
  · cases hst : x.stack with
    | nil => rfl
    | cons e rest => simp only [if_pos (hs e (by rw [hst]; rfl))]

theorem joinWord_unnested (hs : ∀ e, x.stack.head? = some e → e.tag ≠ (x.slot b).tag) : x.joinWord b = x.advance b := by
  unfold Group.joinWord
  rw [join_unnested hw hs]

end

/-- A slot freed leaves the other one, which may only be waiting no longer (R251). -/
theorem freeSlot_other (x : Group) (c : Bool) : ∃ w, (x.freeSlot c).slot (!c) = { x.slot (!c) with wait := w } := by
  unfold Group.freeSlot
  rw [Group.slot_modSlot, if_pos rfl, Group.slot_setSlot, if_neg (by simp)]
  split
  · exact ⟨_, rfl⟩
  · exact ⟨_, rfl⟩

theorem slotsOnly_freeSlot (x : Group) (c : Bool) : SlotsOnly x (x.freeSlot c) := (SlotsOnly.setSlot x c {}).trans (.setSlot _ (!c) _)

theorem slotsOnly_joinMerged (x : Group) (b : Bool) : SlotsOnly x (joinMerged x b) :=
  (SlotsOnly.setSlot x b _).trans ((slotsOnly_freeSlot _ (!b)).trans (.setSlot _ b _))

theorem joinMerged_slot (x : Group) (b : Bool) :
    (joinMerged x b).slot b = { x.slot b with
      mask := (x.slot b).mask ||| (x.slot (!b)).mask, tag := (x.slot b).outer, outer := Sp.getD x.outerOf (x.slot b).outer 0
      pc := (x.slot b).pc + 1, past := (x.slot b).past || offOf (x.slot b).pc == 4095, wait := .run, waitAt := 0, wants := [] } := by
  unfold joinMerged
  generalize hy : x.setSlot b _ = y
  obtain ⟨w, hw⟩ := freeSlot_other y (!b)
  rw [Bool.not_not] at hw
  rw [Group.slot_advance, if_pos rfl, hw, ← hy, Group.slot_setSlot, if_pos rfl]
  rfl

theorem joinMerged_other (x : Group) (b : Bool) : ((joinMerged x b).slot (!b)).live = false := by
  unfold joinMerged Group.freeSlot
  rw [Group.slot_advance, if_neg (by simp), Group.slot_modSlot, if_neg (by simp), Group.slot_setSlot, if_pos rfl]
  rfl

/-- A control word that pops an entry of the stack. -/
theorem MayIssue.controlIssue_refill {s : State} {g : Nat} {b : Bool} {x y : Group} (h : MayIssue s g b x [] [] [] [])
    (hy : y = { x with slotA := y.slotA, slotB := y.slotB, stack := y.stack, nextTag := y.nextTag, outerOf := y.outerOf })
    (hl : y.stack.length + 1 = x.stack.length) (hb : StackBack s x) :
    s.controlIssue g b x [] (some y) = (s.setGroup g (s.landed x y)).noteIssue g b [] := by
  unfold State.controlIssue
  simp only [h.gate_control, State.gated]
  have hf := State.noteIssue_frame (s.setGroup g (s.landed x y)) g b []
  generalize (s.setGroup g (s.landed x y)).noteIssue g b [] = t at hf
  refine stackMoves_refill hy hl (hb.imp_right (fun h l hla => ?_))
  have hla' : s.launch? x.launch = some l := by rw [hf] at hla; exact hla
  rw [readVirtual_congr (s := s) (t := t) _ _ _ (by intro va; rw [hf]; rfl) (by rw [hf]; rfl), show stackPlace t x l = stackPlace s x l by rw [hf]; rfl]
  exact h l hla'

section
variable {s : State} {g : Nat} {b : Bool} {x : Group} (hm : MayIssue s g b x [] [] [] [])
include hm

/-- A JOIN that has no effect goes on. -/
theorem join_goOn_spec (o : Ops) (h : x.joinWord b = x.advance b) : ∃ t y, SameRegisters x y ∧ LaneStep (.join o) s t g b x y := by
  have he : exec (.join o) s = .next _ := State.withLane_of hm.turn hm.group _
  rw [h] at he
  exact goOn_spec hm he

/-- A JOIN that leaves the stack area alone. -/
theorem exec_join {o : Ops} {y : Group} (h : x.joinWord b = y) (hst : y.stack.length - 4 = x.stack.length - 4) :
    exec (.join o) s = .next ((s.setGroup g (s.landed x y)).noteIssue g b []) := by
  have he : exec (.join o) s = .next _ := State.withLane_of hm.turn hm.group _
  rw [h, hm.controlIssue_run hst] at he
  exact he

theorem join_merged_spec (o : Ops) (ht : (x.slot b).tag ≠ 0) (hl : (x.slot (!b)).live = true) (hw : (x.slot (!b)).tag = (x.slot b).tag)
    (hj : (x.slot (!b)).wait = .atJoin) (hp : (x.slot (!b)).pc = (x.slot b).pc) :
    ∃ t y, ControlStep (.join o) s t g x y ∧ SameStack x y ∧ (y.slot (!b)).live = false
      ∧ GoesOn (y.slot b) { x.slot b with mask := (x.slot b).mask ||| (x.slot (!b)).mask, tag := (x.slot b).outer,
                                          outer := Sp.getD x.outerOf (x.slot b).outer 0 } := by
  have hfr := slotsOnly_joinMerged x b
  have hsl := joinMerged_slot x b
  have hot := joinMerged_other x b
  have he := exec_join hm (o := o) (joinWord_merged ht hl hw hj hp) (by rw [hfr])
  generalize joinMerged x b = y0 at he hfr hsl hot
  obtain ⟨t, y, hs, hmv⟩ := controlStep_of_issue he (by rw [hfr])
  refine ⟨t, y, hs, ?_, ?_, goesOn_of_landed hmv.slot (by rw [hsl]) rfl hm.slot_live⟩
  · unfold SameStack
    rw [hmv.rest, hfr]
    exact ⟨rfl, rfl, rfl⟩
  · rw [hmv.other]; exact hot

theorem join_waits_spec (o : Ops) (ht : (x.slot b).tag ≠ 0) (hl : (x.slot (!b)).live = true) (hw : (x.slot (!b)).tag = (x.slot b).tag)
    (hj : (x.slot (!b)).wait = .run) :
    ∃ t y, ControlStep (.join o) s t g x y ∧ SameStack x y ∧ y.slot (!b) = x.slot (!b)
      ∧ y.slot b = { x.slot b with wait := .atJoin, age := (y.slot b).age } := by
  have he := exec_join hm (o := o) (joinWord_waits ht hl hw hj) (by simp)
  have hs : SlotsOnly x (x.setSlot b { x.slot b with wait := .atJoin }) := .setSlot x b _
  obtain ⟨t, y, hs', hmv⟩ := controlStep_of_issue he (by rw [hs])
  refine ⟨t, y, hs', ?_, hmv.kept (by simp), ?_⟩
  · unfold SameStack
    rw [hmv.rest, hs]
    exact ⟨rfl, rfl, rfl⟩
  · rw [hmv.slot, Group.slot_setSlot, if_pos rfl,
      show landedSlot s x b { x.slot b with wait := .atJoin } = { landedSlot s x b (x.slot b) with wait := .atJoin } from rfl, landedSlot_self]

theorem join_deferred_spec (o : Ops) (ht : (x.slot b).tag ≠ 0) (hw : ¬((x.slot (!b)).live = true ∧ (x.slot (!b)).tag = (x.slot b).tag))
    {e : StackEntry} {rest : List StackEntry} (hs : x.stack = e :: rest) (he : e.tag = (x.slot b).tag) (hr : e.defRun = false) (hd : e.defMask ≠ 0) :
    ∃ t y, ControlStep (.join o) s t g x y ∧ y.slot (!b) = x.slot (!b)
      ∧ Arrives s x b (y.slot b) { x.slot b with mask := e.defMask, calls := e.defCalls } e.defPc
      ∧ y.stack = { e with defRun := true, defCalls := [], arrPc := (x.slot b).pc, arrMask := (x.slot b).mask, arrCalls := (x.slot b).calls,
                           arrBase := none } :: rest := by
  have hx := exec_join hm (o := o) (joinWord_deferred hw ht hs he hr hd) (by rw [hs]; rfl)
  obtain ⟨t, y, hs', hmv⟩ := controlStep_of_issue hx (by cases b <;> rfl)
  refine ⟨t, y, hs', hmv.kept (by cases b <;> rfl), arrives_of_landed hmv.slot ?_ ?_ (by rw [hm.slot_live]; rfl), ?_⟩
  · have hsl : (joinDeferred x b e rest).slot b = { x.slot b with pc := e.defPc, mask := e.defMask, calls := e.defCalls, past := false } := by
      cases b <;> rfl
    rw [hsl]
    dsimp only
    rw [hm.ready]
  · cases b <;> exact bne_iff_ne.2 hd
  · rw [hmv.rest]; rfl

theorem join_popped_spec (o : Ops) (ht : (x.slot b).tag ≠ 0) (hw : ¬((x.slot (!b)).live = true ∧ (x.slot (!b)).tag = (x.slot b).tag))
    {e : StackEntry} {rest : List StackEntry} (hs : x.stack = e :: rest) (he : e.tag = (x.slot b).tag) (hr : e.defRun = true ∨ e.defMask = 0)
    (hb : StackBack s x) :
    ∃ t y, ControlStep (.join o) s t g x y ∧ y.slot (!b) = x.slot (!b) ∧ y.stack = rest
      ∧ GoesOn (y.slot b) { x.slot b with mask := (x.slot b).mask ||| e.arrMask, tag := e.outer, outer := Sp.getD x.outerOf e.outer 0 } := by
  have hx : exec (.join o) s = .next _ := State.withLane_of hm.turn hm.group _
  rw [joinWord_popped hw ht hs he hr] at hx
  have hfr : joinPopped x b e rest = { x with slotA := (joinPopped x b e rest).slotA, slotB := (joinPopped x b e rest).slotB, stack := rest } := by
    cases b <;> rfl
  have hsl : (joinPopped x b e rest).slot b = { x.slot b with
      mask := (x.slot b).mask ||| e.arrMask, tag := e.outer, outer := x.outerTag e.outer, pc := (x.slot b).pc + 1
      past := (x.slot b).past || offOf (x.slot b).pc == 4095, wait := .run, waitAt := 0, wants := [] } := by
    cases b <;> rfl
  have hot : (joinPopped x b e rest).slot (!b) = x.slot (!b) := by cases b <;> rfl
  generalize joinPopped x b e rest = y0 at hx hfr hsl hot
  rw [hm.controlIssue_refill (by rw [hfr]) (by rw [hfr, hs]; rfl) hb] at hx
  obtain ⟨t, y, hs', hmv⟩ := controlStep_of_issue hx (by rw [hfr])
  refine ⟨t, y, hs', hmv.kept hot, ?_, goesOn_of_landed hmv.slot ?_ rfl hm.slot_live⟩
  · rw [hmv.rest, hfr]
  · rw [hsl]; rfl

end

/-! ### The statement -/

/-- Settles O9: BRX by the parts that it makes of its slot, JOIN row by row of R46. -/
theorem divergence : Obligations.Divergence := by
  unfold Obligations.Divergence
  refine ⟨fun s g b x o hm => ⟨brx_none_spec hm o, brx_all_spec hm o, fun h hn tag z hz => ⟨brx_over_spec hm o h hn hz, brx_onto_spec hm o h hn hz,
      fun l k hf hl h4 hla hmap => brx_spill_spec hm o h hn hz hf hl h4 hla hmap⟩⟩, fun s g b x o hm => ?_⟩
  exact ⟨fun ht => join_goOn_spec hm o (joinWord_outside ht), join_merged_spec hm o, join_waits_spec hm o,
    fun ht hw e rest hs he => ⟨join_deferred_spec hm o ht hw hs he, join_popped_spec hm o ht hw hs he⟩,
    fun _ hw hs => join_goOn_spec hm o (joinWord_unnested hw hs)⟩

end Sys2Proof.Claims
end

section
/-! EXIT (R249) and CUEPT (R251): lanes that leave, the exit of a group, and a cue point. Settles O10. -/

namespace Sys2Proof.Claims

open Sys2Proof Sys2Proof.Machine

/-! ### Lanes that leave a slot -/

/-- The stack without some lanes. -/
def stackWithout (x : Group) (m : DWord) : List StackEntry :=
  x.stack.map (fun e => { e with defMask := e.defMask &&& ~~~m, arrMask := e.arrMask &&& ~~~m })

theorem and_not_of_disjoint {v m : DWord} (h : v &&& m = 0) : v &&& ~~~m = v := by
  refine BitVec.eq_of_getLsbD_eq (fun i hi => ?_)
  have hb : (v &&& m).getLsbD i = false := by rw [h]; simp
  rw [BitVec.getLsbD_and] at hb
  rw [BitVec.getLsbD_and, BitVec.getLsbD_not]
  cases hv : v.getLsbD i <;> simp_all

theorem setSlot_self (x : Group) (b : Bool) : x.setSlot b (x.slot b) = x := by cases b <;> rfl

/-- Lanes leave one slot: with its last one the table of R249 decides it. -/
def dropOne (x : Group) (b : Bool) (m : DWord) : Group :=
  if (x.slot b).mask &&& m = 0 then x
  else
    let y := x.setSlot b { x.slot b with mask := (x.slot b).mask &&& ~~~m }
    if (x.slot b).mask &&& ~~~m = 0 then y.vacate b y.vacateFuel else y

theorem dropLanes_one (x : Group) (b : Bool) (m : DWord) : x.dropLanes m false b = dropOne { x with stack := stackWithout x m } b m := by
  rfl

theorem dropOne_keeps {x : Group} {b : Bool} {m : DWord} (h : (x.slot b).mask &&& ~~~m ≠ 0) :
    dropOne x b m = x.setSlot b { x.slot b with mask := (x.slot b).mask &&& ~~~m } := by
  unfold dropOne
  split
  · next h0 =>
    rw [and_not_of_disjoint h0]
    exact (setSlot_self x b).symm
  · rfl

/-- Every lane leaves slot b of a group with an empty stack whose other slot is free: the slot is free. -/
theorem dropOne_all {x : Group} {b : Bool} {m : DWord} (hl : (x.slot b).mask ≠ 0) (h : (x.slot b).mask &&& ~~~m = 0) (hs : x.stack = [])
    (ho : (x.slot (!b)).live = false) :
    dropOne x b m = (x.setSlot b { x.slot b with mask := 0 }).freeSlot b := by
  have h0 : (x.slot b).mask &&& m ≠ 0 := fun h0 => hl (by rw [← and_not_of_disjoint h0, h])
  unfold dropOne
  dsimp only
  rw [if_neg h0, if_pos h, h]
  have hst : (x.setSlot b { x.slot b with mask := 0 }).stack = [] := by rw [Group.setSlot_stack, hs]
  generalize hy : x.setSlot b _ = y at hst
  have hoy : (y.slot (!b)).live = false := by rw [← hy, Group.slot_setSlot, if_neg (by simp), ho]
  unfold Group.vacateFuel
  rw [hst]
  unfold Group.vacate
  simp [hoy, hst]

/-- Lanes leave slot b, which keeps some. -/
theorem dropLanes_keeps {x : Group} {b : Bool} {m : DWord} (h : (x.slot b).mask &&& ~~~m ≠ 0) :
    x.dropLanes m false b = Group.setSlot { x with stack := stackWithout x m } b { x.slot b with mask := (x.slot b).mask &&& ~~~m } := by
  have hs : ({ x with stack := stackWithout x m } : Group).slot b = x.slot b := by cases b <;> rfl
  rw [dropLanes_one, dropOne_keeps (by rw [hs]; exact h), hs]

/-- Every lane leaves a group with an empty stack: both of its slots are free. -/
theorem dropLanes_all {x : Group} {b : Bool} {m : DWord} (hl : (x.slot b).mask ≠ 0) (h : (x.slot b).mask &&& ~~~m = 0) (hs : x.stack = [])
    (ho : (x.slot (!b)).live = false) : x.dropLanes m false b = (x.setSlot b { x.slot b with mask := 0 }).freeSlot b := by
  have hx : ({ x with stack := stackWithout x m } : Group) = x := by unfold stackWithout; rw [hs, List.map_nil, ← hs]
  rw [dropLanes_one, hx, dropOne_all hl h hs ho]

/-! ### The exit of a group -/

/-- From s to t neither a byte of device memory nor a group, resident or gone, differs. -/
structure GroupsStay (s t : State) : Prop where
  mem : t.mem = s.mem
  groups : t.groups = s.groups
  oldGroups : t.oldGroups = s.oldGroups

theorem GroupsStay.refl (s : State) : GroupsStay s s := ⟨rfl, rfl, rfl⟩

theorem GroupsStay.trans {s t u : State} (h : GroupsStay s t) (k : GroupsStay t u) : GroupsStay s u :=
  ⟨k.mem.trans h.mem, k.groups.trans h.groups, k.oldGroups.trans h.oldGroups⟩

theorem GroupsStay.ite {s t u : State} {p : Prop} [Decidable p] (h : GroupsStay s t) (k : GroupsStay s u) : GroupsStay s (if p then t else u) := by
  split <;> assumption

/-- A step that is taken only in some case. -/
theorem GroupsStay.iteThen {s t u : State} {p : Prop} [Decidable p] (h : GroupsStay s t) (k : GroupsStay t u) : GroupsStay s (if p then u else t) :=
  .ite (h.trans k) h

theorem GroupsStay.foldl {α : Type} {f : State → α → State} (h : ∀ s a, GroupsStay s (f s a)) (l : List α) (s : State) : GroupsStay s (l.foldl f s) := by
  induction l generalizing s with
  | nil => exact .refl s
  | cons a l ih => exact (h s a).trans (ih _)

theorem groupsStay_leaveEnsemble (s : State) (t : Nat) : GroupsStay s (s.leaveEnsemble t) := by
  unfold State.leaveEnsemble
  split
  · exact .refl s
  · split <;> exact ⟨rfl, rfl, rfl⟩

theorem groupsStay_stopCtx (s : State) (xk : Nat) : GroupsStay s (s.stopCtx xk) := by
  unfold State.stopCtx
  split
  · exact .refl s
  · exact ⟨rfl, rfl, rfl⟩

theorem groupsStay_reapTeam (s : State) (t : Nat) : GroupsStay s (s.reapTeam t) := by
  unfold State.reapTeam
  split
  · exact .refl s
  · exact .ite (.ite ⟨rfl, rfl, rfl⟩ ⟨rfl, rfl, rfl⟩) (.refl s)

theorem groupsStay_reapCtx (s : State) (xk : Nat) : GroupsStay s (s.reapCtx xk) := .ite (.refl s) (groupsStay_stopCtx s xk)

theorem groupsStay_stopMirror (s : State) (ck l : Nat) : GroupsStay s (s.stopMirror ck l) := by
  unfold State.stopMirror
  exact .foldl (fun s (p : Nat × Ctx) => groupsStay_stopCtx s p.1) _ s

theorem groupsStay_exitOne (s : State) (t : Nat) : GroupsStay s (s.exitOne t) := by
  unfold State.exitOne
  split
  · exact .refl s
  · dsimp only
    refine .iteThen (.trans ?_ (groupsStay_reapCtx _ _)) (groupsStay_stopMirror _ _ _)
    have h := groupsStay_leaveEnsemble s t
    split
    · refine .trans (h.trans ?_) (groupsStay_reapTeam _ t)
      exact ⟨rfl, rfl, rfl⟩
    · refine .trans (.trans (h.trans ?_) (groupsStay_reapTeam _ t)) (groupsStay_reapTeam _ _)
      exact ⟨rfl, rfl, rfl⟩

theorem groupsStay_exitTeam (s : State) (t : Nat) : GroupsStay s (s.exitTeam t) := by
  unfold State.exitTeam
  dsimp only
  split
  · exact .ite (.refl s) (groupsStay_exitOne s t)
  · exact .ite (groupsStay_exitOne s t) (.ite ((groupsStay_exitOne s _).trans (groupsStay_exitOne _ _)) (.refl s))

theorem groupsStay_lowerCounted (s : State) (b : Nat) : GroupsStay s (s.lowerCounted b) := .ite ⟨rfl, rfl, rfl⟩ (.refl s)

/-- The table entries of a group that leaves its slice, moved to those that are gone. -/
def withdrawn (s : State) (g : Nat) (x : Group) : State :=
  { s with groups := Sp.erase s.groups g, oldGroups := Sp.set s.oldGroups g { x with run := .exited, onStage := false, parked := false } }

/-- The exit of a group noted in the pair of its team (R183). -/
def leftPair (s : State) (x : Group) : State :=
  match s.pairOf? x.team with
  | none => s
  | some p => s.modPair p.lead (fun q => { q with exits := q.exits ++ [(x.index, p.lead == x.team, x.events)] })

/-- What the exit of a group leaves to its team, where it was the last: the team exits. -/
def teamExit (s : State) (t : Nat) : State :=
  match s.team? t with
  | none => s
  | some tm => if tm.ngroups ≤ tm.gone.length then s.exitTeam t else s

theorem groupsStay_teamExit (s : State) (t : Nat) : GroupsStay s (teamExit s t) := by
  unfold teamExit
  split
  · exact .refl s
  · exact .iteThen (.refl s) (groupsStay_exitTeam s t)

/-- Barrier words lowered by a group that has died. -/
theorem groupsStay_lowered (s : State) (bars : List Nat) (p : Prop) [Decidable p] : GroupsStay s (if p then bars.foldl State.lowerCounted s else s) :=
  .iteThen (.refl s) (.foldl groupsStay_lowerCounted bars s)

theorem groupsStay_exitGroup {s : State} {g : Nat} {x : Group} (hg : s.group? g = some x) : GroupsStay (withdrawn s g x) (s.exitGroup g) := by
  unfold State.exitGroup
  rw [hg]
  refine .trans ?_ (groupsStay_teamExit _ x.team)
  have hp : ∀ u : State, GroupsStay u (leftPair u x) := fun u => by
    unfold leftPair
    split <;> exact ⟨rfl, rfl, rfl⟩
  refine ⟨(hp _).mem.trans (groupsStay_lowered _ _ _).mem, (hp _).groups.trans (groupsStay_lowered _ _ _).groups,
    (hp _).oldGroups.trans (groupsStay_lowered _ _ _).oldGroups⟩

/-- A group that leaves its slice: what it held is kept, and no byte of device memory changes. -/
theorem exitGroup_spec {s : State} {g : Nat} {x : Group} (hg : s.group? g = some x) :
    (s.exitGroup g).mem = s.mem ∧ (s.exitGroup g).group? g = none
      ∧ Sp.get? (s.exitGroup g).oldGroups g = some { x with run := .exited, onStage := false, parked := false } := by
  have h := groupsStay_exitGroup hg
  refine ⟨h.mem, ?_, ?_⟩
  · unfold State.group?
    rw [h.groups]
    exact Sp.get?_erase_self _ _
  · rw [h.oldGroups]
    exact (Sp.get?_set _ _ _ _).trans (if_pos rfl)

/-! ### EXIT -/

/-- The group after lanes have left slot b by EXIT. -/
def afterExit (x : Group) (b : Bool) (m : DWord) : Group :=
  if (x.slot b).mask &&& ~~~m = 0 then x.dropLanes m false b else (x.dropLanes m false b).advance b

theorem exec_exit {s : State} {g : Nat} {b : Bool} {x y : Group} {o : Ops} (hm : MayIssue s g b x [] [] [] [])
    (hy : afterExit x b (lanesMask (x.writers b o.p o.pn)) = y) (hst : y.stack.length - 4 = x.stack.length - 4) :
    exec (.exit o) s = .next (if y.empty then ((s.setGroup g (s.landed x y)).noteIssue g b []).exits g
      else (s.setGroup g (s.landed x y)).noteIssue g b []) := by
  have he : exec (.exit o) s = .next _ := State.withLane_of hm.turn hm.group _
  dsimp only at he
  rw [hm.gate_control] at he
  unfold afterExit at hy
  rw [hy, stackMoves_same _ hst] at he
  exact he

theorem exit_some_spec {s : State} {g : Nat} {b : Bool} {x : Group} {o : Ops} (hm : MayIssue s g b x [] [] [] []) {m : DWord}
    (hmk : m = lanesMask (x.writers b o.p o.pn)) (hl : (x.slot b).mask &&& ~~~m ≠ 0) :
    ∃ t y, ControlStep (.exit o) s t g x y ∧ GoesOn (y.slot b) { x.slot b with mask := (x.slot b).mask &&& ~~~m }
      ∧ y.slot (!b) = x.slot (!b) ∧ y.nextTag = x.nextTag ∧ y.stack = stackWithout x m := by
  have hy : afterExit x b m = Group.advance (Group.setSlot { x with stack := stackWithout x m } b { x.slot b with mask := (x.slot b).mask &&& ~~~m }) b := by
    unfold afterExit
    rw [if_neg hl, dropLanes_keeps hl]
  generalize hy0 : Group.advance (Group.setSlot { x with stack := stackWithout x m } b { x.slot b with mask := (x.slot b).mask &&& ~~~m }) b = y0 at hy
  have hfr : y0 = { x with slotA := y0.slotA, slotB := y0.slotB, stack := stackWithout x m } := by rw [← hy0]; cases b <;> rfl
  have hsl : y0.slot b = { x.slot b with
      mask := (x.slot b).mask &&& ~~~m, pc := (x.slot b).pc + 1
      past := (x.slot b).past || offOf (x.slot b).pc == 4095, wait := .run, waitAt := 0, wants := [] } := by
    rw [← hy0]; cases b <;> rfl
  have hot : y0.slot (!b) = x.slot (!b) := by rw [← hy0]; cases b <;> rfl
  have hlen : y0.stack.length = x.stack.length := by rw [hfr]; exact List.length_map _
  have hne : y0.empty = false := by
    have hlive : (y0.slot b).live = true := by rw [hsl]; exact bne_iff_ne.2 hl
    unfold Group.empty
    cases b
    · rw [show y0.slotA.live = true from hlive]; rfl
    · rw [show y0.slotB.live = true from hlive]; simp
  have he := exec_exit (o := o) (y := y0) hm (by rw [← hmk, hy]) (by rw [hlen])
  rw [hne, if_neg (by simp)] at he
  obtain ⟨t, y, hs, hmv⟩ := controlStep_of_issue he (by rw [hfr])
  refine ⟨t, y, hs, goesOn_of_landed hmv.slot ?_ rfl hm.slot_live, hmv.kept hot, ?_, ?_⟩
  · rw [hsl]
  · rw [hmv.rest, hfr]
  · rw [hmv.rest, hfr]

theorem exit_last_spec {s : State} {g : Nat} {b : Bool} {x : Group} {o : Ops} (hm : MayIssue s g b x [] [] [] []) {m : DWord}
    (hmk : m = lanesMask (x.writers b o.p o.pn)) (hl : (x.slot b).mask &&& ~~~m = 0) (hst : x.stack = []) (ho : (x.slot (!b)).live = false) :
    ∃ t y, exec (.exit o) s = .next t ∧ (∀ a, t.mem.byte a = s.mem.byte a) ∧ t.group? g = none
      ∧ Sp.get? t.oldGroups g = some y ∧ y.run = .exited ∧ SameRegisters x y := by
  have hy : afterExit x b m = (x.setSlot b { x.slot b with mask := 0 }).freeSlot b := by
    unfold afterExit
    rw [if_pos hl, dropLanes_all hm.live hl hst ho]
  have hfr : SlotsOnly x ((x.setSlot b { x.slot b with mask := 0 }).freeSlot b) := (SlotsOnly.setSlot x b _).trans (slotsOnly_freeSlot _ b)
  have hfree : (((x.setSlot b { x.slot b with mask := 0 }).freeSlot b).slot b).live = false := by
    unfold Group.freeSlot
    rw [Group.slot_modSlot, if_neg (by simp), Group.slot_setSlot, if_pos rfl]
    rfl
  have hother : (((x.setSlot b { x.slot b with mask := 0 }).freeSlot b).slot (!b)).live = false := by
    obtain ⟨w, hw⟩ := freeSlot_other (x.setSlot b { x.slot b with mask := 0 }) b
    rw [hw, Group.slot_setSlot, if_neg (by simp)]
    exact ho
  generalize (x.setSlot b { x.slot b with mask := 0 }).freeSlot b = y0 at hy hfr hfree hother
  have hstack : y0.stack = [] := by rw [hfr]; exact hst
  have hempty : y0.empty = true := by
    unfold Group.empty
    rw [hstack]
    cases b
    · rw [show y0.slotA.live = false from hfree, show y0.slotB.live = false from hother]; rfl
    · rw [show y0.slotA.live = false from hother, show y0.slotB.live = false from hfree]; rfl
  have he := exec_exit (o := o) (y := y0) hm (by rw [← hmk, hy]) (by rw [hstack, hst])
  rw [hempty, if_pos rfl] at he
  obtain ⟨z, hz, hmv, ho', hb⟩ := control_spec (s := s) (g := g) b (x := x) (x' := x) (y := y0) (by rw [hfr])
  generalize (s.setGroup g (s.landed x y0)).noteIssue g b [] = t at he hz ho' hb
  have hrel : (t.release g).group? g = some { z with rels := z.rels + 1 } := by
    unfold State.release
    rw [hz]
    exact (State.group?_setGroup _ _ _ _).trans (if_pos rfl)
  obtain ⟨hmem, hnone, hold⟩ := exitGroup_spec hrel
  refine ⟨_, _, he, fun a => ?_, hnone, hold, rfl, ?_⟩
  · unfold State.exits
    rw [hmem, show (t.release g).mem = t.mem by unfold State.release; rw [hz]; rfl]
    exact hb.1 a
  · rw [hmv.rest]; exact ⟨rfl, rfl, rfl, rfl⟩

/-! ### CUEPT -/

/-- A group whose only live slot waits for a cue is not parked by that (R22). -/
theorem park_atCue {s : State} {g : Nat} {b : Bool} {x : Group} (hg : s.group? g = some x) (hl : (x.slot b).live = true)
    (ho : (x.slot (!b)).live = false) (n : Nat) :
    (s.park g b (.atCue n)).group? g = some (x.modSlot b (fun v => { v with wait := .atCue n, wants := [] })) := by
  have hp : (x.modSlot b (fun v => { v with wait := .atCue n, wants := [] })).mayPark = false := by
    unfold Group.mayPark Slot.joins
    cases b
    · change x.slotA.live = true at hl
      change x.slotB.live = false at ho
      show (x.slotA.live && (Wait.atCue n == Wait.engine) || x.slotB.live && _ || (!x.slotA.live || _) && _) = false
      rw [hl, ho]
      rfl
    · change x.slotB.live = true at hl
      change x.slotA.live = false at ho
      show (x.slotA.live && _ || x.slotB.live && (Wait.atCue n == Wait.engine) || (!x.slotA.live || _) && (!x.slotB.live || _)) = false
      rw [hl, ho]
      rfl
  unfold State.park
  rw [State.group?_modGroup, if_pos rfl, hg]
  simp only [Option.map_some, hp, Bool.false_and, Bool.false_eq_true, if_false]

/-- A slot that stands at a cue point. -/
def standsAtCue (v : Slot) : Bool := v.live && (match v.wait with | .teamCue _ => true | .atCue _ => true | _ => false)

/-- The slots of a group that stand at a cue point go on. -/
def cueSlots (z : Group) : Group :=
  let y := if standsAtCue z.slotA then z.advance false else z
  if standsAtCue z.slotB then y.advance true else y

theorem cueSlots_one {z : Group} {b : Bool} {m : Nat} (hl : (z.slot b).live = true) (hw : (z.slot b).wait = .atCue m)
    (ho : (z.slot (!b)).live = false) : cueSlots z = z.advance b := by
  have hb : standsAtCue (z.slot b) = true := by unfold standsAtCue; rw [hl, hw]; rfl
  have hn : standsAtCue (z.slot (!b)) = false := by unfold standsAtCue; rw [ho]; rfl
  unfold cueSlots
  cases b
  · exact (if_neg (by rw [show standsAtCue z.slotB = false from hn]; simp)).trans (if_pos hb)
  · exact (if_pos hb).trans (by rw [if_neg]; rw [show standsAtCue z.slotA = false from hn]; simp)

/-- The group z at its cue point, when the cue count becomes n. -/
def cued (s : State) (z : Group) (n : Nat) : Group :=
  ({ Group.ageSlot (s.sliceNow z) z (Group.ageSlot (s.sliceNow z) z (cueSlots z) false) true with
      cue := BitVec.ofNat 32 n, cutStop := (s.part z.part).stopsAt n } : Group).unpark (s.sliceNow z)

theorem slotsOnly_cueSlots (z : Group) : SlotsOnly z (cueSlots z) := by
  have h : SlotsOnly z (if standsAtCue z.slotA then z.advance false else z) := .ite (.setSlot z false _) (.refl z)
  exact .ite (h.trans (.setSlot _ true _)) h

/-- A group at its cue point: the cue count is set, and the slots that stood there go on. -/
theorem cued_frame (s : State) (z : Group) (n : Nat) :
    cued s z n = { z with slotA := (cued s z n).slotA, slotB := (cued s z n).slotB, cue := BitVec.ofNat 32 n,
                          cutStop := (s.part z.part).stopsAt n, parked := (cued s z n).parked, readyAge := (cued s z n).readyAge } := by
  have h : SlotsOnly z (Group.ageSlot (s.sliceNow z) z (Group.ageSlot (s.sliceNow z) z (cueSlots z) false) true) :=
    (slotsOnly_cueSlots z).trans ((slotsOnly_ageSlot _ z _ false).trans (slotsOnly_ageSlot _ z _ true))
  unfold cued
  rw [Group.unpark_frame, h]

theorem cued_slot (s : State) (z : Group) (n : Nat) (c : Bool) :
    (cued s z n).slot c = if (cueSlots z).slot c = z.slot c then (cueSlots z).slot c else { (cueSlots z).slot c with age := s.sliceNow z } := by
  have h := ageSlot_both_slot (s.sliceNow z) z (cueSlots z) c
  unfold cued
  rw [Group.unpark_slot, ← h]
  cases c <;> rfl

theorem cueDone_run {s : State} {g n : Nat} {z : Group} (hg : s.group? g = some z) (hc : (s.part z.part).cutState ≠ 1) :
    s.cueDone g n = (s.setGroup g (cued s z n)).armCue z n := by
  have hst : ∀ t : State, (t.part z.part).cutState ≠ 1 → t.cutSettle z.part = t := by
    intro t ht
    unfold State.cutSettle
    dsimp only
    rw [if_pos (bne_iff_ne.2 ht)]
  have hrun : s.cueDone g n = ((s.setGroup g (cued s z n)).armCue z n).cutSettle z.part := by
    unfold State.cueDone
    rw [hg]
    rfl
  exact hrun.trans (hst _ hc)

/-- The issue of CUEPT in a group with one live slot (R251). -/
theorem exec_cuept {s : State} {g : Nat} {b : Bool} {x : Group} {o : Ops} {l n : Nat} (hl : l = (lowestLane (x.slot b).mask).getD 0)
    (hn : n = x.read .src32 o.a l 0) (hm : MayIssue s g b x [l] [l] [(.src32, o.a)] []) (hd : s.allDone g x = true)
    (hs : x.stepsDone (s.issueCycle x) = true) (ho : (x.slot (!b)).live = false) (hc : x.cue.toNat < n) (hp : s.pairOf? x.team = none) :
    exec (.cuept o) s = .next (((s.park g b (.atCue n)).noteIssue g b []).cueDone g n) := by
  have he : exec (.cuept o) s = .next _ := State.withLane_of hm.turn hm.group _
  dsimp only at he
  rw [← hl, ← hn, MayIssue.gate_go (uni := false) hm, Group.consumers_nil hm.clean] at he
  simp only [State.gated, hd, hs, ho, hp, Bool.not_true, Bool.or_self, Bool.false_eq_true, if_false, List.isEmpty_nil, Bool.false_and] at he
  rw [if_neg (by omega)] at he
  exact he

theorem issuedAt_slot (x : Group) (b : Bool) (n : Nat) (ps : List Producer) (c : Bool) :
    (x.issuedAt b n ps).slot c = if c = b then { x.slot c with age := n } else x.slot c := by
  unfold Group.issuedAt
  rw [Group.unpark_slot]
  cases b <;> cases c <;> rfl

theorem cuept_spec {s : State} {g : Nat} {b : Bool} {x : Group} {o : Ops} {l n : Nat} (hl : l = (lowestLane (x.slot b).mask).getD 0)
    (hn : n = x.read .src32 o.a l 0) (hm : MayIssue s g b x [l] [l] [(.src32, o.a)] []) (hd : s.allDone g x = true)
    (hs : x.stepsDone (s.issueCycle x) = true) (ho : (x.slot (!b)).live = false) (hc : x.cue.toNat < n) (hp : s.pairOf? x.team = none)
    (hcut : (s.part x.part).cutState ≠ 1) :
    ∃ t y, SameRegisters x y ∧ exec (.cuept o) s = .next t ∧ t.group? g = some y
      ∧ IssuedAs { x with cue := BitVec.ofNat 32 n, cutStop := false } y b ∧ OnlyGroup (s.armCue x n) t g ∧ SameBytes s t := by
  have he := exec_cuept hl hn hm hd hs ho hc hp
  have hpk := park_atCue hm.group hm.slot_live ho n
  have hpf : s.park g b (.atCue n) = { s with groups := (s.park g b (.atCue n)).groups } := rfl
  have hpo : ∀ k, k ≠ g → (s.park g b (.atCue n)).group? k = s.group? k := by
    intro k hk
    unfold State.park
    rw [State.group?_modGroup, if_neg hk]
  have hgr := State.noteIssue_group? hpk b []
  have hctx := State.noteIssue_ctx? (s.park g b (.atCue n)) g b []
  have hnf := State.noteIssue_frame (s.park g b (.atCue n)) g b []
  generalize (s.park g b (.atCue n)).sliceNow _ = k at hgr
  generalize hy1 : x.modSlot b (fun v => { v with wait := .atCue n, wants := [] }) = y1 at hgr
  have hz1f := issuedAt_frame y1 b k []
  have hz1s := issuedAt_slot y1 b k []
  generalize y1.issuedAt b k [] = z1 at hgr hz1f hz1s
  have hg1 := (hgr g).trans (if_pos rfl)
  have hz1b : z1.slot b = { x.slot b with wait := .atCue n, wants := [], age := k } := by
    rw [hz1s, if_pos rfl, ← hy1, Group.slot_modSlot, if_pos rfl]
  have hz1o : z1.slot (!b) = x.slot (!b) := by
    rw [hz1s, if_neg (by simp), ← hy1, Group.slot_modSlot, if_neg (by simp)]
  have hz1x : z1 = { x with slotA := z1.slotA, slotB := z1.slotB, issued := x.issued + 1, prods := z1.prods, stepsEnd := z1.stepsEnd,
                            parked := z1.parked, readyAge := z1.readyAge } := by
    rw [hz1f, ← hy1]; cases b <;> rfl
  generalize hs2 : (s.park g b (.atCue n)).noteIssue g b [] = s2 at he hgr hnf hctx hg1
  rw [hpf] at hnf
  rw [cueDone_run hg1 (by rw [hz1x, hnf]; exact hcut)] at he
  have hcue := cueSlots_one (m := n) (by rw [hz1b]; exact hm.slot_live) (by rw [hz1b]) (by rw [hz1o]; exact ho)
  have hcs := cued_slot s2 z1 n
  have hcf := cued_frame s2 z1 n
  rw [hcue] at hcs
  have hstop : (s2.part z1.part).stopsAt n = false := by
    unfold Part.stopsAt
    rw [show (s2.part z1.part).cutState = (s.part x.part).cutState by rw [hz1x, hnf]; rfl, Bool.and_eq_false_imp]
    exact fun h => absurd (beq_iff_eq.1 h) hcut
  rw [hstop] at hcf
  generalize cued s2 z1 n = y at he hcs hcf
  have hyb : ∃ a, y.slot b = { x.slot b with pc := (x.slot b).pc + 1, past := (x.slot b).past || offOf (x.slot b).pc == 4095, wait := .run, waitAt := 0, wants := [], age := a } := by
    rw [hcs, Group.slot_advance, if_pos rfl, hz1b]
    split
    · exact ⟨_, rfl⟩
    · exact ⟨_, rfl⟩
  obtain ⟨a, hyb⟩ := hyb
  have harm : (s2.setGroup g y).armCue z1 n = { s.armCue x n with groups := (s2.setGroup g y).groups, ctxs := s2.ctxs } := by
    rw [hz1x, hnf]; rfl
  rw [harm] at he
  have hyo : y.slot (!b) = x.slot (!b) := by
    have hadv : (z1.advance b).slot (!b) = z1.slot (!b) := by rw [Group.slot_advance, if_neg (by simp)]
    rw [hcs, if_pos hadv, hadv, hz1o]
  have hx : ∀ c, ({ x with cue := BitVec.ofNat 32 n, cutStop := false } : Group).slot c = x.slot c := by intro c; cases c <;> rfl
  refine ⟨_, y, ?_, he, (State.group?_setGroup ..).trans (if_pos rfl),
    ⟨?_, by rw [hyb, hx], by rw [hyb, hx], by rw [hyb], by rw [hyb, hx], hyo.trans (hx _).symm⟩,
    ⟨rfl, fun k hk => ?_, fun c => ?_⟩, fun a => rfl, fun k a => rfl⟩
  · rw [hcf, hz1x]; exact ⟨rfl, rfl, rfl, rfl⟩
  · rw [hcf, hz1x]
  · exact (State.group?_setGroup ..).trans ((if_neg hk).trans ((hgr k).trans ((if_neg hk).trans (hpo k hk))))
  · exact hctx c

/-- Settles O10: EXIT by what leaves its masks and, for the last lanes, by the exit of the group; CUEPT by the cue point of a group with
one live slot. -/
theorem exitsAndCues : Obligations.ExitsAndCues := by
  unfold Obligations.ExitsAndCues
  intro s g b x o
  exact ⟨fun hm => ⟨exit_some_spec hm rfl, exit_last_spec hm rfl⟩, fun hm hd hs ho hc hp hcut => cuept_spec rfl rfl hm hd hs ho hc hp hcut⟩

end Sys2Proof.Claims
end

section
/-! RGROW, RSHRINK and the re-admission of an evicted group (R116, R298, R418): words that act once on their own group. -/

namespace Sys2Proof.Claims

open Sys2Proof Sys2Proof.Machine

/-! ### A word that acts once on its own group -/

/-- The issue of a word after which the group stands as y, one word on: y differs from x in registers, masks, latches and flags, and in
what slot b has noted of a wait. -/
theorem issued_spec {s s1 : State} {g : Nat} {b : Bool} {x y : Group} (ps : List Producer) (hg : s1.group? g = some (y.advance b))
    (ho : ∀ k, k ≠ g → s1.group? k = s.group? k) (hs : s1 = { s with groups := s1.groups })
    (hy : y = { x with regs := y.regs, masks := y.masks, latches := y.latches, fpflags := y.fpflags, latent := y.latent,
                       slotA := y.slotA, slotB := y.slotB })
    (hb : y.slot b = { x.slot b with waitAt := (y.slot b).waitAt, wants := (y.slot b).wants }) (hn : y.slot (!b) = x.slot (!b)) :
    ∃ z, (s1.noteIssue g b ps).group? g = some z ∧ z.regs = y.regs ∧ z.masks = y.masks ∧ z.latches = y.latches ∧ z.fpflags = y.fpflags
      ∧ IssuedAs x z b ∧ OnlyGroup s (s1.noteIssue g b ps) g ∧ SameBytes s (s1.noteIssue g b ps) := by
  have hgr := State.noteIssue_group? hg b ps
  have hfr := State.noteIssue_frame s1 g b ps
  have hctx := State.noteIssue_ctx? s1 g b ps
  have hzf := issuedAt_frame (y.advance b) b (s1.sliceNow (y.advance b)) ps
  have hzs := issuedAt_slot (y.advance b) b (s1.sliceNow (y.advance b)) ps
  generalize s1.sliceNow (y.advance b) = n at hgr hzf hzs
  generalize (y.advance b).issuedAt b n ps = z at hgr hzf hzs
  have hadv : SlotsOnly y (y.advance b) := .setSlot y b _
  rw [hadv] at hzf
  have hzb : z.slot b = { x.slot b with pc := (x.slot b).pc + 1, past := (x.slot b).past || offOf (x.slot b).pc == 4095, wait := .run, waitAt := 0,
                                        wants := [], age := n } := by
    rw [hzs, if_pos rfl, Group.slot_advance, if_pos rfl, hb]
  have hzn : z.slot (!b) = x.slot (!b) := by rw [hzs, if_neg (by simp), Group.slot_advance, if_neg (by simp), hn]
  refine ⟨z, (hgr g).trans (if_pos rfl), by rw [hzf], by rw [hzf], by rw [hzf], by rw [hzf], ⟨?_, by rw [hzb], by rw [hzb], by rw [hzb], by rw [hzb], hzn⟩,
    ⟨?_, fun k hk => ?_, fun c => ?_⟩, fun a => ?_, fun k a => ?_⟩
  · rw [hzf, hy]
  · rw [hfr, hs]
  · rw [hgr, if_neg hk, ho k hk]
  · rw [hctx, hs]; rfl
  · rw [hfr, hs]
  · rw [hfr, hs]; rfl

/-- A group that goes on, as `f` changes it. -/
theorem goesOn_spec {s : State} {g : Nat} {b : Bool} {x x' y : Group} {f : Group → Group} (hg : s.group? g = some x) (hf : f x = y)
    (hy : y = { x' with regs := y.regs, masks := y.masks, latches := y.latches, fpflags := y.fpflags, latent := y.latent,
                        slotA := y.slotA, slotB := y.slotB })
    (hb : y.slot b = { x'.slot b with waitAt := (y.slot b).waitAt, wants := (y.slot b).wants }) (hn : y.slot (!b) = x'.slot (!b)) :
    ∃ z, (s.goesOn g b f).group? g = some z ∧ z.regs = y.regs ∧ z.masks = y.masks ∧ z.latches = y.latches ∧ z.fpflags = y.fpflags
      ∧ IssuedAs x' z b ∧ OnlyGroup s (s.goesOn g b f) g ∧ SameBytes s (s.goesOn g b f) := by
  have hg1 : (s.modGroup g (fun x => (f x).advance b)).group? g = some (y.advance b) := by
    rw [State.group?_modGroup, if_pos rfl, hg, ← hf]; rfl
  exact issued_spec [] hg1 (fun k hk => by rw [State.group?_modGroup, if_neg hk]) rfl hy hb hn

/-- The tests before a word that acts once and names no register pass: with a writing lane it has its effect, without one none. -/
theorem MayIssue.onceLane_run {s : State} {g : Nat} {b : Bool} {x : Group} (hm : MayIssue s g b x [] [] [] []) (o : Ops) (k : Nat → List Nat → State) :
    (x.writers b o.p o.pn = [] → s.onceLane o [] [] g b x k = (s.setGroup g (x.advance b)).noteIssue g b [])
    ∧ (x.writers b o.p o.pn ≠ [] → ∃ l ws, x.writers b o.p o.pn = l :: ws ∧ s.onceLane o [] [] g b x k = k l (l :: ws)) := by
  unfold State.onceLane
  dsimp only
  rw [hm.gate_control]
  constructor
  · intro h; rw [h]; rfl
  · intro h
    obtain ⟨l, ws, hw⟩ := List.exists_cons_of_ne_nil h
    refine ⟨l, ws, hw, ?_⟩
    rw [hw]
    have hc : x.consumers [l] [] = [] := Group.consumers_nil (by simp)
    dsimp only
    rw [hc]
    rfl

/-- A word without a writing lane goes on. -/
theorem idle_spec {i : Instr} {s : State} {g : Nat} {b : Bool} {x : Group}
    (he : exec i s = .next ((s.setGroup g (x.advance b)).noteIssue g b [])) : ∃ t y, SameRegisters x y ∧ LaneStep i s t g b x y := by
  obtain ⟨z, hz, hr, hmk, hl, hf, hi, ho, hb⟩ := State.issue_spec (s := s) (g := g) (x := x) (y := x) b [] rfl
  exact ⟨_, z, ⟨hr, hmk, hl, hf⟩, he, hz, hi, ho, hb⟩

/-- A word that acts once, without a writing lane or with nothing to do, goes on. -/
theorem onceLane_idle_spec {i : Instr} {s : State} {g : Nat} {b : Bool} {x : Group} {k : Nat → List Nat → State} (hm : MayIssue s g b x [] [] [] [])
    (o : Ops) (he : exec i s = .next (s.onceLane o [] [] g b x k))
    (h : x.writers b o.p o.pn = [] ∨ ∀ l ws, k l ws = s.goesOn g b (fun x => x)) : ∃ t y, SameRegisters x y ∧ LaneStep i s t g b x y := by
  by_cases hw : x.writers b o.p o.pn = []
  · rw [(hm.onceLane_run o _).1 hw] at he
    exact idle_spec he
  · obtain ⟨l, ws, -, hrun⟩ := (hm.onceLane_run o k).2 hw
    rw [hrun, h.resolve_left hw] at he
    obtain ⟨z, hz, hr, hmk, hl, hf, hi, ho, hb⟩ := goesOn_spec (b := b) (x' := x) (f := fun x => x) hm.group rfl rfl rfl rfl
    exact ⟨_, z, ⟨hr, hmk, hl, hf⟩, he, hz, hi, ho, hb⟩

/-! ### RGROW and RSHRINK -/

theorem rgrow_idle_spec {s : State} {g : Nat} {b : Bool} {x : Group} (hm : MayIssue s g b x [] [] [] []) (o : Ops)
    (h : x.writers b o.p o.pn = [] ∨ o.c ≤ x.nregs) : ∃ t y, SameRegisters x y ∧ LaneStep (.rgrow o) s t g b x y :=
  onceLane_idle_spec hm o (State.withLane_of hm.turn hm.group _) (h.imp_right (fun hc _ _ => if_pos hc))

theorem rgrow_grows_spec {s : State} {g : Nat} {b : Bool} {x : Group} (hm : MayIssue s g b x [] [] [] []) (o : Ops)
    (hw : x.writers b o.p o.pn ≠ []) (hc : x.nregs < o.c) (hmay : s.mayGrow x o.c = true) :
    ∃ t y, SameRegisters x y ∧ LaneStep (.rgrow o) s t g b { x with nregs := o.c } y := by
  have he : exec (.rgrow o) s = .next _ := State.withLane_of hm.turn hm.group _
  obtain ⟨l, ws, -, hrun⟩ := (hm.onceLane_run o _).2 hw
  rw [hrun, if_neg (by omega), if_pos hmay] at he
  obtain ⟨z, hz, hr, hmk, hl, hf, hi, ho, hb⟩ := goesOn_spec (s := s) (g := g) (b := b) (x := x) (x' := { x with nregs := o.c })
    (f := fun x => { x with nregs := o.c }.modSlot b (fun v => { v with wants := [], waitAt := 0 })) hm.group rfl
    (by cases b <;> rfl) (by cases b <;> rfl) (by cases b <;> rfl)
  refine ⟨_, z, ?_, he, hz, hi, ho, hb⟩
  unfold SameRegisters
  rw [hr, hmk, hl, hf]
  cases b <;> exact ⟨rfl, rfl, rfl, rfl⟩

theorem rshrink_idle_spec {s : State} {g : Nat} {b : Bool} {x : Group} (hm : MayIssue s g b x [] [] [] []) (o : Ops)
    (h : x.writers b o.p o.pn = [] ∨ x.nregs ≤ o.c) : ∃ t y, SameRegisters x y ∧ LaneStep (.rshrink o) s t g b x y :=
  onceLane_idle_spec hm o (State.withLane_of hm.turn hm.group _) (h.imp_right (fun hc _ _ => if_pos hc))

/-- No slot of a group in the slice waits to grow. -/
def NoneGrow (s : State) (sk : Nat) : Prop := ∀ p ∈ s.groups, p.2.skey = sk → ∀ c, (p.2.slot c).live = true → (p.2.slot c).wait ≠ .grow

theorem insBy_ne_nil {α : Type} (rank : α → Nat) (a : α) (l : List α) : insBy rank a l ≠ [] := by
  cases l with
  | nil => simp [insBy]
  | cons b l => unfold insBy; split <;> simp

theorem foldl_insBy_eq_nil {α : Type} (rank : α → Nat) (l acc : List α) : l.foldl (fun acc x => insBy rank x acc) acc = [] ↔ l = [] ∧ acc = [] := by
  induction l generalizing acc with
  | nil => simp
  | cons a l ih => simp [ih, insBy_ne_nil]

theorem growers_eq_nil (s : State) (sk : Nat) : s.growers sk = [] ↔ NoneGrow s sk := by
  unfold State.growers sortBy NoneGrow
  rw [foldl_insBy_eq_nil]
  simp only [and_true, List.flatMap_eq_nil_iff, List.mem_filter, beq_iff_eq, List.append_eq_nil_iff]
  constructor
  · intro h p hp hsk c hl hw
    have := h p ⟨hp, hsk⟩
    cases c <;> simp_all
  · intro h p ⟨hp, hsk⟩
    have h' := h p hp hsk
    have hf := h' false
    have ht := h' true
    constructor <;> (split <;> simp_all)

theorem sp_mem_modify {α : Type} (m : Sp α) (k : Nat) (f : α → α) (p : Nat × α) (h : p ∈ Sp.modify m k f) : p ∈ m ∨ ∃ w, (k, w) ∈ m ∧ p = (k, f w) := by
  induction m with
  | nil => exact .inl h
  | cons e m ih =>
    obtain ⟨j, w⟩ := e
    unfold Sp.modify at h
    split at h
    · next hk =>
      rcases List.mem_cons.1 h with h | h
      · exact .inr ⟨w, by rw [hk]; exact List.mem_cons_self, by rw [h, hk]⟩
      · exact .inl (List.mem_cons_of_mem _ h)
    · rcases List.mem_cons.1 h with h | h
      · exact .inl (by rw [h]; exact List.mem_cons_self)
      · exact (ih h).imp (List.mem_cons_of_mem _) (fun ⟨w, hw, hp⟩ => ⟨w, List.mem_cons_of_mem _ hw, hp⟩)

theorem sp_mem_of_get? {α : Type} (m : Sp α) (k : Nat) (v : α) (h : Sp.get? m k = some v) : (k, v) ∈ m := by
  induction m with
  | nil => cases h
  | cons e m ih =>
    obtain ⟨j, w⟩ := e
    unfold Sp.get? at h
    split at h
    · next hk =>
      cases h
      rw [hk]
      exact List.mem_cons_self
    · exact List.mem_cons_of_mem _ (ih h)

/-- An issue makes no slot wait to grow. -/
theorem noneGrow_noteIssue {s : State} {sk : Nat} (h : NoneGrow s sk) (g : Nat) (b : Bool) (ps : List Producer) : NoneGrow (s.noteIssue g b ps) sk := by
  have hset : ∀ x : Group, (g, x) ∈ s.groups → ∀ n, NoneGrow (s.setGroup g (x.issuedAt b n ps)) sk := by
    intro x hx n p hp hsk c hl hw
    rcases Sp.mem_set _ _ _ _ hp with rfl | hp
    · dsimp only at hsk hl hw
      rw [issuedAt_slot] at hl hw
      have hsl : ((x.slot c).live = true) ∧ (x.slot c).wait = .grow := by
        split at hw
        · next hc => rw [if_pos hc] at hl; exact ⟨hl, hw⟩
        · next hc => rw [if_neg hc] at hl; exact ⟨hl, hw⟩
      refine h _ hx ?_ c hsl.1 hsl.2
      rw [← hsk, issuedAt_frame]
      rfl
    · exact h p hp hsk c hl hw
  unfold State.noteIssue
  split
  · exact h
  · next x hx =>
    have hx' := sp_mem_of_get? _ _ _ hx
    dsimp only
    split
    · exact hset x hx' _
    · exact hset x hx' _

/-- A group that goes on waits to grow no more than before. -/
theorem noneGrow_goesOn {s : State} {sk : Nat} (h : NoneGrow s sk) (g : Nat) (b : Bool) {f : Group → Group} (hk : ∀ x, (f x).skey = x.skey)
    (hs : ∀ x c, (f x).slot c = x.slot c) : NoneGrow (s.goesOn g b f) sk := by
  refine noneGrow_noteIssue (fun p hp hsk c hl hw => ?_) g b []
  rcases sp_mem_modify _ _ _ _ hp with hp | ⟨w, hw', rfl⟩
  · exact h p hp hsk c hl hw
  · dsimp only at hsk hl hw
    rw [Group.slot_advance] at hl hw
    split at hw
    · cases hw
    · next hc =>
      rw [if_neg hc, hs] at hl
      rw [hs] at hw
      refine h _ hw' ?_ c hl hw
      rw [← hsk, ← hk w]
      cases b <;> rfl

theorem growTest_none {s : State} {sk : Nat} (h : s.growers sk = []) : s.growTest sk = s := by
  unfold State.growTest
  rw [h]
  rfl

/-- No mailbox word of the group would write a register that is freed. -/
theorem reissueMail_none {s : State} {g n : Nat} {x : Group}
    (h : ∀ tm, s.team? x.team = some tm → ∀ r ∈ tm.requests, r.agent = .group g → (r.op = .get ∨ r.op = .read) → r.d + 2 ≤ n) :
    s.reissueMail g x n = s := by
  unfold State.reissueMail
  cases ht : s.team? x.team with
  | none => rfl
  | some tm =>
    dsimp only
    rw [if_pos]
    rw [Bool.not_eq_true', List.any_eq_false]
    intro r hr hc
    simp only [Bool.and_eq_true, Bool.or_eq_true, beq_iff_eq, decide_eq_true_eq] at hc
    obtain ⟨⟨ha, hop⟩, hlt⟩ := hc
    have := h tm ht r hr ha hop
    omega

theorem sp_get?_filter_key {α : Type} (m : Sp α) (q : Nat → Bool) (k : Nat) :
    Sp.get? (m.filter (fun p => q p.1)) k = if q k then Sp.get? m k else none := by
  induction m with
  | nil => simp
  | cons e m ih =>
    obtain ⟨j, w⟩ := e
    by_cases hkj : k = j
    · subst hkj
      cases hq : q k <;> simp [hq, Sp.get?, ih]
    · cases hq : q j <;> simp [hq, Sp.get?, hkj, ih]

/-- Registers from c on are lost, the others stay. -/
theorem reg_shrink (x : Group) (c n j : Nat) (hj : j < 64) : (x.shrink c).reg n j = if n < c then x.reg n j else 0 := by
  unfold Group.reg Group.shrink Sp.getD
  dsimp only
  rw [sp_get?_filter_key x.regs (fun k => decide (k / 64 < c)), show (n * 64 + j) / 64 = n by omega]
  by_cases h : n < c <;> simp [h]

/-- RSHRINK that gives registers back (R116, R298). -/
theorem rshrink_frees_spec {s : State} {g : Nat} {b : Bool} {x : Group} (hm : MayIssue s g b x [] [] [] []) (o : Ops)
    (hw : x.writers b o.p o.pn ≠ []) (hc : o.c < x.nregs) (hfree : ∀ r, r < 240 → o.c ≤ r → s.awaited g x r = false)
    (hchk : ∀ m ∈ (s.cluster x.ckey).mxQ, m.agent = .group g → m.uid = x.uid → m.d < o.c ∨ ∀ t c, m.op ≠ .chk t c)
    (hmail : ∀ tm, s.team? x.team = some tm → ∀ r ∈ tm.requests, r.agent = .group g → (r.op = .get ∨ r.op = .read) → r.d + 2 ≤ o.c)
    (hgrow : s.growers x.skey = []) :
    ∃ t y, LaneStep (.rshrink o) s t g b { x with nregs := o.c } y ∧ y.masks = x.masks ∧ y.latches = x.latches
      ∧ ∀ n j, j < 64 → y.reg n j = if n < o.c then x.reg n j else 0 := by
  have he : exec (.rshrink o) s = .next _ := State.withLane_of hm.turn hm.group _
  obtain ⟨l, ws, -, hrun⟩ := (hm.onceLane_run o _).2 hw
  have hfreed : (List.range 240).filter (fun r => decide (o.c ≤ r) && s.awaited g x r) = [] := by
    rw [List.filter_eq_nil_iff]
    intro r hr hc
    simp only [Bool.and_eq_true, decide_eq_true_eq] at hc
    rw [hfree r (List.mem_range.1 hr) hc.1] at hc
    cases hc.2
  rw [hrun, if_neg (by omega), hfreed, if_neg (by simp), if_neg ?checks, reissueMail_none (by
    rw [show (s.goesOn g b (fun x => x.shrink o.c)).team? x.team = s.team? x.team by
      unfold State.goesOn; rw [State.noteIssue_frame]; rfl]
    exact hmail), growTest_none (by
    rw [growers_eq_nil] at hgrow ⊢
    exact noneGrow_goesOn hgrow g b (fun _ => rfl) (fun x c => by cases c <;> rfl))] at he
  case checks =>
    rw [Bool.not_eq_true, List.any_eq_false]
    intro m hmq hc
    simp only [Bool.and_eq_true, beq_iff_eq, decide_eq_true_eq] at hc
    obtain ⟨⟨⟨ha, hu⟩, hd⟩, hop⟩ := hc
    split at hop
    · next hk => exact (hchk m hmq ha hu).elim (by omega) (fun h => h _ _ hk)
    · cases hop
  obtain ⟨z, hz, hr, hmk, hl, hf, hi, ho, hb⟩ := goesOn_spec (s := s) (g := g) (b := b) (x := x) (x' := { x with nregs := o.c })
    (f := fun x => x.shrink o.c) hm.group rfl rfl (by cases b <;> rfl) (by cases b <;> rfl)
  refine ⟨_, z, ⟨he, hz, hi, ho, hb⟩, hmk, hl, fun n j hj => ?_⟩
  rw [Group.reg_congr hr, reg_shrink x o.c n j hj]

/-! ### The re-admission of an evicted group -/

theorem readSpill_mapped {s : State} {x : Group}
    (h : ∀ l, s.launch? x.launch = some l → (s.readVirtual x.part (l.area + s.spillOffset x l) x.spillSlot.length).isSome = true) :
    s.readSpill x = s := by
  unfold State.readSpill
  cases hl : s.launch? x.launch with
  | none => rfl
  | some l =>
    obtain ⟨bs, hb⟩ := Option.isSome_iff_exists.1 (h l hl)
    dsimp only
    rw [hb]
    rfl

theorem readmit_spec {s : State} {cl sl g n : Nat} {b : Bool} {x : Group} (hg : s.group? g = some x) (hk : x.skey = cl * 6 + sl) (he : x.evicted = true)
    (hw : s.growers x.skey = [{ g := g, slotB := b, x := x, n := n, at_ := (x.slot b).waitAt }]) (hm : s.mayGrow x n = true)
    (hr : ∀ l, s.launch? x.launch = some l → (s.readVirtual x.part (l.area + s.spillOffset x l) x.spillSlot.length).isSome = true) :
    ∃ t y, exec (.rgrowReadmit cl sl) s = .next t ∧ t.group? g = some y ∧ y.nregs = n ∧ y.evicted = false ∧ SameBytes s t
      ∧ (y.slot b).pc = (x.slot b).pc + 1 ∧ (y.slot b).wait = .run ∧ y.slot (!b) = x.slot (!b)
      ∧ SameRegisters x y ∧ ∀ k, k ≠ g → t.group? k = s.group? k := by
  have htest : s.growTest x.skey = s := by
    unfold State.growTest
    rw [hw]
    simp [he]
  have hx : exec (.rgrowReadmit cl sl) s = .next (s.grantGrow { g := g, slotB := b, x := x, n := n, at_ := (x.slot b).waitAt }) := by
    have hx : exec (.rgrowReadmit cl sl) s = execRgrowReadmit cl sl s := rfl
    rw [hx]
    unfold execRgrowReadmit
    rw [← hk]
    simp only [htest, hw, he, List.filter_cons_of_pos, List.filter_nil, leastBy, hm, if_true, readSpill_mapped hr]
  obtain ⟨z, hz, hregs, hmk, hl, hf, hi, ho, hb⟩ := issued_spec (s := s) (g := g) (b := b) (x := { x with nregs := n, evicted := false })
    (s1 := s.modGroup g (fun x => ({ x with nregs := n, evicted := false }.modSlot b (fun v => { v with wants := [], waitAt := 0 })).advance b))
    (y := { x with nregs := n, evicted := false }.modSlot b (fun v => { v with wants := [], waitAt := 0 })) []
    (by rw [State.group?_modGroup, if_pos rfl, hg]; rfl) (fun k hk => by rw [State.group?_modGroup, if_neg hk]) rfl
    (by cases b <;> rfl) (by cases b <;> rfl) (by cases b <;> rfl)
  refine ⟨_, z, hx, hz, by rw [hi.rest], by rw [hi.rest], hb, hi.pc.trans (by cases b <;> rfl), hi.wait, hi.other.trans (by cases b <;> rfl), ?_, ho.groups⟩
  unfold SameRegisters
  rw [hregs, hmk, hl, hf]
  cases b <;> exact ⟨rfl, rfl, rfl, rfl⟩

end Sys2Proof.Claims
end

section
/-! Packed registers (R117, R417): the first packing that reproduces all the lanes. -/

namespace Sys2Proof.Claims

open Sys2Proof Sys2Proof.Machine

/-! ### Little-endian words -/

theorem length_leBytes (n v : Nat) : (leBytes v n).length = n := by
  induction n generalizing v with
  | zero => rfl
  | succ n ih => simp [leBytes, ih]

theorem bytesWord_leBytes (n v : Nat) : bytesWord (leBytes v n) = v % 256 ^ n := by
  induction n generalizing v with
  | zero => simp [leBytes, bytesWord, Nat.mod_one]
  | succ n ih =>
    rw [leBytes, bytesWord, ih, BitVec.toNat_ofNat, Nat.pow_succ' (m := 256), Nat.mod_mul]

theorem bytesWord_lt (bs : List Byte) : bytesWord bs < 256 ^ bs.length := by
  induction bs with
  | nil => simp [bytesWord]
  | cons b bs ih =>
    rw [bytesWord, List.length_cons, Nat.pow_succ]
    have := b.isLt
    omega

/-- The n bytes from i on, as a number. -/
def wordIn (bs : List Byte) (n i : Nat) : Nat := bytesWord ((bs.drop i).take n)

theorem wordIn_lt (bs : List Byte) (n i : Nat) : wordIn bs n i < 256 ^ n :=
  (bytesWord_lt _).trans_le (Nat.pow_le_pow_right (by omega) (by simp))

/-- The lanes' values in n bytes each. -/
def narrowed (vals : List Nat) (n : Nat) : List Byte := vals.flatMap (fun v => leBytes v n)

theorem length_narrowed (vals : List Nat) (n : Nat) : (narrowed vals n).length = n * vals.length := by
  unfold narrowed
  induction vals with
  | nil => simp
  | cons v vals ih => rw [List.flatMap_cons, List.length_append, length_leBytes, ih, List.length_cons]; ring

theorem wordIn_narrowed (vals : List Nat) (n j v : Nat) (rest : List Byte) (h : vals[j]? = some v) :
    wordIn (narrowed vals n ++ rest) n (n * j) = v % 256 ^ n := by
  unfold wordIn narrowed
  induction vals generalizing j with
  | nil => simp at h
  | cons w vals ih =>
    rw [List.flatMap_cons, List.append_assoc]
    cases j with
    | zero =>
      obtain rfl : w = v := by simpa using h
      rw [Nat.mul_zero, List.drop_zero, List.take_append_of_le_length (by rw [length_leBytes]), List.take_of_length_le (by rw [length_leBytes]),
        bytesWord_leBytes]
    | succ j =>
      rw [Nat.mul_succ, Nat.add_comm, ← List.drop_drop, List.drop_append_of_le_length (by rw [length_leBytes]),
        show List.drop n (leBytes w n) = [] from List.drop_of_length_le (by rw [length_leBytes]), List.nil_append]
      exact ih j (by simpa using h)

theorem wordIn_leBytes (v n : Nat) (rest : List Byte) : wordIn (leBytes v n ++ rest) n 0 = v % 256 ^ n := by
  have := wordIn_narrowed [v] n 0 v rest rfl
  simpa [narrowed] using this

theorem wordIn_leBytes_snd (u v n : Nat) : wordIn (leBytes u n ++ leBytes v n) n n = v % 256 ^ n := by
  have := wordIn_narrowed [u, v] n 1 v [] rfl
  simpa [narrowed] using this

/-! ### Sign extension -/

theorem signedOf_mod (n v : Nat) : signedOf n (v % 2 ^ n) = signedOf n v := by
  unfold signedOf
  rw [Nat.mod_mod]

theorem signExtend_word {n : Nat} (hn : 0 < n) (w : Nat) : ((BitVec.ofNat n w).signExtend 32).toNat = wrapOf 32 (signedOf n w) := by
  rw [BitVec.signExtend, BitVec.toNat_ofInt, BitVec.toInt_eq_toNat_cond, BitVec.toNat_ofNat]
  unfold wrapOf signedOf
  have hp : 2 ^ n = 2 * 2 ^ (n - 1) := by rw [← Nat.pow_succ', Nat.succ_eq_add_one, Nat.sub_add_cancel hn]
  congr 2
  by_cases h : w % 2 ^ n < 2 ^ (n - 1)
  · rw [if_pos (by omega), if_pos h]; rfl
  · rw [if_neg (by omega), if_neg h]; push_cast; rfl

/-- A word below 2^32 that the sign extension of its low n bits gives again. -/
def extends_ (n v : Nat) : Bool := wrapOf 32 (signedOf n v) == v

/-- What the sign extension of n bits gives is given by its own low n bits. -/
theorem extends_wrapOf {n : Nat} (hn : n ≤ 32) (w : Nat) : extends_ n (wrapOf 32 (signedOf n w)) = true := by
  have hs : signedOf n w % 2 ^ n = ((w % 2 ^ n : Nat) : Int) := by
    unfold signedOf
    split
    · push_cast; simp
    · push_cast; simp
  have hw : ((wrapOf 32 (signedOf n w) : Nat) : Int) = signedOf n w % 2 ^ 32 := Int.toNat_of_nonneg (Int.emod_nonneg _ (by norm_num))
  have hm : wrapOf 32 (signedOf n w) % 2 ^ n = w % 2 ^ n := by
    have : ((wrapOf 32 (signedOf n w) % 2 ^ n : Nat) : Int) = ((w % 2 ^ n : Nat) : Int) := by
      push_cast
      rw [hw, Int.emod_emod_of_dvd _ (pow_dvd_pow 2 hn), hs]
      push_cast
      rfl
    exact_mod_cast this
  unfold extends_
  rw [show signedOf n (wrapOf 32 (signedOf n w)) = signedOf n w by unfold signedOf at hm ⊢; rw [hm], beq_iff_eq]

/-! ### The packings -/

/-- Lane j of a register that is packed with a tag (R117). -/
def unpack (tag : Nat) (bs : List Byte) (j : Nat) : Nat :=
  match tag with
  | 0 => 0 | 1 => wordIn bs 4 0 | 2 => (wordIn bs 4 0 + j * wordIn bs 4 4) % 2 ^ 32
  | 3 => ((BitVec.ofNat 8 (wordIn bs 1 j)).signExtend 32).toNat | 4 => wordIn bs 1 j
  | 5 => ((BitVec.ofNat 16 (wordIn bs 2 (2 * j))).signExtend 32).toNat | 6 => wordIn bs 2 (2 * j) | _ => wordIn bs 4 (4 * j)

/-- The bytes of a packing. -/
def packedSize (w : Nat) : Nat → Nat
  | 0 => 0 | 1 => 4 | 2 => 8 | 3 => w | 4 => w | 5 => 2 * w | 6 => 2 * w | _ => 4 * w

/-- The difference of the first two lanes. -/
def strideOf (vals : List Nat) : Nat := (vals.getD 1 (vals.headD 0) + 2 ^ 32 - vals.headD 0) % 2 ^ 32

theorem strideOf_lt (vals : List Nat) : strideOf vals < 2 ^ 32 := by
  unfold strideOf
  exact Nat.mod_lt _ (by norm_num)

/-- Whether a packing reproduces the lanes. -/
def packs (vals : List Nat) : Nat → Bool
  | 0 => vals.all (fun v => v == 0)
  | 1 => vals.all (fun v => v == vals.headD 0)
  | 2 => (List.range vals.length).all (fun j => vals.getD j 0 == (vals.headD 0 + j * strideOf vals) % 2 ^ 32)
  | 3 => vals.all (extends_ 8)
  | 4 => vals.all (fun v => decide (v < 2 ^ 8))
  | 5 => vals.all (extends_ 16)
  | 6 => vals.all (fun v => decide (v < 2 ^ 16))
  | _ => true

/-- Bytes up to a multiple of 4. -/
def padded (l : List Byte) : List Byte := l ++ List.replicate ((4 - l.length % 4) % 4) 0

/-- The bytes of the lanes in a packing. -/
def packed (vals : List Nat) : Nat → List Byte
  | 0 => []
  | 1 => leBytes (vals.headD 0) 4
  | 2 => leBytes (vals.headD 0) 4 ++ leBytes (strideOf vals) 4
  | 3 => padded (narrowed vals 1)
  | 4 => padded (narrowed vals 1)
  | 5 => padded (narrowed vals 2)
  | 6 => padded (narrowed vals 2)
  | _ => narrowed vals 4

/-- A register is packed with the first tag that reproduces it. -/
theorem packRegister_first (vals : List Nat) :
    ∃ k, k ≤ 7 ∧ packRegister vals = (k, packed vals k) ∧ packs vals k = true ∧ ∀ i, i < k → packs vals i = false := by
  have hu : packRegister vals =
      if packs vals 0 then (0, packed vals 0) else if packs vals 1 then (1, packed vals 1) else if packs vals 2 then (2, packed vals 2)
      else if packs vals 3 then (3, packed vals 3) else if packs vals 4 then (4, packed vals 4) else if packs vals 5 then (5, packed vals 5)
      else if packs vals 6 then (6, packed vals 6) else (7, packed vals 7) := rfl
  have hex : ∃ k, packs vals k = true := ⟨7, rfl⟩
  have h7 : Nat.find hex ≤ 7 := Nat.find_min' hex rfl
  have hspec := Nat.find_spec hex
  have hmin : ∀ i, i < Nat.find hex → packs vals i = false := fun i hi => Bool.eq_false_iff.2 (Nat.find_min hex hi)
  generalize Nat.find hex = k at h7 hspec hmin
  refine ⟨k, h7, ?_, hspec, hmin⟩
  rw [hu]
  interval_cases k <;> simp [hspec, hmin]

theorem length_padded (l : List Byte) : (padded l).length = (l.length + 3) / 4 * 4 := by
  unfold padded
  rw [List.length_append, List.length_replicate]
  omega

theorem length_packed (vals : List Nat) (k : Nat) : (packed vals k).length = (packedSize vals.length k + 3) / 4 * 4 := by
  unfold packed packedSize
  split
  · rfl
  · simp [length_leBytes]
  · simp [length_leBytes]
  · rw [length_padded, length_narrowed, Nat.one_mul]
  · rw [length_padded, length_narrowed, Nat.one_mul]
  · rw [length_padded, length_narrowed]
  · rw [length_padded, length_narrowed]
  · rw [length_narrowed]; omega

section
variable {vals : List Nat} (hlt : ∀ v ∈ vals, v < 2 ^ 32)
include hlt

theorem headD_lt : vals.headD 0 < 2 ^ 32 := by
  cases vals with
  | nil => simp
  | cons v vals => exact hlt v List.mem_cons_self

theorem unpack_stride {j v : Nat} (hp : packs vals 2 = true) (hv : vals[j]? = some v) : unpack 2 (packed vals 2) j = v := by
  have hj : j < vals.length := (List.getElem?_eq_some_iff.1 hv).1
  have hall : (List.range vals.length).all (fun j => vals.getD j 0 == (vals.headD 0 + j * strideOf vals) % 2 ^ 32) = true := hp
  have hq := List.all_eq_true.1 hall j (List.mem_range.2 hj)
  rw [beq_iff_eq, List.getD_eq_getElem?_getD, hv, Option.getD_some] at hq
  have h0 : wordIn (packed vals 2) 4 0 = vals.headD 0 := by
    rw [packed, wordIn_leBytes, show (256 : Nat) ^ 4 = 2 ^ 32 by norm_num, Nat.mod_eq_of_lt (headD_lt hlt)]
  have h4 : wordIn (packed vals 2) 4 4 = strideOf vals := by
    rw [packed, wordIn_leBytes_snd, show (256 : Nat) ^ 4 = 2 ^ 32 by norm_num, Nat.mod_eq_of_lt (strideOf_lt vals)]
  rw [unpack, h0, h4]
  exact hq.symm

/-- A packing that reproduces the lanes gives each of them. -/
theorem unpack_packed {k j v : Nat} (h7 : k ≤ 7) (hp : packs vals k = true) (hv : vals[j]? = some v) : unpack k (packed vals k) j = v := by
  have hmem : v ∈ vals := List.mem_of_getElem? hv
  have hn1 : ∀ rest, wordIn (narrowed vals 1 ++ rest) 1 j = v % 2 ^ 8 := fun rest => by
    have := wordIn_narrowed vals 1 j v rest hv
    rwa [Nat.one_mul, show (256 : Nat) ^ 1 = 2 ^ 8 by norm_num] at this
  have hn2 : ∀ rest, wordIn (narrowed vals 2 ++ rest) 2 (2 * j) = v % 2 ^ 16 := fun rest => by
    have := wordIn_narrowed vals 2 j v rest hv
    rwa [show (256 : Nat) ^ 2 = 2 ^ 16 by norm_num] at this
  have hb := Nat.mod_eq_of_lt (headD_lt hlt)
  interval_cases k
  · exact (beq_iff_eq.1 (List.all_eq_true.1 hp v hmem)).symm
  · have h1 := wordIn_leBytes (vals.headD 0) 4 []
    rw [List.append_nil, show (256 : Nat) ^ 4 = 2 ^ 32 by norm_num] at h1
    exact (h1.trans hb).trans (beq_iff_eq.1 (List.all_eq_true.1 hp v hmem)).symm
  · exact unpack_stride hlt hp hv
  · have hx := beq_iff_eq.1 (List.all_eq_true.1 hp v hmem)
    show ((BitVec.ofNat 8 (wordIn _ 1 j)).signExtend 32).toNat = v
    rw [packed, padded, hn1, signExtend_word (by omega), signedOf_mod, hx]
  · show wordIn _ 1 j = v
    rw [packed, padded, hn1, Nat.mod_eq_of_lt (of_decide_eq_true (List.all_eq_true.1 hp v hmem))]
  · have hx := beq_iff_eq.1 (List.all_eq_true.1 hp v hmem)
    show ((BitVec.ofNat 16 (wordIn _ 2 (2 * j))).signExtend 32).toNat = v
    rw [packed, padded, hn2, signExtend_word (by omega), signedOf_mod, hx]
  · show wordIn _ 2 (2 * j) = v
    rw [packed, padded, hn2, Nat.mod_eq_of_lt (of_decide_eq_true (List.all_eq_true.1 hp v hmem))]
  · have := wordIn_narrowed vals 4 j v [] hv
    rw [List.append_nil, show (256 : Nat) ^ 4 = 2 ^ 32 by norm_num] at this
    exact this.trans (Nat.mod_eq_of_lt (hlt v hmem))

end

/-- Lanes that a base and a stride give are given by the first lane and the difference of the first two. -/
theorem packs_stride {vals : List Nat} {bs : List Byte} (h0 : vals[0]? = some (vals.headD 0)) (h : ∀ j v, vals[j]? = some v → unpack 2 bs j = v) :
    packs vals 2 = true := by
  generalize hA : wordIn bs 4 0 = A at *
  generalize hB : wordIn bs 4 4 = B at *
  have hu : ∀ j v, vals[j]? = some v → (A + j * B) % 2 ^ 32 = v := by
    intro j v hv
    rw [← hA, ← hB]
    exact h j v hv
  have hbase : (A + 0 * B) % 2 ^ 32 = vals.headD 0 := hu 0 _ h0
  rw [Nat.zero_mul, Nat.add_zero] at hbase
  have hlt : vals.headD 0 < 2 ^ 32 := by rw [← hbase]; exact Nat.mod_lt _ (by norm_num)
  refine List.all_eq_true.2 (fun j hj => beq_iff_eq.2 ?_)
  have hjl := List.mem_range.1 hj
  rw [List.getD_eq_getElem?_getD, List.getElem?_eq_getElem hjl, Option.getD_some, ← hu j _ (List.getElem?_eq_getElem hjl)]
  have hmA : vals.headD 0 ≡ A [MOD 2 ^ 32] := by rw [← hbase]; exact Nat.mod_modEq _ _
  cases j with
  | zero => rw [Nat.zero_mul, Nat.zero_mul]; exact hmA.symm
  | succ j =>
    have h1 : 1 < vals.length := by omega
    have hs : strideOf vals ≡ B [MOD 2 ^ 32] := by
      have hv1 : (A + 1 * B) % 2 ^ 32 = vals.getD 1 (vals.headD 0) := by
        rw [List.getD_eq_getElem?_getD, List.getElem?_eq_getElem h1, Option.getD_some]
        exact hu 1 _ (List.getElem?_eq_getElem h1)
      have hm1 : vals.getD 1 (vals.headD 0) ≡ A + B [MOD 2 ^ 32] := by rw [← hv1, Nat.one_mul]; exact Nat.mod_modEq _ _
      have hsum : strideOf vals + vals.headD 0 ≡ B + vals.headD 0 [MOD 2 ^ 32] := by
        have hd : strideOf vals ≡ vals.getD 1 (vals.headD 0) + 2 ^ 32 - vals.headD 0 [MOD 2 ^ 32] := Nat.mod_modEq _ _
        have hc : vals.getD 1 (vals.headD 0) + 2 ^ 32 ≡ vals.getD 1 (vals.headD 0) [MOD 2 ^ 32] := Nat.add_modEq_right
        calc strideOf vals + vals.headD 0
            ≡ vals.getD 1 (vals.headD 0) + 2 ^ 32 - vals.headD 0 + vals.headD 0 [MOD 2 ^ 32] := hd.add_right _
          _ = vals.getD 1 (vals.headD 0) + 2 ^ 32 := by omega
          _ ≡ vals.getD 1 (vals.headD 0) [MOD 2 ^ 32] := hc
          _ ≡ A + B [MOD 2 ^ 32] := hm1
          _ ≡ vals.headD 0 + B [MOD 2 ^ 32] := hmA.symm.add_right _
          _ = B + vals.headD 0 := Nat.add_comm _ _
      exact Nat.ModEq.add_right_cancel' _ hsum
    exact (hmA.add (hs.mul_left (j + 1))).symm

/-- Bytes that give each lane are those of a packing that reproduces them. -/
theorem packs_of_unpack {vals : List Nat} {k : Nat} {bs : List Byte} (hne : vals ≠ []) (h : ∀ j v, vals[j]? = some v → unpack k bs j = v) : packs vals k = true := by
  have hall : ∀ v ∈ vals, ∃ j, vals[j]? = some v := fun v hv => List.mem_iff_getElem?.1 hv
  have h0 : vals[0]? = some (vals.headD 0) := by
    cases vals with
    | nil => exact absurd rfl hne
    | cons v vals => rfl
  match k with
  | 0 => exact List.all_eq_true.2 (fun v hv => by obtain ⟨j, hj⟩ := hall v hv; exact beq_iff_eq.2 (h j v hj).symm)
  | 1 => exact List.all_eq_true.2 (fun v hv => by obtain ⟨j, hj⟩ := hall v hv; exact beq_iff_eq.2 ((h j v hj).symm.trans (h 0 _ h0)))
  | 2 => exact packs_stride h0 h
  | 3 => exact List.all_eq_true.2 (fun v hv => by
      obtain ⟨j, hj⟩ := hall v hv
      rw [← h j v hj]
      show extends_ 8 ((BitVec.ofNat 8 (wordIn bs 1 j)).signExtend 32).toNat = true
      rw [signExtend_word (by omega)]
      exact extends_wrapOf (by omega) _)
  | 4 => exact List.all_eq_true.2 (fun v hv => by
      obtain ⟨j, hj⟩ := hall v hv
      exact decide_eq_true ((h j v hj).symm.trans_lt (wordIn_lt bs 1 j)))
  | 5 => exact List.all_eq_true.2 (fun v hv => by
      obtain ⟨j, hj⟩ := hall v hv
      rw [← h j v hj]
      show extends_ 16 ((BitVec.ofNat 16 (wordIn bs 2 (2 * j))).signExtend 32).toNat = true
      rw [signExtend_word (by omega)]
      exact extends_wrapOf (by omega) _)
  | 6 => exact List.all_eq_true.2 (fun v hv => by
      obtain ⟨j, hj⟩ := hall v hv
      exact decide_eq_true ((h j v hj).symm.trans_lt (wordIn_lt bs 2 (2 * j))))
  | k + 7 => rfl

/-- What a saved register takes, and that it is the first packing that reproduces its lanes (R117, R417). -/
theorem packRegister_spec (vals : List Nat) (hne : vals ≠ []) (hlt : ∀ v ∈ vals, v < 2 ^ 32) :
    (packRegister vals).1 ≤ 7 ∧ (packRegister vals).2.length = (packedSize vals.length (packRegister vals).1 + 3) / 4 * 4
      ∧ (∀ j v, vals[j]? = some v → unpack (packRegister vals).1 (packRegister vals).2 j = v)
      ∧ ∀ k bs, k < (packRegister vals).1 → ∃ j v, vals[j]? = some v ∧ unpack k bs j ≠ v := by
  obtain ⟨k, h7, hr, hk, hmin⟩ := packRegister_first vals
  rw [hr]
  refine ⟨h7, length_packed vals k, fun j v hv => unpack_packed hlt h7 hk hv, fun i bs hi => ?_⟩
  by_contra hc
  push Not at hc
  have := packs_of_unpack (k := i) (bs := bs) hne hc
  rw [hmin i hi] at this
  cases this

end Sys2Proof.Claims
end

section
/-! DALLOC (R118, R299), and the statement of registers and heap. Settles O26. -/

namespace Sys2Proof.Claims

open Sys2Proof Sys2Proof.Machine

/-! ### The heap -/

/-- One lane's request served. -/
def served (ln : Launch) (tm : Team) (o : Ops) (f : Nat → Nat) (y : Group) (j : Nat) : Group :=
  { (y.setRegs o.d j (heapServe ln tm y j (f j)).1 2) with heapUsed := Sp.set y.heapUsed j (heapServe ln tm y j (f j)).2 }

/-- What a lane is given depends on what it has used, not on what others are given. -/
theorem heapServe_congr (ln : Launch) (tm : Team) {x y : Group} (j n : Nat) (hi : y.index = x.index) (hw : y.width = x.width)
    (hu : Sp.getD y.heapUsed j 0 = Sp.getD x.heapUsed j 0) : heapServe ln tm y j n = heapServe ln tm x j n := by
  unfold heapServe
  rw [hi, hw, hu]

theorem served_frame (ln : Launch) (tm : Team) (o : Ops) (f : Nat → Nat) (y : Group) (j : Nat) :
    served ln tm o f y j = { y with regs := (served ln tm o f y j).regs, latent := (served ln tm o f y j).latent,
                                    heapUsed := Sp.set y.heapUsed j (heapServe ln tm y j (f j)).2 } := by
  unfold served
  rw [Group.setRegs_frame]

theorem foldl_served (ln : Launch) (tm : Team) (o : Ops) (f : Nat → Nat) (ws : List Nat) (hn : ws.Nodup) (hl : ∀ j ∈ ws, j < 64) (x : Group) :
    let y := ws.foldl (served ln tm o f) x
    y = { x with regs := y.regs, latent := y.latent, heapUsed := y.heapUsed }
      ∧ (∀ n j, j < 64 → y.reg n j = if j ∈ ws ∧ o.d ≤ n ∧ n < o.d + 2
          then BitVec.ofNat 32 ((heapServe ln tm x j (f j)).1 / 2 ^ (32 * (n - o.d))) else x.reg n j)
      ∧ (∀ j, j ∈ ws → Sp.get? y.heapUsed j = some (heapServe ln tm x j (f j)).2)
      ∧ ∀ j, j ∉ ws → Sp.get? y.heapUsed j = Sp.get? x.heapUsed j := by
  induction ws generalizing x with
  | nil => exact ⟨rfl, fun n j _ => by simp, fun j hj => absurd hj List.not_mem_nil, fun _ _ => rfl⟩
  | cons i ws ih =>
    obtain ⟨hi, hn⟩ := List.nodup_cons.1 hn
    obtain ⟨hf, hr, hu, ho⟩ := ih hn (fun j hj => hl j (List.mem_cons_of_mem _ hj)) (served ln tm o f x i)
    have hfr := served_frame ln tm o f x i
    have hother : ∀ j, j ≠ i → heapServe ln tm (served ln tm o f x i) j (f j) = heapServe ln tm x j (f j) := by
      intro j hj
      refine heapServe_congr ln tm j (f j) (by rw [hfr]) (by rw [hfr]) ?_
      rw [hfr]
      exact (Sp.getD_set _ _ _ _ _).trans (if_neg hj)
    have hreg : ∀ n j, j < 64 → (served ln tm o f x i).reg n j = if o.d ≤ n ∧ n < o.d + 2 ∧ j = i
        then BitVec.ofNat 32 ((heapServe ln tm x i (f i)).1 / 2 ^ (32 * (n - o.d))) else x.reg n j := by
      intro n j hj
      exact Group.reg_setRegs x o.d i (heapServe ln tm x i (f i)).1 2 n j (hl i List.mem_cons_self) hj
    rw [List.foldl_cons]
    refine ⟨?_, ?_, ?_, ?_⟩
    · rw [hf, hfr]
    · intro n j hj
      rw [hr n j hj, hreg n j hj]
      by_cases hji : j = i
      · subst hji
        simp [hi]
      · rw [hother j hji]
        simp [hji]
    · intro j hj
      rcases List.mem_cons.1 hj with rfl | hj
      · rw [ho j hi, hfr]
        exact Sp.get?_set_self _ _ _
      · rw [hu j hj, hother j (fun h => hi (h ▸ hj))]
    · intro j hj
      rw [ho j (fun h => hj (List.mem_cons_of_mem _ h)), hfr]
      exact Sp.get?_set_ne _ _ (fun h => hj (h ▸ List.mem_cons_self))

theorem writers_nodup (x : Group) (b : Bool) (p : Nat) (pn : Bool) : (x.writers b p pn).Nodup := List.nodup_range.filter _

/-- DALLOC serves every writing lane (R118, R299). -/
theorem dalloc_spec {s : State} {g : Nat} {b : Bool} {x : Group} {o : Ops} {ln : Launch} {tm : Team} {ws : List Nat} (hws : ws = x.writers b o.p o.pn)
    (hm : MayIssue s g b x ws ws [(.src32, o.a)] [(.dst64, o.d)]) (hl : s.launch? x.launch = some ln) (ht : s.team? x.team = some tm) :
    ∃ t y, LaneStep (.dalloc o) s t g b { x with heapUsed := y.heapUsed } y
      ∧ (∀ n j, j < 64 → y.reg n j = if j ∈ ws ∧ o.d ≤ n ∧ n < o.d + 2
          then BitVec.ofNat 32 ((heapServe ln tm x j (x.read .src32 o.a j 0)).1 / 2 ^ (32 * (n - o.d))) else x.reg n j)
      ∧ (∀ j, j ∈ ws → Sp.get? y.heapUsed j = some (heapServe ln tm x j (x.read .src32 o.a j 0)).2)
      ∧ y.masks = x.masks ∧ y.latches = x.latches := by
  have he : exec (.dalloc o) s = .next _ := State.withLane_of hm.turn hm.group _
  dsimp only at he
  rw [← hws, MayIssue.gate_go (uni := false) hm, Group.consumers_nil hm.clean, hl, ht] at he
  have hgo : exec (.dalloc o) s = .next (s.goesOn g b (fun x0 => ws.foldl (served ln tm o (fun j => x.read .src32 o.a j 0)) x0)) := he
  obtain ⟨hf, hr, hu, -⟩ := foldl_served ln tm o (fun j => x.read .src32 o.a j 0) ws (hws ▸ writers_nodup x b o.p o.pn)
    (fun j hj => Group.writers_lt (hws ▸ hj)) x
  generalize hy : ws.foldl (served ln tm o (fun j => x.read .src32 o.a j 0)) x = y at hf hr hu
  obtain ⟨z, hz, hregs, hmk, hla, hfl, hi, ho, hb⟩ := goesOn_spec (s := s) (g := g) (b := b) (x := x) (x' := { x with heapUsed := y.heapUsed })
    (f := fun x0 => ws.foldl (served ln tm o (fun j => x.read .src32 o.a j 0)) x0) hm.group hy (by rw [hf])
    (by rw [hf]; cases b <;> rfl) (by rw [hf]; cases b <;> rfl)
  have hheap : z.heapUsed = y.heapUsed := by rw [hi.rest]
  refine ⟨_, z, ⟨hgo, hz, by rw [hheap]; exact hi, ho, hb⟩, fun n j hj => ?_, fun j hj => ?_, ?_, ?_⟩
  · rw [Group.reg_congr hregs]; exact hr n j hj
  · rw [hheap]; exact hu j hj
  · rw [hmk, hf]
  · rw [hla, hf]

/-- A request that is not served: no bytes, too many, or the lane's part is used up (R118). -/
theorem heapServe_zero {ln : Launch} {tm : Team} {x : Group} {lane bytes h sl : Nat} (hh : ln.heap = some (h, sl))
    (hc : bytes = 0 ∨ 2 ^ 24 < bytes ∨ sl / (tm.ngroups * x.width) < Sp.getD x.heapUsed lane 0 + (bytes + 15) / 16 * 16) :
    heapServe ln tm x lane bytes = (0, Sp.getD x.heapUsed lane 0) := by
  unfold heapServe
  rw [hh]
  exact if_pos hc

theorem heapServe_next {ln : Launch} {tm : Team} {x : Group} {lane bytes h sl : Nat} (hh : ln.heap = some (h, sl)) (hb : 0 < bytes)
    (hm : bytes ≤ 2 ^ 24) (hu : Sp.getD x.heapUsed lane 0 + (bytes + 15) / 16 * 16 ≤ sl / (tm.ngroups * x.width)) :
    heapServe ln tm x lane bytes =
      (h + tm.q * sl + x.index * (sl / tm.ngroups) + lane * (sl / (tm.ngroups * x.width)) + Sp.getD x.heapUsed lane 0,
        Sp.getD x.heapUsed lane 0 + (bytes + 15) / 16 * 16) := by
  unfold heapServe
  rw [hh]
  exact if_neg (by omega)

/-- The lanes' parts of a group lie in its part of the team's slice. -/
theorem lane_part_le {ng w sl index lane : Nat} (hi : index < ng) (hl : lane < w) : index * (sl / ng) + (lane + 1) * (sl / (ng * w)) ≤ sl := by
  have h1 : (lane + 1) * (sl / (ng * w)) ≤ sl / ng := by
    rw [← Nat.div_div_eq_div_mul]
    exact (Nat.mul_le_mul_right _ hl).trans (Nat.mul_div_le _ _)
  calc index * (sl / ng) + (lane + 1) * (sl / (ng * w)) ≤ index * (sl / ng) + sl / ng := Nat.add_le_add_left h1 _
    _ = (index + 1) * (sl / ng) := by ring
    _ ≤ ng * (sl / ng) := Nat.mul_le_mul_right _ hi
    _ ≤ sl := Nat.mul_div_le _ _

theorem heapServe_spec (ln : Launch) (tm : Team) (x : Group) (lane bytes h sl : Nat) (hh : ln.heap = some (h, sl)) (hi : x.index < tm.ngroups)
    (hl : lane < x.width) :
    let part := sl / (tm.ngroups * x.width)
    let used := Sp.getD x.heapUsed lane 0
    let r := heapServe ln tm x lane bytes
    (bytes = 0 ∨ 2 ^ 24 < bytes ∨ part < used + (bytes + 15) / 16 * 16 → r = (0, used))
    ∧ (0 < bytes → bytes ≤ 2 ^ 24 → used + (bytes + 15) / 16 * 16 ≤ part →
        r.1 = h + tm.q * sl + x.index * (sl / tm.ngroups) + lane * part + used
        ∧ r.2 = used + (bytes + 15) / 16 * 16 ∧ r.2 ≤ part
        ∧ h + tm.q * sl + x.index * (sl / tm.ngroups) + lane * part ≤ r.1
        ∧ r.1 + bytes ≤ h + tm.q * sl + x.index * (sl / tm.ngroups) + (lane + 1) * part
        ∧ r.1 + bytes ≤ h + (tm.q + 1) * sl) := by
  dsimp only
  refine ⟨heapServe_zero hh, fun hb hm hu => ?_⟩
  have hpart := lane_part_le (sl := sl) hi hl
  rw [heapServe_next hh hb hm hu]
  dsimp only
  generalize sl / (tm.ngroups * x.width) = part at *
  generalize Sp.getD x.heapUsed lane 0 = used at *
  have hround : bytes ≤ (bytes + 15) / 16 * 16 := by omega
  have hq : (tm.q + 1) * sl = tm.q * sl + sl := Nat.succ_mul _ _
  have hlane : (lane + 1) * part = lane * part + part := Nat.succ_mul _ _
  rw [hlane] at hpart
  refine ⟨rfl, rfl, hu, Nat.le_add_right _ _, ?_, ?_⟩
  · rw [hlane]; omega
  · rw [hq]; omega

/-- Settles O26: RGROW and RSHRINK as words that act once, the re-admission by the grant of the one waiter, the packings by the first of
them that reproduces the lanes, DALLOC by what each lane is served. -/
theorem registersAndHeap : Obligations.RegistersAndHeap := by
  unfold Obligations.RegistersAndHeap
  refine ⟨⟨fun s g b x o hm => ⟨rgrow_idle_spec hm o, rgrow_grows_spec hm o, rshrink_idle_spec hm o, rshrink_frees_spec hm o⟩, ?_⟩, ?_, ?_, ?_⟩
  · intro s cl sl g n b x hg hk he hw hm hr
    exact readmit_spec hg hk he hw hm hr
  · intro vals hne hlt
    exact packRegister_spec vals hne hlt
  · intro s g b x o ln tm ws hm hl ht
    exact dalloc_spec rfl hm hl ht
  · exact heapServe_spec

end Sys2Proof.Claims
end

section
/-! A group that yielded leaves the stage (R23, R250): a state in which its table entry is not replaced. Refutes O44. -/

namespace Sys2Proof.Claims

open Sys2Proof Sys2Proof.Machine

/-! ### A table that is not in rising order

The statement ranges over every table of groups. `Sp.set` puts a value at its place in rising order: in a table whose first key is above
the one that is set, it stands before the entry that was there, which stays. A group that has left the stage then still counts on it by
its old entry, and a stage of eight has no vacant slot for the group in the wings. -/

/-- A group that is ready in the wings of slice 0. -/
def waiter : Group :=
  { uid := 0, launch := 0, team := 0, index := 0, part := 0, cluster := 0, slice := 0, gslot := 0, half := 0, width := 32, extent := 32, nregs := 32,
    started := true, parked := false }
/-- A group on the stage. -/
def stayer : Group := { waiter with onStage := true }
/-- A group that has yielded. -/
def yielder : Group := { stayer with yielding := true }

/-- Eight groups on the stage, one of which has yielded; a ninth is ready in the wings. -/
def crowded : State :=
  { groups := [(9, waiter), (1, stayer), (2, stayer), (3, stayer), (4, stayer), (5, stayer), (6, stayer), (7, stayer), (0, yielder)],
    clusters := [(0, { cycle := [(0, 1)] })] }

theorem crowded_swap : exec (.stageSwap 0 0) crowded = .next (crowded.leaveYielding 0) := by rfl

theorem crowded_waits : (crowded.leaveYielding 0).group? 9 = some waiter := by decide

theorem crowded_yielders : ∀ p ∈ crowded.groups, p.2.skey = 0 * 6 + 0 → p.2.yielding = true → p = (0, yielder) := by decide

/-- Refutes O44: in `crowded`, whose table of groups is not in rising order, the group in the wings is not brought to the stage when the
yielding one leaves. -/
theorem not_sliceCycles : ¬ Obligations.SliceCycles := by
  unfold Obligations.SliceCycles
  rintro ⟨hcycle, -⟩
  obtain ⟨-, -, -, -, -, hyield⟩ := hcycle crowded 0 0
  obtain ⟨t, hx, -, -, hin, -⟩ := hyield 0 yielder 9 waiter (by decide) (by decide) rfl rfl crowded_yielders (by decide) (by decide) (by decide) (by decide)
    (by decide) (by decide)
  rw [crowded_swap] at hx
  cases hx
  rw [crowded_waits] at hin
  exact absurd (congrArg (Option.map Group.onStage) hin) (by decide)

end Sys2Proof.Claims
end

section
/-! The report of an error that is fatal to a partition (R175, R440): a partition number that does not fit its field. Refutes O50. -/

namespace Sys2Proof.Claims

open Sys2Proof Sys2Proof.Machine

/-! ### A partition number that does not fit its field

Word 0 of a report holds the partition in 8 bits, below the type (R440). The statement asks the report of a fatal error of every number:
of one that is 256 or more the carry goes into the type. -/

/-- What an event leaves as the first entry of the error history. -/
def firstEntry (o : Host.Outcome State Fault Refusal) : Option HistEntry :=
  match o with | .next t => t.house.history.head? | _ => none

theorem fatal_256_type : (firstEntry (exec (.uncorrectableError (.remap 256)) {})).map (fun e => e.w0.toNat / 2 ^ 56) = some 0x0C := by
  rfl

/-- Refutes O50: in the reset state an uncorrectable error in the remap of partition 256 is reported with type 0x0C, not 0x0B. -/
theorem not_errorContainment : ¬ Obligations.ErrorContainment := by
  unfold Obligations.ErrorContainment
  rintro ⟨hcontain, -⟩
  obtain ⟨-, -, -, -, -, -, -, hfatal, -⟩ := hcontain {} (by decide) (fun _ => rfl) (fun _ => Nat.le_of_eq rfl)
  obtain ⟨⟨t, hx, ⟨e, f, hh, he, -⟩, -⟩, -⟩ := hfatal 256
  have hfirst : firstEntry (exec (.uncorrectableError (.remap 256)) {}) = some e := by
    rw [hx]
    show t.house.history.head? = some e
    rw [hh]
    rfl
  have htype := fatal_256_type
  rw [hfirst] at htype
  obtain ⟨htype', -, -⟩ := he
  rw [Option.map_some, htype'] at htype
  cases htype

end Sys2Proof.Claims
end

section
/-! PROOFS. What a step is: the head of the agenda, an event of a unit under its own name, a word of a slot or a context under the
instruction it decodes to. Settles O57. -/

namespace Sys2Proof.Claims

open Sys2Proof Sys2Proof.Machine

/-- A unit's own turn runs as the instruction of its name. -/
theorem Own.run_of_runsAs {e : Own} {i : Instr} (h : runsAs e i) (s : State) : e.run s = exec i s := by
  cases e with
  | syscPlain c => exact h.elim
  | _ => subst h; rfl

section LaneTurn

variable {s : State} {g : Nat} {b : Bool} {x : Group} {c : Ctx}

/-- The fetch of a slot that may issue, in its generator's context: past its segment it stops, else its store says. -/
theorem fetchLane_of_mayIssue (hx : s.group? g = some x) (hm : s.mayIssue g x = true) (hl : (x.slot b).mask ≠ 0)
    (hw : (x.slot b).wait = .run) (hc : s.ctxOf x = some c) :
    s.fetchLane g b =
      if (x.slot b).past then .over_ (s.stopBefore g b x 0x08 (x.slot b).mask 0 0)
      else match c.fetch (x.slot b).pc with
        | .range => .over_ (s.stopBefore g b x 0x08 (x.slot b).mask 0 0)
        | .parks seg => .over_ (s.park g b (.segment seg))
        | .word w _ => match decodeLane w.toNat with | .ok i => .run i | .error _ => .bad := by
  have hlive : (x.slot b).live = true := by simpa [Slot.live] using hl
  simp only [State.fetchLane, hx, hm, hlive, hw, hc, bne_self_eq_false, Bool.not_true, Bool.or_false, Bool.false_eq_true, if_false]
    <;> rfl

/-- The turn of a slot whose fetch gives an instruction. -/
theorem runTurn_lane_run {i : Instr} (h : s.fetchLane g b = .run i) :
    runTurn s (.lane g b) = exec i { (s.noteFetch g b) with cur := .lane g b } := by
  simp only [runTurn, h]

/-- The turn of a slot whose fetch ends it. -/
theorem runTurn_lane_over {t : State} (h : s.fetchLane g b = .over_ t) : runTurn s (.lane g b) = .next t := by
  simp only [runTurn, h]

end LaneTurn

section ContextTurn

variable {s : State} {c : Nat} {x : Ctx}

/-- The turn of a context at a word of its image that decodes. -/
theorem runTurn_prompter_run {i : Instr} (hx : s.ctx? c = some x) (hpc : x.pc.toNat < x.imageLen)
    (hd : decodePrompter (Sp.getD x.words x.pc.toNat 0).toNat = .ok i) :
    runTurn s (.prompter c) = exec i { (s.noteCtx c) with cur := .prompter c } := by
  simp only [runTurn, State.fetchCtx, hx, Nat.not_le.mpr hpc, hd, if_false]

/-- The turn of a context at a word of its image that has no meaning. -/
theorem runTurn_prompter_illegal {n : Nat} (hx : s.ctx? c = some x) (hpc : x.pc.toNat < x.imageLen)
    (hd : decodePrompter (Sp.getD x.words x.pc.toNat 0).toNat = .error n) :
    runTurn s (.prompter c) = exec (.illegalInstruction n) { (s.noteCtx c) with cur := .prompter c } := by
  simp only [runTurn, State.fetchCtx, hx, Nat.not_le.mpr hpc, hd, if_false]
  rfl

/-- The turn of a context beyond its image. -/
theorem runTurn_prompter_beyond (hx : s.ctx? c = some x) (hpc : x.imageLen ≤ x.pc.toNat) :
    runTurn s (.prompter c) = exec (.prompterMemoryFault x.pc.toNat) { (s.noteCtx c) with cur := .prompter c } := by
  simp only [runTurn, State.fetchCtx, hx, hpc, if_true]
  rfl

end ContextTurn

/-- A step with a turn laid down is that turn, with the rest of the agenda left. -/
theorem step_of_agenda {s : State} {a : Turn} {rest : List Turn} (h : s.agenda = a :: rest) :
    step s = runTurn { s with agenda := rest } a := by
  simp only [step, h]

/-- Settles O57: one equation per kind of turn, the fetches of a slot and of a context case by case. -/
theorem stepRuns : Obligations.StepRuns := by
  unfold Obligations.StepRuns
  refine ⟨fun s h => by simp only [step, h], fun s rest => ⟨?_, ?_, ?_, ?_, ?_⟩⟩
  · intro i h
    exact step_of_agenda h
  · intro e i h hr
    exact (step_of_agenda h).trans (Own.run_of_runsAs hr _)
  · intro c h
    exact step_of_agenda h
  · intro g b x c h hx hm hl hw hc
    have hf := fetchLane_of_mayIssue (s := { s with agenda := rest }) hx hm hl hw hc
    refine ⟨fun hp => ?_, fun hp => ⟨fun w v i hword hd => ?_, fun hrange => ?_, fun seg hparks => ?_⟩⟩ <;> rw [step_of_agenda h]
    · exact runTurn_lane_over (by rw [hf, if_pos hp])
    · exact runTurn_lane_run (by simp only [hf, hp, hword, hd, Bool.false_eq_true, if_false])
    · exact runTurn_lane_over (by simp only [hf, hp, hrange, Bool.false_eq_true, if_false])
    · exact runTurn_lane_over (by simp only [hf, hp, hparks, Bool.false_eq_true, if_false])
  · intro c x h hx
    refine ⟨fun hpc i hd => ?_, fun hpc n hd => ?_, fun hpc => ?_⟩ <;> rw [step_of_agenda h]
    · exact runTurn_prompter_run hx hpc hd
    · exact runTurn_prompter_illegal hx hpc hd
    · exact runTurn_prompter_beyond hx hpc

end Sys2Proof.Claims
end

section
/-! PROOFS. The return from a lane event: what is cleared of a group, and when it goes on. Settles O12. -/

namespace Sys2Proof.Claims

open Sys2Proof Sys2Proof.Machine

/-- A slot after the return: where the system context resumes, one that waits on a translation tries its word again (R405). -/
def resumedSlot (both : Bool) (v : Slot) : Slot := if both && v.wait == .walk then { v with wait := .run } else v

/-- A group with its event disposed of and its holds cleared, before it is woken. -/
def disposed (x : Group) (both : Bool) (k : Clock) : Group :=
  { x with evHold := false, dbgHold := x.dbgHold && !both, trHold := x.trHold && !both, stop := none, posted := false, assist := false,
           slotA := resumedSlot both x.slotA, slotB := resumedSlot both x.slotB, clk := Clock.join x.clk k }

/-- Waking a group changes its state of running and its place in the wings alone. -/
theorem wake_frame (x : Group) (now : Nat) :
    x.wake now = { x with run := (x.wake now).run, onStage := (x.wake now).onStage, parked := (x.wake now).parked, readyAge := (x.wake now).readyAge } := by
  unfold Group.wake; split <;> rfl

/-- A halted group without holds wakes: it is active, in the wings, ready from now on (R23). -/
theorem wake_of_clear {x : Group} (hr : x.run = .halted) (hc : x.holdsClear = true) (now : Nat) :
    x.wake now = { x with run := .active, onStage := false, parked := false, readyAge := now } := by
  simp [Group.wake, hr, hc]

/-- A group that is not halted, or has a hold left, stays as it is. -/
theorem wake_of_not {x : Group} (h : ¬(x.run = .halted ∧ x.holdsClear = true)) (now : Nat) : x.wake now = x := by
  simp only [Group.wake, Bool.and_eq_true, beq_iff_eq, h, if_false]

/-- The return from a lane event, on the state. -/
theorem returnEvent_eq {s : State} {g : Nat} {x : Group} (hg : s.group? g = some x) (both : Bool) (k : Clock) :
    s.returnEvent g both k =
      ({ s with faulted := if both then s.faulted.filter (fun w => w.agent != Agent.group g) else s.faulted } : State).setGroup g
        ((disposed x both k).wake (s.sliceNow x)) := by
  simp only [State.returnEvent, hg]
  cases both <;> rfl

theorem disposed_slot (x : Group) (both : Bool) (k : Clock) (b : Bool) : (disposed x both k).slot b = resumedSlot both (x.slot b) := by
  cases b <;> rfl

/-- With the event disposed of, the holds are clear when neither the debug hold nor that of a translation fault is left. -/
theorem disposed_holdsClear (x : Group) (both : Bool) (k : Clock) :
    (disposed x both k).holdsClear = true ↔ (disposed x both k).dbgHold = false ∧ (disposed x both k).trHold = false := by
  simp only [Group.holdsClear, disposed, Bool.not_false, Bool.true_and, Bool.and_eq_true, Bool.not_eq_true']

/-- Settles O12: the group is the disposed one, woken. -/
theorem laneEventReturn : Obligations.LaneEventReturn := by
  unfold Obligations.LaneEventReturn
  intro s g x both k hg
  let z := disposed x both k
  have hw := wake_frame z (s.sliceNow x)
  have hruns : (z.wake (s.sliceNow x)).run = .active ↔ x.run = .active ∨ (x.run = .halted ∧ z.dbgHold = false ∧ z.trHold = false) := by
    by_cases h : z.run = .halted ∧ z.holdsClear = true
    · have hz := (disposed_holdsClear x both k).mp h.2
      simp only [wake_of_clear h.1 h.2, true_iff]
      exact Or.inr ⟨h.1, hz⟩
    · rw [wake_of_not h]
      exact ⟨Or.inl, fun hx => hx.resolve_right fun ⟨hr, hh⟩ => h ⟨hr, (disposed_holdsClear x both k).mpr hh⟩⟩
  have hgoes : x.run = .halted → (z.wake (s.sliceNow x)).run = .active →
      (z.wake (s.sliceNow x)).onStage = false ∧ (z.wake (s.sliceNow x)).readyAge = s.sliceNow x := by
    intro hr ha
    have hh := (hruns.mp ha).resolve_left (by rw [hr]; decide)
    rw [wake_of_clear (x := z) hr ((disposed_holdsClear x both k).mpr hh.2)]
    exact ⟨rfl, rfl⟩
  rw [returnEvent_eq hg]
  refine ⟨z.wake (s.sliceNow x), by rw [State.group?_setGroup, if_pos rfl], ?_, ?_, ?_, ?_, ?_, ?_, ?_, ?_, ?_, ?_, ?_, rfl⟩
  · rw [hw]; rfl
  · rw [hw]; rfl
  · rw [hw]; rfl
  · rw [hw]; rfl
  · rw [hw]; rfl
  · rw [hw]; rfl
  · rw [hw]; exact ⟨rfl, rfl, rfl, rfl⟩
  · intro b
    have hs : (z.wake (s.sliceNow x)).slot b = resumedSlot both (x.slot b) := by rw [hw]; exact disposed_slot x both k b
    simp only [hs, resumedSlot, Bool.and_eq_true, beq_iff_eq]
  · rw [hw] at hruns ⊢; exact hruns
  · exact hgoes
  · intro n hn
    rw [State.group?_setGroup, if_neg hn]
    rfl

end Sys2Proof.Claims
end

section
/-! PROOFS. The end of a launch with a status, level-G faults, and how a prompter word is executed (R57, R78, R328, R329): rules that
the statements about the prompter share. -/

namespace Sys2Proof.Claims

open Sys2Proof Sys2Proof.Machine

/-! ### What the exits of teams and contexts leave of the launches -/

/-- From s to t no launch goes, ends or changes its status, and the house controller's state is the same. -/
structure LaunchesStay (s t : State) : Prop where
  house : t.house = s.house
  stays : ∀ l k, s.launch? l = some k → ∃ k', t.launch? l = some k' ∧ k'.killed = k.killed ∧ k'.status = k.status

theorem LaunchesStay.of_eq {s t : State} (hh : t.house = s.house) (hl : t.launches = s.launches) : LaunchesStay s t :=
  ⟨hh, fun l k hk => ⟨k, by simpa only [State.launch?, hl] using hk, rfl, rfl⟩⟩

theorem LaunchesStay.refl (s : State) : LaunchesStay s s := .of_eq rfl rfl

theorem LaunchesStay.trans {s t u : State} (h : LaunchesStay s t) (k : LaunchesStay t u) : LaunchesStay s u := by
  refine ⟨k.house.trans h.house, fun l x hx => ?_⟩
  obtain ⟨y, hy, hk, hst⟩ := h.stays l x hx
  obtain ⟨z, hz, hk', hst'⟩ := k.stays l y hy
  exact ⟨z, hz, hk'.trans hk, hst'.trans hst⟩

theorem LaunchesStay.ite {s t u : State} {p : Prop} [Decidable p] (h : LaunchesStay s t) (k : LaunchesStay s u) :
    LaunchesStay s (if p then t else u) := by
  split <;> assumption

/-- A step that is taken only in some case. -/
theorem LaunchesStay.iteThen {s t u : State} {p : Prop} [Decidable p] (h : LaunchesStay s t) (k : LaunchesStay t u) :
    LaunchesStay s (if p then u else t) := .ite (h.trans k) h

theorem LaunchesStay.foldl {α : Type} {f : State → α → State} (h : ∀ s a, LaunchesStay s (f s a)) (l : List α) (s : State) :
    LaunchesStay s (l.foldl f s) := by
  induction l generalizing s with
  | nil => exact .refl s
  | cons a l ih => exact (h s a).trans (ih _)

/-- A change of a launch that neither ends it nor gives it a status. -/
theorem LaunchesStay.modLaunch (s : State) (l : Nat) {f : Launch → Launch} (hf : ∀ k, (f k).killed = k.killed ∧ (f k).status = k.status) :
    LaunchesStay s (s.modLaunch l f) := by
  refine ⟨rfl, fun m k hk => ?_⟩
  rw [State.launch?_modLaunch, hk]
  split
  · exact ⟨f k, rfl, hf k⟩
  · exact ⟨k, rfl, rfl, rfl⟩

theorem LaunchesStay.thenModLaunch {s t : State} (h : LaunchesStay s t) {l : Nat} {f : Launch → Launch}
    (hf : ∀ k, (f k).killed = k.killed ∧ (f k).status = k.status) : LaunchesStay s (t.modLaunch l f) := h.trans (.modLaunch t l hf)

theorem launchesStay_count (s : State) (l ck which n : Nat) (up : Bool) : LaunchesStay s (s.count l ck which n up) :=
  .ite (.refl s) (.modLaunch s l fun _ => ⟨rfl, rfl⟩)

theorem launchesStay_leaveEnsemble (s : State) (t : Nat) : LaunchesStay s (s.leaveEnsemble t) := by
  unfold State.leaveEnsemble
  split
  · exact .refl s
  · split <;> exact .of_eq rfl rfl

theorem launchesStay_stopCtx (s : State) (xk : Nat) : LaunchesStay s (s.stopCtx xk) := by
  unfold State.stopCtx
  split
  · exact .refl s
  · refine .trans (.of_eq rfl rfl) (.trans (.modLaunch _ _ ?_) (.of_eq rfl rfl))
    exact fun _ => ⟨rfl, rfl⟩

theorem launchesStay_reapTeam (s : State) (t : Nat) : LaunchesStay s (s.reapTeam t) := by
  unfold State.reapTeam
  split
  · exact .refl s
  · exact .ite (.ite (.of_eq rfl rfl) (.of_eq rfl rfl)) (.refl s)

theorem launchesStay_reapCtx (s : State) (xk : Nat) : LaunchesStay s (s.reapCtx xk) := .ite (.refl s) (launchesStay_stopCtx s xk)

theorem launchesStay_stopMirror (s : State) (ck l : Nat) : LaunchesStay s (s.stopMirror ck l) := by
  unfold State.stopMirror
  exact .foldl (fun s (p : Nat × Ctx) => launchesStay_stopCtx s p.1) _ s

theorem launchesStay_reapAll (s : State) : LaunchesStay s s.reapAll := by
  unfold State.reapAll
  exact .foldl (fun s (p : Nat × Team) => launchesStay_reapTeam s p.1) _ s

theorem launchesStay_exitOne (s : State) (t : Nat) : LaunchesStay s (s.exitOne t) := by
  unfold State.exitOne
  split
  · exact .refl s
  · dsimp only
    refine .iteThen (.trans ?_ (launchesStay_reapCtx _ _)) (launchesStay_stopMirror _ _ _)
    have h := launchesStay_leaveEnsemble s t
    have h' {u : State} (hu : u.launches = (s.leaveEnsemble t).launches) (hh : u.house = (s.leaveEnsemble t).house) : LaunchesStay s u :=
      h.trans (.of_eq hh hu)
    split
    · refine .trans ?_ (launchesStay_reapTeam _ t)
      refine .thenModLaunch (h' ?_ ?_) ?_
      · rfl
      · rfl
      · exact fun _ => ⟨rfl, rfl⟩
    · refine .trans ?_ (launchesStay_reapTeam _ _)
      refine .trans ?_ (launchesStay_reapTeam _ t)
      refine .thenModLaunch (h' ?_ ?_) ?_
      · rfl
      · rfl
      · exact fun _ => ⟨rfl, rfl⟩

theorem launchesStay_exitTeam (s : State) (t : Nat) : LaunchesStay s (s.exitTeam t) := by
  unfold State.exitTeam
  dsimp only
  split
  · exact .ite (.refl s) (launchesStay_exitOne s t)
  · exact .ite (launchesStay_exitOne s t) (.ite ((launchesStay_exitOne s _).trans (launchesStay_exitOne _ _)) (.refl s))

theorem launchesStay_teamExit (s : State) (t : Nat) : LaunchesStay s (teamExit s t) := by
  unfold teamExit
  split
  · exact .refl s
  · exact .iteThen (.refl s) (launchesStay_exitTeam s t)

theorem launchesStay_lowerCounted (s : State) (b : Nat) : LaunchesStay s (s.lowerCounted b) := .ite (.of_eq rfl rfl) (.refl s)

theorem launchesStay_leftPair (s : State) (x : Group) : LaunchesStay s (leftPair s x) := by
  unfold leftPair
  split <;> exact .of_eq rfl rfl

theorem launchesStay_exitGroup (s : State) (g : Nat) : LaunchesStay s (s.exitGroup g) := by
  unfold State.exitGroup
  split
  · exact .refl s
  · next x _ =>
    refine .trans ?_ (launchesStay_teamExit _ x.team)
    refine .trans (t := leftPair _ x) (.trans ?_ (launchesStay_leftPair _ x)) (.of_eq rfl rfl)
    refine .iteThen ?_ (.foldl launchesStay_lowerCounted _ _)
    refine .thenModLaunch (.of_eq ?_ ?_) ?_
    · rfl
    · rfl
    · exact fun _ => ⟨rfl, rfl⟩

theorem launchesStay_settleFaults (s : State) (l : Nat) : LaunchesStay s (s.settleFaults l) := .of_eq rfl rfl

theorem launchesStay_dropUnconfirmed (s : State) (l : Nat) : LaunchesStay s (s.dropUnconfirmed l) := by
  unfold State.dropUnconfirmed
  refine .trans (.trans (.foldl (fun s (m : MemOp) => launchesStay_count s l (clusterKey m.part m.cluster) m.counter m.away false) _ s)
    (.foldl (fun s (r : Rput) => launchesStay_count s l r.srcCluster 3 r.values.length false) _ _)) (.of_eq rfl rfl)

theorem launchesStay_killLaunch (s : State) (l : Nat) : LaunchesStay s (s.killLaunch l) := by
  unfold State.killLaunch
  dsimp only
  refine .trans ?_ (launchesStay_reapAll _)
  refine .trans ?_ (.foldl (fun s (p : Nat × Team) => .iteThen (.refl s) (launchesStay_exitOne s p.1)) _ _)
  refine .trans ?_ (.foldl (fun s (p : Nat × Ctx) => launchesStay_stopCtx s p.1) _ _)
  refine .trans ?_ (launchesStay_settleFaults _ l)
  refine .trans ?_ (launchesStay_dropUnconfirmed _ l)
  exact .foldl (fun s (p : Nat × Group) => launchesStay_exitGroup s p.1) _ s

/-! ### The end of a launch (R78) -/

/-- A launch that has not ended ends with the status it is given. -/
theorem endLaunch_ended {s : State} {l : Nat} {k : Launch} (hl : s.launch? l = some k) (hk : k.killed = false) (status : Nat) (w : DWord) :
    Ended (s.endLaunch l status w) l status := by
  simp only [State.endLaunch, hl, hk, Bool.false_eq_true, if_false]
  have hset : (s.setLaunch l { k with killed := true, status := status, faultWord := w, phase := .placed }).launch? l
      = some { k with killed := true, status := status, faultWord := w, phase := .placed } := by
    rw [State.launch?_setLaunch, if_pos rfl]
  obtain ⟨k', h, hkilled, hstatus⟩ := (launchesStay_killLaunch _ l).stays l _ hset
  exact ⟨k', h, hkilled, hstatus⟩

/-- A level-G fault of a context ends its launch with the status of its cause (R78). -/
theorem levelG_ended {s : State} {c : Nat} {x : Ctx} {l : Launch} (hx : s.ctx? c = some x) (hl : s.launch? x.launch = some l)
    (hk : l.killed = false) (cause : Nat) (body : Rec) :
    Ended (s.levelG c cause body) x.launch (levelGStatus cause (!x.inService.isEmpty)) := by
  simp only [State.levelG, hx]
  exact endLaunch_ended (s := s.postSystem _ _) hl hk _ _

end Sys2Proof.Claims
end

section
/-! PROOFS. How a word of a prompter context is executed (R57, R328, R329). -/

namespace Sys2Proof.Claims

open Sys2Proof Sys2Proof.Machine

namespace MayExecute

variable {s : State} {c : Nat} {x : Ctx} {regs : List Nat}

theorem mono {regs' : List Nat} (h : MayExecute s c x regs) (hr : ∀ r ∈ regs', r ∈ regs) : MayExecute s c x regs' :=
  ⟨h.turn, h.ctx, h.may, fun r hm => h.answered r (hr r hm)⟩

/-- A context that may execute a word does not yield. -/
theorem not_yields (h : MayExecute s c x regs) : (x.wait == .yield) = false := by
  have hm := h.may
  simp only [State.ctxMay, Bool.and_eq_true, Bool.or_eq_true, beq_iff_eq] at hm
  rcases hm.2 with hw | hw <;> rw [hw] <;> rfl

/-- Nothing awaits a reply among the registers of the word. -/
theorem none_awaits (h : MayExecute s c x regs) : regs.find? (fun r => s.ctxAwaits c x r) = none := by
  rw [List.find?_eq_none]
  intro r hr
  simp [h.answered r hr]

/-- A word that is permitted has its effect. -/
theorem ctxWord_run (h : MayExecute s c x regs) {ok : Ctx → Bool} (hok : ok x = true) (k : Nat → Ctx → State) :
    s.ctxWord ok regs k = .next (k c x) := by
  simp only [State.ctxWord, State.withCtx, h.turn, h.ctx, h.not_yields, h.may, hok, h.none_awaits, Bool.false_and, Bool.not_true,
    Bool.false_eq_true, if_false]

/-- A word that is not permitted is an illegal instruction with detail 4, whatever it would do (R328). -/
theorem ctxWord_refused (h : MayExecute s c x regs) {ok : Ctx → Bool} (hok : ok x = false) (regs' : List Nat) (k : Nat → Ctx → State) :
    s.ctxWord ok regs' k = .next (s.ctxIllegal c x 4) := by
  simp only [State.ctxWord, State.withCtx, h.turn, h.ctx, h.not_yields, h.may, hok, Bool.false_and, Bool.not_true, Bool.not_false,
    Bool.false_eq_true, if_false, if_true]

/-- The illegal-instruction fault of a context that may execute. -/
theorem exec_illegal (h : MayExecute s c x regs) (detail : Nat) : exec (.illegalInstruction detail) s = .next (s.ctxIllegal c x detail) :=
  (h.mono (regs' := []) (by simp)).ctxWord_run rfl _

/-- The prompter memory fault of a context that may execute. -/
theorem exec_memoryFault (h : MayExecute s c x regs) (index : Nat) : exec (.prompterMemoryFault index) s = .next (s.ctxMemFault c x index) :=
  (h.mono (regs' := []) (by simp)).ctxWord_run rfl _

/-- A word that is not permitted runs as the illegal instruction. -/
theorem ctxWord_eq_illegal (h : MayExecute s c x regs) {ok : Ctx → Bool} (hok : ok x = false) (regs' : List Nat) (k : Nat → Ctx → State) :
    s.ctxWord ok regs' k = exec (.illegalInstruction 4) s :=
  (h.ctxWord_refused hok regs' k).trans (h.exec_illegal 4).symm

end MayExecute

/-- An illegal instruction of a generator context is its level-G fault (R78, R328). -/
theorem ctxIllegal_generator {x : Ctx} (hx : x.num < 6) (s : State) (c detail : Nat) :
    s.ctxIllegal c x detail = s.levelG c 0x23 { w3 := recWord3 detail 0 } := by
  simp only [State.ctxIllegal, Ctx.generator, hx, decide_true, if_true]

/-- A prompter memory fault of a generator context is its level-G fault (R78, R334). -/
theorem ctxMemFault_generator {x : Ctx} (hx : x.num < 6) (s : State) (c addr : Nat) :
    s.ctxMemFault c x addr = s.levelG c 0x24 { w4 := BitVec.ofNat 64 addr } := by
  simp only [State.ctxMemFault, Ctx.generator, hx, decide_true, if_true]

end Sys2Proof.Claims
end

section
/-! PROOFS. Faults of generator contexts, and words that are not permitted (R78, R328, R348). Settles O34. -/

namespace Sys2Proof.Claims

open Sys2Proof Sys2Proof.Machine

/-- The causes that give a launch GENERATOR_FAULT, also where the context is in service of an event (R78). -/
theorem levelGStatus_generatorFault {cause : Nat} (h : cause ≠ 0x20 ∧ cause ≠ 0x21 ∧ cause ≠ 0x25) (inService : Bool) :
    levelGStatus cause inService = 0x07 := by
  obtain ⟨h0, h1, h5⟩ := h
  simp only [levelGStatus, h0, h1, h5, if_false, ite_self]

/-- An illegal instruction of a generator context ends its launch. -/
theorem illegal_ends {s : State} {c : Nat} {x : Ctx} {l : Launch} (hm : MayExecute s c x []) (hx : x.num < 6)
    (hl : s.launch? x.launch = some l) (hk : l.killed = false) (detail : Nat) :
    ∃ t, exec (.illegalInstruction detail) s = .next t ∧ Ended t x.launch 0x07 := by
  refine ⟨_, hm.exec_illegal detail, ?_⟩
  rw [ctxIllegal_generator hx]
  exact levelGStatus_generatorFault (cause := 0x23) (by decide) _ ▸ levelG_ended hm.ctx hl hk _ _

/-- A prompter memory fault of a generator context ends its launch. -/
theorem memoryFault_ends {s : State} {c : Nat} {x : Ctx} {l : Launch} (hm : MayExecute s c x []) (hx : x.num < 6)
    (hl : s.launch? x.launch = some l) (hk : l.killed = false) (index : Nat) :
    ∃ t, exec (.prompterMemoryFault index) s = .next t ∧ Ended t x.launch 0x07 := by
  refine ⟨_, hm.exec_memoryFault index, ?_⟩
  rw [ctxMemFault_generator hx]
  exact levelGStatus_generatorFault (cause := 0x24) (by decide) _ ▸ levelG_ended hm.ctx hl hk _ _

/-- A composition word outside the generator contexts is an illegal instruction. -/
theorem composeWord_eq_illegal {s : State} {c : Nat} {x : Ctx} (hm : MayExecute s c x []) (hg : Ctx.generator x = false) (regs : List Nat)
    (k : Nat → Ctx → State) : s.composeWord regs k = exec (.illegalInstruction 4) s :=
  hm.ctxWord_eq_illegal hg _ _

/-- Settles O34: the faults by the end of a launch, the refused words by their permission. -/
theorem prompterFaults : Obligations.PrompterFaults := by
  unfold Obligations.PrompterFaults
  intro s c x l hm
  refine ⟨fun hx hl hk => ⟨illegal_ends hm hx hl hk, memoryFault_ends hm hx hl hk⟩, fun hx o => ?_, fun hx o => ?_, fun hx o => ?_,
    fun o hc => ⟨hm.ctxWord_eq_illegal hc _ _, hm.ctxWord_eq_illegal hc _ _⟩⟩
  · have hg : Ctx.generator x = false := by simpa [Ctx.generator] using hx
    simp only [List.forall_mem_cons]
    have composes := composeWord_eq_illegal hm hg
    have plain := fun regs k => hm.ctxWord_eq_illegal (ok := Ctx.generator) hg regs k
    exact ⟨composes _ _, composes _ _, composes [] (s.emitWord o.a none), composes _ _, composes _ _, plain _ _, plain _ _, plain _ _, plain _ _, plain _ _, by simp⟩
  · have hs : (x.num == 7) = false := by simpa using hx
    simp only [List.forall_mem_cons]
    refine ⟨?_, ?_, ?_, ?_, ?_, by simp⟩
    all_goals exact hm.ctxWord_eq_illegal (ok := fun x => x.num == 7) hs _ _
  · have hg : (!Ctx.generator x) = false := by simpa [Ctx.generator] using hx
    simp only [List.forall_mem_cons]
    refine ⟨?_, ?_, by simp⟩
    all_goals exact hm.ctxWord_eq_illegal (ok := fun x => !x.generator) hg _ _

end Sys2Proof.Claims
end

section
/-! PROOFS. The entry of a lane event (R74 to R77, R403): the record of a stop, and where a stop that is settled is posted. Settles O11. -/

namespace Sys2Proof.Claims

open Sys2Proof Sys2Proof.Machine

/-! ### The record (R75) -/

/-- Word 0 of a record, as the sum of its fields, where each fits its own. -/
theorem recWord0_toNat {cause handle group slot slice gslot saddr : Nat} (hc : cause < 256) (hh : handle < 192) (hg : group < 32) (hs : slot < 2)
    (hsl : slice < 16) (hgs : gslot < 32) (ha : saddr < 2 ^ 20) :
    (recWord0 cause handle group slot slice gslot saddr).toNat =
      cause * 2 ^ 56 + handle * 2 ^ 48 + group * 2 ^ 43 + slot * 2 ^ 42 + slice * 2 ^ 38 + gslot * 2 ^ 33 + saddr := by
  rw [recWord0, BitVec.toNat_ofNat]
  exact Nat.mod_eq_of_lt (by omega)

/-- Word 3 of a record. -/
theorem recWord3_toNat (detail : Nat) {prov : Nat} (hp : prov < 2 ^ 32) : (recWord3 detail prov).toNat = detail % 2 ^ 32 * 2 ^ 32 + prov := by
  rw [recWord3, BitVec.toNat_ofNat]
  exact Nat.mod_eq_of_lt (by omega)

section Record

variable (s : State) (x : Group) (b : Bool) {cause : Nat} (saddr : BitVec 20) (lanes : DWord) (detail addr : Nat)

/-- Word 0 of the record of a group that its slice holds. -/
theorem laneRec_w0 (hc : cause < 256) (hi : x.index < 32) (hgs : x.gslot < 32) (hsl : s.recSlice x < 16) :
    (s.laneRec x b cause saddr lanes detail addr).w0.toNat =
      cause * 2 ^ 56 + x.team % 192 * 2 ^ 48 + x.index * 2 ^ 43 + b.toNat * 2 ^ 42 + s.recSlice x * 2 ^ 38 + x.gslot * 2 ^ 33 + saddr.toNat :=
  recWord0_toNat hc (Nat.mod_lt _ (by decide)) hi (Bool.toNat_lt b) hsl hgs saddr.isLt

/-- The cause that a record names is that of its event. -/
theorem laneRec_cause (hc : cause < 256) (hi : x.index < 32) (hgs : x.gslot < 32) (hsl : s.recSlice x < 16) :
    (s.laneRec x b cause saddr lanes detail addr).cause = cause := by
  have hb := Bool.toNat_lt b
  have ha := saddr.isLt
  have hh := Nat.mod_lt x.team (show 192 > 0 by decide)
  rw [Rec.cause, laneRec_w0 s x b saddr lanes detail addr hc hi hgs hsl]
  omega

/-- The fields of word 0 of a record (R75). -/
theorem laneRec_fields (hc : cause < 256) (hi : x.index < 32) (hgs : x.gslot < 32) (hsl : s.recSlice x < 16) :
    let r := s.laneRec x b cause saddr lanes detail addr
    field r.w0 48 8 = x.team % 192 ∧ field r.w0 43 5 = x.index ∧ field r.w0 42 1 = b.toNat ∧ field r.w0 38 4 = s.recSlice x
      ∧ field r.w0 33 5 = x.gslot ∧ field r.w0 20 13 = 0 ∧ field r.w0 0 20 = saddr.toNat := by
  have hb := Bool.toNat_lt b
  have ha := saddr.isLt
  have hh := Nat.mod_lt x.team (show 192 > 0 by decide)
  dsimp only
  simp only [field, laneRec_w0 s x b saddr lanes detail addr hc hi hgs hsl]
  omega

/-- The detail and the provenance in word 3 of a record (R75). -/
theorem laneRec_w3 :
    let r := s.laneRec x b cause saddr lanes detail addr
    field r.w3 32 32 = detail % 2 ^ 32 ∧ field r.w3 0 32 = (s.wordAt x saddr).2.toNat := by
  have hp := (s.wordAt x saddr).2.isLt
  dsimp only
  simp only [field, State.laneRec, recWord3_toNat detail hp]
  omega

end Record

/-! ### The post of a stop (R76, R77, R403) -/

section Post

variable {s : State} {g : Nat} {y : Group} {r : Rec}

/-- A stop whose older instructions are not done posts nothing yet. -/
theorem tryPost_unsettled (hg : s.group? g = some y) (hs : y.stop = some r) (hd : s.settled g y = false) : s.tryPost g = s := by
  simp only [State.tryPost, hg, hs, hd, Bool.not_false, Bool.or_true, if_true]

/-- ASSIST is posted to context 6 of its cluster, whatever any evmask holds. -/
theorem tryPost_assist (hg : s.group? g = some y) (hs : y.stop = some r) (hp : y.posted = false) (hd : s.settled g y = true)
    (ha : y.assist = true) :
    s.tryPost g = (s.enqueue (ctxKey y.ckey 6) r y.clk g).modGroup g (fun x => { x with posted := true }) := by
  simp only [State.tryPost, hg, hs, hp, hd, ha, Bool.not_true, Bool.or_self, Bool.false_eq_true, if_false, if_true]

variable {tm : Team} {c : Ctx}

/-- A sole copy waits for no other. -/
theorem partnerStopped_sole (ht : s.team? y.team = some tm) (hsole : tm.copy = .sole) : s.partnerStopped y = true := by
  simp only [State.partnerStopped, ht, hsole]

/-- The event of a sole copy that is settled meets the evmask and the queue of its generator. -/
theorem tryPost_sole (hg : s.group? g = some y) (hs : y.stop = some r) (hp : y.posted = false) (hd : s.settled g y = true)
    (ha : y.assist = false) (ht : s.team? y.team = some tm) (hsole : tm.copy = .sole) (hc : s.ctx? tm.ctx = some c) :
    s.tryPost g =
      if c.evmask.getLsbD r.cause = false then (s.modGroup g (fun x => { x with posted := true })).levelG tm.ctx 0x25 r
      else if c.events.length < 64 then (s.enqueue tm.ctx r y.clk g).modGroup g (fun x => { x with posted := true })
      else s := by
  simp only [State.tryPost, hg, hs, hp, hd, ha, partnerStopped_sole ht hsole, ht, hc, Bool.not_true, Bool.or_self, Bool.false_eq_true, if_false,
    Bool.not_eq_true']

end Post

/-- What a context's queue holds after a record is put in it: one that waits for an event goes on (R76). -/
theorem enqueue_ctx? {s : State} {xk : Nat} {c : Ctx} (hc : s.ctx? xk = some c) (r : Rec) (k : Clock) (g : Nat) :
    (s.enqueue xk r k g).ctx? xk = some { c with events := c.events ++ [(r, k, g)], wait := if c.wait == .event then .run else c.wait } := by
  rw [State.enqueue, State.ctx?_modCtx, if_pos rfl, hc]
  rfl

theorem enqueue_ctx?_ne {s : State} {xk j : Nat} (h : j ≠ xk) (r : Rec) (k : Clock) (g : Nat) : (s.enqueue xk r k g).ctx? j = s.ctx? j := by
  rw [State.enqueue, State.ctx?_modCtx, if_neg h]

/-! ### Taking a lane event (R74) -/

/-- The group that a lane event has stopped, its record not posted yet. -/
def stoppedBy (s : State) (x : Group) (b : Bool) (cause : Nat) (saddr : BitVec 20) (lanes : DWord) (detail addr : Nat) : Group :=
  { x with run := .halted, evHold := true, onStage := false, parked := false, latches := [],
           stop := some (s.laneRec x b cause saddr lanes detail addr), posted := false, assist := cause == 0x0B, events := x.events + 1 }

section Taking

variable {s : State} {g : Nat} (b : Bool) {x : Group} (cause : Nat) (saddr : BitVec 20) (lanes : DWord) (detail addr : Nat)

theorem takeEvent_eq (hg : s.group? g = some x) :
    s.takeEvent g b cause saddr lanes detail addr = (s.setGroup g (stoppedBy s x b cause saddr lanes detail addr)).tryPost g := by
  simp only [State.takeEvent, hg]
  rfl

/-- The stopped group, posted or not, stands halted with its record. -/
theorem halted_stoppedBy (s : State) (x : Group) (p : Bool) :
    Halted x { stoppedBy s x b cause saddr lanes detail addr with posted := p } (s.laneRec x b cause saddr lanes detail addr) :=
  ⟨rfl, rfl, rfl, ⟨rfl, rfl, rfl⟩, ⟨rfl, rfl, rfl⟩, rfl, rfl⟩

theorem setGroup_group?_self (s : State) (g : Nat) (x : Group) : (s.setGroup g x).group? g = some x := by
  rw [State.group?_setGroup, if_pos rfl]

/-- What a stop waits for is not changed by the stop itself. -/
theorem settled_stoppedBy (s : State) (g : Nat) (x : Group) :
    (s.setGroup g (stoppedBy s x b cause saddr lanes detail addr)).settled g (stoppedBy s x b cause saddr lanes detail addr) = s.settled g x := rfl

end Taking

section Sole

variable {s : State} {g : Nat} {b : Bool} {x : Group} {tm : Team} {c : Ctx} {cause : Nat}

/-- A lane event of a sole copy, its older instructions done, meets the evmask and the queue of its generator. -/
theorem takeEvent_sole (hg : s.group? g = some x) (ht : s.team? x.team = some tm) (hc : s.ctx? tm.ctx = some c) (hsole : tm.copy = .sole)
    (hd : s.settled g x = true) (hcause : cause < 256) (hna : cause ≠ 0x0B) (hi : x.index < 32) (hgs : x.gslot < 32) (hsl : s.recSlice x < 16)
    (saddr : BitVec 20) (lanes : DWord) (detail addr : Nat) :
    s.takeEvent g b cause saddr lanes detail addr =
      let z := s.setGroup g (stoppedBy s x b cause saddr lanes detail addr)
      let r := s.laneRec x b cause saddr lanes detail addr
      if c.evmask.getLsbD cause = false then (z.modGroup g (fun x => { x with posted := true })).levelG tm.ctx 0x25 r
      else if c.events.length < 64 then (z.enqueue tm.ctx r x.clk g).modGroup g (fun x => { x with posted := true })
      else z := by
  have hset := settled_stoppedBy b cause saddr lanes detail addr s g x
  have h := tryPost_sole (setGroup_group?_self s g (stoppedBy s x b cause saddr lanes detail addr)) rfl rfl (hset.trans hd)
    (beq_eq_false_iff_ne.mpr hna) ht hsole hc
  rw [laneRec_cause s x b saddr lanes detail addr hcause hi hgs hsl] at h
  exact (takeEvent_eq b cause saddr lanes detail addr hg).trans h

/-- A lane event with nothing in the way is posted at once: the group stands halted, its generator holds the record, and nothing else
changes. -/
theorem takeEvent_posted (hg : s.group? g = some x) (hp : Postable s g x tm c cause) (hcause : cause < 256) (hna : cause ≠ 0x0B)
    (hi : x.index < 32) (hgs : x.gslot < 32) (hsl : s.recSlice x < 16) (saddr : BitVec 20) (lanes : DWord) (detail addr : Nat) :
    s.takeEvent g b cause saddr lanes detail addr =
      ((s.setGroup g (stoppedBy s x b cause saddr lanes detail addr)).enqueue tm.ctx (s.laneRec x b cause saddr lanes detail addr) x.clk g).modGroup g
        (fun x => { x with posted := true }) := by
  rw [takeEvent_sole hg hp.team hp.ctx hp.sole hp.settled hcause hna hi hgs hsl]
  dsimp only
  rw [if_neg (by simp [hp.handled]), if_pos hp.room]

end Sole

/-- The group after a lane event that was posted. -/
theorem posted_group? {s : State} {g xk : Nat} (y : Group) (r : Rec) (k : Clock) :
    (((s.setGroup g y).enqueue xk r k g).modGroup g (fun x => { x with posted := true })).group? g = some { y with posted := true } := by
  rw [State.group?_modGroup, if_pos rfl]
  exact congrArg (Option.map _) (setGroup_group?_self s g y)

theorem posted_group?_ne {s : State} {g h xk : Nat} (hn : h ≠ g) (y : Group) (r : Rec) (k : Clock) :
    (((s.setGroup g y).enqueue xk r k g).modGroup g (fun x => { x with posted := true })).group? h = s.group? h := by
  rw [State.group?_modGroup, if_neg hn]
  exact (State.group?_setGroup s g h y).trans (if_neg hn)

/-- An event that the evmask does not handle ends the launch of its generator, where that is in no event's service (R77, R78). -/
theorem takeEvent_unhandled {s : State} {g : Nat} {b : Bool} {x : Group} {tm : Team} {c : Ctx} {l : Launch} {cause : Nat} (hg : s.group? g = some x)
    (ht : s.team? x.team = some tm) (hc : s.ctx? tm.ctx = some c) (hsole : tm.copy = .sole) (hcause : cause < 256) (hi : x.index < 32)
    (hgs : x.gslot < 32) (hsl : s.recSlice x < 16) (hd : s.settled g x = true) (hm : c.evmask.getLsbD cause = false) (hna : cause ≠ 0x0B)
    (hin : c.inService = []) (hl : s.launch? c.launch = some l) (hk : l.killed = false) (saddr : BitVec 20) (lanes : DWord) (detail addr : Nat) :
    Ended (s.takeEvent g b cause saddr lanes detail addr) c.launch 0x08 := by
  rw [takeEvent_sole hg ht hc hsole hd hcause hna hi hgs hsl]
  dsimp only
  rw [if_pos hm]
  have he := levelG_ended (s := (s.setGroup g (stoppedBy s x b cause saddr lanes detail addr)).modGroup g (fun x => { x with posted := true }))
    hc hl hk 0x25 (s.laneRec x b cause saddr lanes detail addr)
  rwa [hin] at he

/-- ASSIST goes to context 6 of the cluster. -/
theorem takeEvent_assist {s : State} {g : Nat} {b : Bool} {x : Group} {a : Ctx} (hg : s.group? g = some x) (hd : s.settled g x = true)
    (ha : s.ctx? (ctxKey x.ckey 6) = some a) (saddr : BitVec 20) (lanes : DWord) (detail addr : Nat) :
    (s.takeEvent g b 0x0B saddr lanes detail addr).ctx? (ctxKey x.ckey 6)
      = some { a with events := a.events ++ [(s.laneRec x b 0x0B saddr lanes detail addr, x.clk, g)], wait := if a.wait == .event then .run else a.wait } := by
  have hset := settled_stoppedBy b 0x0B saddr lanes detail addr s g x
  rw [takeEvent_eq b 0x0B saddr lanes detail addr hg, tryPost_assist (setGroup_group?_self _ _ _) rfl rfl (hset.trans hd) rfl]
  exact enqueue_ctx? (s := s.setGroup g _) ha _ _ _

/-- A stop that is not settled, or finds its generator's queue full, keeps its record. -/
theorem takeEvent_kept {s : State} {g : Nat} {b : Bool} {x : Group} {tm : Team} {c : Ctx} {cause : Nat} (hg : s.group? g = some x)
    (ht : s.team? x.team = some tm) (hc : s.ctx? tm.ctx = some c) (hsole : tm.copy = .sole) (hcause : cause < 256) (hi : x.index < 32)
    (hgs : x.gslot < 32) (hsl : s.recSlice x < 16)
    (h : s.settled g x = false ∨ (c.evmask.getLsbD cause = true ∧ 64 ≤ c.events.length ∧ cause ≠ 0x0B)) (saddr : BitVec 20) (lanes : DWord)
    (detail addr : Nat) :
    s.takeEvent g b cause saddr lanes detail addr = s.setGroup g (stoppedBy s x b cause saddr lanes detail addr) := by
  by_cases hd : s.settled g x = true
  · obtain ⟨hm, hfull, hna⟩ := h.resolve_left (by simp [hd])
    rw [takeEvent_sole hg ht hc hsole hd hcause hna hi hgs hsl]
    dsimp only
    rw [if_neg (by simp [hm]), if_neg (Nat.not_lt.mpr hfull)]
  · rw [takeEvent_eq b cause saddr lanes detail addr hg]
    exact tryPost_unsettled (setGroup_group?_self _ _ _) rfl
      ((settled_stoppedBy b cause saddr lanes detail addr s g x).trans (Bool.eq_false_iff.mpr hd))

/-- Settles O11: the event posted at once, its record's fields, and the three ways in which it is not posted to its generator. -/
theorem laneEventEntry : Obligations.LaneEventEntry := by
  unfold Obligations.LaneEventEntry
  refine ⟨?_, ?_, ?_⟩
  · intro s g b x tm c cause saddr lanes detail addr hg hp hcause hna hi hgs hsl
    dsimp only
    rw [takeEvent_posted hg hp hcause hna hi hgs hsl]
    refine ⟨⟨_, posted_group? _ _ _, halted_stoppedBy b cause saddr lanes detail addr s x true, rfl⟩, ?_, fun k hk => posted_group?_ne hk _ _ _,
      fun k hk => ?_, rfl⟩
    · exact enqueue_ctx? (s := s.setGroup g _) hp.ctx _ _ _
    · exact enqueue_ctx?_ne (s := s.setGroup g _) hk _ _ _
  · intro s x b cause saddr lanes detail addr hcause hi hgs hsl
    obtain ⟨h1, h2, h3, h4, h5, h6, h7⟩ := laneRec_fields s x b saddr lanes detail addr hcause hi hgs hsl
    obtain ⟨h8, h9⟩ := laneRec_w3 s x b (cause := cause) saddr lanes detail addr
    exact ⟨laneRec_cause s x b saddr lanes detail addr hcause hi hgs hsl, h1, h2, h3, h4, h5, h6, h7, rfl, rfl, h8, h9, rfl⟩
  · intro s g b x tm c cause saddr lanes detail addr hg ht hc hsole hcause hi hgs hsl
    refine ⟨fun hd hm hna hin l hl hk => ?_, fun hd ha a hctx => ?_, fun h => ?_⟩
    · exact takeEvent_unhandled hg ht hc hsole hcause hi hgs hsl hd hm hna hin hl hk saddr lanes detail addr
    · subst ha
      exact takeEvent_assist hg hd hctx saddr lanes detail addr
    · rw [takeEvent_kept hg ht hc hsole hcause hi hgs hsl h]
      exact ⟨_, setGroup_group?_self _ _ _, halted_stoppedBy b cause saddr lanes detail addr s x false, rfl, rfl⟩

end Sys2Proof.Claims
end

section
/-! PROOFS. TRAP, BKPT (R252) and BIND (R248): a lane event that an issued word raises. Settles O13. -/

namespace Sys2Proof.Claims

open Sys2Proof Sys2Proof.Machine

/-! ### What an issue leaves of the record of a later event -/

/-- The group x of s and y of t are alike to a lane event: where they stand, what is in flight, and their generators but for the
activity counts. -/
structure EventAlike (s t : State) (x y : Group) : Prop where
  teams : t.teams = s.teams
  flight : t.flight = s.flight
  ctxs : ∀ c, (t.ctx? c).map (fun k => { k with laneSteps := 0 }) = (s.ctx? c).map (fun k => { k with laneSteps := 0 })
  clusters : t.clusters = s.clusters
  mem : t.mem = s.mem
  names : y.uid = x.uid ∧ y.team = x.team ∧ y.index = x.index ∧ y.cluster = x.cluster ∧ y.slice = x.slice ∧ y.gslot = x.gslot

namespace EventAlike

variable {s t : State} {x y : Group}

theorem team? (h : EventAlike s t x y) (k : Nat) : t.team? k = s.team? k := by unfold State.team?; rw [h.teams]

theorem recSlice (h : EventAlike s t x y) : t.recSlice y = s.recSlice x := by
  obtain ⟨_, hteam, _, hcl, hsl, _⟩ := h.names
  simp only [State.recSlice, h.team?, hteam, hcl, hsl]

/-- The context of a key, up to its activity count. -/
theorem ctx_of (h : EventAlike s t x y) {k : Nat} {c : Ctx} (hc : s.ctx? k = some c) :
    ∃ n, t.ctx? k = some { c with laneSteps := n } := by
  have hk := h.ctxs k
  rw [hc] at hk
  obtain ⟨c', hc', heq⟩ := Option.map_eq_some_iff.mp hk
  refine ⟨c'.laneSteps, hc'.trans (congrArg some ?_)⟩
  calc c' = { { c' with laneSteps := 0 } with laneSteps := c'.laneSteps } := rfl
    _ = _ := by rw [heq]

theorem wordAt (h : EventAlike s t x y) (a : BitVec 20) : t.wordAt y a = s.wordAt x a := by
  have hstore (k : Nat) : (t.ctx? k).map Ctx.store = (s.ctx? k).map Ctx.store := by
    have := congrArg (Option.map Ctx.store) (h.ctxs k)
    rwa [Option.map_map, Option.map_map] at this
  have hword (u : State) (z : Group) : u.wordAt z a =
      match ((u.team? z.team).bind (fun m => (u.ctx? m.ctx).map Ctx.store)) with
      | none => (0, 0)
      | some st => (Sp.get? st (segOf a * 4096 + offOf a)).getD (0, 0) := by
    unfold State.wordAt State.ctxOf
    cases u.team? z.team with
    | none => rfl
    | some m => simp only [Option.bind_some]; cases u.ctx? m.ctx <;> rfl
  rw [hword, hword, h.names.2.1, h.team?]
  simp only [hstore]

theorem laneRec (h : EventAlike s t x y) (b : Bool) (cause : Nat) (saddr : BitVec 20) (lanes : DWord) (detail addr : Nat) :
    t.laneRec y b cause saddr lanes detail addr = s.laneRec x b cause saddr lanes detail addr := by
  obtain ⟨_, hteam, hi, _, _, hgs⟩ := h.names
  simp only [State.laneRec, h.wordAt, h.recSlice, hteam, hi, hgs]

theorem settled (h : EventAlike s t x y) (g : Nat) : t.settled g y = s.settled g x := by
  obtain ⟨hu, hteam, hi, _⟩ := h.names
  simp only [State.settled, State.replied, State.undone, h.flight, h.team?, hu, hteam, hi]

/-- An event that would be posted at once still would. -/
theorem postable (h : EventAlike s t x y) {g cause : Nat} {tm : Team} {c : Ctx} (hp : Postable s g x tm c cause) :
    ∃ n, Postable t g y tm { c with laneSteps := n } cause := by
  obtain ⟨n, hn⟩ := h.ctx_of hp.ctx
  exact ⟨n, ⟨by rw [h.team?, h.names.2.1]; exact hp.team, hn, hp.sole, by rw [h.settled]; exact hp.settled, hp.handled, hp.room⟩⟩

theorem sameBytes (h : EventAlike s t x y) : SameBytes s t := by
  refine ⟨fun a => by rw [h.mem], fun k a => ?_⟩
  unfold State.cluster
  rw [h.clusters]

end EventAlike

/-- After one more issue a group is alike to a lane event. -/
theorem eventAlike_issued {s : State} {g : Nat} {b : Bool} {x : Group} {n : Nat} :
    EventAlike s ((s.setGroup g (x.advance b)).noteIssue g b []) x ((x.advance b).issuedAt b n []) := by
  have hf := State.noteIssue_frame (s.setGroup g (x.advance b)) g b []
  refine ⟨by rw [hf]; rfl, by rw [hf]; rfl, fun c => State.noteIssue_ctx? _ g b [] c, by rw [hf]; rfl, by rw [hf]; rfl, ?_⟩
  rw [issuedAt_frame]
  simp

/-- With another value in one slot a group is alike to a lane event. -/
theorem eventAlike_setSlot {s : State} {g : Nat} {b : Bool} {x : Group} {v : Slot} : EventAlike s (s.setGroup g (x.setSlot b v)) x (x.setSlot b v) :=
  ⟨rfl, rfl, fun _ => rfl, rfl, rfl, by simp⟩

/-! ### The event of a group that an issue has moved -/

/-- A lane event of the group z, which is alike to x, is posted: z stands halted with the record of x. -/
theorem stops_posted {s u : State} {g : Nat} {b : Bool} {x z : Group} {tm : Team} {c : Ctx} {cause : Nat} (ha : EventAlike s u x z)
    (hz : u.group? g = some z) (hp : Postable s g x tm c cause) (hcause : cause < 256) (hna : cause ≠ 0x0B) (hi : x.index < 32)
    (hgs : x.gslot < 32) (hsl : s.recSlice x < 16) (saddr : BitVec 20) (lanes : DWord) (detail addr : Nat) :
    ∃ y, (u.takeEvent g b cause saddr lanes detail addr).group? g = some y
      ∧ Halted z y (s.laneRec x b cause saddr lanes detail addr) ∧ SameBytes s (u.takeEvent g b cause saddr lanes detail addr) := by
  obtain ⟨n, hpz⟩ := ha.postable hp
  obtain ⟨_, _, hi', _, _, hgs'⟩ := ha.names
  rw [takeEvent_posted hz hpz hcause hna (hi' ▸ hi) (hgs' ▸ hgs) (ha.recSlice ▸ hsl)]
  have hh := halted_stoppedBy b cause saddr lanes detail addr u z true
  rw [ha.laneRec] at hh
  exact ⟨_, posted_group? _ _ _, hh, ha.sameBytes⟩

/-! ### TRAP and BKPT -/

section Trap

variable {s : State} {g : Nat} {b : Bool} {x : Group} {o : Ops} {cause code : Nat}

/-- A word that would stop after itself goes on where no lane writes. -/
theorem stopAfter_idle (hm : MayIssue s g b x [] [] [] []) (hws : x.writers b o.p o.pn = []) :
    s.stopAfter g b x o cause code = (s.setGroup g (x.advance b)).noteIssue g b [] := by
  simp only [State.stopAfter, hm.gate_control, State.gated, hws, List.isEmpty_nil, if_true]

/-- With a writing lane it stops after the word. -/
theorem stopAfter_stops (hm : MayIssue s g b x [] [] [] []) (hws : x.writers b o.p o.pn ≠ []) :
    s.stopAfter g b x o cause code =
      ((s.setGroup g (x.advance b)).noteIssue g b []).takeEvent g b cause (x.slot b).pc (lanesMask (x.writers b o.p o.pn)) code 0 := by
  simp only [State.stopAfter, hm.gate_control, State.gated, List.isEmpty_iff, hws, if_false]

/-- The stop after a word with a writing lane: the slot stands at the next word, and the record is at the generator. -/
theorem trap_spec {i : Instr} {tm : Team} {c : Ctx} (he : exec i s = .next (s.stopAfter g b x o cause code)) (hm : MayIssue s g b x [] [] [] [])
    (hws : x.writers b o.p o.pn ≠ []) (hp : Postable s g x tm c cause) (hcause : cause < 256) (hna : cause ≠ 0x0B) (hi : x.index < 32)
    (hgs : x.gslot < 32) (hsl : s.recSlice x < 16) :
    ∃ t y r, exec i s = .next t ∧ t.group? g = some y ∧ y.run = .halted ∧ y.evHold = true ∧ y.stop = some r
      ∧ r = s.laneRec x b cause (x.slot b).pc (lanesMask (x.writers b o.p o.pn)) code 0 ∧ (y.slot b).pc = (x.slot b).pc + 1
      ∧ y.slot (!b) = x.slot (!b) ∧ y.regs = x.regs ∧ y.masks = x.masks ∧ y.fpflags = x.fpflags ∧ SameBytes s t := by
  rw [stopAfter_stops hm hws] at he
  have hz := State.noteIssue_group? (setGroup_group?_self s g (x.advance b)) b [] g
  rw [if_pos rfl] at hz
  obtain ⟨y, hy, hh, hbytes⟩ := stops_posted (b := b) eventAlike_issued hz hp hcause hna hi hgs hsl (x.slot b).pc
    (lanesMask (x.writers b o.p o.pn)) code 0
  obtain ⟨hsa, hsb, _⟩ := hh.slots
  obtain ⟨hregs, hmasks, hfp⟩ := hh.kept
  generalize (s.setGroup g (x.advance b)).sliceNow (x.advance b) = n at *
  have hslot (d : Bool) : y.slot d = ((x.advance b).issuedAt b n []).slot d := by cases d <;> assumption
  refine ⟨_, y, _, he, hy, hh.run, hh.hold, hh.record, rfl, ?_, ?_, ?_, ?_, ?_, hbytes⟩
  · rw [hslot, issuedAt_slot, if_pos rfl, Group.slot_advance, if_pos rfl]
  · rw [hslot, issuedAt_slot, if_neg (by simp), Group.slot_advance, if_neg (by simp)]
  · rw [hregs, issuedAt_frame]; simp
  · rw [hmasks, issuedAt_frame]; simp
  · rw [hfp, issuedAt_frame]; simp

end Trap

/-! ### BIND -/

section Bind

variable {s : State} {g : Nat} {b : Bool} {x : Group} {tm : Team} {c : Ctx}

/-- The slot after BIND: its top call record, if it has one, stands in the rebind state (R248). -/
def bound (v : Slot) : Slot :=
  match v.calls with
  | [] => v
  | k :: rest => { v with calls := rest, rebind := some (k.split, k.base) }

/-- The address of the call that BIND names. -/
def callOf (v : Slot) : Nat := match v.calls with | [] => 0 | k :: _ => (k.ret - 1).toNat

theorem exec_bind (hm : MayIssue s g b x [] [] [] []) (o : Ops) (code : Nat) :
    exec (.bind o code) s =
      .next ((s.setGroup g (x.setSlot b (bound (x.slot b)))).takeEvent g b 0x0A (x.slot b).pc (x.slot b).mask 0 (callOf (x.slot b))) := by
  refine (State.withLane_of hm.turn hm.group _).trans (congrArg _ ?_)
  simp only [hm.gate_control, State.gated, bound, callOf]
  cases (x.slot b).calls with
  | cons k rest => rfl
  | nil =>
    have hself : s.takeEvent g b 0x0A (x.slot b).pc (x.slot b).mask 0 0
        = (s.setGroup g (stoppedBy s x b 0x0A (x.slot b).pc (x.slot b).mask 0 0)).tryPost g :=
      takeEvent_eq b 0x0A _ _ 0 0 hm.group
    dsimp only
    rw [hself, setSlot_self, takeEvent_eq b 0x0A _ _ 0 0 (setGroup_group?_self s g x), setGroup_setGroup]
    rfl

theorem bind_spec (hm : MayIssue s g b x [] [] [] []) (hp : Postable s g x tm c 0x0A) (hi : x.index < 32) (hgs : x.gslot < 32)
    (hsl : s.recSlice x < 16) (o : Ops) (code : Nat) :
    ∃ t y r, exec (.bind o code) s = .next t ∧ t.group? g = some y ∧ y.run = .halted ∧ y.evHold = true ∧ y.stop = some r
      ∧ (match (x.slot b).calls with
        | [] => r = s.laneRec x b 0x0A (x.slot b).pc (x.slot b).mask 0 0 ∧ y.slot b = x.slot b
        | k :: rest => r = s.laneRec x b 0x0A (x.slot b).pc (x.slot b).mask 0 (k.ret - 1).toNat
            ∧ y.slot b = { x.slot b with calls := rest, rebind := some (k.split, k.base) })
      ∧ y.slot (!b) = x.slot (!b) ∧ y.regs = x.regs ∧ y.masks = x.masks ∧ y.fpflags = x.fpflags ∧ SameBytes s t := by
  obtain ⟨y, hy, hh, hbytes⟩ := stops_posted (b := b) (eventAlike_setSlot (v := bound (x.slot b))) (setGroup_group?_self s g _) hp (by decide)
    (by decide) hi hgs hsl (x.slot b).pc (x.slot b).mask 0 (callOf (x.slot b))
  obtain ⟨hsa, hsb, _⟩ := hh.slots
  obtain ⟨hregs, hmasks, hfp⟩ := hh.kept
  have hslot (d : Bool) : y.slot d = (x.setSlot b (bound (x.slot b))).slot d := by cases d <;> assumption
  refine ⟨_, y, _, exec_bind hm o code, hy, hh.run, hh.hold, hh.record, ?_, ?_, ?_, ?_, ?_, hbytes⟩
  · have hb : y.slot b = bound (x.slot b) := by rw [hslot, Group.slot_setSlot, if_pos rfl]
    rw [hb]
    unfold bound callOf
    cases (x.slot b).calls <;> exact ⟨rfl, rfl⟩
  · rw [hslot, Group.slot_setSlot, if_neg (by simp)]
  · rw [hregs, Group.setSlot_regs]
  · rw [hmasks, Group.setSlot_masks]
  · rw [hfp, Group.setSlot_fpflags]

end Bind

/-- Settles O13: the idle words as an issue, the others by the event that they raise. -/
theorem trapsAndBinds : Obligations.TrapsAndBinds := by
  unfold Obligations.TrapsAndBinds
  intro s g b x tm c o code hm
  have htrap : exec (.trap o code) s = .next (s.stopAfter g b x o 0x02 code) := State.withLane_of hm.turn hm.group _
  have hbkpt : exec (.bkpt o code) s = .next (s.stopAfter g b x o 0x03 code) := State.withLane_of hm.turn hm.group _
  refine ⟨fun hws => ⟨?_, ?_⟩, fun hws hp hi hgs hsl => ?_, fun hws hp hi hgs hsl => ?_, fun hp hi hgs hsl => bind_spec hm hp hi hgs hsl o code⟩
  · exact laneStep_same (htrap.trans (congrArg _ (stopAfter_idle hm hws)))
  · exact laneStep_same (hbkpt.trans (congrArg _ (stopAfter_idle hm hws)))
  · exact trap_spec htrap hm hws hp (by decide) (by decide) hi hgs hsl
  · exact trap_spec hbkpt hm hws hp (by decide) (by decide) hi hgs hsl

end Sys2Proof.Claims
end

section
/-! PROOFS. Events posted late, compared operations confirmed or found to differ, and confirmed cue points (R76, R181 to R186). Settles O45. -/

namespace Sys2Proof.Claims

open Sys2Proof Sys2Proof.Machine

/-! ### A deferred event (R76, R77) -/

/-- The event of a group whose team has no second copy is posted as soon as it may be. -/
theorem exec_eventPostDeferred {s : State} {g : Nat} {x : Group} (hg : s.group? g = some x) (hp : s.pairOf? x.team = none) :
    exec (.eventPostDeferred g) s = .next (s.tryPost g) := by
  show execEventPostDeferred g s = _
  simp only [execEventPostDeferred, hg, Option.bind_some, hp]

section Deferred

variable {s : State} {g : Nat} {x : Group} {r : Rec} {tm : Team} {c : Ctx}

/-- A record that was posted late: the group is marked, and its generator holds the record. -/
theorem postedLate (hg : s.group? g = some x) (hc : s.ctx? tm.ctx = some c) :
    let t := (s.enqueue tm.ctx r x.clk g).modGroup g (fun x => { x with posted := true })
    t.group? g = some { x with posted := true } ∧ (∀ h, h ≠ g → t.group? h = s.group? h)
      ∧ t.ctx? tm.ctx = some { c with events := c.events ++ [(r, x.clk, g)], wait := if c.wait = .event then .run else c.wait }
      ∧ t = { s with groups := t.groups, ctxs := t.ctxs } := by
  refine ⟨?_, fun h hh => ?_, ?_, rfl⟩
  · rw [State.group?_modGroup, if_pos rfl]
    exact congrArg (Option.map _) hg
  · rw [State.group?_modGroup, if_neg hh]
    rfl
  · have he := enqueue_ctx? hc r x.clk g
    simp only [beq_iff_eq] at he
    exact he

/-- A deferred event meets the evmask and the queue as they stand now. -/
theorem eventPostDeferred_spec (hg : s.group? g = some x) (hs : x.stop = some r) (hp : x.posted = false) (ha : x.assist = false)
    (hd : s.settled g x = true) (ht : s.team? x.team = some tm) (hsole : tm.copy = .sole) (hpair : s.pairOf? x.team = none)
    (hc : s.ctx? tm.ctx = some c) :
    (c.evmask.getLsbD r.cause = true → c.events.length < 64 → ∃ t, exec (.eventPostDeferred g) s = .next t
      ∧ t.group? g = some { x with posted := true } ∧ (∀ h, h ≠ g → t.group? h = s.group? h)
      ∧ t.ctx? tm.ctx = some { c with events := c.events ++ [(r, x.clk, g)], wait := if c.wait = .event then .run else c.wait }
      ∧ t = { s with groups := t.groups, ctxs := t.ctxs })
    ∧ (c.evmask.getLsbD r.cause = true → 64 ≤ c.events.length → exec (.eventPostDeferred g) s = .next s)
    ∧ ∀ l, c.evmask.getLsbD r.cause = false → c.inService = [] → s.launch? c.launch = some l → l.killed = false →
        ∃ t, exec (.eventPostDeferred g) s = .next t ∧ Ended t c.launch 0x08 := by
  have he := (exec_eventPostDeferred hg hpair).trans (congrArg _ (tryPost_sole hg hs hp hd ha ht hsole hc))
  refine ⟨fun hm hroom => ?_, fun hm hfull => ?_, fun l hm hin hl hk => ?_⟩
  · rw [if_neg (by simp [hm]), if_pos hroom] at he
    exact ⟨_, he, postedLate hg hc⟩
  · rwa [if_neg (by simp [hm]), if_neg (Nat.not_lt.mpr hfull)] at he
  · rw [if_pos hm] at he
    refine ⟨_, he, ?_⟩
    have hend := levelG_ended (s := s.modGroup g (fun x => { x with posted := true })) hc hl hk 0x25 r
    rwa [hin] at hend

end Deferred

/-! ### Pairs -/

/-- A change of a pair that keeps its teams is found under the same teams. -/
theorem pairOf?_modPair (s : State) (k t : Nat) {f : PairOf → PairOf} (hf : ∀ q, (f q).lead = q.lead ∧ (f q).standIn = q.standIn) :
    (s.modPair k f).pairOf? t = (s.pairOf? t).map (fun p => if p.lead == k then f p else p) := by
  unfold State.pairOf? State.modPair
  rw [List.find?_map]
  congr 2
  funext q
  dsimp only [Function.comp]
  split
  · rw [(hf q).1, (hf q).2]
  · rfl

/-- A pair whose lead still has a group does not exit, while its launch runs. -/
theorem exitTeam_not_emptied {s : State} {p : PairOf} {tm : Team} {l : Launch} (hp : s.pairOf? p.lead = some p) (ht : s.team? p.lead = some tm)
    (hl : s.launch? tm.launch = some l) (hk : l.killed = false) (he : s.emptied p.lead = false) : s.exitTeam p.lead = s := by
  simp only [State.exitTeam, hp, ht, Option.bind_some, hl, hk, he, Bool.false_and, Bool.false_eq_true, if_false]

/-- Two entries agree when kind, signature, lane events and cue count do (R183). -/
theorem agrees_iff (a b : CmpEntry) : a.agrees b = true ↔ a.kind = b.kind ∧ a.sig = b.sig ∧ a.events = b.events ∧ a.cue = b.cue := by
  simp only [CmpEntry.agrees, Bool.and_eq_true, beq_iff_eq, and_assoc]

/-- The pair after two of its entries were confirmed: they have left the buffer, and the operation is in the log (R181, R185). -/
def confirmedPair (a b : CmpEntry) (q : PairOf) : PairOf :=
  { (q.logged a) with entries := q.entries.filter (fun (e : CmpEntry) => e != a && e != b) }

theorem confirmedPair_teams (a b : CmpEntry) (q : PairOf) : (confirmedPair a b q).lead = q.lead ∧ (confirmedPair a b q).standIn = q.standIn := by
  unfold confirmedPair PairOf.logged
  split <;> exact ⟨rfl, rfl⟩

theorem not_mem_confirmedPair (a b : CmpEntry) (q : PairOf) : a ∉ (confirmedPair a b q).entries ∧ b ∉ (confirmedPair a b q).entries := by
  constructor <;> simp [confirmedPair]

section Compare

variable {s : State} {team group : Nat} {p : PairOf} {a b : CmpEntry}

/-- The oldest entries of a pair's copies are compared. -/
theorem exec_compareConfirm (hp : s.pairOf? team = some p) (hm : p.mismatch = false) (hx : p.exitsAgree = true) (ha : p.oldest group true = some a)
    (hb : p.oldest group false = some b) :
    exec (.compareConfirm team group) s = .next (if a.agrees b then s.confirm p a b else s.mismatch p) := by
  show execCompareConfirm team group s = _
  simp only [execCompareConfirm, hp, hm, hx, ha, hb, Bool.not_true, Bool.false_eq_true, if_false]

/-- Equal entries of an access leave the buffer and start the lead's access; the pair's teams stay while the lead has a group. -/
theorem confirm_spec {tm : Team} {l : Launch} (h8 : a.kind ≠ 8) (h9 : a.kind ≠ 9) (h10 : a.kind ≠ 10) (he : s.emptied p.lead = false)
    (ht : s.team? p.lead = some tm) (hl : s.launch? tm.launch = some l) (hk : l.killed = false) (hlead : s.pairOf? p.lead = some p) :
    s.confirm p a b = ({ s with flight := s.flight.map (fun m => if m.id == a.op then { m with compared := false, twin := some b.op } else m) } :
      State).modPair p.lead (confirmedPair a b) := by
  have hs : s.startConfirmed p a b
      = { s with flight := s.flight.map (fun m => if m.id == a.op then { m with compared := false, twin := some b.op } else m) } := by
    simp only [State.startConfirmed, h8, h9, h10, if_false]
  have hp' := pairOf?_modPair (s.startConfirmed p a b) p.lead p.lead (confirmedPair_teams a b)
  have hsame : (s.startConfirmed p a b).pairOf? p.lead = some p := by rw [hs]; exact hlead
  rw [hsame, Option.map_some, if_pos (beq_self_eq_true _)] at hp'
  obtain ⟨hle, _⟩ := confirmedPair_teams a b p
  have hexit := exitTeam_not_emptied (s := (s.startConfirmed p a b).modPair p.lead (confirmedPair a b)) (p := confirmedPair a b p) (tm := tm) (l := l)
  rw [hle] at hexit
  rw [hs] at hexit hp'
  unfold State.confirm
  rw [hs]
  exact hexit hp' ht hl hk he

/-- A mismatch keeps the teams of the pair. -/
theorem mismatched_teams (p : PairOf) : p.mismatched.lead = p.lead ∧ p.mismatched.standIn = p.standIn := by
  unfold PairOf.mismatched
  split <;> exact ⟨rfl, rfl⟩

/-- A mismatch stops the pair; it is not restored while something of it is on its way (R184). -/
theorem mismatch_busy (hbusy : s.pairBusy p = true) : s.mismatch p = s.modPair p.lead PairOf.mismatched := by
  obtain ⟨hl, hs⟩ := mismatched_teams p
  have h : (s.modPair p.lead PairOf.mismatched).pairBusy p.mismatched = true := by
    unfold State.pairBusy at hbusy ⊢
    rw [hl, hs]
    exact hbusy
  simp only [State.mismatch, State.rollBackPair, h, if_true]

/-- The buffer and the confirmed cue point of a pair that was found to differ (R182). -/
theorem mismatched_spec (p : PairOf) :
    p.mismatched.mismatch = true ∧ p.mismatched.entries = p.entries
      ∧ p.mismatched.confirmed = (match p.settledCue with | none => p.confirmed | some (k, l) => [k, l]) := by
  unfold PairOf.mismatched
  refine ⟨rfl, ?_, ?_⟩ <;> (cases p.settledCue <;> rfl)

end Compare

/-! ### Cue points (R182) -/

/-- A copy that waits at no cue point stays. -/
theorem teamCueAgain_none {s : State} {t : Nat} (h : s.teamWaits t = none) : s.teamCueAgain t = s := by simp only [State.teamCueAgain, h]

/-- A cue point that both copies have reached, with everything before it confirmed, is confirmed. -/
theorem exec_cueConfirmed {s : State} {team : Nat} {p : PairOf} {k l : Ckpt} (hp : s.pairOf? team = some p) (hm : p.mismatch = false)
    (hw : s.teamWaits p.lead = none) (hw' : s.teamWaits p.standIn = none) (hk : p.pending.find? (fun q => q.key == p.lead) = some k)
    (hl : p.pending.find? (fun q => q.key == p.standIn) = some l) (hag : k.agrees l = true) (hsk : p.settledAt k = true) (hsl : p.settledAt l = true) :
    exec (.cueConfirmed team) s = .next (s.modPair p.lead (fun q => q.confirmCue k l)) := by
  have h1 : (s.modPair p.lead (fun q => q.confirmCue k l)).teamCueAgain p.lead = s.modPair p.lead (fun q => q.confirmCue k l) := teamCueAgain_none hw
  have h2 : (s.modPair p.lead (fun q => q.confirmCue k l)).teamCueAgain p.standIn = s.modPair p.lead (fun q => q.confirmCue k l) := teamCueAgain_none hw'
  show execCueConfirmed team s = _
  simp only [execCueConfirmed, hp, hm, teamCueAgain_none hw, teamCueAgain_none hw', Option.getD_some, hk, hl, hag, hsk, hsl, Bool.and_self,
    Bool.not_true, Bool.false_eq_true, if_false, if_true, h1, h2]

/-- Checkpoints of one cue number, before which each group raised as many lane events, agree (R183). -/
theorem ckpt_agrees {k l : Ckpt} (hc : k.cue = l.cue) (he : ∀ r ∈ k.groups, ∀ y, l.at_ r.2.index = some y → y.events = r.2.events) :
    k.agrees l = true := by
  simp only [Ckpt.agrees, hc, beq_self_eq_true, Bool.true_and, List.all_eq_true]
  intro r hr
  cases h : l.at_ r.2.index with
  | none => rfl
  | some y => exact beq_iff_eq.mpr (he r hr y h)

/-- Settles O45: the post by the evmask and the queue, the compare by the two oldest entries, and the confirmed cue point. -/
theorem eventsAndConfirmations : Obligations.EventsAndConfirmations := by
  unfold Obligations.EventsAndConfirmations
  refine ⟨?_, ?_, ?_⟩
  · intro s g x r tm c hg hs hp ha hd ht hsole hpair hc
    exact eventPostDeferred_spec hg hs hp ha hd ht hsole hpair hc
  · intro s team group p a b tm l hp hm hx ha hb
    have he := exec_compareConfirm hp hm hx ha hb
    refine ⟨agrees_iff a b, fun hag h8 h9 h10 hne ht hl hk hlead => ?_, fun hag hbusy => ?_⟩
    · rw [if_pos hag, confirm_spec h8 h9 h10 hne ht hl hk hlead] at he
      refine ⟨_, he, rfl, ?_, fun q hq hql => ?_⟩
      · simp only [beq_iff_eq]
        rfl
      · obtain ⟨q0, _, rfl⟩ := List.mem_map.mp hq
        by_cases hq0 : q0.lead == p.lead
        · rw [if_pos hq0]
          exact not_mem_confirmedPair a b q0
        · rw [if_neg hq0] at hql
          exact absurd (beq_iff_eq.mpr hql) hq0
    · rw [if_neg (by simp [hag]), mismatch_busy hbusy] at he
      refine ⟨_, he, ?_, mismatched_spec p⟩
      simp only [State.modPair, beq_iff_eq]
  · intro s team p k l hp hm hw hw' hk hl hc hev hsk hsl
    refine ⟨_, exec_cueConfirmed hp hm hw hw' hk hl (ckpt_agrees hc hev) hsk hsl, rfl, ?_, rfl, rfl, rfl, rfl⟩
    simp only [State.modPair, beq_iff_eq]

end Sys2Proof.Claims
end

section
/-! PROOFS. Mailbox words of lanes (R72, R290), and one cycle of a team's mailboxes with one request (R73). Settles O23. -/

namespace Sys2Proof.Claims

open Sys2Proof Sys2Proof.Machine

/-! ### The request -/

/-- A word that acts once and may issue with the fields of its lowest writing lane has its effect. -/
theorem MayIssue.onceLane_first {s : State} {g : Nat} {b : Bool} {x : Group} {l : Nat} {srcs dst : List Named} {o : Ops}
    (hm : MayIssue s g b x [l] [l] srcs dst) (hl : (x.writers b o.p o.pn).head? = some l) (k : Nat → List Nat → State) :
    s.onceLane o srcs dst g b x k = k l (x.writers b o.p o.pn) := by
  obtain ⟨ws, hws⟩ := List.head?_eq_some_iff.mp hl
  simp only [State.onceLane, hws, List.take_succ_cons, List.take_zero, MayIssue.gate_go (uni := false) hm, State.gated,
    Group.consumers_nil hm.clean]

/-- A word after which its slot waits, with nothing changed before but tables that hold no group and no byte. -/
theorem waitsAt_of_park {i : Instr} {s u : State} {g : Nat} {b : Bool} {x : Group} {w : Wait} {l : List Nat} (he : exec i s = .next (u.park g b w l))
    (hg : s.group? g = some x) (hgroups : u.groups = s.groups) (hbytes : SameBytes s u) : ∃ y, WaitsAt i s (u.park g b w l) g b x y w := by
  have hu (k : Nat) : u.group? k = s.group? k := by unfold State.group?; rw [hgroups]
  unfold State.park at he ⊢
  refine ⟨_, he, by rw [State.group?_modGroup, if_pos rfl, hu, hg]; rfl, ?_, ?_, ?_, ?_, ?_, fun k hk => ?_, hbytes⟩
  · dsimp only; split <;> cases b <;> rfl
  · dsimp only; split <;> cases b <;> exact ⟨rfl, rfl⟩
  · dsimp only; split <;> cases b <;> rfl
  · dsimp only; split <;> cases b <;> exact ⟨rfl, rfl, rfl, rfl⟩
  · dsimp only; split <;> cases b <;> rfl
  · rw [State.group?_modGroup, if_neg hk, hu]

/-- Whether a mailbox operation brings a value. -/
def mailPuts (op : MbOp) : Bool := op == .put || op == .write

/-- The fields that a mailbox word reads, and those that it writes (R290). -/
def mailSrcs (o : Ops) (op : MbOp) : List Named := if mailPuts op then [(.src64, o.a)] else []
def mailDst (o : Ops) (op : MbOp) : List Named := if mailPuts op then [] else [(.dst64, o.d)]

/-- The request of a mailbox word (R72). -/
def mailReq (s : State) (o : Ops) (op : MbOp) (g : Nat) (b : Bool) (x : Group) (l : Nat) : MbReq :=
  { agent := .group g, slot := b, order := s.mailOrder x, op := op, mb := o.c,
    value := if mailPuts op then BitVec.ofNat 64 (x.read .src64 o.a l 0) else 0, d := o.d, lanes := lanesMask (x.writers b o.p o.pn),
    clk := Clock.tick x.clk x.uid }

section Request

variable {s : State} {g : Nat} {b : Bool} {x : Group} {o : Ops} {op : MbOp} {tm : Team} {l : Nat}

/-- The issue of a mailbox word that has no request yet: memory words that are held keep it back, else it puts its request. -/
theorem mailIssue_run (hm : MayIssue s g b x [l] [l] (mailSrcs o op) (mailDst o op)) (hl : (x.writers b o.p o.pn).head? = some l)
    (ht : s.team? x.team = some tm) (hn : ∀ r ∈ tm.requests, r.agent ≠ .group g) :
    s.mailIssue o op = .next (if s.memHeld g x then s.park g b .memOrder [0]
      else (s.setTeam x.team { tm with requests := tm.requests ++ [mailReq s o op g b x l] }).park g b .mailbox) := by
  have hnone : tm.requests.any (fun r => r.agent == Agent.group g && r.slot == b) = false := by
    rw [List.any_eq_false]
    intro r hr
    simp [hn r hr]
  refine (State.withLane_of hm.turn hm.group _).trans (congrArg _ ((hm.onceLane_first hl _).trans ?_))
  simp only [ht, hnone, Bool.false_eq_true, if_false]
  rfl

end Request

/-- The mailbox words of lanes, with their operations. -/
theorem exec_mailbox {s : State} {o : Ops} {i : Instr} {op : MbOp}
    (h : [(Instr.mbget o, MbOp.get), (Instr.mbput o, MbOp.put), (Instr.mbr o, MbOp.read), (Instr.mbw o, MbOp.write)].contains (i, op) = true) :
    exec i s = s.mailIssue o op := by
  simp only [List.contains_iff_mem, List.mem_cons, Prod.mk.injEq, List.not_mem_nil, or_false] at h
  rcases h with ⟨rfl, rfl⟩ | ⟨rfl, rfl⟩ | ⟨rfl, rfl⟩ | ⟨rfl, rfl⟩ <;> rfl

/-! ### A cycle in which a mailbox has no request -/

/-- From s to t nothing but the table of teams differs, and team tk, which is tm, only in a spelling of its mailboxes. -/
def MailStays (tk : Nat) (tm : Team) (s t : State) : Prop :=
  t = { s with teams := t.teams } ∧ ∃ u, t.team? tk = some u ∧ u = { tm with mailboxes := u.mailboxes }
    ∧ ∀ k, Sp.getD u.mailboxes k {} = Sp.getD tm.mailboxes k {}

/-- A mailbox that no request of the team names stays as it is. -/
theorem mailCycle_idle {s : State} {tk mb : Nat} {tm : Team} (ht : s.team? tk = some tm) (h : ∀ r ∈ tm.requests, r.mb ≠ mb) :
    MailStays tk tm s (s.mailCycle tk mb) := by
  have hnone : tm.requests.filter (fun r => r.mb == mb && s.mailActive r) = [] := by
    rw [List.filter_eq_nil_iff]
    intro r hr
    simp [h r hr]
  have hall : tm.requests.filter (fun r => !([] : List MbReq).contains r) = tm.requests := by simp
  simp only [State.mailCycle, ht, hnone]
  split
  · rw [show sortBy MbReq.order ([] : List MbReq) = [] from rfl, hall]
    exact ⟨rfl, tm, (State.team?_setTeam _ _ _ _).trans (if_pos rfl), rfl, fun _ => rfl⟩
  · have hgo : mailProceed (Sp.getD tm.mailboxes mb {}).full (sortBy MbReq.order []) = [] := rfl
    rw [hgo, hall]
    refine ⟨rfl, _, (State.team?_setTeam _ _ _ _).trans (if_pos rfl), rfl, fun k => ?_⟩
    dsimp only
    rw [Sp.getD_put]
    split
    · subst_vars; rfl
    · rfl

/-- Mailboxes that no request of the team names stay as they are, one after the other. -/
theorem mailCycles_idle {tk : Nat} (l : List Nat) {s : State} {tm : Team} (ht : s.team? tk = some tm) (h : ∀ mb ∈ l, ∀ r ∈ tm.requests, r.mb ≠ mb) :
    MailStays tk tm s (l.foldl (fun s mb => s.mailCycle tk mb) s) := by
  induction l generalizing s tm with
  | nil => exact ⟨rfl, tm, ht, rfl, fun _ => rfl⟩
  | cons mb l ih =>
    obtain ⟨hs, u, hu, hutm, hum⟩ := mailCycle_idle ht (h mb List.mem_cons_self)
    have hreq : u.requests = tm.requests := by rw [hutm]
    obtain ⟨hs', v, hv, hvu, hvm⟩ := ih hu (fun k hk r hr => h k (List.mem_cons_of_mem _ hk) r (hreq ▸ hr))
    refine ⟨?_, v, hv, ?_, fun k => (hvm k).trans (hum k)⟩
    · rw [List.foldl_cons, hs', hs]
    · rw [hvu, hutm]

theorem MailStays.sameBytes {tk : Nat} {tm : Team} {s t : State} (h : MailStays tk tm s t) : SameBytes s t := by
  refine ⟨fun a => by rw [h.1], fun k a => ?_⟩
  rw [h.1]
  rfl

theorem MailStays.group? {tk : Nat} {tm : Team} {s t : State} (h : MailStays tk tm s t) (g : Nat) : t.group? g = s.group? g := by
  rw [h.1]; rfl

/-- The numbers below 17, cut at one of them. -/
theorem mailboxes_cut {mb : Nat} (h : mb < 17) : ∃ pre post, List.range 17 = pre ++ mb :: post ∧ ∀ k ∈ pre ++ post, k ≠ mb := by
  obtain ⟨pre, post, heq⟩ := List.append_of_mem (List.mem_range.mpr h)
  refine ⟨pre, post, heq, fun k hk hkm => ?_⟩
  have hnd : (pre ++ mb :: post).Nodup := heq ▸ List.nodup_range
  rw [List.nodup_middle, List.nodup_cons] at hnd
  exact hnd.1 (hkm ▸ hk)

/-! ### The cycle of a mailbox with one request -/

/-- Whether a request proceeds that has its mailbox to itself (R72). -/
def mailGoes (full : Bool) (op : MbOp) : Bool := match op with | .get => full | .put => !full | .read => true | .write => true

theorem mailProceed_one (full : Bool) (r : MbReq) : mailProceed full [r] = if mailGoes full r.op then [r] else [] := by
  cases hop : r.op <;> cases full <;> simp [mailProceed, mailGoes, hop]

/-- The mailbox after a request that proceeds (R72). -/
theorem mailAfter_one (m : Mailbox) (r : MbReq) :
    match r.op with
    | .get => (mailAfter m [r]).full = false ∧ (mailAfter m [r]).value = m.value
    | .read => mailAfter m [r] = m
    | _ => (mailAfter m [r]).full = true ∧ (mailAfter m [r]).value = r.value := by
  cases hop : r.op <;> simp [mailAfter, hop]

/-- A value read into a pair of registers of each of some lanes. -/
theorem foldl_setRegs_reg (ls : List Nat) (h : ∀ j ∈ ls, j < 64) (x : Group) (d v n j : Nat) (hj : j < 64) :
    (ls.foldl (fun y j => y.setRegs d j v 2) x).reg n j = if j ∈ ls ∧ (n = d ∨ n = d + 1) then BitVec.ofNat 32 (v / 2 ^ (32 * (n - d))) else x.reg n j := by
  induction ls generalizing x with
  | nil => simp
  | cons i ls ih =>
    have hi : i < 64 := h i List.mem_cons_self
    rw [List.foldl_cons, ih (fun j hj => h j (List.mem_cons_of_mem _ hj)), Group.reg_setRegs x d i v 2 n j hi hj]
    by_cases hin : j ∈ ls ∧ (n = d ∨ n = d + 1)
    · rw [if_pos hin, if_pos ⟨List.mem_cons_of_mem _ hin.1, hin.2⟩]
    · rw [if_neg hin]
      by_cases hd : d ≤ n ∧ n < d + 2 ∧ j = i
      · rw [if_pos hd, if_pos ⟨by simp [hd.2.2], by omega⟩]
      · rw [if_neg hd, if_neg]
        rintro ⟨hmem, hn⟩
        rcases List.mem_cons.mp hmem with rfl | hl
        · exact hd ⟨by omega, by omega, rfl⟩
        · exact hin ⟨hl, hn⟩

theorem mem_lanesOf {m : DWord} {j : Nat} (hj : j < 64) : j ∈ lanesOf m ↔ laneBit m j = true := by
  simp [lanesOf, hj]

/-- Writing registers of a group lane by lane leaves its slots. -/
theorem foldl_setRegs_slot (ls : List Nat) (x : Group) (d v : Nat) (b : Bool) :
    (ls.foldl (fun y j => y.setRegs d j v 2) x).slot b = x.slot b := by
  induction ls generalizing x with
  | nil => rfl
  | cons i ls ih => rw [List.foldl_cons, ih, Group.setRegs_frame]; cases b <;> rfl

/-- Whether a mailbox operation brings its lanes a value. -/
def mailReads (op : MbOp) : Bool := op == .get || op == .read

/-- The group that a read of its mailbox word has given its value, if the word reads. -/
def mailGiven (x : Group) (r : MbReq) (v : DWord) : Group :=
  if mailReads r.op then (lanesOf r.lanes).foldl (fun y j => y.setRegs r.d j v.toNat 2) x else x

theorem mailGiven_reg (x : Group) (r : MbReq) (v : DWord) (n j : Nat) (hj : j < 64) :
    (mailGiven x r v).reg n j =
      if (r.op = .get ∨ r.op = .read) ∧ laneBit r.lanes j = true ∧ (n = r.d ∨ n = r.d + 1)
      then BitVec.ofNat 32 (v.toNat / 2 ^ (32 * (n - r.d))) else x.reg n j := by
  unfold mailGiven
  by_cases hr : mailReads r.op = true
  · have hop : r.op = .get ∨ r.op = .read := by simpa [mailReads] using hr
    rw [if_pos hr, foldl_setRegs_reg (lanesOf r.lanes) (fun i hi => List.mem_range.mp (List.mem_filter.mp hi).1) x r.d v.toNat n j hj]
    simp only [mem_lanesOf hj, hop, true_and]
  · have hop : ¬(r.op = .get ∨ r.op = .read) := by simpa [mailReads] using hr
    rw [if_neg hr, if_neg (fun h => hop h.1)]

theorem mailGiven_slot (x : Group) (r : MbReq) (v : DWord) (b : Bool) : (mailGiven x r v).slot b = x.slot b := by
  unfold mailGiven
  split
  · exact foldl_setRegs_slot _ x _ _ b
  · rfl

/-- The clock of a group is no part of its slots. -/
theorem slot_withClk (x : Group) (q : Clock) (b : Bool) : ({ x with clk := q } : Group).slot b = x.slot b := by cases b <;> rfl

/-- A release changes the count of releases of its group alone, and what races it may be the first access of. -/
theorem release_spec {s : State} {g : Nat} {x : Group} (hg : s.group? g = some x) :
    (s.release g).group? g = some { x with rels := x.rels + 1 } ∧ (s.release g).teams = s.teams ∧ SameBytes s (s.release g) := by
  simp only [State.release, hg]
  exact ⟨(State.group?_setGroup s g g _).trans (if_pos rfl), rfl, fun _ => rfl, fun _ _ => rfl⟩

/-- A request that proceeds: its group has the value where it reads, and its slot goes on at the next word. -/
theorem mailDone_spec {s : State} {g : Nat} {x : Group} {r : MbReq} (hg : s.group? g = some x) (ha : r.agent = .group g) (v : DWord) (k : Clock) :
    ∃ y, (s.mailDone r v k).group? g = some y ∧ (y.slot r.slot).pc = (x.slot r.slot).pc + 1 ∧ (y.slot r.slot).wait = .run
      ∧ (∀ n j, y.reg n j = (mailGiven x r v).reg n j) ∧ (s.mailDone r v k).teams = s.teams ∧ SameBytes s (s.mailDone r v k) := by
  let q : Clock := Clock.join (Clock.join (mailGiven x r v).clk r.clk) (if mailReads r.op then k else [])
  let z : Group := { ((mailGiven x r v).advance r.slot) with clk := q }
  let w : Group := z.unpark (s.sliceNow x)
  have hw : w.regs = (mailGiven x r v).regs := by
    have hu := Group.unpark_frame z (s.sliceNow x)
    show (z.unpark (s.sliceNow x)).regs = _
    rw [hu]
    exact Group.setSlot_regs _ _ _
  have hws : w.slot r.slot = { x.slot r.slot with pc := (x.slot r.slot).pc + 1, past := (x.slot r.slot).past || offOf (x.slot r.slot).pc == 4095,
                                                  wait := .run, waitAt := 0, wants := [] } := by
    have hz : z.slot r.slot = ((mailGiven x r v).advance r.slot).slot r.slot := slot_withClk _ q _
    rw [Group.unpark_slot, hz, Group.slot_advance, if_pos rfl, mailGiven_slot]
  have hgr := State.noteIssue_group? (setGroup_group?_self s g w) r.slot [] g
  have hfr := State.noteIssue_frame (s.setGroup g w) g r.slot []
  rw [if_pos rfl] at hgr
  have hdone : s.mailDone r v k = if mailReads r.op then (s.setGroup g w).noteIssue g r.slot [] else ((s.setGroup g w).noteIssue g r.slot []).release g := by
    simp only [State.mailDone, ha, hg]
    rfl
  generalize (s.setGroup g w).sliceNow w = n at hgr
  have hy : (w.issuedAt r.slot n []).slot r.slot = { w.slot r.slot with age := n } := by rw [issuedAt_slot, if_pos rfl]
  have hyr : (w.issuedAt r.slot n []).regs = (mailGiven x r v).regs := by rw [issuedAt_frame]; exact hw
  have hb : SameBytes s ((s.setGroup g w).noteIssue g r.slot []) := by
    refine ⟨fun a => by rw [hfr]; rfl, fun c a => by rw [hfr]; rfl⟩
  rw [hdone]
  split
  · exact ⟨_, hgr, by rw [hy, hws], by rw [hy, hws], fun n j => Group.reg_congr hyr n j, by rw [hfr]; rfl, hb⟩
  · obtain ⟨hg', ht', hb'⟩ := release_spec hgr
    refine ⟨_, hg', ?_, ?_, fun n j => Group.reg_congr hyr n j, ht'.trans (by rw [hfr]; rfl), fun a => (hb'.1 a).trans (hb.1 a),
      fun c a => (hb'.2 c a).trans (hb.2 c a)⟩
    · exact (congrArg Slot.pc hy).trans (by rw [hws])
    · exact (congrArg Slot.wait hy).trans (by rw [hws])

theorem SameBytes.trans {s t u : State} (h : SameBytes s t) (k : SameBytes t u) : SameBytes s u :=
  ⟨fun a => (k.1 a).trans (h.1 a), fun c a => (k.2 c a).trans (h.2 c a)⟩

section One

variable {s : State} {tk g : Nat} {x : Group} {tm : Team} {r : MbReq}

/-- The mailbox of the team's one request: it proceeds, or its slot is blocked. -/
theorem mailCycle_one (ht : s.team? tk = some tm) (hr : tm.requests = [r]) (hact : s.mailActive r = true) (hmb : r.mb < 16) :
    s.mailCycle tk r.mb =
      let m := Sp.getD tm.mailboxes r.mb {}
      if mailGoes m.full r.op then
        (s.setTeam tk { tm with mailboxes := Sp.put {} tm.mailboxes r.mb (mailAfter m [r]), requests := [] }).mailDone r m.value m.clk
      else (s.setTeam tk { tm with mailboxes := Sp.put {} tm.mailboxes r.mb m, requests := [r] }).mailBlocked r := by
  have h16 : r.mb ≠ 16 := Nat.ne_of_lt hmb
  have hhere : sortBy MbReq.order ([r].filter (fun q => q.mb == r.mb && s.mailActive q)) = [r] := by simp [hact, sortBy, insBy]
  simp only [State.mailCycle, ht, hr, hhere, h16, if_false, mailProceed_one]
  cases mailGoes (Sp.getD tm.mailboxes r.mb {}).full r.op with
  | true => simp
  | false =>
    have hsame (m : Mailbox) : mailAfter m [] = m := rfl
    simp [hsame]

/-- One cycle of a team with one request: the other mailboxes stay before and after it. -/
theorem mailboxCycle_one (ht : s.team? tk = some tm) (hr : tm.requests = [r]) (hmb : r.mb < 16) :
    ∃ s1 tm1, MailStays tk tm s s1 ∧ s1.team? tk = some tm1 ∧ tm1 = { tm with mailboxes := tm1.mailboxes }
      ∧ (∀ k, Sp.getD tm1.mailboxes k {} = Sp.getD tm.mailboxes k {})
      ∧ ∀ u, (s1.mailCycle tk r.mb).team? tk = some u → (∀ q ∈ u.requests, q.mb = r.mb) →
        ∃ t, exec (.mailboxCycle tk) s = .next t ∧ MailStays tk u (s1.mailCycle tk r.mb) t := by
  obtain ⟨pre, post, hcut, hne⟩ := mailboxes_cut (mb := r.mb) (by omega)
  have hpre := mailCycles_idle pre ht (fun mb hm q hq hqm => by
    rw [hr, List.mem_singleton] at hq
    exact hne mb (List.mem_append_left _ hm) (hq ▸ hqm.symm))
  obtain ⟨hs1, tm1, ht1, htm1, hmail⟩ := hpre
  refine ⟨_, tm1, ⟨hs1, tm1, ht1, htm1, hmail⟩, ht1, htm1, hmail, fun u hu hq => ?_⟩
  refine ⟨_, ?_, mailCycles_idle post hu (fun mb hm q hqm he => hne mb (List.mem_append_right _ hm) (he.symm.trans (hq q hqm)))⟩
  show execMailboxCycle tk s = _
  rw [execMailboxCycle, hcut, List.foldl_append, List.foldl_cons]

/-- The request proceeds: its group goes on with what it read, and the mailbox is as the operation leaves it. -/
theorem mailbox_goes (ht : s.team? tk = some tm) (hr : tm.requests = [r]) (ha : r.agent = .group g) (hg : s.group? g = some x)
    (hact : s.mailActive r = true) (hmb : r.mb < 16) (hgoes : mailGoes (Sp.getD tm.mailboxes r.mb {}).full r.op = true) :
    ∃ t y u, exec (.mailboxCycle tk) s = .next t ∧ t.group? g = some y ∧ t.team? tk = some u
      ∧ (y.slot r.slot).pc = (x.slot r.slot).pc + 1 ∧ (y.slot r.slot).wait = .run ∧ u.requests = []
      ∧ Sp.getD u.mailboxes r.mb {} = mailAfter (Sp.getD tm.mailboxes r.mb {}) [r]
      ∧ (∀ n j, y.reg n j = (mailGiven x r (Sp.getD tm.mailboxes r.mb {}).value).reg n j) ∧ SameBytes s t := by
  obtain ⟨s1, tm1, h1, ht1, htm1, hmail1, hcycle⟩ := mailboxCycle_one ht hr hmb
  have hreq1 : tm1.requests = [r] := by rw [htm1]; exact hr
  have hact1 : s1.mailActive r = true := by rw [h1.1]; exact hact
  have hg1 : s1.group? g = some x := (h1.group? g).trans hg
  have hone := mailCycle_one ht1 hreq1 hact1 hmb
  rw [hmail1] at hone
  dsimp only at hone
  rw [if_pos hgoes] at hone
  let u1 : Team := { tm1 with mailboxes := Sp.put {} tm1.mailboxes r.mb (mailAfter (Sp.getD tm.mailboxes r.mb {}) [r]), requests := [] }
  obtain ⟨y, hy, hpc, hwait, hreg, hteams, hbytes⟩ := mailDone_spec (s := s1.setTeam tk u1) (x := x) (r := r) hg1 ha
    (Sp.getD tm.mailboxes r.mb {}).value (Sp.getD tm.mailboxes r.mb {}).clk
  have hteam : (s1.mailCycle tk r.mb).team? tk = some u1 := by
    rw [hone]
    unfold State.team?
    rw [hteams]
    exact (State.team?_setTeam s1 tk tk u1).trans (if_pos rfl)
  obtain ⟨t, het, h2⟩ := hcycle u1 hteam (by simp [u1])
  obtain ⟨u, hu, hutm, hum⟩ := h2.2
  refine ⟨t, y, u, het, ?_, hu, hpc, hwait, by rw [hutm], ?_, hreg, ?_⟩
  · rw [h2.group?, hone]; exact hy
  · rw [hum]
    exact (Sp.getD_put _ _ _ _ _).trans (if_pos rfl)
  · refine h1.sameBytes.trans (.trans ?_ h2.sameBytes)
    rw [hone]
    exact ⟨fun a => hbytes.1 a, fun c a => hbytes.2 c a⟩

/-- The request cannot proceed: it stays, and its slot is blocked at its word. -/
theorem mailbox_blocks (ht : s.team? tk = some tm) (hr : tm.requests = [r]) (ha : r.agent = .group g) (hg : s.group? g = some x)
    (hact : s.mailActive r = true) (hmb : r.mb < 16) (hgoes : mailGoes (Sp.getD tm.mailboxes r.mb {}).full r.op = false) :
    ∃ t y u, exec (.mailboxCycle tk) s = .next t ∧ t.group? g = some y ∧ t.team? tk = some u
      ∧ (y.slot r.slot).pc = (x.slot r.slot).pc ∧ (y.slot r.slot).wait = .mailBlocked ∧ y.slot (!r.slot) = x.slot (!r.slot) ∧ SameRegisters x y
      ∧ u.requests = [r] ∧ Sp.getD u.mailboxes r.mb {} = Sp.getD tm.mailboxes r.mb {} ∧ SameBytes s t := by
  obtain ⟨s1, tm1, h1, ht1, htm1, hmail1, hcycle⟩ := mailboxCycle_one ht hr hmb
  have hreq1 : tm1.requests = [r] := by rw [htm1]; exact hr
  have hact1 : s1.mailActive r = true := by rw [h1.1]; exact hact
  have hg1 : s1.group? g = some x := (h1.group? g).trans hg
  have hone := mailCycle_one ht1 hreq1 hact1 hmb
  rw [hmail1] at hone
  dsimp only at hone
  rw [if_neg (Bool.eq_false_iff.mp hgoes)] at hone
  let u1 : Team := { tm1 with mailboxes := Sp.put {} tm1.mailboxes r.mb (Sp.getD tm.mailboxes r.mb {}), requests := [r] }
  have hblock : (s1.setTeam tk u1).mailBlocked r = (s1.setTeam tk u1).park g r.slot .mailBlocked := by simp only [State.mailBlocked, ha]
  obtain ⟨y, hy, hregs, hslot, hother⟩ := park_group? (s := s1.setTeam tk u1) (g := g) (x := x) hg1 r.slot .mailBlocked []
  have hteam : (s1.mailCycle tk r.mb).team? tk = some u1 := by
    rw [hone]
    refine (congrArg (State.team? · tk) hblock).trans ?_
    exact (State.team?_setTeam s1 tk tk u1).trans (if_pos rfl)
  obtain ⟨t, het, h2⟩ := hcycle u1 hteam (by simp [u1])
  obtain ⟨u, hu, hutm, hum⟩ := h2.2
  refine ⟨t, y, u, het, ?_, hu, by rw [hslot], by rw [hslot], hother, hregs, by rw [hutm], ?_, ?_⟩
  · rw [h2.group?, hone]
    exact (congrArg (State.group? · g) hblock).trans hy
  · rw [hum]
    exact (Sp.getD_put _ _ _ _ _).trans (if_pos rfl)
  · refine h1.sameBytes.trans (.trans ?_ h2.sameBytes)
    rw [hone]
    exact (show SameBytes s1 ((s1.setTeam tk u1).mailBlocked r) from hblock ▸ park_sameBytes (s1.setTeam tk u1) g r.slot .mailBlocked [])

end One

/-- Settles O23: the request by the issue of a word that acts once, the cycle by the one mailbox that has a request. -/
theorem mailboxes : Obligations.Mailboxes := by
  unfold Obligations.Mailboxes
  refine ⟨?_, ?_⟩
  · intro s g b x o tm l i op hi
    dsimp only
    intro hl ht hn hm
    have he := (exec_mailbox hi).trans (mailIssue_run hm hl ht hn)
    refine ⟨fun hh => ?_, fun hh => ?_⟩
    · rw [hh] at he
      obtain ⟨y, hy⟩ := waitsAt_of_park he hm.group rfl ⟨fun _ => rfl, fun _ _ => rfl⟩
      refine ⟨_, y, mailReq s o op g b x l, hy, (State.team?_setTeam _ _ _ _).trans (if_pos rfl), rfl, rfl, rfl, rfl, rfl, rfl, rfl, fun j hj => ?_⟩
      exact Bool.eq_iff_iff.mp (laneBit_lanesMask _ hj) |>.trans decide_eq_true_iff
    · rw [hh] at he
      obtain ⟨y, hy⟩ := waitsAt_of_park he hm.group rfl ⟨fun _ => rfl, fun _ _ => rfl⟩
      exact ⟨_, y, hy⟩
  · intro s tk g x tm r ht hr ha hg hact hmb
    refine ⟨fun hgoes => ?_, fun hgoes => mailbox_blocks ht hr ha hg hact hmb hgoes⟩
    obtain ⟨t, y, u, he, hy, hu, hpc, hwait, hreq, hbox, hreg, hbytes⟩ := mailbox_goes ht hr ha hg hact hmb hgoes
    refine ⟨t, y, u, he, hy, hu, hpc, hwait, hreq, ?_, fun n j hj => (hreg n j).trans (mailGiven_reg x r _ n j hj), hbytes⟩
    have h := mailAfter_one (Sp.getD tm.mailboxes r.mb {}) r
    rw [← hbox] at h
    exact h

end Sys2Proof.Claims
end

section
/-! PROOFS. GCTL FLAGS keeps the five flags of a lane alone (R342): the word of a lane that holds another bit loses it. Refutes O40. -/

namespace Sys2Proof.Claims

open Sys2Proof Sys2Proof.Machine

/-- A group halted by a posted event, whose lane 0 holds bit 5 of its flag word, which names no flag. -/
def strayFlag : Group :=
  { uid := 2, launch := 0, team := 0, index := 0, part := 0, cluster := 0, slice := 0, gslot := 0, half := 0, width := 16, extent := 16,
    nregs := 16, slotA := { mask := 1 }, started := true, parked := false, fpflags := [(0, 0x20)], run := .halted, evHold := true,
    stop := some {}, posted := true }

/-- The team of that group. -/
def strayTeam : Team :=
  { uid := 1, launch := 0, part := 0, cluster := 0, handle := 0, pair := false, ctx := 0, x := 0, y := 0, z := 0, q := 0, ngroups := 1,
    width := 16, tiles := 0, started := true }

/-- Its generator context, all of whose registers are zero. -/
def strayCtx : Ctx := { part := 0, cluster := 0, num := 0, uid := 3, active := true, imageLen := 1 }

/-- The machine at the turn of that context. -/
def strayState : State :=
  { cur := .prompter 0, parts := [(0, { on := true, pairs := [0] })], groups := [(0, strayFlag)], teams := [(0, strayTeam)], ctxs := [(0, strayCtx)] }

theorem strayState_mayExecute : MayExecute strayState 0 strayCtx [0, 0, 0] :=
  ⟨rfl, rfl, by decide, fun _ _ => Bool.and_false _⟩

theorem strayState_controlled : Controlled strayState 0 strayCtx 0 0 strayFlag 0 strayTeam where
  team := by decide
  names := by decide
  group := rfl
  ofTeam := rfl
  stopped := ⟨rfl, rfl, .inl ⟨by decide, rfl⟩⟩
  generator := fun _ => rfl
  assist := fun h => absurd h (by decide)
  sole := ⟨rfl, rfl⟩

/-- FLAGS of no flag in lane 0 clears the bit that is none. -/
theorem strayState_flags {t : State} {z : Group} (h : exec (.gctlFlags {}) strayState = .next t) (hz : t.group? 0 = some z) : z.flags 0 = 0 := by
  have he : exec (.gctlFlags {}) strayState = .next (strayState.modGroup 0 (fun z => z.setFlags 0 (z.flags 0 ||| 0)) |>.ctxDone 0 (fun y => y.setReg 0 0)) := by
    rfl
  have ht := he.symm.trans h
  injection ht with ht
  rw [← ht] at hz
  injection hz with hz
  rw [← hz]
  decide

/-- Refutes O40: a lane's flag word with a bit beyond the five flags is not ORed into but cut to its five flags by GCTL FLAGS. -/
theorem not_groupControl : ¬ Obligations.GroupControl := by
  unfold Obligations.GroupControl
  intro h
  obtain ⟨hacts, -⟩ := h strayState 0 strayCtx {}
  obtain ⟨-, -, -, hflags⟩ := hacts 0 strayFlag 0 strayTeam strayState_controlled
  obtain ⟨t, z, he, hz, -, -, -, -, -, hor, -⟩ := hflags strayState_mayExecute (by decide) (by decide) (by decide)
  have hkept : z.flags 0 = 0x20 := (hor 0).trans (by decide)
  rw [strayState_flags he hz] at hkept
  exact absurd hkept (by decide)

end Sys2Proof.Claims
end

section
/-! PROOFS. Composition (R59 to R63, R214, R336, R337): templates and fields, and the words that EMIT, EMITX and EMITB queue. Settles O37. -/

namespace Sys2Proof.Claims

open Sys2Proof Sys2Proof.Machine

/-! ### A word that acts on its context alone -/

/-- A word whose effect is the context's new value. -/
theorem ctxStep_of_setCtx {i : Instr} {s : State} {c : Nat} {y : Ctx} (he : exec i s = .next (s.setCtx c y)) : ∃ t, CtxStep i s t c y :=
  ⟨_, he, (State.ctx?_setCtx s c c y).trans (if_pos rfl), fun k hk => (State.ctx?_setCtx s c k y).trans (if_neg hk), rfl⟩

/-- A word that is done: its effect on the context, which goes on at its next word. -/
theorem ctxStep_of_ctxDone {i : Instr} {s : State} {c : Nat} {x : Ctx} {f : Ctx → Ctx} (hx : s.ctx? c = some x)
    (he : exec i s = .next (s.ctxDone c f)) : ∃ t, CtxStep i s t c (Ctx.after (f x)) := by
  refine ⟨_, he, ?_, fun k hk => (State.ctx?_modCtx s c k _).trans (if_neg hk), rfl⟩
  refine (State.ctx?_modCtx s c c _).trans ?_
  rw [if_pos rfl, hx]
  rfl

/-! ### The composition unit (R63) -/

section Unit

variable {s : State} {c : Nat} {x : Ctx}

/-- A composition word of a generator context, while no other context holds the unit, has its effect. -/
theorem composeWord_run {regs : List Nat} (hm : MayExecute s c x regs) (hx : x.num < 6)
    (hh : (s.cluster (c / 8)).compHolder = none ∨ (s.cluster (c / 8)).compHolder = some x.num) (k : Nat → Ctx → State) :
    s.composeWord regs k = .next (k c x) := by
  refine (hm.ctxWord_run (ok := Ctx.generator) (by simpa [Ctx.generator] using hx) _).trans ?_
  rcases hh with h | h <;> simp only [h, if_true]

/-- A composition word that gives the unit back, and otherwise acts on its context alone. -/
theorem composeStep_of {i : Instr} {u : State} {y : Ctx} (he : exec i s = .next u)
    (hh : (s.cluster (c / 8)).compHolder = none ∨ (s.cluster (c / 8)).compHolder = some x.num)
    (hrest : u = { s with ctxs := u.ctxs, clusters := u.clusters }) (hcl : u.clusters = (s.composeFree c x).clusters) (hc : u.ctx? c = some y)
    (ho : ∀ k, k ≠ c → u.ctx? k = s.ctx? k) : ComposeStep i s u c y := by
  refine ⟨he, hc, ho, fun k => ?_, hrest⟩
  have hk : u.cluster k = (s.composeFree c x).cluster k := by unfold State.cluster; rw [hcl]
  rw [hk, State.composeFree, State.cluster_modCluster]
  split
  · next hck =>
    subst hck
    rcases hh with h | h <;> simp [h]
  · rfl

end Unit

/-! ### TMPL and FLD (R336) -/

/-- The holes that a hole word lists, each not yet filled. -/
def listedHoles (w : DWord) : List (Nat × Nat × Bool) :=
  (List.range (w >>> 60).toNat).map (fun h => (w.toNat / 2 ^ (12 * h + 6) % 64, w.toNat / 2 ^ (12 * h) % 64, false))

theorem holesOf_eq (w : DWord) : holesOf w = listedHoles w := by
  have hn : field w 60 4 = (w >>> 60).toNat := by
    rw [BitVec.toNat_ushiftRight, Nat.shiftRight_eq_div_pow]
    exact Nat.mod_eq_of_lt (by have := w.isLt; omega)
  rw [holesOf, hn]
  rfl

/-- Ranges of which one ends where or before the other begins do not meet. -/
theorem rangesMeet_false {a n b m : Nat} (h : a + n ≤ b ∨ b + m ≤ a) : rangesMeet a n b m = false := by
  simp only [rangesMeet, Bool.and_eq_false_iff, decide_eq_false_iff_not]
  omega

/-- A list of at most five holes of sound widths inside the word, none of which meet, is in order. -/
theorem holesBad_false {w : DWord} (hlen : (holesOf w).length ≤ 5) (hw : ∀ h ∈ holesOf w, 1 ≤ h.2.1 ∧ h.2.1 ≤ 32 ∧ h.1 + h.2.1 ≤ 64)
    (hp : (holesOf w).Pairwise (fun p q => p.1 + p.2.1 ≤ q.1 ∨ q.1 + q.2.1 ≤ p.1)) : holesBad w = false := by
  have hcount : (holesOf w).length = field w 60 4 := by simp [holesOf]
  unfold holesBad
  simp only [Bool.or_eq_false_iff]
  refine ⟨⟨by simp [← hcount, hlen], ?_⟩, ?_⟩
  · rw [List.any_eq_false]
    intro h hh
    have := hw h hh
    simp
    omega
  · simp only [List.any_eq_false, List.mem_range, Bool.not_eq_true]
    intro i hi j hj
    have hjl : j < (holesOf w).length := hj.trans hi
    rw [List.getElem?_eq_getElem hi, List.getElem?_eq_getElem hjl]
    exact rangesMeet_false ((List.pairwise_iff_getElem.mp hp j i hjl hi hj).symm)

/-- A field of a word: inside it the low bits of the value, outside it the word. -/
theorem setField_getLsbD (w v : DWord) {p n k : Nat} (hk : k < 64) :
    (setField w p n v).getLsbD k = if p ≤ k ∧ k < p + n then v.getLsbD (k - p) else w.getLsbD k := by
  have hm : (BitVec.ofNat 64 ((2 ^ n - 1) * 2 ^ p)).getLsbD k = decide (p ≤ k ∧ k < p + n) := by
    rw [BitVec.getLsbD_ofNat, ← Nat.shiftLeft_eq, Nat.testBit_shiftLeft, Nat.testBit_two_pow_sub_one]
    simp only [hk, decide_true, Bool.true_and, ge_iff_le]
    by_cases hp : p ≤ k
    · simp only [hp, decide_true, Bool.true_and, true_and, decide_eq_decide]
      omega
    · simp [hp]
  simp only [setField, BitVec.getLsbD_or, BitVec.getLsbD_and, BitVec.getLsbD_not, hm, BitVec.getLsbD_shiftLeft, hk, decide_true, Bool.true_and]
  by_cases h : p ≤ k ∧ k < p + n
  · have hp : ¬k < p := by omega
    simp [h, hp]
  · simp [h]

section Template

variable {s : State} {c : Nat} {x : Ctx} {o : POps}

theorem tmpl_spec (hm : MayExecute s c x [o.a]) (hx : x.num < 6)
    (hh : (s.cluster (c / 8)).compHolder = none ∨ (s.cluster (c / 8)).compHolder = some x.num)
    (hlen : composeIndex (Ctx.val x o.a) o.imm + 1 < x.imageLen) (hb : holesBad (x.imageWord (composeIndex (Ctx.val x o.a) o.imm + 1)) = false) :
    ∃ t, CtxStep (.tmpl o) s t c { Ctx.after x with
      comp := x.imageWord (composeIndex (Ctx.val x o.a) o.imm), holes := holesOf (x.imageWord (composeIndex (Ctx.val x o.a) o.imm + 1)) } := by
  refine ctxStep_of_ctxDone (f := fun y => { y with
    comp := x.imageWord (composeIndex (Ctx.val x o.a) o.imm), holes := holesOf (x.imageWord (composeIndex (Ctx.val x o.a) o.imm + 1)) }) hm.ctx ?_
  refine (composeWord_run hm hx hh _).trans (congrArg _ ?_)
  have hreg : x.reg o.a = Ctx.val x o.a := rfl
  dsimp only
  rw [hreg, if_neg (by omega), if_neg (by omega), if_neg (Bool.eq_false_iff.mp hb)]

theorem fld_spec (hm : MayExecute s c x [o.a]) (hx : x.num < 6)
    (hh : (s.cluster (c / 8)).compHolder = none ∨ (s.cluster (c / 8)).compHolder = some x.num)
    (hw : 1 ≤ o.imm / 256 % 128) (hp : o.imm % 64 + o.imm / 256 % 128 ≤ 64) :
    ∃ t v, CtxStep (.fld o) s t c { Ctx.after x with
        comp := v, holes := x.holes.map (fun h => (h.1, h.2.1, h.2.2 || (h.1 == o.imm % 64 && h.2.1 == o.imm / 256 % 128))) }
      ∧ ∀ k, k < 64 → v.getLsbD k =
        if o.imm % 64 ≤ k ∧ k < o.imm % 64 + o.imm / 256 % 128 then (Ctx.val x o.a).getLsbD (k - o.imm % 64) else x.comp.getLsbD k := by
  have hholes : x.holes.map (fun h => if h.1 = o.imm % 64 ∧ h.2.1 = o.imm / 256 % 128 then (h.1, h.2.1, true) else h)
      = x.holes.map (fun h => (h.1, h.2.1, h.2.2 || (h.1 == o.imm % 64 && h.2.1 == o.imm / 256 % 128))) := by
    refine List.map_congr_left fun h _ => ?_
    by_cases he : h.1 = o.imm % 64 ∧ h.2.1 = o.imm / 256 % 128
    · rw [if_pos he, he.1, he.2]
      simp
    · have hf : (h.1 == o.imm % 64 && h.2.1 == o.imm / 256 % 128) = false := by simpa using he
      rw [if_neg he, hf, Bool.or_false]
  have hrun : exec (.fld o) s = .next (s.ctxDone c (fun y =>
      { y with comp := setField y.comp (o.imm % 64) (o.imm / 256 % 128) (x.reg o.a),
               holes := y.holes.map (fun h => if h.1 = o.imm % 64 ∧ h.2.1 = o.imm / 256 % 128 then (h.1, h.2.1, true) else h) })) := by
    refine (composeWord_run hm hx hh _).trans (congrArg _ ?_)
    dsimp only
    rw [if_neg (by omega)]
  obtain ⟨t, ht⟩ := ctxStep_of_ctxDone hm.ctx hrun
  rw [hholes] at ht
  exact ⟨t, _, ht, fun k hk => setField_getLsbD _ _ hk⟩

end Template

/-! ### EMIT and EMITX (R59 to R61, R63, R337) -/

/-- A word of a meaning has no reason to fail its check. -/
theorem wordReason_none {w : DWord} (h : ∃ l, decodeLane w.toNat = .ok l) : wordReason w = none := by
  obtain ⟨l, hl⟩ := h
  simp only [wordReason, hl]

theorem wordReason_some {w : DWord} (h : ¬ ∃ l, decodeLane w.toNat = .ok l) : ∃ r, wordReason w = some r := by
  unfold wordReason
  split
  · next l hl => exact absurd ⟨l, hl⟩ h
  · next r _ => exact ⟨_, rfl⟩

/-- The holes that are not filled. -/
def openHoles (x : Ctx) : Nat := (x.holes.filter (fun h => !h.2.2)).length

section Emit

variable {s : State} {c : Nat} {x : Ctx} {o : POps} {a g : Nat} {e : Segment} {at_ : Option Nat}

/-- The registers of a word that is composed are there and await nothing: the word meets its check, the room and the queue. -/
theorem emitWord_checked (hm : MayExecute s c x (x.emitRegs a)) (hr : openHoles x = 0 ∨ a + openHoles x - 1 ≤ 31) (hw : (x.compose a).2 = false)
    (hg : x.openSeg = some g) (he : Sp.get? x.segs g = some e) (hcap : wordReason (x.compose a).1 = none → at_.getD x.nextOff < e.cap) :
    s.emitWord a at_ c x =
      match wordReason (x.compose a).1 with
      | some r => s.composeFault c r 0
      | none =>
        if 16 ≤ x.emitQ.length then s.composeStall c x
        else (s.composeFree c x).ctxDone c (fun y =>
          let z := y.queue g [{ seg := g, off := at_.getD x.nextOff, word := (x.compose a).1, prov := y.prov x.pc.toNat }]
          if at_.isSome then z else { z with nextOff := z.nextOff + 1 }) := by
  have hn : (x.emitRegs a).length = openHoles x := by simp [Ctx.emitRegs, openHoles]
  have hregs : ¬(0 < (x.emitRegs a).length ∧ 31 < a + (x.emitRegs a).length - 1) := by rw [hn]; omega
  have hopen : x.openEntry = some (g, e) := by simp [Ctx.openEntry, hg, he]
  unfold State.emitWord
  dsimp only
  rw [if_neg hregs, hm.none_awaits]
  cases hreason : wordReason (x.compose a).1 with
  | some r => rfl
  | none => simp [hg, hw, hopen, hcap hreason]

/-- A composed word that passes its check, with room for it in its segment and in the queue. -/
theorem emitWord_queued (hm : MayExecute s c x (x.emitRegs a)) (hr : openHoles x = 0 ∨ a + openHoles x - 1 ≤ 31) (hw : (x.compose a).2 = false)
    (hg : x.openSeg = some g) (he : Sp.get? x.segs g = some e) (hv : ∃ l, decodeLane (x.compose a).1.toNat = .ok l)
    (hcap : at_.getD x.nextOff < e.cap) (hq : x.emitQ.length < 16) :
    s.emitWord a at_ c x = (s.composeFree c x).ctxDone c (fun y =>
      let z := y.queue g [{ seg := g, off := at_.getD x.nextOff, word := (x.compose a).1, prov := y.prov x.pc.toNat }]
      if at_.isSome then z else { z with nextOff := z.nextOff + 1 }) := by
  rw [emitWord_checked hm hr hw hg he (fun _ => hcap), wordReason_none hv]
  exact if_neg (by omega)

/-- A composing word that is done, as a step. -/
theorem composeStep_of_done {i : Instr} {f : Ctx → Ctx} (hx : s.ctx? c = some x)
    (hh : (s.cluster (c / 8)).compHolder = none ∨ (s.cluster (c / 8)).compHolder = some x.num)
    (he : exec i s = .next ((s.composeFree c x).ctxDone c f)) : ∃ t, ComposeStep i s t c (Ctx.after (f x)) := by
  refine ⟨_, composeStep_of he hh rfl rfl ?_ (fun k hk => (State.ctx?_modCtx _ c k _).trans (if_neg hk))⟩
  refine (State.ctx?_modCtx _ c c _).trans ?_
  rw [if_pos rfl]
  exact congrArg (Option.map _) hx

/-- A word composed into a full queue, where a chunk may come back, stalls and holds the unit (R63). -/
theorem composeStall_waits (hstarved : x.starved = false) :
    s.composeStall c x = (s.setCtx c { x with wait := .stall, stalled := true }).modCluster (c / 8) (fun k => { k with compHolder := some x.num }) := by
  simp only [State.composeStall, hstarved, Bool.false_and, Bool.false_eq_true, if_false]

/-- Where none can come back, it raises SCRIPT_FULL (R63). -/
theorem composeStall_full (hstarved : x.starved = true) (hret : ∀ p ∈ x.segs, p.2.state ≠ .retiring) : s.composeStall c x = s.levelG c 0x21 {} := by
  have hany : x.segs.any (fun g => g.2.state == .retiring) = false := by
    rw [List.any_eq_false]
    intro p hp
    simp [hret p hp]
  simp only [State.composeStall, hstarved, hany, Bool.not_false, Bool.and_self, if_true]

end Emit

/-- A level-G fault of a context that is in no event's service ends its launch with the status of its cause. -/
theorem levelG_ends {s : State} {c : Nat} {x : Ctx} {l : Launch} (hx : s.ctx? c = some x) (hl : s.launch? x.launch = some l) (hk : l.killed = false)
    (hin : x.inService = []) (cause : Nat) (body : Rec) : Ended (s.levelG c cause body) x.launch (levelGStatus cause false) := by
  have h := levelG_ended hx hl hk cause body
  rwa [hin] at h

section EmitWords

variable {s : State} {c : Nat} {x : Ctx} {o : POps} {g : Nat} {e : Segment}

/-- EMIT and EMITX of a generator context, while no other context holds the unit. -/
theorem exec_emit (hm : MayExecute s c x []) (hx : x.num < 6)
    (hh : (s.cluster (c / 8)).compHolder = none ∨ (s.cluster (c / 8)).compHolder = some x.num) :
    exec (.emit o) s = .next (s.emitWord o.a none c x) := composeWord_run hm hx hh (s.emitWord o.a none)

theorem exec_emitx (hm : MayExecute s c x [o.b]) (hx : x.num < 6)
    (hh : (s.cluster (c / 8)).compHolder = none ∨ (s.cluster (c / 8)).compHolder = some x.num) :
    exec (.emitx o) s = .next (s.emitWord o.a (some (Ctx.val x o.b).toNat) c x) :=
  composeWord_run hm hx hh (fun c x => s.emitWord o.a (some (x.reg o.b).toNat) c x)

/-- A word composed into a full queue, of which a chunk may come back: the context stalls and holds the unit. -/
theorem emit_stalls (hm : MayExecute s c x (x.emitRegs o.a)) (hx : x.num < 6)
    (hh : (s.cluster (c / 8)).compHolder = none ∨ (s.cluster (c / 8)).compHolder = some x.num) (hr : openHoles x = 0 ∨ o.a + openHoles x - 1 ≤ 31)
    (hw : (x.compose o.a).2 = false) (hg : x.openSeg = some g) (he : Sp.get? x.segs g = some e) (hv : ∃ l, decodeLane (x.compose o.a).1.toNat = .ok l)
    (hcap : x.nextOff < e.cap) (hq : 16 ≤ x.emitQ.length) (hs : x.starved = false) :
    ∃ t, exec (.emit o) s = .next t ∧ t.ctx? c = some { x with wait := .stall, stalled := true }
      ∧ (t.cluster (c / 8)).compHolder = some x.num ∧ t = { s with ctxs := t.ctxs, clusters := t.clusters } := by
  have hrun := exec_emit (o := o) (hm.mono (by simp)) hx hh
  rw [emitWord_checked (at_ := none) hm hr hw hg he (fun _ => hcap), wordReason_none hv] at hrun
  dsimp only at hrun
  rw [if_pos hq, composeStall_waits hs] at hrun
  refine ⟨_, hrun, (State.ctx?_setCtx s c c _).trans (if_pos rfl), ?_, rfl⟩
  rw [State.cluster_modCluster, if_pos rfl]

/-- A composed word that fails its check ends the launch with COMPOSE_FAULT; one that finds the queue full for good, with SCRIPT_FULL. -/
theorem emit_ends {l : Launch} (hm : MayExecute s c x (x.emitRegs o.a)) (hx : x.num < 6)
    (hh : (s.cluster (c / 8)).compHolder = none ∨ (s.cluster (c / 8)).compHolder = some x.num) (hr : openHoles x = 0 ∨ o.a + openHoles x - 1 ≤ 31)
    (hw : (x.compose o.a).2 = false) (hg : x.openSeg = some g) (he : Sp.get? x.segs g = some e) (hl : s.launch? x.launch = some l)
    (hk : l.killed = false) (hin : x.inService = []) :
    ((¬ ∃ l, decodeLane (x.compose o.a).1.toNat = .ok l) → ∃ t, exec (.emit o) s = .next t ∧ Ended t x.launch 0x05)
    ∧ ((∃ l, decodeLane (x.compose o.a).1.toNat = .ok l) → x.nextOff < e.cap → 16 ≤ x.emitQ.length → x.starved = true →
        (∀ p ∈ x.segs, p.2.state ≠ .retiring) → ∃ t, exec (.emit o) s = .next t ∧ Ended t x.launch 0x06) := by
  have hrun := exec_emit (o := o) (hm.mono (by simp)) hx hh
  refine ⟨fun hv => ?_, fun hv hcap hq hs hret => ?_⟩
  · obtain ⟨r, hreason⟩ := wordReason_some hv
    rw [emitWord_checked (at_ := none) hm hr hw hg he (fun h => by simp [h] at hreason), hreason] at hrun
    exact ⟨_, hrun, levelG_ends hm.ctx hl hk hin 0x20 _⟩
  · rw [emitWord_checked (at_ := none) hm hr hw hg he (fun _ => hcap), wordReason_none hv] at hrun
    dsimp only at hrun
    rw [if_pos hq, composeStall_full hs hret] at hrun
    exact ⟨_, hrun, levelG_ends hm.ctx hl hk hin 0x21 _⟩

end EmitWords

/-! ### EMITB (R59 to R61, R336) -/

section Emitb

variable {s : State} {c : Nat} {x : Ctx} {o : POps} {g : Nat} {e : Segment}

/-- A block of words of a meaning that the open segment has room for has no word that fails. -/
theorem blockFault_none {i n : Nat} (hg : x.openSeg = some g) (he : Sp.get? x.segs g = some e) (hroom : x.nextOff + n ≤ e.cap)
    (hv : ∀ j, j < n → ∃ l, decodeLane (x.imageWord (i + j)).toNat = .ok l) : x.blockFault i n = none := by
  have hopen : x.openEntry = some (g, e) := by simp [Ctx.openEntry, hg, he]
  unfold Ctx.blockFault
  rw [List.head?_eq_none_iff, List.filterMap_eq_nil_iff]
  intro k hk
  have hk := List.mem_range.mp hk
  rw [wordReason_none (hv k hk), hopen]
  exact if_neg (by dsimp only; omega)

/-- The words that one cycle of EMITB queues, from word i of the image on. -/
def blockWords (x : Ctx) (g i k : Nat) : List EmitWord :=
  (List.range k).map (fun j => ({ seg := g, off := x.nextOff + j, word := x.imageWord (i + x.emitted + j), prov := x.prov (i + x.emitted + j) } : EmitWord))

/-- The context after a cycle of EMITB that has queued k words. -/
def blockQueued (x : Ctx) (g i k : Nat) : Ctx :=
  { x.queue g (blockWords x g i k) with nextOff := x.nextOff + k, emitted := x.emitted + k, wait := .run, stalled := false }

/-- A cycle of EMITB with room in the queue: after the last word the unit is given back, before it the context keeps the unit. -/
theorem exec_emitb {i n k : Nat} (hi : i = composeIndex (Ctx.val x o.a) o.imm) (hn : n = o.imm / 2 ^ 20 + 1)
    (hk : k = min (n - x.emitted) (min 2 (16 - x.emitQ.length))) (hm : MayExecute s c x [o.a]) (hx : x.num < 6)
    (hh : (s.cluster (c / 8)).compHolder = none ∨ (s.cluster (c / 8)).compHolder = some x.num) (hg : x.openSeg = some g)
    (he : Sp.get? x.segs g = some e) (hq : x.emitQ.length < 16) (hlt : x.emitted < n)
    (hchk : x.emitted = 0 → i + n ≤ x.imageLen ∧ x.nextOff + n ≤ e.cap ∧ ∀ j, j < n → ∃ l, decodeLane (x.imageWord (i + j)).toNat = .ok l) :
    exec (.emitb o) s = .next (if x.emitted + k = n then ((s.setCtx c { blockQueued x g i k with emitted := 0 }).composeFree c x).ctxDone c (fun y => y)
      else (s.setCtx c (blockQueued x g i k)).modCluster (c / 8) (fun q => { q with compHolder := some x.num })) := by
  subst hi hn hk
  refine (composeWord_run hm hx hh _).trans (congrArg _ ?_)
  have hreg : x.reg o.a = Ctx.val x o.a := rfl
  have hfault : (if x.emitted = 0 then x.blockFault (composeIndex (Ctx.val x o.a) o.imm) (o.imm / 2 ^ 20 + 1) else none) = none := by
    by_cases h0 : x.emitted = 0
    · rw [if_pos h0]
      exact blockFault_none hg he (hchk h0).2.1 (hchk h0).2.2
    · exact if_neg h0
  have hlen : ¬(x.emitted = 0 ∧ x.imageLen < composeIndex (Ctx.val x o.a) o.imm + (o.imm / 2 ^ 20 + 1)) := fun h => by
    have := (hchk h.1).1
    omega
  have hsome : ¬min (o.imm / 2 ^ 20 + 1 - x.emitted) (min 2 (16 - x.emitQ.length)) = 0 := by omega
  dsimp only
  rw [hreg, if_neg hlen, hfault, hg]
  dsimp only
  rw [if_neg hsome]
  rfl

end Emitb

/-- Settles O37: TMPL and FLD act on the context alone; EMIT, EMITX and EMITB by what the check, the room and the queue let through. -/
theorem composition : Obligations.Composition := by
  unfold Obligations.Composition
  intro s c x o hx hh
  refine ⟨fun hm hlen hcount hwidths hpair => ?_, fun hm hw hp => fld_spec hm hx hh hw hp, fun g e hg he => ?_, fun g e hg he hm hq => ?_⟩
  · have heq := holesOf_eq (x.imageWord (composeIndex (Ctx.val x o.a) o.imm + 1))
    have hbad : holesBad (x.imageWord (composeIndex (Ctx.val x o.a) o.imm + 1)) = false :=
      holesBad_false (heq ▸ hcount) (heq ▸ hwidths) (heq ▸ hpair)
    have h := tmpl_spec hm hx hh hlen hbad
    rw [heq] at h
    exact h
  · intro h prov hr hw
    refine ⟨fun hm hv hcap hq => ?_, fun hm hv hcap hq => ?_, fun hm hv hcap hq hs => emit_stalls hm hx hh hr hw hg he hv hcap hq hs,
      fun l hl hk hin hm => emit_ends hm hx hh hr hw hg he hl hk hin⟩
    · have hrun := exec_emit (o := o) (hm.mono (by simp)) hx hh
      rw [emitWord_queued (at_ := none) hm hr hw hg he hv hcap hq] at hrun
      exact composeStep_of_done hm.ctx hh hrun
    · have hrun := exec_emitx (o := o) (hm.mono (by simp)) hx hh
      rw [emitWord_queued (at_ := some (Ctx.val x o.b).toNat) (hm.mono fun _ hmem => List.mem_cons_of_mem _ hmem) hr hw hg he hv hcap hq] at hrun
      exact composeStep_of_done hm.ctx hh hrun
  · intro n m k ws hlt hchk
    have hrun := exec_emitb rfl rfl rfl hm hx hh hg he hq hlt hchk
    refine ⟨fun hlast => ?_, fun hmore => ?_⟩
    · rw [if_pos hlast] at hrun
      refine ⟨_, composeStep_of hrun hh rfl rfl ?_ (fun j hj => ?_)⟩
      · refine (State.ctx?_modCtx _ c c _).trans ?_
        rw [if_pos rfl]
        exact congrArg (Option.map _) ((State.ctx?_setCtx s c c _).trans (if_pos rfl))
      · refine (State.ctx?_modCtx _ c j _).trans ?_
        rw [if_neg hj]
        exact (State.ctx?_setCtx s c j _).trans (if_neg hj)
    · rw [if_neg (Nat.ne_of_lt hmore)] at hrun
      refine ⟨_, hrun, by rw [State.cluster_modCluster, if_pos rfl], (State.ctx?_setCtx s c c _).trans (if_pos rfl), rfl⟩

end Sys2Proof.Claims
end

section
/-! PROOFS. Segments and the start of teams (R61 to R70, R338, R339): what the start of a team and the waking of parked groups leave
unchanged, then each word of a segment's life. Settles O38. -/

namespace Sys2Proof.Claims

open Sys2Proof Sys2Proof.Machine

/-! ### Tables in rising order -/

/-- In a table in rising order an entry is the one its key finds. -/
theorem get?_of_mem_sorted {α : Type} {m : Sp α} (h : Sp.sorted m = true) {k : Nat} {v : α} (hp : (k, v) ∈ m) : Sp.get? m k = some v := by
  induction m with
  | nil => cases hp
  | cons e m ih =>
    obtain ⟨j, w⟩ := e
    rcases List.mem_cons.mp hp with he | ht
    · cases he
      exact if_pos rfl
    · have hlt : j < k := Sp.head_lt h ht
      exact (if_neg (by omega)).trans (ih (Sp.sorted_tail h) ht)

/-- A table in rising order holds each key once. -/
theorem nodup_keys_of_sorted {α : Type} {m : Sp α} (h : Sp.sorted m = true) : (m.map Prod.fst).Nodup := by
  induction m with
  | nil => exact List.nodup_nil
  | cons e m ih =>
    obtain ⟨j, w⟩ := e
    refine List.nodup_cons.mpr ⟨fun hj => ?_, ih (Sp.sorted_tail h)⟩
    obtain ⟨p, hp, rfl⟩ := List.mem_map.mp hj
    exact absurd (Sp.head_lt h hp) (Nat.lt_irrefl _)

/-- The values of a table changed each by its key, the keys kept. -/
theorem get?_map_value {α : Type} (m : Sp α) (f : Nat → α → α) (k : Nat) : Sp.get? (m.map (fun p => (p.1, f p.1 p.2))) k = (Sp.get? m k).map (f k) := by
  induction m with
  | nil => rfl
  | cons e m ih =>
    obtain ⟨j, w⟩ := e
    by_cases hk : k = j
    · subst hk
      simp [Sp.get?]
    · simp [Sp.get?, hk, ih]

/-- What an erased table still holds is under another key. -/
theorem ne_of_mem_erase {α : Type} {m : Sp α} {k : Nat} {p : Nat × α} (h : p ∈ Sp.erase m k) : p.1 ≠ k := by
  induction m with
  | nil => cases h
  | cons e m ih =>
    obtain ⟨j, w⟩ := e
    unfold Sp.erase at h
    split at h
    · exact ih h
    · next hk =>
      rcases List.mem_cons.mp h with rfl | ht
      · exact fun he => hk he.symm
      · exact ih ht

/-! ### The start of a team (R44, R70) -/

/-- A group at its start. -/
def startedGroup (s : State) (a : BitVec 20) (clk : Clock) (x : Group) : Group :=
  { x with
    slotA := { pc := a, mask := lanesBelow x.extent &&& ~~~x.deadMask, age := s.sliceNow x }, slotB := {}, started := true,
    parked := false, readyAge := s.sliceNow x, clk := Clock.join x.clk clk }

/-- Nothing but groups, teams and pairs of copies differs. -/
def StartFrame (s t : State) : Prop := t = { s with groups := t.groups, teams := t.teams, pairs := t.pairs }

section Frame

variable {s t u : State}

theorem StartFrame.refl (s : State) : StartFrame s s := rfl

theorem StartFrame.trans (h : StartFrame s t) (k : StartFrame t u) : StartFrame s u := by
  unfold StartFrame at h k ⊢
  rw [k, h]

theorem StartFrame.of_groups (h : t = { s with groups := t.groups }) : StartFrame s t := by
  unfold StartFrame
  rw [h]

theorem StartFrame.ctx? (h : StartFrame s t) (k : Nat) : t.ctx? k = s.ctx? k := by rw [h]; rfl

theorem StartFrame.sliceNow (h : StartFrame s t) (x : Group) : t.sliceNow x = s.sliceNow x := by rw [h]; rfl

theorem StartFrame.sameBytes (h : StartFrame s t) : SameBytes s t := by rw [h]; exact ⟨fun _ => rfl, fun _ _ => rfl⟩

theorem StartFrame.startedGroup (h : StartFrame s t) (a : BitVec 20) (clk : Clock) (x : Group) : startedGroup t a clk x = startedGroup s a clk x := by
  unfold Claims.startedGroup
  rw [h.sliceNow x]

/-- Only the groups differ, over two steps. -/
theorem groups_frame_trans (h : t = { s with groups := t.groups }) (k : u = { t with groups := u.groups }) : u = { s with groups := u.groups } := by
  rw [k, h]

theorem startFrame_startCheckpoint (s : State) (k : Nat) : StartFrame s (s.startCheckpoint k) ∧ (s.startCheckpoint k).groups = s.groups
    ∧ (s.startCheckpoint k).teams = s.teams := by
  unfold State.startCheckpoint
  split
  · exact ⟨rfl, rfl, rfl⟩
  · exact ⟨rfl, rfl, rfl⟩

end Frame

/-- The groups of a list set to their start, one after another. -/
def startAll (a : BitVec 20) (clk : Clock) (l : List (Nat × Group)) (s : State) : State :=
  l.foldl (fun s p => s.setGroup p.1 (startedGroup s a clk p.2)) s

section StartAll

variable {a : BitVec 20} {clk : Clock}

theorem startAll_frame (l : List (Nat × Group)) (s : State) : startAll a clk l s = { s with groups := (startAll a clk l s).groups } := by
  induction l generalizing s with
  | nil => rfl
  | cons p l ih => exact (ih (s.setGroup p.1 (startedGroup s a clk p.2))).trans rfl

theorem startAll_sorted (l : List (Nat × Group)) {s : State} (h : Sp.sorted s.groups = true) : Sp.sorted (startAll a clk l s).groups = true := by
  induction l generalizing s with
  | nil => exact h
  | cons p l ih => exact ih (Sp.sorted_set _ _ _ h)

theorem startAll_other (l : List (Nat × Group)) (s : State) {g : Nat} (h : ∀ p ∈ l, p.1 ≠ g) : (startAll a clk l s).group? g = s.group? g := by
  induction l generalizing s with
  | nil => rfl
  | cons p l ih =>
    refine (ih _ (fun q hq => h q (List.mem_cons_of_mem _ hq))).trans ?_
    exact (State.group?_setGroup s p.1 g _).trans (if_neg (h p List.mem_cons_self).symm)

theorem startAll_member {l : List (Nat × Group)} (hnd : (l.map Prod.fst).Nodup) (s : State) {p : Nat × Group} (hp : p ∈ l) :
    (startAll a clk l s).group? p.1 = some (startedGroup s a clk p.2) := by
  induction l generalizing s with
  | nil => cases hp
  | cons q l ih =>
    have hq := List.nodup_cons.mp hnd
    rcases List.mem_cons.mp hp with rfl | hp
    · refine (startAll_other l _ (fun r hr he => hq.1 (List.mem_map.mpr ⟨r, hr, he⟩))).trans ?_
      exact (State.group?_setGroup s p.1 p.1 _).trans (if_pos rfl)
    · refine (ih hq.2 (s.setGroup q.1 (startedGroup s a clk q.2)) hp).trans (congrArg some ?_)
      exact StartFrame.startedGroup (StartFrame.of_groups rfl) a clk p.2

end StartAll

section StartTeam

variable {s : State} {k : Nat} {a : BitVec 20} {clk : Clock}

theorem startTeam_eq : s.startTeam k a clk = (startAll a clk (s.groupsOf k) (s.modTeam k (fun x => { x with started := true }))).startCheckpoint k := rfl

theorem startTeam_frame : StartFrame s (s.startTeam k a clk) := by
  rw [startTeam_eq]
  refine StartFrame.trans ?_ (startFrame_startCheckpoint _ k).1
  exact StartFrame.trans (rfl : StartFrame s (s.modTeam k _)) (StartFrame.of_groups (startAll_frame _ _))

theorem startTeam_sorted (h : Sp.sorted s.groups = true) : Sp.sorted (s.startTeam k a clk).groups = true := by
  rw [startTeam_eq, (startFrame_startCheckpoint _ k).2.1]
  exact startAll_sorted _ h

theorem startTeam_group? (hs : Sp.sorted s.groups = true) {g : Nat} {x : Group} (hg : s.group? g = some x) (hk : x.team = k) :
    (s.startTeam k a clk).group? g = some (startedGroup s a clk x) := by
  have hmem : (g, x) ∈ s.groupsOf k := List.mem_filter.mpr ⟨sp_mem_of_get? _ _ _ hg, by simpa using hk⟩
  have hnd : ((s.groupsOf k).map Prod.fst).Nodup := nodup_keys_of_sorted (Sp.sorted_filter _ _ hs)
  unfold State.group?
  rw [startTeam_eq, (startFrame_startCheckpoint _ k).2.1]
  exact startAll_member hnd _ hmem

theorem startTeam_team? {tm : Team} (ht : s.team? k = some tm) : (s.startTeam k a clk).team? k = some { tm with started := true } := by
  unfold State.team?
  rw [startTeam_eq, (startFrame_startCheckpoint _ k).2.2, startAll_frame]
  exact (State.team?_modTeam s k k _).trans (by rw [if_pos rfl, ht]; rfl)

theorem startTeam_startedAt (hs : Sp.sorted s.groups = true) : StartedAt s (s.startTeam k a clk) k a := fun _ _ hg hk =>
  ⟨_, startTeam_group? hs hg hk, rfl, rfl, ⟨rfl, rfl, rfl, rfl⟩, rfl, rfl⟩

theorem startTeams_frame (l : List (Nat × BitVec 20)) (s : State) : StartFrame s (l.foldl (fun s t => s.startTeam t.1 t.2 clk) s) := by
  induction l generalizing s with
  | nil => exact StartFrame.refl s
  | cons p l ih => exact startTeam_frame.trans (ih _)

end StartTeam

/-! ### The slots of a kernel's groups -/

theorem mem_kernelSlots {s : State} {c h : Nat} {b : Bool} {v : Slot} :
    (h, b, v) ∈ s.kernelSlots c ↔ ∃ z, (h, z) ∈ s.groups ∧ (∃ tm, s.team? z.team = some tm ∧ tm.ctx = c) ∧ z.slot b = v ∧ v.mask ≠ 0 := by
  unfold State.kernelSlots
  constructor
  · intro hm
    obtain ⟨⟨g, z⟩, hp, hin⟩ := List.mem_flatMap.mp hm
    obtain ⟨hz, htm⟩ := List.mem_filter.mp hp
    have htm' : ∃ tm, s.team? z.team = some tm ∧ tm.ctx = c := by simpa [Option.any_eq_true] using htm
    rcases List.mem_append.mp hin with h1 | h1
    all_goals
      split at h1
      · next hl =>
        cases List.mem_singleton.mp h1
        exact ⟨z, hz, htm', rfl, by simpa [Slot.live] using hl⟩
      · cases h1
  · rintro ⟨z, hz, htm, rfl, hl⟩
    refine List.mem_flatMap.mpr ⟨(h, z), List.mem_filter.mpr ⟨hz, by simpa [Option.any_eq_true] using htm⟩, ?_⟩
    have hlive : (z.slot b).live = true := by simpa [Slot.live] using hl
    cases b
    · have hin := List.mem_singleton_self (h, false, z.slotA)
      rw [← if_pos (c := z.slotA.live = true) (t := [(h, false, z.slotA)]) (e := []) hlive] at hin
      exact List.mem_append_left _ hin
    · have hin := List.mem_singleton_self (h, true, z.slotB)
      rw [← if_pos (c := z.slotB.live = true) (t := [(h, true, z.slotB)]) (e := []) hlive] at hin
      exact List.mem_append_right _ hin

/-! ### Waking the groups that are parked on a segment (R66) -/

/-- One listed slot that waits for the segment goes on. -/
def wakeSlot (seg : Nat) (s : State) (p : Nat × Bool × Slot) : State :=
  if p.2.2.wait == .segment seg then s.modGroup p.1 (fun x => (x.modSlot p.2.1 (fun v => { v with wait := .run })).unpark (s.sliceNow x)) else s

section Wake

variable {seg : Nat}

theorem segWake_eq (s : State) (c : Nat) : s.segWake c seg = (s.kernelSlots c).foldl (wakeSlot seg) s := rfl

theorem wakeSlot_frame (s : State) (p : Nat × Bool × Slot) : wakeSlot seg s p = { s with groups := (wakeSlot seg s p).groups } := by
  unfold wakeSlot
  split <;> rfl

theorem wakeSlots_frame (l : List (Nat × Bool × Slot)) (s : State) : l.foldl (wakeSlot seg) s = { s with groups := (l.foldl (wakeSlot seg) s).groups } := by
  induction l generalizing s with
  | nil => rfl
  | cons p l ih =>
    exact groups_frame_trans (wakeSlot_frame s p) (ih _)

theorem segWake_frame (s : State) (c seg : Nat) : StartFrame s (s.segWake c seg) := by
  rw [segWake_eq]
  exact StartFrame.of_groups (wakeSlots_frame _ s)

theorem wakeSlots_other (l : List (Nat × Bool × Slot)) (s : State) {h : Nat} (hl : ∀ p ∈ l, p.2.2.wait = .segment seg → p.1 ≠ h) :
    (l.foldl (wakeSlot seg) s).group? h = s.group? h := by
  induction l generalizing s with
  | nil => rfl
  | cons p l ih =>
    refine (ih _ (fun q hq => hl q (List.mem_cons_of_mem _ hq))).trans ?_
    unfold wakeSlot
    split
    · next hw => exact (State.group?_modGroup s p.1 h _).trans (if_neg (hl p List.mem_cons_self (by simpa using hw)).symm)
    · rfl

/-- The group after one listed slot: each slot stands where it stood, and goes on as before or from now on. -/
theorem wakeSlot_slot {s : State} {p : Nat × Bool × Slot} {h : Nat} {z : Group} (hz : s.group? h = some z) (b : Bool) :
    ∃ y, (wakeSlot seg s p).group? h = some y ∧ (y.slot b).pc = (z.slot b).pc
      ∧ ((z.slot b).wait = .run ∨ (p.1 = h ∧ p.2.1 = b ∧ p.2.2.wait = .segment seg) → (y.slot b).wait = .run) := by
  unfold wakeSlot
  split
  · rw [State.group?_modGroup]
    by_cases hh : h = p.1
    · rw [if_pos hh, hz]
      refine ⟨_, rfl, ?_, fun hw => ?_⟩
      all_goals rw [Group.unpark_slot, Group.slot_modSlot]
      · split
        · next hb => rw [hb]
        · rfl
      · split
        · rfl
        · next hb => exact hw.resolve_right (fun h => hb h.2.1.symm)
    · rw [if_neg hh]
      refine ⟨z, hz, rfl, fun hw => ?_⟩
      rcases hw with hw | ⟨he, _, _⟩
      · exact hw
      · exact absurd he.symm hh
  · next hn =>
    refine ⟨z, hz, rfl, fun hw => ?_⟩
    rcases hw with hw | ⟨_, _, hw⟩
    · exact hw
    · exact absurd hw (by simpa using hn)

theorem wakeSlots_slot (l : List (Nat × Bool × Slot)) {s : State} {h : Nat} {z : Group} (hz : s.group? h = some z) (b : Bool) :
    ∃ y, (l.foldl (wakeSlot seg) s).group? h = some y ∧ (y.slot b).pc = (z.slot b).pc
      ∧ ((z.slot b).wait = .run ∨ (∃ p ∈ l, p.1 = h ∧ p.2.1 = b ∧ p.2.2.wait = .segment seg) → (y.slot b).wait = .run) := by
  induction l generalizing s z with
  | nil => exact ⟨z, hz, rfl, fun hw => hw.elim id (fun ⟨p, hp, _⟩ => by cases hp)⟩
  | cons p l ih =>
    obtain ⟨w, hw, hpc, hrun⟩ := wakeSlot_slot (seg := seg) (p := p) hz b
    obtain ⟨y, hy, hpc', hrun'⟩ := ih hw
    refine ⟨y, hy, hpc'.trans hpc, fun hor => hrun' ?_⟩
    rcases hor with hr | ⟨q, hq, hrest⟩
    · exact .inl (hrun (.inl hr))
    · rcases List.mem_cons.mp hq with rfl | hq
      · exact .inl (hrun (.inr hrest))
      · exact .inr ⟨q, hq, hrest⟩

end Wake

/-! ### SEGNEW and SEAL (R65, R66, R338) -/

section Words

variable {s : State} {c : Nat} {x : Ctx} {o : POps} {g : Nat} {e : Segment}

theorem generator_of_lt (h : x.num < 6) : x.generator = true := decide_eq_true h

theorem segnew_spec (hm : MayExecute s c x [o.d]) (hx : x.num < 6) (h1 : 1 ≤ o.imm) (h2 : o.imm ≤ 4096) (ho : x.openSeg = none) {n : Nat} (hn : n < 256)
    (hfree : Sp.get? x.segs n = none) (hless : ∀ m, m < n → (Sp.get? x.segs m).isSome) :
    ∃ t, CtxStep (.segnew o) s t c { Ctx.after (Ctx.put x o.d (BitVec.ofNat 64 (n * 4096))) with
      segs := Sp.set x.segs n { state := .open_, cap := o.imm }, openSeg := some n, nextOff := 0 } := by
  have hfind : (List.range 256).find? (fun m => (Sp.get? x.segs m).isNone) = some n := by
    rw [List.find?_range_eq_some]
    refine ⟨by simp [hfree], List.mem_range.mpr hn, fun m hm => ?_⟩
    have := hless m hm
    simpa [Option.isSome_iff_ne_none] using this
  have hsegs : (Ctx.put x o.d (BitVec.ofNat 64 (n * 4096))).segs = x.segs := by unfold Ctx.put; split <;> rfl
  obtain ⟨t, ht⟩ := ctxStep_of_ctxDone (i := .segnew o) (f := fun y =>
      { y.setReg o.d (BitVec.ofNat 64 (n * 4096)) with segs := Sp.set y.segs n { state := .open_, cap := o.imm }, openSeg := some n, nextOff := 0 })
    hm.ctx (by
      refine (hm.ctxWord_run (ok := Ctx.generator) (generator_of_lt hx) _).trans (congrArg _ ?_)
      dsimp only
      rw [if_neg (by omega), ho, hfind]
      rfl)
  exact ⟨t, ht⟩

theorem seal_spec (hm : MayExecute s c x [o.d]) (hx : x.num < 6) (hg : x.openSeg = some g) : ∃ t, CtxStep (.seal o) s t c
    { x with wait := .seal, replyReg := some o.d, segs := Sp.modify x.segs g (fun e => { e with sealing := true }) } := by
  refine ctxStep_of_setCtx ((hm.ctxWord_run (ok := Ctx.generator) (generator_of_lt hx) _).trans (congrArg _ ?_))
  simp only [hg]

/-! ### SEAL_COMPLETE (R66, R70) -/

/-- The context whose open segment is sealed with an epoch. -/
def sealedCtx (x : Ctx) (g : Nat) (e : Segment) (ep : Nat) (k : Clock) : Ctx :=
  { x with
    epoch := ep, store := x.store.map (fun p => (p.1, if p.1 / 4096 = g then (p.2.1, p.2.2 ||| BitVec.ofNat 32 (ep * 2 ^ 20)) else p.2)),
    openSeg := none, replyReg := none, clk := k, segs := Sp.set x.segs g { e with state := .sealed, sealing := false, starts := [], clk := k } }

/-- The context at the end of SEAL. -/
def sealDone (x : Ctx) (g : Nat) (e : Segment) (d ep : Nat) : Ctx :=
  ((sealedCtx x g e ep (Clock.tick x.clk x.uid)).setReg d (BitVec.ofNat 64 ep)).next

theorem sealDone_frame (d ep : Nat) : ∃ r, sealDone x g e d ep =
    { sealedCtx x g e ep (Clock.tick x.clk x.uid) with regs := r, pc := x.pc + 1, wait := .run, stalled := false, instrs := x.instrs + 1 } := by
  unfold sealDone Ctx.setReg
  split
  · exact ⟨_, rfl⟩
  · exact ⟨_, rfl⟩

theorem sealDone_val (d ep n : Nat) : Ctx.val (sealDone x g e d ep) n = if n = d ∧ n ≠ 0 then BitVec.ofNat 64 ep else Ctx.val x n := by
  have hregs : (sealDone x g e d ep).regs = (Ctx.put x d (BitVec.ofNat 64 ep)).regs := by
    unfold sealDone Ctx.setReg Ctx.put
    by_cases hd : d = 0
    · simp only [hd, if_true]
      rfl
    · simp only [hd, if_false]
      rfl
  unfold Ctx.val
  rw [hregs]
  unfold Ctx.put
  by_cases hd : d = 0
  · subst hd
    by_cases hn : n = 0 <;> simp [hn]
  · rw [if_neg hd, Sp.getD_put]
    by_cases hn : n = d
    · subst hn
      simp [hd]
    · simp [hn]

/-- A segment that has drained, and whose context is quiet, is sealed. -/
theorem exec_sealComplete {d : Nat} (hx : s.ctx? c = some x) (hg : x.openSeg = some g) (he : Sp.get? x.segs g = some e) (hs : e.sealing = true)
    (hd : x.replyReg = some d) (hq : ∀ w ∈ x.emitQ, w.seg ≠ g) (hr : s.running (c / 8) = true) (hquiet : s.ctxQuiet c x = true) (hep : x.epoch ≤ 511) :
    exec (.sealComplete c) s = .next ((e.starts.foldl (fun s t => s.startTeam t.1 t.2 (Clock.tick x.clk x.uid))
      (s.setCtx c (sealDone x g e d (x.epoch % 511 + 1)))).segWake c g) := by
  have hopen : x.openEntry = some (g, e) := by simp [Ctx.openEntry, hg, he]
  have hany : x.emitQ.any (fun w => w.seg == g) = false := by
    rw [List.any_eq_false]
    intro w hw
    simpa using hq w hw
  have hepoch : (if x.epoch = 511 then 1 else x.epoch + 1) = x.epoch % 511 + 1 := by split <;> omega
  have hstamp : ∀ ep : Nat, (fun p : Nat × (DWord × BitVec 32) => if p.1 / 4096 = g then (p.1, p.2.1, p.2.2 ||| BitVec.ofNat 32 (ep * 2 ^ 20)) else p)
      = fun p => (p.1, if p.1 / 4096 = g then (p.2.1, p.2.2 ||| BitVec.ofNat 32 (ep * 2 ^ 20)) else p.2) := by
    intro ep
    funext p
    split <;> rfl
  refine congrArg Host.Outcome.next ?_
  simp only [hx, hopen, hs, hany, hr, hquiet, Bool.not_true, Bool.or_false, Bool.false_eq_true, if_false, hepoch, hstamp, hd]
  rfl

theorem sealComplete_spec {d : Nat} (hx : s.ctx? c = some x) (hsort : Sp.sorted s.groups = true) (hg : x.openSeg = some g)
    (he : Sp.get? x.segs g = some e) (hs : e.sealing = true)
    (hd : x.replyReg = some d) (hq : ∀ w ∈ x.emitQ, w.seg ≠ g) (hr : s.running (c / 8) = true) (hquiet : s.ctxQuiet c x = true) :
    let ep := x.epoch % 511 + 1
    x.epoch ≤ 511 → ∃ t y, exec (.sealComplete c) s = .next t ∧ t.ctx? c = some y
      ∧ y.epoch = ep ∧ y.openSeg = none ∧ y.pc = x.pc + 1 ∧ y.wait = .run ∧ (∀ n, Ctx.val y n = if n = d ∧ n ≠ 0 then BitVec.ofNat 64 ep else Ctx.val x n)
      ∧ Sp.get? y.segs g = some { e with state := .sealed, sealing := false, starts := [], clk := y.clk }
      ∧ (∀ k w p, Sp.get? x.store k = some (w, p) →
          Sp.get? y.store k = some (w, if k / 4096 = g then p ||| BitVec.ofNat 32 (ep * 2 ^ 20) else p))
      ∧ SameBytes s t
      ∧ (∀ k a, e.starts = [(k, a)] → StartedAt s t k a)
      ∧ (∀ h z b tm, e.starts = [] → s.group? h = some z → s.team? z.team = some tm → tm.ctx = c → (z.slot b).mask ≠ 0 →
          (z.slot b).wait = .segment g → ∃ z', t.group? h = some z' ∧ (z'.slot b).wait = .run ∧ (z'.slot b).pc = (z.slot b).pc) := by
  intro ep hep
  have hrun := exec_sealComplete hx hg he hs hd hq hr hquiet hep
  let s' := s.setCtx c (sealDone x g e d ep)
  have hstart : StartFrame s' (e.starts.foldl (fun s t => s.startTeam t.1 t.2 (Clock.tick x.clk x.uid)) s') := startTeams_frame e.starts s'
  have hframe := hstart.trans (segWake_frame _ c g)
  obtain ⟨r, hy⟩ := sealDone_frame (x := x) (g := g) (e := e) d ep
  refine ⟨_, sealDone x g e d ep, hrun, ?_, ?_, ?_, ?_, ?_, sealDone_val d ep, ?_, ?_, ?_, ?_, ?_⟩
  · exact (hframe.ctx? c).trans ((State.ctx?_setCtx s c c _).trans (if_pos rfl))
  · rw [hy]; rfl
  · rw [hy]; rfl
  · rw [hy]
  · rw [hy]
  · rw [hy]; exact Sp.get?_set_self _ _ _
  · intro k w p hk
    rw [hy]
    refine (get?_map_value x.store (fun j v => if j / 4096 = g then (v.1, v.2 ||| BitVec.ofNat 32 (ep * 2 ^ 20)) else v) k).trans ?_
    rw [hk, Option.map_some]
    split <;> rfl
  · exact hframe.sameBytes
  · intro k a hst h z hz hk
    rw [hst]
    have hz' : (s'.startTeam k a (Clock.tick x.clk x.uid)).group? h = some (startedGroup s' a (Clock.tick x.clk x.uid) z) :=
      startTeam_group? (s := s') hsort hz hk
    refine ⟨startedGroup s' a (Clock.tick x.clk x.uid) z, (wakeSlots_other _ _ ?_).trans hz', rfl, rfl, ⟨rfl, rfl, rfl, rfl⟩, rfl, rfl⟩
    rintro ⟨j, b, v⟩ hp hw rfl
    obtain ⟨w, hmem, -, rfl, -⟩ := mem_kernelSlots.mp hp
    cases (get?_of_mem_sorted (startTeam_sorted (s := s') hsort) hmem).symm.trans hz'
    cases b <;> simp [startedGroup, Group.slot] at hw
  · intro h z b tm hst hz htm hc hmask hwait
    rw [hst]
    obtain ⟨y, hy', hpc, hrun'⟩ := wakeSlots_slot (seg := g) (s'.kernelSlots c) (s := s') hz b
    refine ⟨y, hy', hrun' (.inr ⟨(h, b, z.slot b), ?_, rfl, rfl, hwait⟩), hpc⟩
    exact mem_kernelSlots.mpr ⟨z, sp_mem_of_get? _ _ _ hz, ⟨tm, htm, hc⟩, rfl, hmask⟩

/-! ### SEGFREE and the release of a segment (R67, R338) -/

/-- SEGFREE of a legal segment number, by what its segment is. -/
theorem exec_segfree (hm : MayExecute s c x [o.a]) (hx : x.num < 6) (hlt : (Ctx.val x o.a).toNat < 2 ^ 20) :
    exec (.segfree o) s = .next (
      match Sp.get? x.segs ((Ctx.val x o.a).toNat / 4096) with
      | none => s.ctxDone c (fun y => y)
      | some e =>
        match e.state with
        | .open_ => (s.ctxDone c (fun y => y)).discardOpen c ((Ctx.val x o.a).toNat / 4096) e
        | .sealed => s.ctxDone c (fun y => { y with segs := Sp.set y.segs ((Ctx.val x o.a).toNat / 4096) { e with state := .retiring } })
        | .retiring => s.ctxDone c (fun y => y)) :=
  (hm.ctxWord_run (ok := Ctx.generator) (generator_of_lt hx) _).trans (congrArg _ (if_neg (Nat.not_le.mpr hlt)))

theorem segfree_sealed (hm : MayExecute s c x [o.a]) (hx : x.num < 6) (hlt : (Ctx.val x o.a).toNat < 2 ^ 20)
    (he : Sp.get? x.segs ((Ctx.val x o.a).toNat / 4096) = some e) (hst : e.state = .sealed) :
    ∃ t, CtxStep (.segfree o) s t c { Ctx.after x with segs := Sp.set x.segs ((Ctx.val x o.a).toNat / 4096) { e with state := .retiring } } :=
  ctxStep_of_ctxDone (f := fun y => { y with segs := Sp.set y.segs ((Ctx.val x o.a).toNat / 4096) { e with state := .retiring } }) hm.ctx
    ((exec_segfree hm hx hlt).trans (by simp only [he, hst]))

theorem segfree_gone (hm : MayExecute s c x [o.a]) (hx : x.num < 6) (hlt : (Ctx.val x o.a).toNat < 2 ^ 20)
    (he : ∀ e, Sp.get? x.segs ((Ctx.val x o.a).toNat / 4096) = some e → e.state = .retiring) : ∃ t, CtxStep (.segfree o) s t c (Ctx.after x) := by
  refine ctxStep_of_ctxDone (f := fun y => y) hm.ctx ((exec_segfree hm hx hlt).trans (congrArg _ ?_))
  cases hg : Sp.get? x.segs ((Ctx.val x o.a).toNat / 4096) with
  | none => rfl
  | some e => simp only [he e hg]

/-- With nothing parked on it and nothing to start in it, an open segment is freed, and no group meets the discard. -/
theorem discardOpen_quiet (hst : e.starts = []) (hp : ∀ p ∈ s.groups, ∀ b, (p.2.slot b).wait ≠ .segment g) :
    s.discardOpen c g e = s.modCtx c (fun x => { x.freeSeg g with openSeg := none }) := by
  have hnone : (s.kernelSlots c).filter (fun p => p.2.2.wait == .segment g) = [] := by
    rw [List.filter_eq_nil_iff]
    rintro ⟨h, b, v⟩ hm
    obtain ⟨z, hz, -, rfl, -⟩ := mem_kernelSlots.mp hm
    simpa using hp _ hz b
  simp only [State.discardOpen, hnone, hst, List.foldl_nil]

theorem segfree_open (hm : MayExecute s c x [o.a]) (hx : x.num < 6) (hlt : (Ctx.val x o.a).toNat < 2 ^ 20)
    (he : Sp.get? x.segs ((Ctx.val x o.a).toNat / 4096) = some e) (hop : e.state = .open_) (hst : e.starts = [])
    (hp : ∀ p ∈ s.groups, ∀ b, (p.2.slot b).wait ≠ .segment ((Ctx.val x o.a).toNat / 4096)) :
    ∃ t y, CtxStep (.segfree o) s t c y ∧ Sp.get? y.segs ((Ctx.val x o.a).toNat / 4096) = none ∧ y.openSeg = none ∧ y.pc = x.pc + 1 ∧ y.regs = x.regs := by
  generalize hg : (Ctx.val x o.a).toNat / 4096 = g at he hp ⊢
  have hrun := exec_segfree hm hx hlt
  simp only [hg, he, hop] at hrun
  rw [discardOpen_quiet (s := s.ctxDone c (fun y => y)) hst hp] at hrun
  refine ⟨_, { (Ctx.after x).freeSeg g with openSeg := none }, ⟨hrun, ?_, fun k hk => ?_, rfl⟩, Sp.get?_erase_self _ _, rfl, rfl, rfl⟩
  · have hdone : (s.ctxDone c (fun y => y)).ctx? c = some (Ctx.after x) := by
      refine (State.ctx?_modCtx s c c _).trans ?_
      rw [if_pos rfl, hm.ctx]
      rfl
    refine (State.ctx?_modCtx _ c c _).trans ?_
    rw [if_pos rfl, hdone]
    rfl
  · exact (State.ctx?_modCtx _ c k _).trans ((if_neg hk).trans ((State.ctx?_modCtx s c k _).trans (if_neg hk)))

/-- A retiring segment in which no slot stands is freed; a context that waits for a chunk goes on where one is released, or none can be. -/
theorem segmentRelease_spec (hx : s.ctx? c = some x) (he : Sp.get? x.segs g = some e) (hst : e.state = .retiring) (hn : NoneStandsIn s c g) :
    ∃ t y, CtxStep (.segmentRelease c g) s t c y ∧ Sp.get? y.segs g = none ∧ y.chunks = x.chunks - e.chunks.length
      ∧ y.regs = x.regs ∧ y.pc = x.pc ∧ (x.wait = .chunk → (e.chunks ≠ [] ∨ ∀ p ∈ x.segs, p.1 ≠ g → p.2.state ≠ .retiring) → y.wait = .run)
      ∧ ∀ k, k / 4096 = g → Sp.get? y.store k = none := by
  have hstands : (s.kernelSlots c).any (fun p => segOf p.2.2.pc == g) = false := by
    rw [List.any_eq_false]
    rintro ⟨h, b, v⟩ hm
    obtain ⟨z, hz, ⟨tm, htm, hc⟩, rfl, hl⟩ := mem_kernelSlots.mp hm
    simpa using hn _ hz tm htm hc b hl
  have hrun : exec (.segmentRelease c g) s = .next (s.setCtx c (x.freeSeg g)) := by
    refine congrArg Host.Outcome.next ?_
    simp [hx, he, hst, hstands]
  obtain ⟨t, ht⟩ := ctxStep_of_setCtx hrun
  refine ⟨t, _, ht, Sp.get?_erase_self _ _, ?_, rfl, rfl, fun hw hor => ?_, fun k hk => ?_⟩
  · simp [Ctx.freeSeg, he]
  · have hretry : (e.chunks.length != 0 || !(Sp.erase x.segs g).any (fun p => p.2.state == .retiring)) = true := by
      rcases hor with hc | hno
      · simp [hc]
      · have hany : (Sp.erase x.segs g).any (fun p => p.2.state == .retiring) = false := by
          rw [List.any_eq_false]
          intro p hp
          simpa using hno p (Sp.mem_erase _ _ _ hp) (ne_of_mem_erase hp)
        simp [hany]
    simp only [Ctx.freeSeg, he, Option.map_some, Option.getD_some, hw, hretry, beq_self_eq_true, Bool.and_self, if_true]
  · refine (sp_get?_filter_key x.store (fun j => j / 4096 != g) k).trans ?_
    simp [hk]

/-! ### START (R70, R339) -/

section Start

variable {k : Nat} {tm : Team}

/-- START of a team of the kernel that has not started, in a segment that is not retiring. -/
theorem exec_start (hm : MayExecute s c x [o.a, o.b]) (hx : x.num < 6) (hlt : (Ctx.val x o.b).toNat < 2 ^ 20)
    (ht : s.ctxTeam c x ((Ctx.val x o.a).toNat % 256) = some (k, tm)) (hs : tm.started = false) (hq : s.ctxQuiet c x = true)
    (he : Sp.get? x.segs (segOf (BitVec.ofNat 20 (Ctx.val x o.b).toNat)) = some e) (hr : e.state ≠ .retiring) :
    exec (.start o) s = .next ((s.ctxDone c (fun y => { y with clk := Clock.tick x.clk x.uid })).startAt k
      (BitVec.ofNat 20 (Ctx.val x o.b).toNat) (Clock.tick x.clk x.uid)) := by
  refine (hm.ctxWord_run (ok := Ctx.generator) (generator_of_lt hx) _).trans (congrArg _ ?_)
  have hb : x.reg o.b = Ctx.val x o.b := rfl
  have hh : field (x.reg o.a) 0 8 = (Ctx.val x o.a).toNat % 256 := by
    show (Ctx.val x o.a).toNat / 2 ^ 0 % 2 ^ 8 = _
    rw [Nat.pow_zero, Nat.div_one]
    rfl
  have hne : (e.state != .retiring) = true := by simpa using hr
  dsimp only
  rw [hh, hb, if_neg (by omega), ht]
  simp only [he, hs, hq, hne, Bool.not_true, Bool.or_false, Bool.false_eq_true, if_false]

/-- The state in which the context has gone on and its team is started. -/
theorem startAt_eq {s' : State} {y : Ctx} {a : BitVec 20} {clk : Clock} (ht : s'.team? k = some tm) (hc : s'.ctx? tm.ctx = some y)
    (he : Sp.get? y.segs (segOf a) = some e) :
    (e.state = .sealed → s'.startAt k a clk = s'.startTeam k a clk)
    ∧ (e.state = .open_ → s'.startAt k a clk = (s'.modTeam k (fun x => { x with started := true })).setCtx tm.ctx
        { y with segs := Sp.set y.segs (segOf a) { e with starts := e.starts ++ [(k, a)] } }) := by
  constructor
  all_goals
    intro hst
    unfold State.startAt
    simp [ht, hc, he, hst]

theorem start_spec (hm : MayExecute s c x [o.a, o.b]) (hx : x.num < 6) (hsort : Sp.sorted s.groups = true) (hlt : (Ctx.val x o.b).toNat < 2 ^ 20)
    (hh : s.ctxTeam c x ((Ctx.val x o.a).toNat % 256) = some (k, tm)) (ht : s.team? k = some tm) (hc : tm.ctx = c) (hs : tm.started = false)
    (hq : s.ctxQuiet c x = true) {a : BitVec 20} (ha : a = BitVec.ofNat 20 (Ctx.val x o.b).toNat) (he : Sp.get? x.segs (segOf a) = some e) :
    (e.state = .sealed → ∃ t y, exec (.start o) s = .next t ∧ t.ctx? c = some { Ctx.after x with clk := y } ∧ StartedAt s t k a
      ∧ t.team? k = some { tm with started := true } ∧ SameBytes s t)
    ∧ (e.state = .open_ → ∃ t y, exec (.start o) s = .next t ∧ t.groups = s.groups ∧ SameBytes s t
      ∧ t.ctx? c = some { Ctx.after x with clk := y, segs := Sp.set x.segs (segOf a) { e with starts := e.starts ++ [(k, a)] } }) := by
  subst ha
  have hdone : (s.ctxDone c (fun y => { y with clk := Clock.tick x.clk x.uid })).ctx? c = some { Ctx.after x with clk := Clock.tick x.clk x.uid } := by
    refine (State.ctx?_modCtx s c c _).trans ?_
    rw [if_pos rfl, hm.ctx]
    rfl
  have hrun := exec_start hm hx hlt hh hs hq he
  generalize hu : s.ctxDone c (fun y => { y with clk := Clock.tick x.clk x.uid }) = u at hdone hrun
  have hug : u.groups = s.groups := by rw [← hu]; rfl
  have hut : u.team? k = some tm := by rw [← hu]; exact ht
  have hub : SameBytes s u := by rw [← hu]; exact ⟨fun _ => rfl, fun _ _ => rfl⟩
  have hnow : ∀ z, u.sliceNow z = s.sliceNow z := fun z => by rw [← hu]; rfl
  obtain ⟨hsealed, hopen⟩ := startAt_eq (a := BitVec.ofNat 20 (Ctx.val x o.b).toNat) (clk := Clock.tick x.clk x.uid) hut
    (y := { Ctx.after x with clk := Clock.tick x.clk x.uid }) (by rw [hc]; exact hdone) he
  refine ⟨fun hst => ?_, fun hst => ?_⟩
  · rw [hsealed hst] at hrun
    rw [hrun (by simp [hst])]
    refine ⟨_, _, rfl, (startTeam_frame.ctx? c).trans hdone, fun g z hz hk => ?_, startTeam_team? hut, hub.trans startTeam_frame.sameBytes⟩
    have hz' : u.group? g = some z := by unfold State.group?; rw [hug]; exact hz
    obtain ⟨y, hy, h1, h2, h3, h4, h5⟩ := startTeam_startedAt (s := u) (a := BitVec.ofNat 20 (Ctx.val x o.b).toNat)
      (clk := Clock.tick x.clk x.uid) (by rw [hug]; exact hsort) g z hz' hk
    exact ⟨y, hy, h1, h2, h3, by rw [h4, hnow], h5⟩
  · rw [hopen hst] at hrun
    rw [hrun (by simp [hst])]
    exact ⟨_, _, rfl, hug, hub, (State.ctx?_setCtx _ _ c _).trans (if_pos hc.symm)⟩

end Start

/-! ### The drain and the stall (R61 to R63) -/

/-- The context whose only queued word enters the store. -/
def drained (x : Ctx) (w : EmitWord) (e : Segment) : Ctx :=
  { x with
    emitQ := [], store := Sp.set x.store (w.seg * 4096 + w.off) (w.word, w.prov), chunks := if w.off / 64 ∈ e.chunks then x.chunks else x.chunks + 1,
    segs := Sp.set x.segs w.seg { e with chunks := insNat (w.off / 64) e.chunks } }

theorem drain_some {w : EmitWord} (hq : x.emitQ = [w]) (he : Sp.get? x.segs w.seg = some e) (hroom : w.off / 64 ∈ e.chunks ∨ x.chunks < x.quota) :
    x.drain = some (drained x w e) := by
  by_cases hin : w.off / 64 ∈ e.chunks
  · simp [Ctx.drain, drained, hq, he, hin]
  · have hlt := hroom.resolve_left hin
    simp [Ctx.drain, drained, hq, he, hin, hlt]

theorem drain_none (hq : x.emitQ = []) : x.drain = none := by simp only [Ctx.drain, hq]

/-- The contexts whose queues drain in a turn of the cluster, in the order of the turn. -/
def drains (s : State) (ck : Nat) : List (Nat × Ctx) :=
  ((List.range 6).map (fun i => ((s.cluster ck).storeTurn + 1 + i) % 6)).filterMap
    (fun n => ((s.ctx? (ctxKey ck n)).bind Ctx.drain).map (fun y => (n, y)))

theorem drainOne_nil {ck : Nat} (h : drains s ck = []) : s.drainOne ck = s := by
  unfold drains at h
  simp only [State.drainOne, h]

theorem drainOne_cons {ck n : Nat} {y : Ctx} {r : List (Nat × Ctx)} (h : drains s ck = (n, y) :: r) :
    s.drainOne ck = (s.setCtx (ctxKey ck n) y).modCluster ck (fun c => { c with storeTurn := n }) := by
  unfold drains at h
  simp only [State.drainOne, h]

theorem mem_drains {ck n : Nat} {y : Ctx} : (n, y) ∈ drains s ck ↔ n < 6 ∧ (s.ctx? (ctxKey ck n)).bind Ctx.drain = some y := by
  unfold drains
  rw [List.mem_filterMap]
  constructor
  · rintro ⟨m, hm, he⟩
    obtain ⟨i, -, rfl⟩ := List.mem_map.mp hm
    obtain ⟨z, hz, he⟩ := Option.map_eq_some_iff.mp he
    cases he
    exact ⟨Nat.mod_lt _ (by omega), hz⟩
  · rintro ⟨hn, hy⟩
    refine ⟨n, List.mem_map.mpr ⟨(n + 11 - (s.cluster ck).storeTurn % 6) % 6, List.mem_range.mpr (Nat.mod_lt _ (by omega)), by omega⟩, ?_⟩
    rw [hy]
    rfl

theorem scriptStoreDrain_spec {ck n : Nat} {w : EmitWord} (hx : s.ctx? c = some x) (hc : c = ctxKey ck n) (hn : n < 6) (hr : s.running ck = true)
    (hq : x.emitQ = [w]) (he : Sp.get? x.segs w.seg = some e) (hroom : w.off / 64 ∈ e.chunks ∨ x.chunks < x.quota)
    (hothers : ∀ m z, m ≠ n → s.ctx? (ctxKey ck m) = some z → z.emitQ = []) :
    ∃ t y, exec (.scriptStoreDrain ck) s = .next t ∧ t.ctx? c = some y ∧ (∀ k, k ≠ c → t.ctx? k = s.ctx? k)
      ∧ y = drained x w e ∧ t = { s with ctxs := t.ctxs, clusters := t.clusters } ∧ SameBytes s t := by
  subst hc
  have hkey : ∀ m, m ≠ n → ctxKey ck m ≠ ctxKey ck n := fun m hm h => hm (by unfold ctxKey at h; omega)
  have hother : ∀ m, m ≠ n → (s.ctx? (ctxKey ck m)).bind Ctx.drain = none := by
    intro m hm
    cases hz : s.ctx? (ctxKey ck m) with
    | none => rfl
    | some z => exact drain_none (hothers m z hm hz)
  have hmem : (n, drained x w e) ∈ drains s ck := mem_drains.mpr ⟨hn, by rw [hx]; exact drain_some hq he hroom⟩
  have honly : ∀ p ∈ drains s ck, p = (n, drained x w e) := by
    rintro ⟨m, y⟩ hp
    obtain ⟨-, hy⟩ := mem_drains.mp hp
    by_cases hm : m = n
    · subst hm
      rw [hx] at hy
      cases (drain_some hq he hroom).symm.trans hy
      rfl
    · rw [hother m hm] at hy
      cases hy
  obtain ⟨r, hdr⟩ : ∃ r, drains s ck = (n, drained x w e) :: r := by
    cases hd : drains s ck with
    | nil => rw [hd] at hmem; cases hmem
    | cons p r => exact ⟨r, by rw [honly p (hd ▸ List.mem_cons_self)]⟩
  let t : State := (s.setCtx (ctxKey ck n) (drained x w e)).modCluster ck (fun c => { c with storeTurn := n })
  have hself : t.ctx? (ctxKey ck n) = some (drained x w e) := (State.ctx?_setCtx s _ _ _).trans (if_pos rfl)
  have hrest : ∀ k, k ≠ ctxKey ck n → t.ctx? k = s.ctx? k := fun k hk => (State.ctx?_setCtx s _ k _).trans (if_neg hk)
  have hagain : drains t ck = [] := by
    rw [List.eq_nil_iff_forall_not_mem]
    rintro ⟨m, y⟩ hp
    obtain ⟨-, hy⟩ := mem_drains.mp hp
    by_cases hm : m = n
    · subst hm
      rw [hself] at hy
      cases hy
    · rw [hrest _ (hkey m hm), hother m hm] at hy
      cases hy
  have hspad : ∀ k, (t.cluster k).spad = (s.cluster k).spad := by
    intro k
    refine (congrArg Cluster.spad (State.cluster_modCluster _ ck k _)).trans ?_
    split
    · next hk => rw [hk]; rfl
    · rfl
  refine ⟨t, _, congrArg Host.Outcome.next ?_, hself, hrest, rfl, rfl, fun _ => rfl, fun k a => by rw [hspad]⟩
  rw [if_pos hr, drainOne_cons hdr]
  exact drainOne_nil hagain

theorem composeStallTimeout_spec (hx : s.ctx? c = some x) (hw : x.wait = .stall) (hh : (s.cluster (c / 8)).compHolder = some x.num) :
    ∃ t, ComposeStep (.composeStallTimeout c) s t c { x with wait := .chunk } := by
  have hrun : exec (.composeStallTimeout c) s = .next ((s.setCtx c { x with wait := .chunk }).composeFree c x) := by
    refine congrArg Host.Outcome.next ?_
    simp only [hx, hw, beq_self_eq_true, if_true]
  exact ⟨_, composeStep_of hrun (.inr hh) rfl rfl ((State.ctx?_setCtx s c c _).trans (if_pos rfl)) (fun k hk => (State.ctx?_setCtx s c k _).trans (if_neg hk))⟩

end Words

/-- Settles O38, by the step of each word of a segment's life. -/
theorem segments : Obligations.Segments := by
  unfold Obligations.Segments
  intro s c x o hx hnum hsort
  refine ⟨?_, ?_, ?_, ?_, ?_, ?_, ?_, ?_⟩
  · intro n hm h1 h2 ho hn hfree hless
    exact segnew_spec hm hnum h1 h2 ho hn hfree hless
  · intro g hm hg
    exact seal_spec hm hnum hg
  · intro g e d hg he hs hd hq hr hquiet
    exact sealComplete_spec hx hsort hg he hs hd hq hr hquiet
  · intro g hm hlt
    refine ⟨fun e he hst => segfree_sealed hm hnum hlt he hst, fun hnone => segfree_gone hm hnum hlt fun e he => ?_,
      fun e he hst => segfree_gone hm hnum hlt fun e' he' => ?_, fun e he hop hst hp => segfree_open hm hnum hlt he hop hst hp⟩
    · cases hnone.symm.trans he
    · cases he.symm.trans he'
      exact hst
  · intro g e he hst hn
    exact segmentRelease_spec hx he hst hn
  · intro hm hlt a k tm e hh ht hc hs hq he
    exact start_spec hm hnum hsort hlt hh ht hc hs hq rfl he
  · intro ck n w e hc hn hr hq he hroom hothers
    exact scriptStoreDrain_spec hx hc hn hr hq he hroom hothers
  · intro hw hh
    exact composeStallTimeout_spec hx hw hh

end Sys2Proof.Claims
end

section
/-! PROOFS. The services of the prompter (R72, R101, R340, R341, R344 to R346): mailboxes, events, the cue count, and the elements of an
accumulator tile. Settles O39. -/

namespace Sys2Proof.Claims

open Sys2Proof Sys2Proof.Machine

section Services

variable {s : State} {c : Nat} {x : Ctx} {o : POps}

/-! ### Mailboxes (R72, R340) -/

/-- The request of a mailbox word of the prompter. -/
def ctxMailReq (c : Nat) (x : Ctx) (o : POps) (op : MbOp) : MbReq :=
  { agent := .ctx c, order := 2 ^ 20, op := op, mb := o.imm % 32, value := if op == .put || op == .write then Ctx.val x o.b else 0, d := o.d,
    clk := Clock.tick x.clk x.uid }

theorem field_low (v : DWord) (n : Nat) : field v 0 n = v.toNat % 2 ^ n := by
  unfold field
  rw [Nat.pow_zero, Nat.div_one]

/-- A mailbox word whose team the context may name on its own cluster, with what it did before done where it puts. -/
theorem ctxMail_run {op : MbOp} {k : Nat} {tm : Team} (hm : MayExecute s c x (if op == .put || op == .write then [o.a, o.b] else [o.a, o.d]))
    (ht : s.ctxTeam c x ((Ctx.val x o.a).toNat % 256) = some (k, tm)) (hc : tm.ckey = c / 8)
    (hq : (op == .put || op == .write) = false ∨ s.ctxQuiet c x = true) :
    s.ctxMail o op = .next ((s.setTeam k { tm with requests := tm.requests ++ [ctxMailReq c x o op] }).setCtx c { x with wait := .mailbox }) := by
  refine (hm.ctxWord_run (ok := anyCtx) rfl _).trans (congrArg _ ?_)
  have hf : field (x.reg o.a) 0 8 = (Ctx.val x o.a).toNat % 256 := field_low _ 8
  have hwait : ((op == .put || op == .write) && !s.ctxQuiet c x) = false := by
    rcases hq with h | h <;> simp [h]
  simp only [hf, ht, hc, hwait, bne_self_eq_false, Bool.false_eq_true, if_false]
  rfl

theorem mailbox_spec {i : Instr} {op : MbOp} {k : Nat} {tm : Team} (he : exec i s = s.ctxMail o op)
    (hm : MayExecute s c x (if op == .put || op == .write then [o.a, o.b] else [o.a, o.d]))
    (ht : s.ctxTeam c x ((Ctx.val x o.a).toNat % 256) = some (k, tm)) (hc : tm.ckey = c / 8)
    (hq : (op == .put || op == .write) = false ∨ s.ctxQuiet c x = true) :
    ∃ t r, exec i s = .next t
      ∧ t.ctx? c = some { x with wait := .mailbox } ∧ t.team? k = some { tm with requests := tm.requests ++ [r] }
      ∧ t = { s with ctxs := t.ctxs, teams := t.teams }
      ∧ r.agent = .ctx c ∧ r.clk = Clock.tick x.clk x.uid ∧ r.op = op ∧ r.mb = o.imm % 32
      ∧ r.value = (if op == .put || op == .write then Ctx.val x o.b else 0) ∧ r.d = o.d :=
  ⟨_, ctxMailReq c x o op, he.trans (ctxMail_run hm ht hc hq), (State.ctx?_setCtx _ c c _).trans (if_pos rfl),
    (State.team?_setTeam s k k _).trans (if_pos rfl), rfl, rfl, rfl, rfl, rfl, rfl, rfl⟩

/-! ### Events (R76, R77, R341) -/

theorem waitev_takes {nb : Bool} {r : Rec} {k : Clock} {g : Nat} {rest : List (Rec × Clock × Nat)} (hm : MayExecute s c x [o.d])
    (he : x.events = (r, k, g) :: rest) : ∃ t, CtxStep (.waitev o nb) s t c
      { Ctx.after (Ctx.put x o.d (BitVec.ofNat 64 (r.w0.toNat / 2 ^ 48 % 256))) with
        events := rest ++ x.arrivals.take 1, arrivals := x.arrivals.drop 1, current := some r, clk := Clock.join x.clk k,
        inService := if 1 ≤ r.w0.toNat / 2 ^ 56 ∧ r.w0.toNat / 2 ^ 56 ≤ 0x0B then x.inService ++ [g] else x.inService } := by
  have hcause : r.cause = r.w0.toNat / 2 ^ 56 := rfl
  have hrun : exec (.waitev o nb) s = .next (s.ctxDone c (fun y =>
      { y.setReg o.d (BitVec.ofNat 64 (r.w0.toNat / 2 ^ 48 % 256)) with
        events := rest ++ y.arrivals.take 1, arrivals := y.arrivals.drop 1, current := some r,
        inService := if 1 ≤ r.w0.toNat / 2 ^ 56 ∧ r.w0.toNat / 2 ^ 56 ≤ 0x0B then y.inService ++ [g] else y.inService, clk := Clock.join y.clk k })) := by
    refine (hm.ctxWord_run (ok := anyCtx) rfl _).trans (congrArg _ ?_)
    simp only [he, hcause, Bool.and_eq_true, decide_eq_true_eq]
    rfl
  exact ctxStep_of_ctxDone hm.ctx hrun

theorem waitev_empty {nb : Bool} (hm : MayExecute s c x [o.d]) (he : x.events = []) :
    ∃ t, CtxStep (.waitev o nb) s t c (if nb then Ctx.after (Ctx.put x o.d (BitVec.allOnes 64)) else { x with wait := .event }) := by
  have hrun : exec (.waitev o nb) s = .next (if nb then s.ctxDone c (fun y => y.setReg o.d (BitVec.allOnes 64)) else s.setCtx c { x with wait := .event }) := by
    refine (hm.ctxWord_run (ok := anyCtx) rfl _).trans (congrArg _ ?_)
    simp only [he]
  cases nb with
  | true => exact ctxStep_of_ctxDone (f := fun y => y.setReg o.d (BitVec.allOnes 64)) hm.ctx hrun
  | false => exact ctxStep_of_setCtx hrun

theorem evinfo_spec (hm : MayExecute s c x [o.d]) (h4 : o.imm % 8 ≤ 4) {v : DWord}
    (hv : v = x.current.elim 0 (fun r => r.word (o.imm % 8))) : ∃ t, CtxStep (.evinfo o) s t c (Ctx.after (Ctx.put x o.d v)) := by
  refine ctxStep_of_ctxDone (f := fun y => y.setReg o.d v) hm.ctx ?_
  refine (hm.ctxWord_run (ok := anyCtx) rfl _).trans (congrArg _ ?_)
  dsimp only
  rw [if_neg (by omega), hv]
  cases x.current <;> rfl

/-! ### The cue count (R346, R424) -/

theorem prCuept_spec (hm : MayExecute s c x [o.a]) (hu : s.ctxUndone c x = false) (hlt : x.cue.toNat < ((Ctx.val x o.a).setWidth 32).toNat)
    (hcut : (s.part x.part).cutState = 0) :
    ∃ t, CtxStep (.prCuept o) s t c { Ctx.after x with cue := (Ctx.val x o.a).setWidth 32, issuedCue := true, cutStop := false } := by
  have hn : (x.reg o.a).toNat % 2 ^ 32 = ((Ctx.val x o.a).setWidth 32).toNat := (BitVec.toNat_setWidth _ _).symm
  have hstops : ∀ n, (s.part x.part).stopsAt n = false := fun n => by simp [Part.stopsAt, hcut]
  let f : Ctx → Ctx := fun y =>
    { y with cue := (Ctx.val x o.a).setWidth 32, issuedCue := true, cutStop := y.generator && (s.part y.part).stopsAt ((Ctx.val x o.a).setWidth 32).toNat }
  have hsettle : (s.ctxDone c f).cutSettle x.part = s.ctxDone c f := by
    have h1 : ((s.part x.part).cutState != 1) = true := by simp [hcut]
    exact if_pos h1
  have hrun : exec (.prCuept o) s = .next (s.ctxDone c f) := by
    refine (hm.ctxWord_run (ok := anyCtx) rfl _).trans (congrArg _ ?_)
    simp only [hn, hu, Bool.false_eq_true, if_false, BitVec.ofNat_toNat, BitVec.setWidth_eq]
    rw [if_neg (by omega)]
    exact hsettle
  obtain ⟨t, ht⟩ := ctxStep_of_ctxDone hm.ctx hrun
  refine ⟨t, ?_⟩
  have hf : f x = { x with cue := (Ctx.val x o.a).setWidth 32, issuedCue := true, cutStop := false } := by
    simp only [f, hstops, Bool.and_false]
  rw [hf] at ht
  exact ht

/-! ### ACCRD and ACCWR enter the queue (R344, R345) -/

/-- What the queue gets of a word that reads or writes an element of a tile. -/
theorem accIssue_spec {i : Instr} {regs : List Nat} {op : Ctx → Nat → Nat → Nat → MxOp} {d k : Nat} {tm : Team} (he : exec i s = s.accIssue o regs op d)
    (hm : MayExecute s c x regs) (hx : 6 ≤ x.num) (ht : s.ctxTeam c x ((Ctx.val x o.a).toNat % 256) = some (k, tm))
    (htile : (Ctx.val x o.a).toNat / 2 ^ 8 % 32 < tm.tiles) (hroom : (mxGoing (s.cluster (c / 8)).mxHeld (s.cluster (c / 8)).mxQ []).length < 16) :
    ∃ t r, exec i s = .next t ∧ t.ctx? c = some { x with wait := .engine } ∧ (t.cluster (c / 8)).mxQ = (s.cluster (c / 8)).mxQ ++ [r]
      ∧ r.op = op x ((Ctx.val x o.a).toNat / 2 ^ 8 % 32) ((Ctx.val x o.a).toNat / 2 ^ 19 % 32) ((Ctx.val x o.a).toNat / 2 ^ 13 % 64)
      ∧ r.agent = .ctx c ∧ r.team = k ∧ r.d = d ∧ t.teams = s.teams ∧ t.groups = s.groups := by
  have hgen : (!x.generator) = true := by
    have : x.generator = false := decide_eq_false (by omega)
    rw [this]
    rfl
  have hteam : s.ctxTeam c x (field (x.reg o.a) 0 8) = some (k, tm) := (congrArg (s.ctxTeam c x) (field_low _ 8)).trans ht
  have htile' : ¬tm.tiles ≤ field (x.reg o.a) 8 5 := Nat.not_le.mpr htile
  let r : MxReq :=
    { id := s.nextId + 1, op := op x (field (x.reg o.a) 8 5) (field (x.reg o.a) 19 5) (field (x.reg o.a) 13 6), agent := .ctx c, uid := x.uid, team := k,
      part := x.part, cluster := x.cluster, upper := x.cluster != tm.cluster, d := d }
  have hrun : exec i s = .next ((({ s with nextId := s.nextId + 1 }).modCluster (c / 8) (fun k => { k with mxQ := k.mxQ ++ [r] })).setCtx c
      { x with wait := .engine }) := by
    refine he.trans ((hm.ctxWord_run (ok := fun x => !x.generator) hgen _).trans (congrArg _ ?_))
    simp only [hteam, if_neg htile', if_neg (Nat.not_le.mpr hroom)]
    rfl
  refine ⟨_, r, hrun, (State.ctx?_setCtx _ c c _).trans (if_pos rfl), ?_, rfl, rfl, rfl, rfl, rfl, rfl⟩
  exact congrArg Cluster.mxQ ((State.cluster_modCluster { s with nextId := s.nextId + 1 } (c / 8) (c / 8)
    (fun q => { q with mxQ := q.mxQ ++ [r] })).trans (if_pos rfl))

/-! ### The engine performs them (R101, R345) -/

section Engine

variable {ck : Nat} {r : MxReq} {rest : List MxReq} {tm : Team}

/-- An operation on one element holds nothing back and reads nothing on the matrix path. -/
def onElement (op : MxOp) : Bool := match op with | .accrd _ _ _ | .accwr _ _ _ _ => true | _ => false

/-- The machine before the element of a request is reached: the request has left the queue, and its cycles are counted. -/
def atElement (s : State) (ck : Nat) (r : MxReq) : State :=
  let u := s.modCluster ck (fun c => { c with mxQ := c.mxQ.filter (fun q => q.id != r.id) })
  match u.ctxs.find? (fun p => p.1 / 8 == ck && p.2.launch == r.launch && p.2.num < 6) with
  | none => u
  | some p => u.modCtx p.1 (fun c => { c with mxCycles := c.mxCycles + r.cycles })

theorem sameBytes_modCluster (s : State) (ck : Nat) {f : Cluster → Cluster} (hf : ∀ k, (f k).spad = k.spad) : SameBytes s (s.modCluster ck f) := by
  refine ⟨fun _ => rfl, fun k a => ?_⟩
  rw [State.cluster_modCluster]
  split
  · next h => rw [hf, h]
  · rfl

theorem atElement_spec (s : State) (ck : Nat) (r : MxReq) :
    (atElement s ck r).teams = s.teams ∧ SameBytes s (atElement s ck r)
      ∧ ∀ c x, s.ctx? c = some x → ∃ n, (atElement s ck r).ctx? c = some { x with mxCycles := n } := by
  have hb := sameBytes_modCluster s ck (f := fun c => { c with mxQ := c.mxQ.filter (fun q => q.id != r.id) }) (fun _ => rfl)
  unfold atElement
  dsimp only
  split
  · exact ⟨rfl, hb, fun c x hx => ⟨x.mxCycles, hx⟩⟩
  · next p _ =>
    refine ⟨rfl, hb, fun c x hx => ?_⟩
    rw [State.ctx?_modCtx]
    split
    · exact ⟨x.mxCycles + r.cycles, congrArg (Option.map _) hx⟩
    · exact ⟨x.mxCycles, hx⟩

/-- No team that has exited is there, and no member of an ensemble has emptied: nothing leaves. -/
theorem reaps_nothing {u : State} (h : ∀ p ∈ u.teams, p.2.exited = false ∧ (p.2.ensemble.isSome = true → u.emptied p.1 = false)) :
    u.reapAll.exitWaiting = u := by
  have hreap : u.reapAll = u := by
    have hnone : u.teams.filter (fun p => p.2.exited) = [] := by
      rw [List.filter_eq_nil_iff]
      exact fun p hp => by simp [(h p hp).1]
    simp only [State.reapAll, hnone, List.foldl_nil]
  rw [hreap]
  have hnone : u.teams.filter (fun p => p.2.ensemble.isSome && !p.2.exited && u.emptied p.1) = [] := by
    rw [List.filter_eq_nil_iff]
    intro p hp hc
    obtain ⟨⟨he, -⟩, hm⟩ : (p.2.ensemble.isSome = true ∧ (!p.2.exited) = true) ∧ u.emptied p.1 = true := by simpa using hc
    rw [(h p hp).2 he] at hm
    cases hm
  simp only [State.exitWaiting, hnone, List.foldl_nil]

/-- What the engine makes of a request on one element, once nothing leaves after it. -/
theorem exec_matrixEngineStep (ht : EngineTurn s ck r rest tm) (hop : onElement r.op = true)
    (hstay : ∀ p ∈ ((atElement s ck r).mxElem r).teams,
      p.2.exited = false ∧ (p.2.ensemble.isSome = true → ((atElement s ck r).mxElem r).emptied p.1 = false)) :
    exec (.matrixEngineStep ck) s = .next (((atElement s ck r).mxElem r).modCluster ck
      (fun c => { c with heldGone := c.heldGone.filter (fun h => c.mxQ.any (fun q => q.uid == h.1)) })) := by
  have hnext : mxNext (s.cluster ck).mxHeld (s.cluster ck).mxQ = some r := by
    rw [ht.held, ht.queue]
    have hb : mxBlocked [] [] r = false := by
      unfold mxBlocked
      split <;> rfl
    simp only [mxNext, mxGoing, hb, Bool.false_eq_true, if_false, List.head?_cons]
  have hperform : (atElement s ck r).mxPerform r = (atElement s ck r).mxElem r := by
    cases hk : r.op <;> simp only [hk, onElement, Bool.false_eq_true] at hop
    all_goals simp only [State.mxPerform, State.mxEffect, State.mxLooked, MxReq.reads, hk, Bool.false_eq_true, if_false]
  refine congrArg Host.Outcome.next ?_
  have hruns := ht.runs
  simp only [hruns, Bool.not_true, Bool.false_eq_true, if_false, hnext]
  refine Eq.trans ?_ (reaps_nothing (u := ((atElement s ck r).mxElem r).modCluster ck
    (fun c => { c with heldGone := c.heldGone.filter (fun h => c.mxQ.any (fun q => q.uid == h.1)) })) hstay)
  rw [← hperform]
  rfl

/-- The state in which the engine has performed r has the bytes of the one in which the element is reached or written. -/
theorem sameBytes_elem (u : State) (ck : Nat) (hu : SameBytes s u) : SameBytes s (u.modCluster ck
    (fun c => { c with heldGone := c.heldGone.filter (fun h => c.mxQ.any (fun q => q.uid == h.1)) })) :=
  hu.trans (sameBytes_modCluster u ck (fun _ => rfl))

theorem accrd_spec (ht : EngineTurn s ck r rest tm) (ha : r.agent = .ctx c) (hx : s.ctx? c = some x) {tile row col : Nat}
    (hop : r.op = .accrd tile row col) : ∃ t y, exec (.matrixEngineStep ck) s = .next t ∧ t.ctx? c = some y
      ∧ y.pc = x.pc + 1 ∧ y.wait = .run ∧ t.teams = s.teams ∧ SameBytes s t
      ∧ ∀ n, Ctx.val y n = if n = r.d ∧ n ≠ 0 then ((tm.tile (tileKey r.upper tile)).get row col).setWidth 64 else Ctx.val x n := by
  obtain ⟨hteams, hbytes, hctx⟩ := atElement_spec s ck r
  obtain ⟨n, hn⟩ := hctx c x hx
  have htm : (atElement s ck r).team? r.team = some tm := by
    unfold State.team?
    rw [hteams]
    exact ht.team
  let v : DWord := ((tm.tile (tileKey r.upper tile)).get row col).setWidth 64
  have helem : (atElement s ck r).mxElem r = (atElement s ck r).modCtx c (fun x =>
      { x with regs := if r.d = 0 then x.regs else Sp.put 0 x.regs r.d v, pc := x.pc + 1, wait := .run, instrs := x.instrs + 1 }) := by
    simp only [State.mxElem, ha, hop, htm, Option.map_some, Option.getD_some, v]
  have hrun := exec_matrixEngineStep ht (by rw [hop]; rfl) (by
    rw [helem]
    intro p hp
    have hp' : p ∈ s.teams := hteams ▸ hp
    refine ⟨(ht.stay p hp').1, fun he => ?_⟩
    have hsame : ((atElement s ck r).modCtx c (fun x =>
      { x with regs := if r.d = 0 then x.regs else Sp.put 0 x.regs r.d v, pc := x.pc + 1, wait := .run, instrs := x.instrs + 1 })).emptied p.1 = s.emptied p.1 := by
      unfold State.emptied State.team?
      rw [← hteams]
      rfl
    rw [hsame]
    exact (ht.stay p hp').2 he)
  rw [helem] at hrun
  refine ⟨_, { x with regs := if r.d = 0 then x.regs else Sp.put 0 x.regs r.d v, pc := x.pc + 1, wait := .run, instrs := x.instrs + 1, mxCycles := n },
    hrun, ?_, rfl, rfl, hteams, sameBytes_elem _ ck hbytes, fun m => ?_⟩
  · refine (State.ctx?_modCtx (atElement s ck r) c c _).trans ?_
    rw [if_pos rfl, hn]
    rfl
  · unfold Ctx.val
    by_cases hd : r.d = 0
    · rw [if_pos hd]
      have hno : ¬(m = r.d ∧ m ≠ 0) := fun h => h.2 (h.1.trans hd)
      rw [if_neg hno]
    · rw [if_neg hd, Sp.getD_put]
      by_cases hm0 : m = 0
      · simp [hm0]
      · by_cases hmd : m = r.d <;> simp [hmd, hm0, hd, v]

/-! ### A tile with one element written -/

theorem tile_setTile (t : Team) (k j : Nat) (v : Tile) : (t.setTile k v).tile j = if j = k then v else t.tile j := Sp.getD_put _ _ _ _ _

theorem tile_get_put (t : Tile) {row col m n : Nat} (hc : col < 64) (hn : n < 64) (v : BitVec 34) :
    (t.put row col v).get m n = if m = row ∧ n = col then v else t.get m n := by
  refine (Sp.getD_put _ _ _ _ _).trans ?_
  have hiff : m * 64 + n = row * 64 + col ↔ m = row ∧ n = col := by omega
  simp only [hiff]
  rfl

/-- The team with an element of a tile written. -/
def elementPut (t : Team) (k row col : Nat) (v : BitVec 34) : Team := t.setTile k ((t.tile k).put row col v)

theorem elementPut_get (t : Team) {k row col j m n : Nat} (hc : col < 64) (hn : n < 64) (v : BitVec 34) :
    ((elementPut t k row col v).tile j).get m n = if j = k ∧ m = row ∧ n = col then v else (t.tile j).get m n := by
  unfold elementPut
  rw [tile_setTile]
  by_cases hj : j = k
  · subst hj
    rw [if_pos rfl, tile_get_put _ hc hn]
    simp
  · simp [hj]

theorem elementPut_counts (t : Team) (k row col j : Nat) (v : BitVec 34) :
    ((elementPut t k row col v).tile j).corr = (t.tile j).corr ∧ ((elementPut t k row col v).tile j).uncorr = (t.tile j).uncorr := by
  unfold elementPut
  rw [tile_setTile]
  split
  · next hj => rw [hj]; exact ⟨rfl, rfl⟩
  · exact ⟨rfl, rfl⟩

theorem accwr_spec (ht : EngineTurn s ck r rest tm) (ha : r.agent = .ctx c) (hx : s.ctx? c = some x) {tile row col : Nat} {image : DWord}
    (hop : r.op = .accwr tile row col image) (hcol : col < 64) :
    ∃ t y u, exec (.matrixEngineStep ck) s = .next t ∧ t.ctx? c = some y
      ∧ y.pc = x.pc + 1 ∧ y.wait = .run ∧ y.regs = x.regs ∧ SameBytes s t ∧ t.team? r.team = some u
      ∧ (∀ k m n, m < 32 → n < 64 → (u.tile k).get m n =
          if k = tileKey r.upper tile ∧ m = row ∧ n = col then extRead image.toNat else (tm.tile k).get m n)
      ∧ ∀ k, (u.tile k).corr = (tm.tile k).corr ∧ (u.tile k).uncorr = (tm.tile k).uncorr := by
  obtain ⟨hteams, hbytes, hctx⟩ := atElement_spec s ck r
  obtain ⟨n, hn⟩ := hctx c x hx
  let f : Team → Team := fun t => elementPut t (tileKey r.upper tile) row col (extRead image.toNat)
  have helem : (atElement s ck r).mxElem r = ((atElement s ck r).modTeam r.team f).modCtx c (fun x =>
      { x with pc := x.pc + 1, wait := .run, instrs := x.instrs + 1 }) := by
    simp only [State.mxElem, ha, hop]
    rfl
  have hrun := exec_matrixEngineStep ht (by rw [hop]; rfl) (by
    rw [helem]
    intro p hp
    have hp' : p ∈ Sp.modify s.teams r.team f := hteams ▸ hp
    have hsame : ∀ k, (((atElement s ck r).modTeam r.team f).modCtx c (fun x =>
        { x with pc := x.pc + 1, wait := .run, instrs := x.instrs + 1 })).emptied k = s.emptied k := by
      intro k
      show (((atElement s ck r).modTeam r.team f).team? k).all _ = _
      have hk : (atElement s ck r).team? k = s.team? k := by unfold State.team?; rw [hteams]
      rw [State.team?_modTeam, hk]
      split
      · unfold State.emptied
        cases s.team? k <;> rfl
      · rfl
    rw [hsame]
    rcases sp_mem_modify _ _ _ _ hp' with hold | ⟨w, hw, rfl⟩
    · exact ht.stay p hold
    · exact ht.stay (r.team, w) hw)
  rw [helem] at hrun
  refine ⟨_, { x with pc := x.pc + 1, wait := .run, instrs := x.instrs + 1, mxCycles := n }, f tm, hrun, ?_, rfl, rfl, rfl,
    sameBytes_elem _ ck hbytes, ?_, fun k m n _ hn => elementPut_get tm hcol hn _, fun k => elementPut_counts tm _ _ _ k _⟩
  · refine (State.ctx?_modCtx _ c c _).trans ?_
    rw [if_pos rfl]
    exact congrArg (Option.map _) hn
  · refine (State.team?_modTeam (atElement s ck r) r.team r.team f).trans ?_
    rw [if_pos rfl]
    unfold State.team?
    rw [hteams]
    exact congrArg (Option.map f) ht.team

end Engine

end Services

/-- Settles O39, by the step of each service word and of the engine on one element. -/
theorem prompterServices : Obligations.PrompterServices := by
  unfold Obligations.PrompterServices
  intro s c x o
  refine ⟨?_, ?_, ?_, ?_, ?_, ?_⟩
  · intro i op k tm hin puts hm ht hc hq
    have he : exec i s = s.ctxMail o op := by
      have hmem := List.contains_iff_mem.mp hin
      simp only [List.mem_cons, List.not_mem_nil, Prod.mk.injEq, or_false] at hmem
      rcases hmem with ⟨rfl, rfl⟩ | ⟨rfl, rfl⟩ | ⟨rfl, rfl⟩ | ⟨rfl, rfl⟩ <;> rfl
    exact mailbox_spec he hm ht hc hq
  · intro nb hm
    exact ⟨fun r k g rest he => waitev_takes hm he, fun he => waitev_empty hm he⟩
  · intro hm h4
    refine evinfo_spec hm h4 ?_
    cases x.current <;> rfl
  · intro n hm hu hlt hcut
    exact prCuept_spec hm hu hlt hcut
  · intro k tm hx ht htile hroom tile row col queued
    exact ⟨fun hm => accIssue_spec (op := fun _ t r c => .accrd t r c) rfl hm hx ht htile hroom,
      fun hm => accIssue_spec (op := fun x t r c => .accwr t r c (Ctx.val x o.b)) rfl hm hx ht htile hroom⟩
  · intro ck r rest tm ht ha hx
    exact ⟨fun tile row col hop => accrd_spec ht ha hx hop, fun tile row col image hop _ hcol => accwr_spec ht ha hx hop hcol⟩

end Sys2Proof.Claims
end

section
/-! PROOFS. Bring-up, power pressure, thermal trip and loss of power (R394, R395, R441 to R444, R454 to R456): the contexts of the
firmware, a step of pressure on a cluster, and what an end of every launch leaves of the house controller's state. Settles O52. -/

namespace Sys2Proof.Claims

open Sys2Proof Sys2Proof.Machine

/-! ### Bring-up (R443, R454, R455) -/

section BringUp

variable {s : State} {b : BringUp}

theorem exec_powerUp (s : State) (b : BringUp) : exec (.powerUp b) s = .next ((s.bringUp b).getD s) := rfl

theorem powerUp_rails (h : s.house.step = 0) : exec (.powerUp b) s = .next (
    if 48000 ≤ b.milliVolts ∧ b.milliVolts ≤ 58000 ∧ b.inlet ≤ 400 ∧ b.flow = true then { s with house := { s.house with step := 1 } } else s) := by
  rw [exec_powerUp]
  simp only [State.bringUp, h, Bool.and_eq_true, decide_eq_true_eq, and_assoc]
  split <;> rfl

theorem powerUp_trained (h : s.house.step = 2) :
    exec (.powerUp b) s = .next (if b.trained then { s with house := { s.house with step := 3 } } else s) := by
  rw [exec_powerUp]
  simp only [State.bringUp, h]
  split <;> rfl

/-- The step that verifies the house controller's firmware, by whether what boots is accepted. -/
theorem powerUp_firmware (h : s.house.step = 1) : exec (.powerUp b) s = .next (
    if s.house.boot.accepts s.house.boot.fw s.house.boot.fwSig s.house.boot.svn = true
    then { s with house := { s.house.boot.extend 0 (Machine.wordBytes s.house.boot.fw) with step := 2 } } else { s with house := s.house.boot }) := by
  rw [exec_powerUp]
  simp only [State.bringUp, h]
  split <;> rfl

/-- The same of the device firmware. -/
theorem powerUp_device (h : s.house.step = 3) : exec (.powerUp b) s = .next (
    if s.house.bootDev.accepts s.house.bootDev.devFw s.house.bootDev.devSig s.house.bootDev.devSvn = true
    then { s with house := { s.house.bootDev.extend 1 (Machine.wordBytes s.house.bootDev.devFw) with step := 4 } } else { s with house := s.house.bootDev }) := by
  rw [exec_powerUp]
  simp only [State.bringUp, h]
  split <;> rfl

theorem boot_active (h : s.house.pendingFw = none) : s.house.boot = s.house := by simp only [House.boot, h]

theorem bootDev_active (h : s.house.pendingDev = none) : s.house.bootDev = s.house := by simp only [House.bootDev, h]

theorem boot_pending {w : List DWord} {sig svn : Nat} (h : s.house.pendingFw = some (w, sig, svn)) (ha : s.house.accepts w sig svn = true) :
    s.house.boot = { s.house with fw := w, fwSig := sig, svn := svn, pendingFw := none } := by
  simp only [House.boot, h, ha, if_true]

/-- What is measured into one place leaves the others. -/
theorem extend_measure (h : House) {i j : Nat} (item : List Nat) (hj : j ≠ i) :
    Sp.getD (h.extend i item).measure j 0 = Sp.getD h.measure j 0 := (Sp.getD_set _ _ _ _ _).trans (if_neg hj)

theorem powerUp_fused (h : s.house.step = 6) : exec (.powerUp b) s = .next
    { s with house := { s.house with step := 7, fused := max s.house.fused (max s.house.svn s.house.devSvn) } } := by
  rw [exec_powerUp]
  simp only [State.bringUp, h]
  rfl

end BringUp

/-! ### The contexts of the firmware (R56, R443) -/

/-- Context n of a cluster runs the device firmware from its first word. -/
def RunsFirmware (len ck n : Nat) (t : State) : Prop :=
  ∃ y, t.ctx? (ctxKey ck n) = some y ∧ y.active = true ∧ y.num = n ∧ y.pc = 0 ∧ y.imageLen = len

/-- Nothing but contexts and the counter of identifiers differs. -/
def ContextsFrame (s t : State) : Prop := t = { s with ctxs := t.ctxs, nextId := t.nextId }

theorem ContextsFrame.trans {s t u : State} (h : ContextsFrame s t) (k : ContextsFrame t u) : ContextsFrame s u := by
  unfold ContextsFrame at h k ⊢
  rw [k, h]

theorem firmwareContexts_frame (s : State) (ck : Nat) : ContextsFrame s (s.firmwareContexts ck) := rfl

theorem firmwareContexts_runs (s : State) (ck k : Nat) {n : Nat} (hn : n = 6 ∨ n = 7)
    (h : RunsFirmware s.house.devFw.length k n s ∨ k = ck) : RunsFirmware s.house.devFw.length k n (s.firmwareContexts ck) := by
  have hctx : ∀ j, (s.firmwareContexts ck).ctx? j = if j = ctxKey ck 7 then (s.firmwareContexts ck).ctx? (ctxKey ck 7)
      else if j = ctxKey ck 6 then (s.firmwareContexts ck).ctx? (ctxKey ck 6) else s.ctx? j := by
    intro j
    have h67 : ctxKey ck 6 ≠ ctxKey ck 7 := fun he => by unfold ctxKey at he; omega
    split
    · next hj => rw [hj]
    · next hj =>
      split
      · next hj6 => rw [hj6]
      · next hj6 =>
        refine (State.ctx?_setCtx _ _ j _).trans ((if_neg hj).trans ?_)
        exact (State.ctx?_setCtx _ _ j _).trans (if_neg hj6)
  have h7 : RunsFirmware s.house.devFw.length ck 7 (s.firmwareContexts ck) :=
    ⟨_, (State.ctx?_setCtx _ _ (ctxKey ck 7) _).trans (if_pos rfl), rfl, rfl, rfl, rfl⟩
  have h6 : RunsFirmware s.house.devFw.length ck 6 (s.firmwareContexts ck) := by
    refine ⟨_, (State.ctx?_setCtx _ _ (ctxKey ck 6) _).trans ((if_neg fun he => by unfold ctxKey at he; omega).trans
      ((State.ctx?_setCtx _ _ (ctxKey ck 6) _).trans (if_pos rfl))), rfl, rfl, rfl, rfl⟩
  by_cases hk : k = ck
  · subst hk
    rcases hn with rfl | rfl
    · exact h6
    · exact h7
  · obtain ⟨y, hy, hrest⟩ := h.resolve_right hk
    refine ⟨y, (hctx _).trans ((if_neg fun he => ?_).trans ((if_neg fun he => ?_).trans hy)), hrest⟩ <;> unfold ctxKey at he <;> omega

theorem allFirmware (l : List Nat) (s : State) :
    ContextsFrame s (l.foldl (fun s ck => s.firmwareContexts ck) s)
      ∧ ∀ k n, n = 6 ∨ n = 7 → RunsFirmware s.house.devFw.length k n s ∨ k ∈ l →
          RunsFirmware s.house.devFw.length k n (l.foldl (fun s ck => s.firmwareContexts ck) s) := by
  induction l generalizing s with
  | nil => exact ⟨rfl, fun k n _ h => h.resolve_right (by simp)⟩
  | cons ck l ih =>
    obtain ⟨hf, hr⟩ := ih (s.firmwareContexts ck)
    refine ⟨(firmwareContexts_frame s ck).trans hf, fun k n hn h => hr k n hn ?_⟩
    have hlen : (s.firmwareContexts ck).house.devFw.length = s.house.devFw.length := rfl
    rcases h with h | h
    · exact .inl (firmwareContexts_runs s ck k hn (.inl h))
    · rcases List.mem_cons.mp h with rfl | h
      · exact .inl (firmwareContexts_runs s k k hn (.inr rfl))
      · exact .inr h

/-- The clusters of a module are told by its partitions and by what is retired. -/
theorem allClusters_congr {s t : State} (hp : t.parts = s.parts) (hr : t.house.retired = s.house.retired) : t.allClusters = s.allClusters := by
  unfold State.allClusters State.clustersOf State.part
  rw [hp, hr]

/-- The house controller's state once the stored layout, of words w, is the active one. -/
def layoutHouse (w : List DWord) (h : House) : House :=
  (({ h with active := { words := w }, cleared := true, history := if (wordNo w 1).testBit 62 && !h.cleared then [] else h.history }).extend 2
    (Machine.wordBytes w ++ h.retired)).extend 3 [Machine.bitsOf (wordNo w 1) 63 1]

/-- The module with the partitions of the stored layout, before its firmware's contexts are there. -/
def partitioned (s : State) : State :=
  { s with free := s.free + 1, parts := (List.range (((s.house.stored.words[1]?).getD 0).toNat % 16)).map (fun p => (p, partOf s.house.stored.words p s.house.working)) }

theorem exec_powerUp_layout {s : State} {b : BringUp} (h : s.house.step = 4) (hf : s.house.failing s.free = []) (hw : 2 ≤ workingPairs s.house.working) :
    exec (.powerUp b) s = .next (((partitioned s).allClusters.foldl (fun s ck => s.firmwareContexts ck) (partitioned s)).modHouse
      (fun h => { layoutHouse s.house.stored.words h with step := 5 })) := by
  have hn : Machine.bitsOf (wordNo s.house.stored.words 1) 0 4 = ((s.house.stored.words[1]?).getD 0).toNat % 16 := by
    unfold Machine.bitsOf wordNo
    rw [Nat.pow_zero, Nat.div_one]
    rfl
  rw [exec_powerUp]
  simp only [State.bringUp, h, hf, List.foldl_nil, if_neg (Nat.not_lt.mpr hw), State.applyLayout, hn]
  rfl

theorem powerUp_layout {s : State} {b : BringUp} (h : s.house.step = 4) (hf : s.house.failing s.free = []) (hw : 2 ≤ workingPairs s.house.working) :
    ∃ t, exec (.powerUp b) s = .next t ∧ t.house.step = 5
      ∧ t.house.active = s.house.stored
      ∧ t.parts = (List.range (((s.house.stored.words[1]?).getD 0).toNat % 16)).map (fun p => (p, partOf s.house.stored.words p s.house.working))
      ∧ t.groups = s.groups ∧ t.mem = s.mem
      ∧ ∀ ck ∈ t.allClusters, ∀ n ∈ [6, 7], ∃ y, t.ctx? (ctxKey ck n) = some y ∧ y.active = true ∧ y.num = n ∧ y.pc = 0 ∧ y.imageLen = s.house.devFw.length := by
  have hrun := exec_powerUp_layout (b := b) h hf hw
  obtain ⟨hframe, hruns⟩ := allFirmware (partitioned s).allClusters (partitioned s)
  generalize (partitioned s).allClusters.foldl (fun s ck => s.firmwareContexts ck) (partitioned s) = v at hrun hframe hruns
  have hparts : v.parts = (partitioned s).parts := by rw [hframe]
  have hhouse : v.house = s.house := by rw [hframe]; rfl
  have hgroups : v.groups = s.groups := by rw [hframe]; rfl
  have hmem : v.mem = s.mem := by rw [hframe]; rfl
  refine ⟨_, hrun, rfl, rfl, hparts, hgroups, hmem, fun ck hck n hn => ?_⟩
  have hall := allClusters_congr (s := partitioned s) (t := v.modHouse (fun h => { layoutHouse s.house.stored.words h with step := 5 }))
    hparts (by show v.house.retired = _; rw [hhouse]; rfl)
  exact hruns ck n (by simpa using hn) (.inr (hall ▸ hck))

/-! ### Power pressure (R394, R395, R444) -/

/-- A number of six octal digits has each of them at its place. -/
theorem octal_digit {d : Nat → Nat} (hd : ∀ i, d i < 8) {i : Nat} (hi : i < 6) :
    (BitVec.ofNat 18 ((List.range 6).foldl (fun n i => n + d i * 2 ^ (3 * i)) 0)).toNat / 2 ^ (3 * i) % 8 = d i := by
  have hsum : (List.range 6).foldl (fun n i => n + d i * 2 ^ (3 * i)) 0
      = 0 + d 0 * 2 ^ (3 * 0) + d 1 * 2 ^ (3 * 1) + d 2 * 2 ^ (3 * 2) + d 3 * 2 ^ (3 * 3) + d 4 * 2 ^ (3 * 4) + d 5 * 2 ^ (3 * 5) := rfl
  have h0 := hd 0
  have h1 := hd 1
  have h2 := hd 2
  have h3 := hd 3
  have h4 := hd 4
  have h5 := hd 5
  rw [BitVec.toNat_ofNat, hsum]
  interval_cases i <;> omega

/-- Each ratio of a cluster, one step up or down. -/
theorem ratioStep_digit (r : BitVec 18) (up : Bool) {i : Nat} (hi : i < 6) :
    (ratioStep r up).toNat / 2 ^ (3 * i) % 8 = if up then min (r.toNat / 2 ^ (3 * i) % 8 + 1) 7 else r.toNat / 2 ^ (3 * i) % 8 - 1 := by
  refine octal_digit (d := fun i => if up then min (r.toNat / 2 ^ (3 * i) % 8 + 1) 7 else r.toNat / 2 ^ (3 * i) % 8 - 1) (fun j => ?_) hi
  split <;> omega

section Clusters

variable {f : Nat → Cluster → Cluster}

/-- A change of each cluster of a list changes nothing but clusters. -/
theorem foldl_modCluster_frame (l : List Nat) (s : State) :
    l.foldl (fun s ck => s.modCluster ck (f ck)) s = { s with clusters := (l.foldl (fun s ck => s.modCluster ck (f ck)) s).clusters } := by
  induction l generalizing s with
  | nil => rfl
  | cons ck l ih => exact ih (s.modCluster ck (f ck))

theorem foldl_modCluster_sameBytes (hf : ∀ ck k, (f ck k).spad = k.spad) (l : List Nat) (s : State) :
    SameBytes s (l.foldl (fun s ck => s.modCluster ck (f ck)) s) := by
  induction l generalizing s with
  | nil => exact ⟨fun _ => rfl, fun _ _ => rfl⟩
  | cons ck l ih => exact (sameBytes_modCluster s ck (hf ck)).trans (ih _)

theorem foldl_modCluster_other (l : List Nat) (s : State) {k : Nat} (hk : k ∉ l) : (l.foldl (fun s ck => s.modCluster ck (f ck)) s).cluster k = s.cluster k := by
  induction l generalizing s with
  | nil => rfl
  | cons ck l ih =>
    refine (ih _ (fun h => hk (List.mem_cons_of_mem _ h))).trans ((State.cluster_modCluster s ck k _).trans (if_neg ?_))
    rintro rfl
    exact hk List.mem_cons_self

/-- Where no cluster stands twice in the list, each of it is changed once. -/
theorem foldl_modCluster_member {l : List Nat} (hnd : l.Nodup) (s : State) {k : Nat} (hk : k ∈ l) :
    (l.foldl (fun s ck => s.modCluster ck (f ck)) s).cluster k = f k (s.cluster k) := by
  induction l generalizing s with
  | nil => cases hk
  | cons ck l ih =>
    obtain ⟨hnot, hnd⟩ := List.nodup_cons.mp hnd
    rcases List.mem_cons.mp hk with rfl | hin
    · exact (foldl_modCluster_other l _ hnot).trans ((State.cluster_modCluster s k k _).trans (if_pos rfl))
    · refine (ih hnd (s.modCluster ck (f ck)) hin).trans (congrArg (f k) ((State.cluster_modCluster s ck k _).trans (if_neg ?_)))
      rintro rfl
      exact hnot hin

end Clusters

theorem pressureStep_spad (c : Cluster) (ratios pinned up : Bool) : (c.pressureStep ratios pinned up).spad = c.spad := by
  unfold Cluster.pressureStep
  cases ratios <;> cases pinned <;> rfl

/-- A cluster that is not pinned takes the new limit; a pinned one keeps its limit, and the new one is asked for. -/
theorem pressureStep_limit (c : Cluster) (ratios pinned up : Bool) :
    let want := if up then min (c.limitWant.getD c.limit + 8) 192 else c.limitWant.getD c.limit - 8
    (pinned = false → (c.pressureStep ratios pinned up).limit = want ∧ (c.pressureStep ratios pinned up).limitWant = none)
    ∧ (pinned = true → (c.pressureStep ratios pinned up).limit = c.limit ∧ (c.pressureStep ratios pinned up).limitWant = some want) := by
  unfold Cluster.pressureStep
  constructor
  · rintro rfl
    cases ratios <;> exact ⟨rfl, rfl⟩
  · rintro rfl
    cases ratios <;> exact ⟨rfl, rfl⟩

theorem pressureStep_ratio (c : Cluster) (ratios pinned up : Bool) :
    (c.pressureStep ratios pinned up).ratio = if ratios then ratioStep c.ratio up else c.ratio := by
  unfold Cluster.pressureStep
  cases ratios <;> cases pinned <;> rfl

section Pressure

variable {s : State} {avg10 avg1 inlet die : Nat}

theorem pressured_sub {ck : Nat} (h : ck ∈ s.pressured) : ck ∈ s.allClusters := (List.mem_filter.mp h).1

theorem pressured_nodup (h : s.allClusters.Nodup) : s.pressured.Nodup := h.filter _

/-- A cluster that the manager moves is among the pinned ones just when it is pinned. -/
theorem pins_contains {ck : Nat} (h : ck ∈ s.pressured) : (s.allClusters.filter s.pinned).contains ck = s.pinned ck := by
  rw [Bool.eq_iff_iff, List.contains_iff_mem, List.mem_filter]
  exact and_iff_right (pressured_sub h)

/-- The house controller's state after a sample without pressure. -/
def cooledHouse (s : State) (avg10 avg1 : Nat) : House :=
  { s.house with
    time := s.house.time + 10, ratioClamp := decide (2000 < avg1) || (s.house.ratioClamp && !decide (avg10 < 1900)),
    clearSince := if !decide (2000 < avg1) then s.house.clearSince.orElse (fun _ => some s.house.time) else none }

theorem exec_powerSample_cool (h1 : avg10 ≤ 1900) (h2 : inlet ≤ 38) (h3 : die ≤ 100) :
    exec (.powerSample avg10 avg1 inlet die) s = .next { s with house := cooledHouse s avg10 avg1 } := by
  have hhot : (decide (1900 < avg10) || decide (38 < inlet) || decide (100 < die)) = false := by
    simp only [Bool.or_eq_false_iff, decide_eq_false_iff_not]
    omega
  refine congrArg Host.Outcome.next ?_
  simp only [hhot, Bool.not_false, Bool.true_and, Bool.false_eq_true, if_false]
  rfl

theorem powerSample_cool (h1 : avg10 ≤ 1900) (h2 : inlet ≤ 38) (h3 : die ≤ 100) :
    ∃ t, exec (.powerSample avg10 avg1 inlet die) s = .next t ∧ t = { s with house := t.house }
      ∧ t.house.time = s.house.time + 10 ∧ t.house.ratioClamp = (decide (2000 < avg1) || (s.house.ratioClamp && decide (1900 ≤ avg10)))
      ∧ t.house.clearSince = (if 2000 < avg1 then none else some (s.house.clearSince.getD s.house.time)) := by
  refine ⟨_, exec_powerSample_cool h1 h2 h3, rfl, rfl, ?_, ?_⟩
  · have hge : (!decide (avg10 < 1900)) = decide (1900 ≤ avg10) := by rw [← decide_not, decide_eq_decide, Nat.not_lt]
    exact congrArg (fun b => decide (2000 < avg1) || (s.house.ratioClamp && b)) hge
  · by_cases h : 2000 < avg1
    · simp [cooledHouse, h]
    · simp only [cooledHouse, h, decide_false, Bool.not_false, if_true, if_false]
      cases s.house.clearSince <;> rfl

/-- The house controller's state after a sample under pressure. -/
def pressedHouse (s : State) (avg10 avg1 : Nat) : House :=
  { s.house with
    time := s.house.time + 10, ratioClamp := decide (2000 < avg1) || (s.house.ratioClamp && !decide (avg10 < 1900)), clearSince := none,
    steps := s.allClusters.filter s.pinned :: s.house.steps }

theorem exec_powerSample_hot (hot : 1900 < avg10 ∨ 38 < inlet ∨ 100 < die) :
    exec (.powerSample avg10 avg1 inlet die) s = .next (s.pressured.foldl (fun s' ck => s'.modCluster ck
      (fun c => c.pressureStep ((s.allClusters.filter s.pinned).contains ck) ((s.allClusters.filter s.pinned).contains ck) false))
      { s with house := pressedHouse s avg10 avg1 }) := by
  have hhot : (decide (1900 < avg10) || decide (38 < inlet) || decide (100 < die)) = true := by
    simpa only [Bool.or_eq_true, decide_eq_true_eq, or_assoc] using hot
  refine congrArg Host.Outcome.next ?_
  simp only [hhot, Bool.not_true, Bool.false_and, Bool.false_eq_true, if_false, if_true]
  rfl

theorem powerSample_hot (hnd : s.allClusters.Nodup) (hot : 1900 < avg10 ∨ 38 < inlet ∨ 100 < die) :
    ∃ t, exec (.powerSample avg10 avg1 inlet die) s = .next t
      ∧ t = { s with house := t.house, clusters := t.clusters } ∧ t.house.steps = s.allClusters.filter s.pinned :: s.house.steps
      ∧ t.house.clearSince = none ∧ SameBytes s t
      ∧ ∀ ck ∈ s.pressured,
          (s.pinned ck = false → t.cluster ck = { s.cluster ck with limit := (s.cluster ck).limitWant.getD (s.cluster ck).limit - 8, limitWant := none })
          ∧ (s.pinned ck = true → (t.cluster ck).limit = (s.cluster ck).limit ∧ ∀ i, i < 6 →
              (t.cluster ck).ratio.toNat / 2 ^ (3 * i) % 8 = (s.cluster ck).ratio.toNat / 2 ^ (3 * i) % 8 - 1) := by
  have hframe := foldl_modCluster_frame (f := fun ck c =>
    c.pressureStep ((s.allClusters.filter s.pinned).contains ck) ((s.allClusters.filter s.pinned).contains ck) false)
    s.pressured { s with house := pressedHouse s avg10 avg1 }
  have hbytes := foldl_modCluster_sameBytes (f := fun ck c =>
    c.pressureStep ((s.allClusters.filter s.pinned).contains ck) ((s.allClusters.filter s.pinned).contains ck) false)
    (fun _ c => pressureStep_spad c _ _ _) s.pressured { s with house := pressedHouse s avg10 avg1 }
  refine ⟨_, exec_powerSample_hot hot, ?_, ?_, ?_, hbytes, fun ck hck => ?_⟩
  · rw [hframe]
  · rw [hframe]; rfl
  · rw [hframe]; rfl
  · rw [foldl_modCluster_member (f := fun ck c =>
      c.pressureStep ((s.allClusters.filter s.pinned).contains ck) ((s.allClusters.filter s.pinned).contains ck) false) (pressured_nodup hnd) _ hck]
    dsimp only
    rw [pins_contains hck]
    refine ⟨fun hp => ?_, fun hp => ⟨?_, fun i hi => ?_⟩⟩
    · rw [hp]
      rfl
    · exact ((pressureStep_limit _ _ _ _).2 hp).1
    · rw [pressureStep_ratio, hp]
      exact ratioStep_digit _ false hi

theorem exec_pressureWithdraw {pins : List Nat} {rest : List (List Nat)} {n : Nat} (hs : s.house.steps = pins :: rest) (hc : s.house.clearSince = some n) :
    exec .pressureWithdraw s = .next (if n + 1000 ≤ s.house.time then s.pressured.foldl (fun s' ck => s'.modCluster ck
      (fun c => c.pressureStep (pins.contains ck) ((s.allClusters.filter s.pinned).contains ck) true))
      { s with house := { s.house with steps := rest, clearSince := some (n + 100) } } else s) := by
  refine congrArg Host.Outcome.next ?_
  simp only [hs, hc]
  rfl

theorem pressureWithdraw_spec {pins : List Nat} {rest : List (List Nat)} {n : Nat} (hnd : s.allClusters.Nodup) (hs : s.house.steps = pins :: rest)
    (hc : s.house.clearSince = some n) (hn : n + 1000 ≤ s.house.time) :
    ∃ t, exec .pressureWithdraw s = .next t ∧ t = { s with house := t.house, clusters := t.clusters } ∧ t.house.steps = rest
      ∧ SameBytes s t ∧ ∀ ck ∈ s.pressured,
          let more := min ((s.cluster ck).limitWant.getD (s.cluster ck).limit + 8) 192
          (s.pinned ck = false → (t.cluster ck).limit = more ∧ (t.cluster ck).limitWant = none)
          ∧ (s.pinned ck = true → (t.cluster ck).limit = (s.cluster ck).limit ∧ (t.cluster ck).limitWant = some more)
          ∧ (ck ∉ pins → (t.cluster ck).ratio = (s.cluster ck).ratio)
          ∧ (ck ∈ pins → ∀ i, i < 6 → (t.cluster ck).ratio.toNat / 2 ^ (3 * i) % 8 = min ((s.cluster ck).ratio.toNat / 2 ^ (3 * i) % 8 + 1) 7) := by
  have hrun := exec_pressureWithdraw hs hc
  rw [if_pos hn] at hrun
  have hframe := foldl_modCluster_frame (f := fun ck c => c.pressureStep (pins.contains ck) ((s.allClusters.filter s.pinned).contains ck) true)
    s.pressured { s with house := { s.house with steps := rest, clearSince := some (n + 100) } }
  have hbytes := foldl_modCluster_sameBytes (f := fun ck c => c.pressureStep (pins.contains ck) ((s.allClusters.filter s.pinned).contains ck) true)
    (fun _ c => pressureStep_spad c _ _ _) s.pressured { s with house := { s.house with steps := rest, clearSince := some (n + 100) } }
  refine ⟨_, hrun, ?_, ?_, hbytes, fun ck hck => ?_⟩
  · rw [hframe]
  · rw [hframe]
  · rw [foldl_modCluster_member (f := fun ck c => c.pressureStep (pins.contains ck) ((s.allClusters.filter s.pinned).contains ck) true)
      (pressured_nodup hnd) _ hck]
    dsimp only
    rw [pins_contains hck]
    refine ⟨fun hp => (pressureStep_limit _ _ _ _).1 hp, fun hp => (pressureStep_limit _ _ _ _).2 hp, fun hout => ?_, fun hin i hi => ?_⟩
    · rw [pressureStep_ratio, if_neg (by simpa using hout)]
      rfl
    · rw [pressureStep_ratio, if_pos (by simpa using hin)]
      exact ratioStep_digit _ true hi

end Pressure

/-! ### The thermal trip and the loss of power (R441, R444, R451) -/

/-- What the flash of the house controller holds of retired clusters and of the layout is the same. -/
def FlashKept (s t : State) : Prop := t.house.retired = s.house.retired ∧ t.house.stored = s.house.stored

theorem FlashKept.refl (s : State) : FlashKept s s := ⟨rfl, rfl⟩

theorem FlashKept.trans {s t u : State} (h : FlashKept s t) (k : FlashKept t u) : FlashKept s u := ⟨k.1.trans h.1, k.2.trans h.2⟩

theorem FlashKept.of_house {s t : State} (h : t.house = s.house) : FlashKept s t := by rw [FlashKept, h]; exact ⟨rfl, rfl⟩

theorem FlashKept.foldl {α : Type} {f : State → α → State} (h : ∀ s a, FlashKept s (f s a)) (l : List α) (s : State) : FlashKept s (l.foldl f s) := by
  induction l generalizing s with
  | nil => exact .refl s
  | cons a l ih => exact (h s a).trans (ih _)

theorem flashKept_endLaunch (s : State) (l status : Nat) (w : DWord) : FlashKept s (s.endLaunch l status w) := by
  unfold State.endLaunch
  split
  · exact .refl s
  · split
    · exact .refl s
    · exact .of_house (launchesStay_killLaunch _ l).house

theorem flashKept_tableauFire (s : State) : FlashKept s s.tableauFire := by
  unfold State.tableauFire
  split <;> exact ⟨rfl, rfl⟩

theorem flashKept_report (s : State) (type part unit detail kind : Nat) : FlashKept s (s.report type part unit detail kind) := by
  unfold State.report
  dsimp only
  split
  · exact ⟨rfl, rfl⟩
  · split <;> exact ⟨rfl, rfl⟩

theorem flashKept_fatal (s : State) (p cause : Nat) : FlashKept s (s.fatal p cause) := by
  unfold State.fatal
  refine .trans (.trans ?_ (flashKept_report _ _ _ _ _ _)) (flashKept_tableauFire _)
  exact .foldl (fun s (l : Nat × Launch) => flashKept_endLaunch s l.1 0x0C 0) _ _

theorem thermalTrip_spec {s : State} {inlet die : Nat} (h : 40 < inlet ∨ 115 ≤ die) :
    ∃ t, exec (.thermalTrip inlet die) s = .next t ∧ t.house.step = 2 ∧ t.groups = [] ∧ t.teams = []
      ∧ t.launches = [] ∧ t.mem = [] ∧ t.house.retired = s.house.retired ∧ t.house.stored = s.house.stored := by
  obtain ⟨hret, hst⟩ := (flashKept_tableauFire s).trans
    (.foldl (fun s p => flashKept_fatal s p 5) (s.tableauFire.parts.map Prod.fst) s.tableauFire)
  have htrip : (decide (40 < inlet) || decide (115 ≤ die)) = true := by simpa using h
  refine ⟨_, congrArg Host.Outcome.next (if_pos htrip), rfl, rfl, rfl, rfl, rfl, hret, hst⟩

/-- Settles O52: bring-up step by step, pressure cluster by cluster, and what the ends of power leave. -/
theorem power : Obligations.Power := by
  unfold Obligations.Power
  intro s
  refine ⟨fun b => ?_, ?_, ?_, ?_, ?_⟩
  · refine ⟨fun h h1 h2 h3 h4 => ?_, fun h hbad => ?_, fun h hp ha => ?_, fun h => powerUp_trained h, fun h hp ha => ?_, fun h w sig svn hp ha => ?_,
      fun h hp ha => ?_, fun h hp ha => ?_, fun h hf hw => powerUp_layout h hf hw, fun h => ⟨_, powerUp_fused h, rfl⟩⟩
    · rw [powerUp_rails h, if_pos ⟨h1, h2, h3, h4⟩]
    · rw [powerUp_rails h, if_neg]
      rintro ⟨h1, h2, h3, h4⟩
      rcases hbad with hb | hb | hb | hb
      · omega
      · omega
      · omega
      · rw [h4] at hb
        cases hb
    · have hrun := powerUp_firmware (b := b) h
      rw [boot_active hp, if_pos ha] at hrun
      exact ⟨_, hrun, rfl⟩
    · rw [powerUp_firmware h, boot_active hp, if_neg (by simp [ha])]
    · have hrun := powerUp_firmware (b := b) h
      rw [if_pos (by rw [boot_pending hp ha]; exact ha), boot_pending hp ha] at hrun
      exact ⟨_, hrun, rfl⟩
    · have hrun := powerUp_device (b := b) h
      rw [bootDev_active hp, if_pos ha] at hrun
      exact ⟨_, hrun, rfl, fun i hi => extend_measure s.house _ hi⟩
    · rw [powerUp_device h, bootDev_active hp, if_neg (by simp [ha])]
  · intro avg10 avg1 inlet die hnd
    exact ⟨fun h1 h2 h3 => powerSample_cool h1 h2 h3, fun hot => powerSample_hot hnd hot⟩
  · intro pins rest n hnd hs hc
    refine ⟨fun hn => pressureWithdraw_spec hnd hs hc hn, fun hn => ?_⟩
    rw [exec_pressureWithdraw hs hc, if_neg (by omega)]
  · intro inlet die
    refine ⟨fun h => thermalTrip_spec h, fun h1 h2 => congrArg Host.Outcome.next (if_neg ?_)⟩
    simp only [Bool.or_eq_true, decide_eq_true_eq]
    omega
  · exact ⟨_, rfl, rfl, rfl, rfl, rfl, rfl, rfl, rfl, rfl, rfl, rfl, rfl⟩

end Sys2Proof.Claims
end

section
/-! PROOFS. Where teams go (R392), and how a launch completes (R389, R397, R398, R438): the first of least load, the completion record
byte by byte, and the sum of `.ord` contributions in the order of their keys. For O43. -/

namespace Sys2Proof.Claims

open Sys2Proof Sys2Proof.Machine

/-! ### The element of least rank, and lists in the order of a rank -/

/-- The element of least rank is the first of them. -/
theorem leastBy_first {α : Type} (rank : α → Nat) {l : List α} {x : α} (h : leastBy rank l = some x) :
    ∃ pre post, l = pre ++ x :: post ∧ (∀ y ∈ pre, rank x < rank y) ∧ ∀ y ∈ post, rank x ≤ rank y := by
  induction l generalizing x with
  | nil => cases h
  | cons a l ih =>
    unfold leastBy at h
    split at h
    · next hn =>
      cases h
      have hl : l = [] := by
        by_contra hl
        exact leastBy_ne_none rank hl hn
      exact ⟨[], l, rfl, by simp, by simp [hl]⟩
    · next y hy =>
      obtain ⟨pre, post, hl, hpre, hpost⟩ := ih hy
      split at h
      · next hle =>
        cases h
        refine ⟨[], l, rfl, by simp, fun z hz => hle.trans ?_⟩
        rw [hl] at hz
        rcases List.mem_append.mp hz with hz | hz
        · exact (hpre z hz).le
        · rcases List.mem_cons.mp hz with rfl | hz
          · exact le_rfl
          · exact hpost z hz
      · next hlt =>
        cases h
        refine ⟨a :: pre, post, by rw [hl]; rfl, fun z hz => ?_, hpost⟩
        rcases List.mem_cons.mp hz with rfl | hz
        · exact Nat.lt_of_not_le hlt
        · exact hpre z hz

/-- In a rising list the element of least rank is in front of its equals. -/
theorem leastBy_rising (rank : Nat → Nat) {l : List Nat} (hl : l.Pairwise (· < ·)) {x : Nat} (h : leastBy rank l = some x) :
    x ∈ l ∧ ∀ y ∈ l, rank x < rank y ∨ (rank x = rank y ∧ x ≤ y) := by
  obtain ⟨pre, post, rfl, hpre, hpost⟩ := leastBy_first rank h
  refine ⟨by simp, fun y hy => ?_⟩
  rcases List.mem_append.mp hy with hy | hy
  · exact .inl (hpre y hy)
  · rcases List.mem_cons.mp hy with rfl | hy
    · exact .inr ⟨rfl, le_rfl⟩
    · have hxy : x < y := (List.pairwise_cons.mp (List.pairwise_append.mp hl).2.1).1 y hy
      have hr := hpost y hy
      omega

section Sorting

variable {α : Type} {rank : α → Nat}

theorem insBy_perm (x : α) (l : List α) : (insBy rank x l).Perm (x :: l) := by
  induction l with
  | nil => exact .refl _
  | cons y l ih =>
    unfold insBy
    split
    · exact .refl _
    · exact (ih.cons y).trans (.swap x y l)

theorem insBy_rising (x : α) {l : List α} (h : l.Pairwise (fun i j => rank i ≤ rank j)) : (insBy rank x l).Pairwise (fun i j => rank i ≤ rank j) := by
  induction l with
  | nil => exact List.pairwise_singleton _ _
  | cons y l ih =>
    obtain ⟨hy, hl⟩ := List.pairwise_cons.mp h
    unfold insBy
    split
    · next hlt =>
      refine List.pairwise_cons.mpr ⟨fun z hz => ?_, h⟩
      rcases List.mem_cons.mp hz with rfl | hz
      · exact hlt.le
      · exact hlt.le.trans (hy z hz)
    · next hge =>
      refine List.pairwise_cons.mpr ⟨fun z hz => ?_, ih hl⟩
      rcases List.mem_cons.mp ((insBy_perm x l).mem_iff.mp hz) with rfl | hz
      · exact Nat.le_of_not_lt hge
      · exact hy z hz

theorem foldl_insBy (l acc : List α) (h : acc.Pairwise (fun i j => rank i ≤ rank j)) :
    (l.foldl (fun acc x => insBy rank x acc) acc).Perm (l ++ acc)
      ∧ (l.foldl (fun acc x => insBy rank x acc) acc).Pairwise (fun i j => rank i ≤ rank j) := by
  induction l generalizing acc with
  | nil => exact ⟨.refl _, h⟩
  | cons x l ih =>
    obtain ⟨hp, hs⟩ := ih (insBy rank x acc) (insBy_rising x h)
    exact ⟨hp.trans (((insBy_perm x acc).append_left l).trans List.perm_middle), hs⟩

/-- A list whose ranks rise is what sorting makes of any order of it. -/
theorem sortBy_eq_of_perm {l m : List α} (hp : m.Perm l) (hm : m.Pairwise (fun i j => rank i < rank j)) : sortBy rank l = m := by
  obtain ⟨hperm, hsort⟩ := foldl_insBy (rank := rank) l [] List.Pairwise.nil
  rw [List.append_nil] at hperm
  have hnd : (m.map rank).Nodup := List.pairwise_map.mpr (hm.imp Nat.ne_of_lt)
  have hinj : ∀ i ∈ m, ∀ j ∈ m, rank i = rank j → i = j := List.inj_on_of_nodup_map hnd
  refine List.Perm.eq_of_pairwise (le := fun i j => rank i ≤ rank j) (fun i j hi hj h1 h2 => ?_) hsort (hm.imp Nat.le_of_lt) (hperm.trans hp.symm)
  exact hinj i ((hperm.trans hp.symm).mem_iff.mp hi) j hj (le_antisymm h1 h2)

end Sorting

/-! ### Where teams go (R392) -/

section Places

variable {s : State} {l : Launch} {q c : Nat}

/-- A partition of rising pairs that is in native shape offers its clusters in rising order. -/
theorem offered_rising (hv : (s.part l.part).v128 = false) (hp : (s.part l.part).pairs.Pairwise (· < ·)) : (s.offered l.part).Pairwise (· < ·) := by
  unfold State.offered State.clustersOf
  simp only [hv, Bool.false_eq_true, if_false]
  refine List.Pairwise.filter _ (List.Pairwise.filter _ (List.pairwise_flatMap.mpr ⟨fun n _ => ?_, hp.imp fun {n m} hnm x hx y hy => ?_⟩))
  · refine List.pairwise_cons.mpr ⟨fun z hz => ?_, List.pairwise_singleton _ _⟩
    rw [List.mem_singleton.mp hz]
    omega
  · simp only [List.mem_cons, List.not_mem_nil, or_false] at hx hy
    omega

/-- The last byte of a word. -/
theorem bitsOf_top (v : DWord) : Machine.bitsOf v.toNat 56 8 = v.toNat / 2 ^ 56 := by
  have := v.isLt
  exact Nat.mod_eq_of_lt (by omega)

theorem placeOf_fixed (hl : l.pair = false) (hp : s.placeOf l q = some c) (hv : (s.part l.part).v128 = true) :
    s.roomAt l c = true ∧ c = (((l.desc[5]?).getD 0).toNat / 2 ^ 56 + q) % (s.part l.part).count := by
  have hb : Machine.bitsOf (wordNo l.desc 5) 56 8 = ((l.desc[5]?).getD 0).toNat / 2 ^ 56 := bitsOf_top _
  simp only [State.placeOf, hv, hl, if_true, Bool.false_eq_true, if_false, hb] at hp
  split at hp
  · next hr =>
    cases hp
    exact ⟨hr, rfl⟩
  · cases hp

theorem placeOf_native (hl : l.pair = false) (hp : s.placeOf l q = some c) (hv : (s.part l.part).v128 = false) :
    leastBy (fun c => s.residents (clusterKey l.part c)) ((s.offered l.part).filter (s.roomAt l)) = some c := by
  simpa only [State.placeOf, hv, hl, Bool.false_eq_true, if_false, Nat.add_zero] using hp

/-- The least of the clusters of a rising list that a test picks, as the placement rules say it. -/
theorem least_of_filter {rank : Nat → Nat} {os : List Nat} {p : Nat → Bool} (hs : os.Pairwise (· < ·)) (h : leastBy rank (os.filter p) = some c) :
    c ∈ os ∧ p c = true ∧ ∀ d ∈ os, p d = true → rank c < rank d ∨ (rank c = rank d ∧ c ≤ d) := by
  obtain ⟨hmem, hle⟩ := leastBy_rising rank (hs.filter p) h
  obtain ⟨hc, hp⟩ := List.mem_filter.mp hmem
  exact ⟨hc, hp, fun d hd hpd => hle d (List.mem_filter.mpr ⟨hd, hpd⟩)⟩

theorem placeOf_spec (hl : l.pair = false) (hp : s.placeOf l q = some c) :
    s.roomAt l c = true
    ∧ ((s.part l.part).v128 = true → c = (((l.desc[5]?).getD 0).toNat / 2 ^ 56 + q) % (s.part l.part).count)
    ∧ ((s.part l.part).v128 = false → (s.part l.part).pairs.Pairwise (· < ·) → c ∈ s.offered l.part ∧ ∀ d ∈ s.offered l.part, s.roomAt l d = true →
        s.residents (clusterKey l.part c) < s.residents (clusterKey l.part d)
        ∨ (s.residents (clusterKey l.part c) = s.residents (clusterKey l.part d) ∧ c ≤ d)) := by
  refine ⟨?_, fun hv => (placeOf_fixed hl hp hv).2, fun hv hpairs => ?_⟩
  · cases hv : (s.part l.part).v128 with
    | true => exact (placeOf_fixed hl hp hv).1
    | false =>
      obtain ⟨pre, post, he, -, -⟩ := leastBy_first _ (placeOf_native hl hp hv)
      exact (List.mem_filter.mp (he ▸ List.mem_append_right pre List.mem_cons_self)).2
  · obtain ⟨hc, -, hle⟩ := least_of_filter (offered_rising hv hpairs) (placeOf_native hl hp hv)
    exact ⟨hc, hle⟩

theorem standInPlace_spec {k : Nat} (hp : s.standInPlace l c = some k) :
    s.roomAt l k = true
    ∧ ((s.part l.part).v128 = true → k = (c + 3) % (s.part l.part).count)
    ∧ ((s.part l.part).v128 = false → (s.part l.part).pairs.Pairwise (· < ·) → k ∈ s.offered l.part ∧ k / 2 ≠ c / 2
        ∧ ∀ d ∈ s.offered l.part, d / 2 ≠ c / 2 → s.roomAt l d = true →
          s.residents (clusterKey l.part k) < s.residents (clusterKey l.part d)
          ∨ (s.residents (clusterKey l.part k) = s.residents (clusterKey l.part d) ∧ k ≤ d)) := by
  unfold State.standInPlace at hp
  cases hv : (s.part l.part).v128 with
  | true =>
    simp only [hv, if_true] at hp
    split at hp
    · next hr =>
      cases hp
      exact ⟨hr, fun _ => rfl, (fun h => by cases h)⟩
    · cases hp
  | false =>
    simp only [hv, Bool.false_eq_true, if_false] at hp
    obtain ⟨pre, post, he, -, -⟩ := leastBy_first _ hp
    have hk := (List.mem_filter.mp (he ▸ List.mem_append_right pre List.mem_cons_self)).2
    simp only [Bool.and_eq_true, bne_iff_ne, ne_eq] at hk
    refine ⟨hk.2, (fun h => by cases h), fun _ hpairs => ?_⟩
    obtain ⟨hin, -, hle⟩ := least_of_filter (offered_rising hv hpairs) hp
    exact ⟨hin, hk.1, fun d hd hdc hr => hle d hd (by simp [hdc, hr])⟩

end Places

/-! ### Bytes written at a partition's address -/

theorem setBytes_append (m : Memory) (a : Nat) (xs ys : List Byte) : m.setBytes a (xs ++ ys) = (m.setBytes a xs).setBytes (a + xs.length) ys := by
  induction xs generalizing m a with
  | nil => rfl
  | cons x xs ih =>
    refine (ih (m.setByte a x) (a + 1)).trans ?_
    rw [List.length_cons, show a + 1 + xs.length = a + (xs.length + 1) by omega]
    rfl

theorem setBytes_leBytes (m : Memory) (a v n : Nat) : m.setBytes a (leBytes v n) = m.write a n v := by
  induction n generalizing m a v with
  | zero => rfl
  | succ n ih => exact ih _ _ _

/-- What is seen late of memory leads to no address. -/
theorem physOf_late (s : State) (m : Memory) (L : List Late) (part va : Nat) (w : Bool) :
    ({ s with mem := m, late := L } : State).physOf part va w = ({ s with mem := m } : State).physOf part va w := rfl

/-- Bytes written into a window of device memory that no table of the walk lies in, whatever else was written into it. -/
theorem writeVirtual_setBytes {s : State} {part va k lo hi : Nat} (bs : List Byte) (m : Memory) (L : List Late) (hlo : lo ≤ k) (hhi : k + bs.length ≤ hi)
    (hm : ∀ b, (b < lo ∨ hi ≤ b) → m.byte b = s.mem.byte b)
    (h : ∀ j m, j < bs.length → (∀ b, (b < lo ∨ hi ≤ b) → m.byte b = s.mem.byte b) → ({ s with mem := m } : State).physOf part (va + j) true = some (k + j)) :
    ∃ L', ({ s with mem := m, late := L } : State).writeVirtual part va bs = some { s with mem := m.setBytes k bs, late := L' } := by
  induction bs generalizing va k m L with
  | nil => exact ⟨L, rfl⟩
  | cons b bs ih =>
    rw [List.length_cons] at hhi
    have h0 : ({ s with mem := m, late := L } : State).physOf part va true = some k := h 0 m (by simp) hm
    obtain ⟨L', hL⟩ := ih (va := va + 1) (k := k + 1) (m.setByte k b) (({ s with mem := m, late := L } : State).plain 0 k 1).late (by omega) (by omega)
      (fun a ha => (Memory.byte_setByte _ _ _ _).trans ((if_neg (by omega)).trans (hm a ha))) (by
      intro j m hj hmem
      rw [show va + 1 + j = va + (j + 1) by omega, show k + 1 + j = k + (j + 1) by omega]
      exact h (j + 1) m (by simpa using hj) hmem)
    refine ⟨L', ?_⟩
    unfold State.writeVirtual
    rw [h0]
    exact hL

theorem read_write_outside (m : Memory) {a n b k : Nat} (v : Nat) (h : a + n ≤ b ∨ b + k ≤ a) : (m.write b k v).read a n = m.read a n :=
  Memory.read_congr (fun _ _ _ => Memory.byte_write_of_outside m v (by omega))

/-! ### The completion record (R389, R398) -/

/-- Word 2 of the record: the counts of rollbacks and of teams that have exited. -/
def countsWord (x : Launch) : Nat := min x.rollbacks (2 ^ 32 - 1) * 2 ^ 32 + min x.exited (2 ^ 32 - 1)

/-- Memory with the record of a launch from a on. -/
def recordMem (m : Memory) (a : Nat) (x : Launch) : Memory :=
  (((m.write (a + 8) 8 x.energy).write (a + 16) 8 (countsWord x)).write (a + 24) 8 x.faultWord.toNat).write a 8 x.recordWord

theorem recordMem_outside (m : Memory) {a b : Nat} (x : Launch) (h : b < a ∨ a + 32 ≤ b) : (recordMem m a x).byte b = m.byte b := by
  unfold recordMem
  rw [Memory.byte_write_of_outside _ _ (by omega), Memory.byte_write_of_outside _ _ (by omega), Memory.byte_write_of_outside _ _ (by omega),
    Memory.byte_write_of_outside _ _ (by omega)]

theorem recordWord_mod (x : Launch) : x.recordWord % 2 ^ 64 = doneWord x.id x.status x.dead := by
  have hdead : (decide (0 < x.dead)).toNat * 2 ^ 62 = if 0 < x.dead then 2 ^ 62 else 0 := by
    by_cases h : 0 < x.dead <;> simp [h]
  unfold Launch.recordWord doneWord
  rw [hdead]

theorem recordMem_reads (m : Memory) (a : Nat) (x : Launch) :
    (recordMem m a x).read a 8 = doneWord x.id x.status x.dead ∧ (recordMem m a x).read (a + 8) 8 = x.energy % 2 ^ 64
      ∧ (recordMem m a x).read (a + 16) 8 = countsWord x ∧ (recordMem m a x).read (a + 24) 8 = x.faultWord.toNat := by
  have hcounts : countsWord x % 2 ^ 64 = countsWord x := Nat.mod_eq_of_lt (by unfold countsWord; omega)
  have hfault : x.faultWord.toNat % 2 ^ 64 = x.faultWord.toNat := Nat.mod_eq_of_lt x.faultWord.isLt
  unfold recordMem
  refine ⟨?_, ?_, ?_, ?_⟩
  · exact (Memory.read_write_self _ _ _ _).trans (recordWord_mod x)
  · rw [read_write_outside _ _ (by omega), read_write_outside _ _ (by omega), read_write_outside _ _ (by omega)]
    exact Memory.read_write_self _ _ _ _
  · rw [read_write_outside _ _ (by omega), read_write_outside _ _ (by omega)]
    exact (Memory.read_write_self _ _ _ _).trans hcounts
  · rw [read_write_outside _ _ (by omega)]
    exact (Memory.read_write_self _ _ _ _).trans hfault

/-- Whether the descriptor asks for a notification. -/
theorem notes_iff (x : Launch) : Machine.bitsOf (wordNo x.desc 0) 58 1 = 1 ↔ ((x.desc[0]?).getD 0).getLsbD 58 = true := by
  have htest : ((x.desc[0]?).getD 0).getLsbD 58 = decide (wordNo x.desc 0 / 2 ^ 58 % 2 = 1) := Nat.testBit_eq_decide_div_mod_eq
  rw [htest, decide_eq_true_iff]
  rfl

section Record

variable {s : State} {x : Launch} {a : Nat}

/-- Words 1 to 3 of the record. -/
def recordBody (x : Launch) : List Byte := leBytes x.energy 8 ++ leBytes (countsWord x) 8 ++ leBytes x.faultWord.toNat 8

theorem recordBody_length (x : Launch) : (recordBody x).length = 24 := by
  unfold recordBody
  rw [List.length_append, List.length_append, length_leBytes, length_leBytes, length_leBytes]

theorem record_setBytes (m : Memory) (a : Nat) (x : Launch) :
    (m.setBytes (a + 8) (recordBody x)).setBytes a (leBytes x.recordWord 8) = recordMem m a x := by
  unfold recordBody recordMem
  rw [setBytes_append, setBytes_append, setBytes_leBytes, setBytes_leBytes, setBytes_leBytes, setBytes_leBytes, List.length_append, length_leBytes,
    length_leBytes]

theorem setBytes_outside (m : Memory) {a b : Nat} (bs : List Byte) (h : b < a ∨ a + bs.length ≤ b) : (m.setBytes a bs).byte b = m.byte b := by
  induction bs generalizing m a with
  | nil => rfl
  | cons v bs ih =>
    rw [List.length_cons] at h
    exact (ih (m.setByte a v) (by omega)).trans ((Memory.byte_setByte _ _ _ _).trans (if_neg (by omega)))

/-- The record's bytes where the context area is mapped: words 1 to 3, then word 0. -/
theorem record_written (h : MapsTo s x.part x.area 32 a) (L : List Late) :
    ∃ m L1 L2, ({ s with late := L } : State).writeVirtual x.part (x.area + 8) (recordBody x) = some { s with mem := m, late := L1 }
      ∧ ({ s with mem := m, late := L1 } : State).writeVirtual x.part x.area (leBytes x.recordWord 8) = some { s with mem := recordMem s.mem a x, late := L2 } := by
  obtain ⟨L1, h1⟩ := writeVirtual_setBytes (s := s) (part := x.part) (va := x.area + 8) (k := a + 8) (lo := a) (hi := a + 32) (recordBody x) s.mem L
    (by omega) (by have := recordBody_length x; omega) (fun _ _ => rfl) (by
      intro j m hj hm
      rw [recordBody_length] at hj
      rw [show x.area + 8 + j = x.area + (8 + j) by omega, show a + 8 + j = a + (8 + j) by omega]
      exact h (8 + j) m (by omega) hm)
  obtain ⟨L2, h2⟩ := writeVirtual_setBytes (s := s) (part := x.part) (va := x.area) (k := a) (lo := a) (hi := a + 32) (leBytes x.recordWord 8)
    (s.mem.setBytes (a + 8) (recordBody x)) L1 (by omega) (by rw [length_leBytes]; omega)
    (fun b hb => setBytes_outside _ _ (by rw [recordBody_length]; omega)) (by
      intro j m hj hm
      rw [length_leBytes] at hj
      exact h j m (by omega) hm)
  rw [record_setBytes] at h2
  exact ⟨_, L1, L2, h1, h2⟩

/-- The place of the record, whatever the window of the record holds. -/
theorem record_place (h : MapsTo s x.part x.area 32 a) {r : Memory} (L : List Late) (hout : ∀ b, (b < a ∨ a + 32 ≤ b) → r.byte b = s.mem.byte b) :
    ({ s with mem := r, late := L } : State).physOf x.part x.area true = some a := by
  have h0 := h 0 r (by omega) hout
  rw [Nat.add_zero, Nat.add_zero] at h0
  exact (physOf_late s r L x.part x.area true).trans h0

/-- The state r with a record in its memory, and its notification. -/
def noted (s : State) (x : Launch) : State :=
  if ((x.desc[0]?).getD 0).getLsbD 58 = true then s.systemWrite (s.queue x.queue).note (BitVec.ofNat 64 x.recordWord) else s

theorem writeRecord_of_written {m r : Memory} {L1 L2 : List Late}
    (h1 : ({ s with late := (s.cross .coll x.uid 2 (fun e => Clock.has x.ended e.uid e.time)).late } : State).writeVirtual x.part (x.area + 8) (recordBody x)
      = some { s with mem := m, late := L1 })
    (h2 : ({ s with mem := m, late := L1 } : State).writeVirtual x.part x.area (leBytes x.recordWord 8) = some { s with mem := r, late := L2 })
    (hphys : ({ s with mem := r, late := L2 } : State).physOf x.part x.area true = some a) :
    ∃ P, s.writeRecord x = some (noted { s with mem := r, late := L2, published := P } x) := by
  have hcross : s.cross .coll x.uid 2 (fun e => Clock.has x.ended e.uid e.time)
      = { s with late := (s.cross .coll x.uid 2 (fun e => Clock.has x.ended e.uid e.time)).late } := rfl
  have hbody : leBytes x.energy 8 ++ leBytes (min x.rollbacks (2 ^ 32 - 1) * 2 ^ 32 + min x.exited (2 ^ 32 - 1)) 8 ++ leBytes x.faultWord.toNat 8
      = recordBody x := rfl
  refine ⟨(({ s with mem := r, late := L2 } : State).publish 0 a 8 false {} [(.sys, x.ended)]).published, ?_⟩
  unfold State.writeRecord noted
  dsimp only
  rw [hbody, hcross, h1, Option.bind_some, h2, Option.map_some, hphys]
  simp only [notes_iff]
  rfl

/-- The record written where the context area is mapped, and its notification. -/
theorem writeRecord_eq (h : MapsTo s x.part x.area 32 a) :
    ∃ L P, s.writeRecord x = some (noted { s with mem := recordMem s.mem a x, late := L, published := P } x) := by
  obtain ⟨m, L1, L2, h1, h2⟩ := record_written h (s.cross .coll x.uid 2 (fun e => Clock.has x.ended e.uid e.time)).late
  obtain ⟨P, hP⟩ := writeRecord_of_written h1 h2 (record_place h L2 (fun b hb => recordMem_outside s.mem x hb))
  exact ⟨L2, P, hP⟩

end Record

/-! ### The completion of a launch (R397, R398) -/

section Complete

variable {s : State} {l : Nat} {x : Launch}

theorem launchDone_true (hd : x.killed = true ∨ (x.phase = .placed ∧ x.teams ≤ x.exited)) (hc : ∀ c ∈ x.counters, c.2 = {})
    (ht : ∀ p ∈ s.teams, p.2.launch ≠ x.uid) (hr : ∀ r ∈ s.rputs, r.launch ≠ x.uid) : s.launchDone x = true := by
  have hdone : (x.killed || (x.phase == .placed && decide (x.teams ≤ x.exited))) = true := by
    rcases hd with h | ⟨hp, he⟩
    · simp [h]
    · simp [hp, he]
  have hcounters : x.counters.all (fun c => c.2 == {}) = true := by
    rw [List.all_eq_true]
    intro c hm
    simp [hc c hm]
  have hteams : s.teams.any (fun t => t.2.launch == x.uid && !(x.killed && s.teamFrozen t.2)) = false := by
    rw [List.any_eq_false]
    intro p hp
    simp [ht p hp]
  have hrputs : s.rputs.any (fun r => r.launch == x.uid) = false := by
    rw [List.any_eq_false]
    intro r hm
    simp [hr r hm]
  simp only [State.launchDone, hdone, hcounters, hteams, hrputs, Bool.not_false, Bool.and_self]

/-- A launch that is done, with nothing left to add and no generator context to stop, has its record written and is gone. -/
theorem exec_launchComplete {t : State} (hl : s.launch? l = some x) (hdone : s.launchDone x = true) (ho : ∀ i ∈ s.ordBuf, i.launch ≠ l)
    (hc : ∀ p ∈ s.ctxs, p.2.launch = l → 6 ≤ p.2.num) (ht : s.writeRecord x = some t) :
    exec (.launchComplete l) s = .next { t.disarm x with launches := Sp.erase t.launches l, ensembles := t.ensembles.filter (fun e => e.launch != l) } := by
  have hord : s.ordBuf.any (fun i => i.launch == l) = false := by
    rw [List.any_eq_false]
    intro i hi
    simp [ho i hi]
  have hctx : s.ctxs.filter (fun c => c.2.launch == l && decide (c.2.num < 6) && !(s.cluster (c.1 / 8)).frozen) = [] := by
    rw [List.filter_eq_nil_iff]
    intro p hp h
    simp only [Bool.and_eq_true, beq_iff_eq, decide_eq_true_eq] at h
    have := hc p hp h.1.1
    omega
  refine congrArg Host.Outcome.next ?_
  simp only [hl, hdone, hord, hctx, List.foldl_nil, Option.bind_some, ht, Bool.not_true, Bool.or_false, Bool.false_eq_true, if_false]

/-- Memory m with the notification, where there is one. -/
def notedMem (m : Memory) (notes : Bool) (n : Nat) (x : Launch) : Memory := if notes = true then m.write n 8 (BitVec.ofNat 64 x.recordWord).toNat else m

theorem notedMem_read (m : Memory) {notes : Bool} {n k : Nat} (x : Launch) (h : notes = true → n + 8 ≤ k ∨ k + 8 ≤ n) :
    (notedMem m notes n x).read k 8 = m.read k 8 := by
  unfold notedMem
  split
  · next hn => exact read_write_outside m _ (by have := h hn; omega)
  · rfl

theorem notedMem_note (m : Memory) (n : Nat) (x : Launch) : (notedMem m true n x).read n 8 = doneWord x.id x.status x.dead := by
  have hword : (BitVec.ofNat 64 x.recordWord).toNat = doneWord x.id x.status x.dead := (BitVec.toNat_ofNat _ _).trans (recordWord_mod x)
  have hlt : doneWord x.id x.status x.dead < 2 ^ 64 := Nat.mod_lt _ (by decide)
  unfold notedMem
  rw [if_pos rfl, Memory.read_write_self, hword]
  exact Nat.mod_eq_of_lt hlt

theorem notedMem_byte (m : Memory) {notes : Bool} {n b : Nat} (x : Launch) (h : notes = true → b < n ∨ n + 8 ≤ b) :
    (notedMem m notes n x).byte b = m.byte b := by
  unfold notedMem
  split
  · next hn => exact Memory.byte_write_of_outside m _ (h hn)
  · rfl

/-- A system write to device memory. -/
theorem systemWrite_dev {addr n : Nat} (h : s.servedAt addr = .dev n) (v : DWord) :
    s.systemWrite addr v = { s.plain 0 n 8 with mem := s.mem.write n 8 v.toNat } := by
  unfold State.systemWrite
  rw [h]

/-- What a notification leaves but for memory and what is told to the host. -/
theorem noted_spec {r : Memory} {L : List Late} {P : List Published} {n : Nat}
    (hn : ((x.desc[0]?).getD 0).getLsbD 58 = true → s.servedAt (s.queue x.queue).note = .dev n) :
    (noted { s with mem := r, late := L, published := P } x).groups = s.groups ∧ (noted { s with mem := r, late := L, published := P } x).ctxs = s.ctxs
      ∧ (noted { s with mem := r, late := L, published := P } x).mem = notedMem r (((x.desc[0]?).getD 0).getLsbD 58) n x := by
  unfold notedMem noted
  split
  · next hnote =>
    have hserved : ({ s with mem := r, late := L, published := P } : State).servedAt
        (({ s with mem := r, late := L, published := P } : State).queue x.queue).note = .dev n := hn hnote
    rw [systemWrite_dev hserved]
    exact ⟨rfl, rfl, rfl⟩
  · exact ⟨rfl, rfl, rfl⟩

/-- A completed launch is gone, with its record and its notification in memory. -/
theorem launchComplete_mem {a n : Nat} (hl : s.launch? l = some x) (hdone : s.launchDone x = true) (ho : ∀ i ∈ s.ordBuf, i.launch ≠ l)
    (hc : ∀ p ∈ s.ctxs, p.2.launch = l → 6 ≤ p.2.num) (hm : MapsTo s x.part x.area 32 a)
    (hn : ((x.desc[0]?).getD 0).getLsbD 58 = true → s.servedAt (s.queue x.queue).note = .dev n) :
    ∃ t, exec (.launchComplete l) s = .next t ∧ t.launch? l = none ∧ t.groups = s.groups ∧ t.ctxs = s.ctxs
      ∧ t.mem = notedMem (recordMem s.mem a x) (((x.desc[0]?).getD 0).getLsbD 58) n x := by
  obtain ⟨L, P, hw⟩ := writeRecord_eq hm
  obtain ⟨hgroups, hctxs, hmem⟩ := noted_spec (r := recordMem s.mem a x) (L := L) (P := P) hn
  exact ⟨_, exec_launchComplete hl hdone ho hc hw, Sp.get?_erase_self _ _, hgroups, hctxs, hmem⟩

theorem launchComplete_spec {a n : Nat} (hl : s.launch? l = some x) (hdone : s.launchDone x = true) (ho : ∀ i ∈ s.ordBuf, i.launch ≠ l)
    (hc : ∀ p ∈ s.ctxs, p.2.launch = l → 6 ≤ p.2.num) (hm : MapsTo s x.part x.area 32 a) :
    let notes := ((x.desc[0]?).getD 0).getLsbD 58
    (notes = true → s.servedAt (s.queue x.queue).note = .dev n ∧ (n + 8 ≤ a ∨ a + 32 ≤ n)) →
    ∃ t, exec (.launchComplete l) s = .next t ∧ t.launch? l = none ∧ t.groups = s.groups ∧ t.ctxs = s.ctxs
      ∧ t.mem.read a 8 = doneWord x.id x.status x.dead ∧ t.mem.read (a + 8) 8 = x.energy % 2 ^ 64
      ∧ t.mem.read (a + 16) 8 = min x.rollbacks (2 ^ 32 - 1) * 2 ^ 32 + min x.exited (2 ^ 32 - 1)
      ∧ t.mem.read (a + 24) 8 = x.faultWord.toNat
      ∧ (notes = true → t.mem.read n 8 = doneWord x.id x.status x.dead)
      ∧ ∀ b, (b < a ∨ a + 32 ≤ b) → (notes = true → b < n ∨ n + 8 ≤ b) → t.mem.byte b = s.mem.byte b := by
  intro notes hn
  obtain ⟨t, hrun, hgone, hgroups, hctxs, hmem⟩ := launchComplete_mem hl hdone ho hc hm (fun h => (hn h).1)
  obtain ⟨hr0, hr1, hr2, hr3⟩ := recordMem_reads s.mem a x
  have hapart : notes = true → n + 8 ≤ a ∨ a + 32 ≤ n := fun h => (hn h).2
  refine ⟨t, hrun, hgone, hgroups, hctxs, ?_⟩
  rw [hmem]
  refine ⟨?_, ?_, ?_, ?_, fun h => ?_, fun b hb hbn => ?_⟩
  · exact (notedMem_read _ x (fun h => by have := hapart h; omega)).trans hr0
  · exact (notedMem_read _ x (fun h => by have := hapart h; omega)).trans hr1
  · exact (notedMem_read _ x (fun h => by have := hapart h; omega)).trans hr2
  · exact (notedMem_read _ x (fun h => by have := hapart h; omega)).trans hr3
  · have hnote : ((x.desc[0]?).getD 0).getLsbD 58 = true := h
    rw [hnote]
    exact notedMem_note _ n x
  · exact (notedMem_byte _ x hbn).trans (recordMem_outside s.mem x hb)

end Complete

/-! ### The close of `.ord` sums (R438) -/

/-- A contribution added to a location. -/
def ordAdd (a : Nat) (b : Word) : Nat := ((rmwResult (.red 9 .f32) a b.toNat 0).1.getD a) % 2 ^ 32

/-- One contribution reaches its location, unless its line is poisoned. -/
def ordItem (s : State) (i : OrdItem) : State :=
  if s.linePoisoned i.phys 4 then s
  else { s.plain 0 i.phys 4 with mem := s.mem.write i.phys 4 (atomNew 9 .f32 (s.mem.read i.phys 4) i.value.toNat) }

/-- Nothing but memory, and what of it is seen late, differs. -/
def MemoryFrame (s t : State) : Prop := t = { s with mem := t.mem, late := t.late }

theorem MemoryFrame.trans {s t u : State} (h : MemoryFrame s t) (k : MemoryFrame t u) : MemoryFrame s u := by
  unfold MemoryFrame at h k ⊢
  rw [k, h]

section Ord

variable {s : State} {i : OrdItem}

theorem closeOrd_eq (s : State) (u : Nat) : s.closeOrd u =
    { (sortBy OrdItem.key (s.ordBuf.filter (fun i => i.launch == u))).foldl ordItem s with
      ordBuf := ((sortBy OrdItem.key (s.ordBuf.filter (fun i => i.launch == u))).foldl ordItem s).ordBuf.filter (fun i => i.launch != u),
      ordSlots := delNat u ((sortBy OrdItem.key (s.ordBuf.filter (fun i => i.launch == u))).foldl ordItem s).ordSlots } := rfl

theorem ordItem_frame (s : State) (i : OrdItem) : MemoryFrame s (ordItem s i) := by
  unfold ordItem MemoryFrame
  split <;> rfl

theorem ordItems_frame (L : List OrdItem) (s : State) : MemoryFrame s (L.foldl ordItem s) := by
  induction L generalizing s with
  | nil => rfl
  | cons i L ih => exact (ordItem_frame s i).trans (ih _)

theorem ordItem_poisoned {a n : Nat} : (ordItem s i).linePoisoned a n = s.linePoisoned a n := by
  unfold ordItem
  split <;> rfl

/-- The location of a contribution has it added, every other one is as it was. -/
theorem ordItem_read (ha : i.phys % 4 = 0) (hp : s.linePoisoned i.phys 4 = false) {a : Nat} (hm : a % 4 = 0) :
    (ordItem s i).mem.read a 4 = if i.phys == a then ordAdd (s.mem.read a 4) i.value else s.mem.read a 4 := by
  have hmem : (ordItem s i).mem = s.mem.write i.phys 4 (atomNew 9 .f32 (s.mem.read i.phys 4) i.value.toNat) := by
    unfold ordItem
    rw [hp]
    rfl
  rw [hmem]
  by_cases he : i.phys = a
  · subst he
    rw [beq_self_eq_true, if_pos rfl, Memory.read_write_self]
    rfl
  · rw [if_neg (by simpa using he)]
    exact read_write_outside _ _ (by omega)

theorem ordItem_byte (hp : s.linePoisoned i.phys 4 = false) {b : Nat} (hb : b < i.phys ∨ i.phys + 4 ≤ b) : (ordItem s i).mem.byte b = s.mem.byte b := by
  unfold ordItem
  rw [hp]
  exact Memory.byte_write_of_outside _ _ hb

theorem ordItems_mem (L : List OrdItem) (s : State) (h : ∀ i ∈ L, i.phys % 4 = 0 ∧ s.linePoisoned i.phys 4 = false) :
    (∀ a, a % 4 = 0 → (L.foldl ordItem s).mem.read a 4 = (L.filter (fun i => i.phys == a)).foldl (fun v i => ordAdd v i.value) (s.mem.read a 4))
      ∧ ∀ b, (∀ i ∈ L, b < i.phys ∨ i.phys + 4 ≤ b) → (L.foldl ordItem s).mem.byte b = s.mem.byte b := by
  induction L generalizing s with
  | nil => exact ⟨fun _ _ => rfl, fun _ _ => rfl⟩
  | cons i L ih =>
    obtain ⟨ha, hp⟩ := h i List.mem_cons_self
    obtain ⟨hreads, hbytes⟩ := ih (ordItem s i) (fun j hj => by
      rw [ordItem_poisoned]
      exact h j (List.mem_cons_of_mem _ hj))
    refine ⟨fun a hm => ?_, fun b hb => ?_⟩
    · rw [List.foldl_cons, hreads a hm, ordItem_read ha hp hm, List.filter_cons]
      split <;> rfl
    · rw [List.foldl_cons, hbytes b (fun j hj => hb j (List.mem_cons_of_mem _ hj))]
      exact ordItem_byte hp (hb i List.mem_cons_self)

theorem ordClose_spec {l : Nat} {x : Launch} {L : List OrdItem} (hl : s.launch? l = some x) (hdone : s.launchDone x = true)
    (hperm : L.Perm (s.ordBuf.filter (fun i => i.launch == l))) (hkeys : L.Pairwise (fun i j => i.key < j.key))
    (hplace : ∀ i ∈ L, i.phys % 4 = 0 ∧ s.linePoisoned i.phys 4 = false) :
    ∃ t, exec (.ordClose l) s = .next t ∧ t.ordBuf = s.ordBuf.filter (fun i => i.launch != l) ∧ t.groups = s.groups ∧ t.launches = s.launches
      ∧ (∀ a, a % 4 = 0 → t.mem.read a 4 = (L.filter (fun i => i.phys == a)).foldl (fun v i => ordAdd v i.value) (s.mem.read a 4))
      ∧ ∀ b, (∀ i ∈ L, b < i.phys ∨ i.phys + 4 ≤ b) → t.mem.byte b = s.mem.byte b := by
  have hsort := sortBy_eq_of_perm hperm hkeys
  have hrun : exec (.ordClose l) s = .next (s.closeOrd l) := by
    refine congrArg Host.Outcome.next ?_
    simp only [hl, hdone, if_true]
  have hframe := ordItems_frame L s
  have hmem := ordItems_mem L s hplace
  rw [closeOrd_eq, hsort] at hrun
  generalize L.foldl ordItem s = t at hrun hframe hmem
  refine ⟨_, hrun, ?_, ?_, ?_, hmem.1, hmem.2⟩
  · exact congrArg (List.filter _) (by rw [hframe])
  · show t.groups = _
    rw [hframe]
  · show t.launches = _
    rw [hframe]

end Ord

end Sys2Proof.Claims
end

section
/-! PROOFS. A placement step (R69, R118, R126, R391): the clock that a launch starts with, its one context on a cluster, the team that
is placed, and its arrival. Settles O43. -/

namespace Sys2Proof.Claims

open Sys2Proof Sys2Proof.Machine

/-! ### Clocks joined (R126) -/

/-- One entry of a clock joined to another. -/
def joinEntry (c : Clock) (p : Nat × Nat) : Clock := if Sp.getD c p.1 0 < p.2 then Sp.set c p.1 p.2 else c

theorem joinEntry_le (c : Clock) (p : Nat × Nat) (w : Nat) : Sp.getD c w 0 ≤ Sp.getD (joinEntry c p) w 0 := by
  unfold joinEntry
  split
  · next h =>
    rw [Sp.getD_set]
    split
    · next hw => rw [hw]; exact h.le
    · exact le_rfl
  · exact le_rfl

theorem le_joinEntry (c : Clock) (p : Nat × Nat) : p.2 ≤ Sp.getD (joinEntry c p) p.1 0 := by
  unfold joinEntry
  split
  · rw [Sp.getD_set, if_pos rfl]
  · next h => exact Nat.le_of_not_lt h

theorem le_join (a b : Clock) (w : Nat) : Sp.getD a w 0 ≤ Sp.getD (Clock.join a b) w 0 := by
  induction b generalizing a with
  | nil => exact le_rfl
  | cons p b ih => exact (joinEntry_le a p w).trans (ih (joinEntry a p))

theorem mem_le_join (a b : Clock) {p : Nat × Nat} (hp : p ∈ b) : p.2 ≤ Sp.getD (Clock.join a b) p.1 0 := by
  induction b generalizing a with
  | nil => cases hp
  | cons q b ih =>
    rcases List.mem_cons.mp hp with rfl | hp
    · exact (le_joinEntry a p).trans (le_join (joinEntry a p) b p.1)
    · exact ih (joinEntry a q) hp

theorem has_iff {c : Clock} {w n : Nat} : Clock.has c w n = true ↔ n ≤ Sp.getD c w 0 := decide_eq_true_iff

theorem has_join_left {a b : Clock} {w n : Nat} (h : Clock.has a w n = true) : Clock.has (Clock.join a b) w n = true :=
  has_iff.mpr ((has_iff.mp h).trans (le_join a b w))

theorem has_join_entry {a b : Clock} {w n : Nat} (h : (w, n) ∈ b) : Clock.has (Clock.join a b) w n = true := has_iff.mpr (mem_le_join a b h)

theorem has_join_right {a b : Clock} {w n : Nat} (h : Clock.has b w n = true) : Clock.has (Clock.join a b) w n = true := by
  have hn := has_iff.mp h
  cases hv : Sp.get? b w with
  | none =>
    simp only [Sp.getD, hv, Option.getD_none] at hn
    exact has_iff.mpr (hn.trans (Nat.zero_le _))
  | some v =>
    simp only [Sp.getD, hv, Option.getD_some] at hn
    exact has_iff.mpr (hn.trans (mem_le_join a b (sp_mem_of_get? _ _ _ hv)))

/-- The writes that race detection remembers are all in their clock. -/
theorem has_written {s : State} {e : Access} (he : e ∈ s.access) (hw : e.write = true) : Clock.has s.written e.uid e.time = true := by
  have hfold : ∀ (l : List Access) (c : Clock), (∀ w n, Clock.has c w n = true → Clock.has (l.foldl (fun c a => Clock.join c [(a.uid, a.time)]) c) w n = true)
      ∧ ∀ e ∈ l, Clock.has (l.foldl (fun c a => Clock.join c [(a.uid, a.time)]) c) e.uid e.time = true := by
    intro l
    induction l with
    | nil => exact fun c => ⟨fun _ _ h => h, by simp⟩
    | cons a l ih =>
      intro c
      obtain ⟨hkeep, hmem⟩ := ih (Clock.join c [(a.uid, a.time)])
      refine ⟨fun w n h => hkeep w n (has_join_left h), fun e he => ?_⟩
      rcases List.mem_cons.mp he with rfl | he
      · exact hkeep _ _ (has_join_entry (by simp))
      · exact hmem e he
  exact (hfold _ []).2 e (List.mem_filter.mpr ⟨he, hw⟩)

/-! ### What has crossed to a path (R126, R127) -/

/-- Every write that is still seen late has crossed to a path with an agent's name. -/
def AllCrossed (s : State) (uid : Nat) (p : Path) : Prop := ∀ e ∈ s.late, e.crossed.any (fun c => c.1 == p && c.2.1 == uid) = true

theorem allCrossed_cross (s : State) (uid time : Nat) (q : Path) :
    AllCrossed (s.cross q uid time (fun _ => true)) uid q ∧ ∀ p, AllCrossed s uid p → AllCrossed (s.cross q uid time (fun _ => true)) uid p := by
  refine ⟨fun e he => ?_, fun p hp e he => ?_⟩
  · obtain ⟨a, -, rfl⟩ := List.mem_map.mp he
    split
    · simp
    · next h => simpa using h
  · obtain ⟨a, ha, rfl⟩ := List.mem_map.mp he
    split
    · exact List.any_append.trans (by rw [hp a ha, Bool.true_or])
    · exact hp a ha

theorem allCrossed_crossAll (s : State) (uid time : Nat) (p : Path) : AllCrossed (s.crossAll uid time (fun _ => true)) uid p := by
  have keep := fun (s : State) q => (allCrossed_cross s uid time q).2 p
  cases p with
  | lane => exact keep _ _ (keep _ _ (keep _ _ (keep _ _ (allCrossed_cross _ uid time .lane).1)))
  | copy => exact keep _ _ (keep _ _ (keep _ _ (allCrossed_cross _ uid time .copy).1))
  | matrix => exact keep _ _ (keep _ _ (allCrossed_cross _ uid time .matrix).1)
  | gather => exact keep _ _ (allCrossed_cross _ uid time .gather).1
  | coll => exact (allCrossed_cross _ uid time .coll).1

/-! ### The one context of a launch -/

/-- A launch has one context, under a key. -/
structure OneCtx (s : State) (uid xk : Nat) : Prop where
  there : ∃ y, s.ctx? xk = some y ∧ y.launch = uid
  only : ∀ p ∈ s.ctxs, p.2.launch = uid → p.1 = xk

section OneCtx

variable {s : State} {uid xk : Nat}

/-- A context of the launch put under the key, where no other key has one. -/
theorem oneCtx_setCtx {y : Ctx} (hs : ∀ p ∈ s.ctxs, p.2.launch = uid → p.1 = xk) (hy : y.launch = uid) : OneCtx (s.setCtx xk y) uid xk := by
  refine ⟨⟨y, (State.ctx?_setCtx s xk xk y).trans (if_pos rfl), hy⟩, fun p hp hl => ?_⟩
  rcases Sp.mem_set _ _ _ _ hp with rfl | hp
  · rfl
  · exact hs p hp hl

theorem oneCtx_modCtx {f : Ctx → Ctx} (h : OneCtx s uid xk) (hf : ∀ y, (f y).launch = y.launch) : OneCtx (s.modCtx xk f) uid xk := by
  obtain ⟨y, hy, hl⟩ := h.there
  refine ⟨⟨f y, (State.ctx?_modCtx s xk xk f).trans (by rw [if_pos rfl, hy]; rfl), (hf y).trans hl⟩, fun p hp hl => ?_⟩
  rcases sp_mem_modify _ _ _ _ hp with hp | ⟨w, -, rfl⟩
  · exact h.only p hp hl
  · rfl

theorem oneCtx_congr {t : State} (h : OneCtx s uid xk) (ht : t.ctxs = s.ctxs) : OneCtx t uid xk := by
  refine ⟨?_, by rw [ht]; exact h.only⟩
  unfold State.ctx?
  rw [ht]
  exact h.there

/-- Images put into contexts of the launch leave it its one context. -/
theorem oneCtx_setImages {new : List (Nat × Ctx)} (ws : Sp DWord) (n : Nat) (hnew : ∀ c ∈ new, c.1 = xk ∧ c.2.launch = uid) (hx : OneCtx s uid xk) :
    let u := new.foldl (fun s c => s.setCtx c.1 { c.2 with words := ws, imageLen := n }) s
    u = { s with ctxs := u.ctxs } ∧ OneCtx u uid xk := by
  induction new generalizing s with
  | nil => exact ⟨rfl, hx⟩
  | cons c new ih =>
    obtain ⟨hc1, hc2⟩ := hnew c List.mem_cons_self
    obtain ⟨hf, hone⟩ := ih (s := s.setCtx c.1 { c.2 with words := ws, imageLen := n }) (fun d hd => hnew d (List.mem_cons_of_mem _ hd))
      (by rw [hc1]; exact oneCtx_setCtx hx.only hc2)
    exact ⟨hf.trans rfl, hone⟩

/-- The images that a launch's contexts take leave it its one context. -/
theorem takeImages_spec {u : State} {l : Launch} (h : s.takeImages l = some u) (hx : OneCtx s l.uid xk) :
    u = { s with ctxs := u.ctxs } ∧ OneCtx u l.uid xk := by
  unfold State.takeImages at h
  dsimp only at h
  split at h
  · cases h
    exact ⟨rfl, hx⟩
  · obtain ⟨ws, -, rfl⟩ := Option.map_eq_some_iff.mp h
    refine oneCtx_setImages ws _ (fun c hc => ?_) hx
    obtain ⟨hin, ht⟩ := List.mem_filter.mp hc
    simp only [Bool.and_eq_true, beq_iff_eq] at ht
    exact ⟨hx.only c hin ht.1.1.1, ht.1.1.1⟩

end OneCtx

/-! ### A team placed (R16, R21, R58) -/

section Place

variable {s : State} {l : Launch}

/-- A launch without a context takes a free one of the cluster. -/
theorem takeCtx_new (h : ∀ p ∈ s.ctxs, p.2.launch ≠ l.uid) (ck : Nat) (mirror : Bool) :
    ∃ xk y u, s.takeCtx l ck mirror = (xk, u) ∧ u = { s with free := u.free, nextId := u.nextId, ctxs := Sp.set s.ctxs xk y } ∧ y.launch = l.uid := by
  have hnone : s.ctxOn ck l.uid = none := by
    unfold State.ctxOn State.kernelsOn
    rw [Option.map_eq_none_iff, List.find?_eq_none]
    intro p hp
    simpa using h p (List.mem_filter.mp hp).1
  unfold State.takeCtx
  rw [hnone]
  exact ⟨_, _, _, rfl, rfl, rfl⟩

theorem placeGroups_frame (l : Launch) (t : Nat) (ck : Nat → Nat) (js : List Nat) (s : State) :
    let v := js.foldl (fun s j => s.placeGroup l t (ck j) j) s
    v = { s with groups := v.groups, oldGroups := v.oldGroups, free := v.free, nextId := v.nextId } := by
  induction js generalizing s with
  | nil => rfl
  | cons j js ih => exact (ih (s.placeGroup l t (ck j) j)).trans rfl

/-- The team that is placed, from its handle, its context and its allocation. -/
def placedTeam (l : Launch) (q c handle xk uid : Nat) (a : Alloc) : Team :=
  { uid := uid, launch := l.uid, part := l.part, cluster := c, handle := handle, pair := l.pair, ctx := xk, x := (l.teamIndex q).1, y := (l.teamIndex q).2.1,
    z := (l.teamIndex q).2.2, q := q, ngroups := l.groups, width := l.width, tiles := l.tiles, alloc := a, allocHi := {} }

/-- The allocation of a team on its cluster. -/
def homeAlloc (s : State) (l : Launch) (c : Nat) : Alloc :=
  { base := (s.allocFree (clusterKey l.part c) (allocSize l.scratch)).getD 0, size := allocSize l.scratch, declared := l.scratch }

/-- The handle of a team whose context is there in u, and the state that has handed over its allocation. -/
def homeHandle (s u : State) (l : Launch) (c xk : Nat) : Nat × State :=
  ((u.modCtx xk (fun x => { x with led := true })).handOver (clusterKey l.part c) (homeAlloc s l c)).pick
    ((List.range 192).filter (fun h => !(s.handlesUsed (clusterKey l.part c) false).contains h))

/-- The state with a team of a handle before its groups are there. -/
def homed (l : Launch) (q c xk : Nat) (a : Alloc) (p : Nat × State) : State :=
  ({ p.2.fresh.2 with oldTeams := Sp.erase p.2.fresh.2.oldTeams (teamKey (clusterKey l.part c) p.1) } : State).setTeam (teamKey (clusterKey l.part c) p.1)
    (placedTeam l q c p.1 xk p.2.fresh.1 a)

/-- A team's groups placed after it. -/
def withGroups (l : Launch) (c t : Nat) (s : State) : Nat × State :=
  (t, (List.range l.groups).foldl (fun s j => s.placeGroup l t (clusterKey l.part c) j) s)

theorem withGroups_frame (l : Launch) (c t : Nat) (s : State) : (withGroups l c t s).2.teams = s.teams ∧ (withGroups l c t s).2.ctxs = s.ctxs := by
  have hframe := placeGroups_frame l t (fun _ => clusterKey l.part c) (List.range l.groups) s
  exact ⟨(congrArg State.teams hframe).trans rfl, (congrArg State.ctxs hframe).trans rfl⟩

theorem placeTeam_eq {u : State} {xk : Nat} (hpair : l.pair = false) (q c : Nat)
    (htake : (s.settleLimit (clusterKey l.part c)).takeCtx l (clusterKey l.part c) false = (xk, u)) :
    s.placeTeam l q c true = withGroups l c (teamKey (clusterKey l.part c) (homeHandle s u l c xk).1)
      (homed l q c xk (homeAlloc s l c) (homeHandle s u l c xk)) := by
  have hhandle : homeHandle s u l c xk = ((u.modCtx xk (fun x => { x with led := true })).handOver (clusterKey l.part c) (homeAlloc s l c)).pick
    ((List.range 192).filter (fun h => !(s.handlesUsed (clusterKey l.part c) false).contains h)) := rfl
  unfold State.placeTeam
  simp only [hpair, htake, if_true, Bool.false_eq_true, if_false, Bool.false_and]
  unfold homeAlloc at hhandle ⊢
  rw [← hhandle]
  generalize homeHandle s u l c xk = p
  unfold homed placedTeam withGroups
  rw [hpair]

/-- A team placed by itself: it is there, with the one context of its launch. -/
theorem placeTeam_spec (hpair : l.pair = false) (h : ∀ p ∈ s.ctxs, p.2.launch ≠ l.uid) (q c : Nat) :
    ∃ handle xk uid a, (s.placeTeam l q c true).2.team? (s.placeTeam l q c true).1 = some (placedTeam l q c handle xk uid a)
      ∧ OneCtx (s.placeTeam l q c true).2 l.uid xk := by
  obtain ⟨xk, y, u, htake, hu, hy⟩ := takeCtx_new (s := s.settleLimit (clusterKey l.part c)) (l := l) h (clusterKey l.part c) false
  have hone : OneCtx (u.modCtx xk (fun x => { x with led := true })) l.uid xk := by
    refine oneCtx_modCtx ?_ (fun _ => rfl)
    refine oneCtx_congr (s := s.setCtx xk y) (oneCtx_setCtx (fun p hp hl => absurd hl (h p hp)) hy) ?_
    rw [hu]
    rfl
  obtain ⟨hteams, hctxs⟩ := withGroups_frame l c (teamKey (clusterKey l.part c) (homeHandle s u l c xk).1)
    (homed l q c xk (homeAlloc s l c) (homeHandle s u l c xk))
  refine ⟨(homeHandle s u l c xk).1, xk, (homeHandle s u l c xk).2.fresh.1, homeAlloc s l c, ?_, ?_⟩
  · rw [placeTeam_eq hpair q c htake]
    unfold State.team?
    rw [hteams]
    exact Sp.get?_set_self _ _ _
  · rw [placeTeam_eq hpair q c htake]
    exact oneCtx_congr hone hctxs

/-! ### The arrival of the team, and the contexts that stay (R58, R69, R76) -/

/-- The launch after its next team is placed. -/
def placedLaunch (l : Launch) : Launch := { l with next := l.next + 1, phase := if l.teams ≤ l.next + 1 then .placed else .placing }

/-- The record of a team's arrival. -/
def arrivalRec (tm : Team) : Rec := { w0 := BitVec.ofNat 64 (0x10 * 2 ^ 56 + tm.handle * 2 ^ 48) }

/-- An unstarted team arrives: its generator has the record, and nothing but its contexts differs. -/
theorem arrive_spec {k : Nat} {tm : Team} (he : l.entry = 0xFFFFF) (ht : s.team? k = some tm) (hx : OneCtx s l.uid tm.ctx) :
    s.arrive l k = { s with ctxs := (s.arrive l k).ctxs } ∧ OneCtx (s.arrive l k) l.uid tm.ctx
      ∧ ∃ y, (s.arrive l k).ctx? tm.ctx = some y ∧ y.launch = l.uid ∧ (arrivalRec tm, l.clk, 0) ∈ y.events ++ y.arrivals := by
  obtain ⟨y, hy, hl⟩ := hx.there
  have harrive : s.arrive l k = if y.events.length < 64 then s.enqueue tm.ctx (arrivalRec tm) l.clk 0
      else s.setCtx tm.ctx { y with arrivals := y.arrivals ++ [(arrivalRec tm, l.clk, 0)] } := by
    unfold State.arrive
    simp only [he, ne_eq, not_true_eq_false, if_false, ht, hy]
    rfl
  rw [harrive]
  split
  · refine ⟨rfl, oneCtx_modCtx hx (fun _ => rfl), _, enqueue_ctx? hy _ _ _, hl, ?_⟩
    simp
  · refine ⟨rfl, oneCtx_setCtx hx.only hl, _, (State.ctx?_setCtx s tm.ctx tm.ctx _).trans (if_pos rfl), hl, ?_⟩
    simp

/-- The context of a team that is there is still needed. -/
theorem ctxNeeded_of_team {k : Nat} {tm : Team} (ht : s.team? k = some tm) (he : tm.exited = false) {y : Ctx} (hy : s.ctx? tm.ctx = some y) :
    s.ctxNeeded tm.ctx = true := by
  have hany : s.teams.any (fun t => t.2.ctx == tm.ctx && !t.2.exited) = true :=
    List.any_eq_true.mpr ⟨(k, tm), sp_mem_of_get? _ _ _ ht, by simp [he]⟩
  simp only [State.ctxNeeded, hy, hany, Bool.true_or]

/-- A step that changes nothing for any element of a list changes nothing over the list. -/
theorem foldl_unchanged {α β : Type} {f : α → β → α} {a : α} {bs : List β} (h : ∀ b ∈ bs, f a b = a) : bs.foldl f a = a := by
  induction bs with
  | nil => rfl
  | cons b bs ih =>
    rw [List.foldl_cons, h b List.mem_cons_self]
    exact ih (fun c hc => h c (List.mem_cons_of_mem _ hc))

/-- The contexts of a launch that has placed its last team stop where they are not needed. -/
def reapPlaced (s : State) (l : Launch) : State :=
  (s.ctxs.filter (fun c => c.2.launch == l.uid && !c.2.mirror)).foldl (fun s c =>
    let s := s.reapCtx c.1
    if l.pair && (s.ctx? c.1).isNone then s.stopMirror (c.1 / 8 + 1) l.uid else s) s

theorem reapPlaced_needed {xk : Nat} (hpair : l.pair = false) (hx : OneCtx s l.uid xk) (hn : s.ctxNeeded xk = true) : reapPlaced s l = s := by
  refine foldl_unchanged (fun c hc => ?_)
  obtain ⟨hin, ht⟩ := List.mem_filter.mp hc
  simp only [Bool.and_eq_true, beq_iff_eq] at ht
  have hkey : c.1 = xk := hx.only c hin ht.1
  simp only [State.reapCtx, hkey, hn, if_true, hpair, Bool.false_and, Bool.false_eq_true, if_false]

/-- The state in which a launch has placed its next team, and its queue has won at its priority. -/
def withPlaced (l : Launch) (u : State) : State :=
  { u.setLaunch l.uid (placedLaunch l) with lastWin := Sp.set u.lastWin (u.queue l.queue).prio l.queue }

/-- What a placement step does once the teams of the given keys, and their images, are there. -/
def arrived (l : Launch) (ks : List Nat) (u : State) : State :=
  let w := ks.foldl (fun s t => s.arrive l t) (withPlaced l u)
  if l.teams ≤ l.next + 1 then reapPlaced w l else w

/-- A launch as a placement step finds it, with the state in which its values are (R126). -/
def begun (s : State) (l : Launch) : Launch × State := if l.next = 0 then s.launchStarts l else (l, s)

theorem crossPaths_frame (uid time : Nat) (qs : List Path) (s : State) :
    let t := qs.foldl (fun s q => s.cross q uid time (fun _ => true)) s
    t = { s with late := t.late } := by
  induction qs generalizing s with
  | nil => rfl
  | cons q qs ih => exact (ih (s.cross q uid time (fun _ => true))).trans rfl

theorem begun_eq (s : State) (l : Launch) :
    (begun s l).1 = { l with clk := (begun s l).1.clk } ∧ (begun s l).2 = { s with late := (begun s l).2.late } := by
  unfold begun
  split
  · exact ⟨rfl, crossPaths_frame l.uid 1 _ s⟩
  · exact ⟨rfl, rfl⟩

theorem begun_has (s : State) (l : Launch) {w n : Nat} (h : Clock.has l.clk w n = true) : Clock.has (begun s l).1.clk w n = true := by
  unfold begun
  split
  · exact has_join_left (has_join_left h)
  · exact h

theorem begun_first (h : l.next = 0) : (∀ e ∈ s.access, e.write = true → Clock.has (begun s l).1.clk e.uid e.time = true)
    ∧ Clock.has (begun s l).1.clk l.uid 1 = true ∧ ∀ p, AllCrossed (begun s l).2 l.uid p := by
  unfold begun
  rw [if_pos h]
  exact ⟨fun e he hw => has_join_left (has_join_right (has_written he hw)), has_join_entry (by simp), fun p => allCrossed_crossAll s l.uid 1 p⟩

theorem placeNext_begun {l' : Launch} {s' : State} (hall : l.allres = false) (hb : begun s l = (l', s')) :
    s.placeNext l = (s'.placeBoth l' l'.next).bind (fun r => (r.2.takeImages l').map (arrived l' r.1)) := by
  unfold begun at hb
  unfold State.placeNext
  rw [hall, Bool.false_and, Bool.false_and, if_neg Bool.false_ne_true, hb]
  rfl

theorem placeBoth_alone {c : Nat} (hslack : l.slack = 0) (hp : s.placeOf l l.next = some c) :
    s.placeBoth l l.next = some ([(s.placeTeam l l.next c true).1], (s.placeTeam l l.next c true).2) := by
  unfold State.placeBoth
  rw [hp, Option.bind_some]
  dsimp only
  rw [if_pos hslack]

/-- What a placement step does for a launch that places one team of its own. -/
theorem placeNext_eq {c : Nat} {u : State} (hall : l.allres = false) (hslack : l.slack = 0) (hp : s.placeOf l l.next = some c)
    (hu : ((begun s l).2.placeTeam (begun s l).1 l.next c true).2.takeImages (begun s l).1 = some u) :
    s.placeNext l = some (arrived (begun s l).1 [((begun s l).2.placeTeam (begun s l).1 l.next c true).1] u) := by
  obtain ⟨hlaunch, hstate⟩ := begun_eq s l
  have hplace : (begun s l).2.placeOf (begun s l).1 (begun s l).1.next = some c := by
    rw [hlaunch, hstate]
    exact hp
  have hnext : (begun s l).1.next = l.next := by rw [hlaunch]
  have hslack' : (begun s l).1.slack = 0 := by
    rw [hlaunch]
    exact hslack
  rw [placeNext_begun (l' := (begun s l).1) (s' := (begun s l).2) hall rfl, placeBoth_alone hslack' hplace, hnext, Option.bind_some, hu, Option.map_some]

/-- A team that stands in u with its launch's one context has arrived, and nothing but contexts, the launch and the winner of its priority differs. -/
theorem arrived_spec {u : State} {k : Nat} {tm : Team} (hpair : l.pair = false) (he : l.entry = 0xFFFFF) (ht : u.team? k = some tm)
    (hexit : tm.exited = false) (hx : OneCtx u l.uid tm.ctx) :
    (arrived l [k] u).launch? l.uid = some (placedLaunch l) ∧ (arrived l [k] u).team? k = some tm
      ∧ ∃ y, (arrived l [k] u).ctx? tm.ctx = some y ∧ y.launch = l.uid ∧ (arrivalRec tm, l.clk, 0) ∈ y.events ++ y.arrivals := by
  obtain ⟨hframe, hone, y, hy, hyl, hrec⟩ := arrive_spec (s := withPlaced l u) he ht (oneCtx_congr hx rfl)
  have hteam : ((withPlaced l u).arrive l k).team? k = some tm := by
    rw [hframe]
    exact ht
  have hlaunch : ((withPlaced l u).arrive l k).launch? l.uid = some (placedLaunch l) := by
    rw [hframe]
    exact Sp.get?_set_self _ _ _
  have hstays : arrived l [k] u = (withPlaced l u).arrive l k := by
    have hreap := reapPlaced_needed hpair hone (ctxNeeded_of_team hteam hexit hy)
    unfold arrived
    exact ite_eq_right_iff.mpr fun _ => hreap
  rw [hstays]
  exact ⟨hlaunch, hteam, y, hy, hyl, hrec⟩

/-- A placement step where one launch is there, and is to be placed. -/
theorem exec_placementStep {t : State} (hl : s.launches = [(l.uid, l)]) (hphase : l.phase = .placing) (hen : (s.queue l.queue).en = true)
    (hserves : s.serves l.part = true) (ht : s.placeNext l = some t) : exec .placementStep s = .next t := by
  have hwaits : (s.launches.map Prod.snd).filter (fun l => l.phase == .placing && (s.queue l.queue).en && s.serves l.part) = [l] := by
    rw [hl]
    simp [hphase, hen, hserves]
  have hsort : sortBy (fun (l : Launch) => s.stepRank l.queue) [l] = [l] := rfl
  refine congrArg Host.Outcome.next ?_
  dsimp only
  rw [hwaits, hsort, List.findSome?_cons, ht]
  rfl

/-- The place of a team in its grid, from the bits of word 2 of the descriptor. -/
theorem teamIndex_eq (l : Launch) (q : Nat) :
    let gx := ((l.desc[2]?).getD 0).toNat / 2 ^ 40 + 1
    let gy := ((l.desc[2]?).getD 0).toNat / 2 ^ 24 % 2 ^ 16 + 1
    l.teamIndex q = (q % gx, q / gx % gy, q / (gx * gy)) := by
  have hx : Machine.bitsOf (wordNo l.desc 2) 40 24 = ((l.desc[2]?).getD 0).toNat / 2 ^ 40 := by
    have hlt : wordNo l.desc 2 / 2 ^ 40 < 2 ^ 24 := Nat.div_lt_of_lt_mul ((l.desc[2]?).getD 0).isLt
    exact Nat.mod_eq_of_lt hlt
  unfold Launch.teamIndex
  rw [hx]
  rfl

end Place

/-- A placement step (R69, R118, R126, R391). -/
theorem placementStep_spec {s u : State} {l : Launch} {c : Nat} (hl : s.launches = [(l.uid, l)]) (hphase : l.phase = .placing)
    (hen : (s.queue l.queue).en = true) (hserves : s.serves l.part = true) (hall : l.allres = false) (hpair : l.pair = false) (hslack : l.slack = 0)
    (he : l.entry = 0xFFFFF) (hp : s.placeOf l l.next = some c) (hc : ∀ p ∈ s.ctxs, p.2.launch ≠ l.uid)
    (hu : ((begun s l).2.placeTeam (begun s l).1 l.next c true).2.takeImages (begun s l).1 = some u) :
    ∃ t k y handle xk uid a, exec .placementStep s = .next t ∧ t.launch? l.uid = some (placedLaunch (begun s l).1)
      ∧ t.team? k = some (placedTeam (begun s l).1 l.next c handle xk uid a) ∧ t.ctx? xk = some y ∧ y.launch = l.uid
      ∧ (arrivalRec (placedTeam (begun s l).1 l.next c handle xk uid a), (begun s l).1.clk, 0) ∈ y.events ++ y.arrivals := by
  have hplaced := placeNext_eq hall hslack hp hu
  obtain ⟨hlaunch, hstate⟩ := begun_eq s l
  have huid : (begun s l).1.uid = l.uid := by rw [hlaunch]
  have hpair' : (begun s l).1.pair = false := by
    rw [hlaunch]
    exact hpair
  have he' : (begun s l).1.entry = 0xFFFFF := by
    rw [hlaunch]
    exact he
  have hc' : ∀ p ∈ (begun s l).2.ctxs, p.2.launch ≠ (begun s l).1.uid := by
    rw [huid, hstate]
    exact hc
  obtain ⟨handle, xk, uid, a, hteam, hone⟩ := placeTeam_spec hpair' hc' l.next c
  obtain ⟨hframe, hone⟩ := takeImages_spec hu hone
  have hteam' : u.team? ((begun s l).2.placeTeam (begun s l).1 l.next c true).1 = some (placedTeam (begun s l).1 l.next c handle xk uid a) := by
    rw [hframe]
    exact hteam
  obtain ⟨h1, h2, y, hy, hyl, hrec⟩ := arrived_spec hpair' he' hteam' rfl hone
  rw [huid] at h1 hyl
  exact ⟨_, _, y, handle, xk, uid, a, exec_placementStep hl hphase hen hserves hplaced, h1, h2, hy, hyl, hrec⟩

/-- Settles O43: a placement step by what its parts leave, the places by the least of a rising list, the end of a launch by the record's bytes and the
sum of contributions in the order of their keys. -/
theorem placement : Obligations.Placement := by
  unfold Obligations.Placement
  refine ⟨⟨fun s u l c hl hphase hen hserves => ?_, fun s l q c hpair hp => placeOf_spec hpair hp, fun s l c k hp => standInPlace_spec hp⟩,
    fun s l x hx huid hd hcounters hteams hrputs => ?_⟩
  · intro b hall hpair hslack he hp hc hu
    obtain ⟨t, k, y, handle, xk, uid, a, hrun, hlaunch, hteam, hy, hyl, hrec⟩ :=
      placementStep_spec hl hphase hen hserves hall hpair hslack he hp hc hu
    obtain ⟨hbegun, -⟩ := begun_eq s l
    refine ⟨t, k, placedTeam (begun s l).1 l.next c handle xk uid a, y, arrivalRec (placedTeam (begun s l).1 l.next c handle xk uid a), (begun s l).1.clk,
      hrun, fun w n h => begun_has s l h, fun hn => ?_, ?_, hteam, ?_⟩
    · obtain ⟨haccess, hself, hcross⟩ := begun_first (s := s) hn
      exact ⟨haccess, hself, fun e p he => hcross p e he⟩
    · rw [hlaunch]
      rw [hbegun]
      rfl
    · have hgrid := teamIndex_eq l l.next
      rw [hbegun] at hrec ⊢
      exact ⟨rfl, rfl, rfl, rfl, rfl, rfl, rfl, rfl, rfl, ⟨congrArg Prod.fst hgrid, congrArg (fun p => p.2.1) hgrid, congrArg (fun p => p.2.2) hgrid⟩, hy, hyl,
        hrec, rfl⟩
  · subst huid
    have hdone := launchDone_true hd hcounters hteams hrputs
    exact ⟨fun a n ho hctxs hmaps => launchComplete_spec hx hdone ho hctxs hmaps,
      fun L hperm hkeys hplace => ordClose_spec hx hdone hperm hkeys hplace⟩

end Sys2Proof.Claims
end
